-- ==== Sys2Proof/Word.lean ====
section
/-!
DEFINITION. Sys2Proof/Word.lean: the word types and the one shape every sparse store of the machine has, a list of
(key, value) pairs with strictly rising keys.
-/
namespace Sys2Proof

/-- A byte. -/
abbrev Byte := BitVec 8

/-- A 32-bit word: a vector element, a signal counter, half of a register. -/
abbrev Word := BitVec 32

/-- A 64-bit word. -/
abbrev DWord := BitVec 64

/-- A sparse table from Nat keys: keys strictly rising, no entry equal to what an unlisted key reads as. -/
abbrev Tab (α : Type) := List (Nat × α)

/-- A sparse memory: (address, byte) pairs, the same type as a list of `Host.Cell`. -/
abbrev Memory := Tab Byte

end Sys2Proof
end

