-- ==== Sys2Proof/Packet.lean ====
section
/-!
DEFINITION. Sys2Proof/Packet.lean: the packets of the packet mesh (R234 to R238, R264, R266), as data that commands
carry and that the state holds while they are in flight.
-/
namespace Sys2Proof

/-- Virtual channels of the mesh (R239). -/
inductive VC where
  | req | rsp | ctl
  deriving DecidableEq, Repr

/-- Source classes (R237), in code order. -/
inductive SrcClass where
  | cell | ferryman | loader | engine | slipway | host | cache | mgmt
  deriving DecidableEq, Repr

/-- Response status codes (R238). -/
inductive MStatus where
  | ok | access | range | poison | node | queueFull
  deriving DecidableEq, Repr

/-- Signal operations (R264). -/
inductive SigOp where
  | set | add | wait
  deriving DecidableEq, Repr

/-- Outcomes of a wake (R264). -/
inductive WakeOutcome where
  | satisfied | abandoned | retry | refused
  deriving DecidableEq, Repr

/-- The unit a wake is sent to (R264): node, unit code and the issuer's tag. -/
structure Issuer where
  node : Nat
  unit : Nat
  tag : Nat
  deriving DecidableEq, Repr

/-- Control requests to a cell (R188, R293, R324, R653). -/
inductive CtrlReq where
  | readySet (region : Nat)
  | readyClear (region : Nat)
  | fence
  | unfence (owner : Nat)
  | bind (ctx : Nat) (mt vt pair : Bool) (mtStart vtStart job task : Nat)
  | halt (on : Bool)
  deriving DecidableEq, Repr

/-- What a packet carries, by its type (R236). -/
inductive Body where
  | rd (addr len : Nat)
  | wr (addr : Nat) (data : List Byte)
  | mtOp (payload : List Byte)
  | ctrl (c : CtrlReq)
  | engCmd (engine job task : Nat) (cmd : List Byte)
  | cfg (kind : Nat) (payload : List Byte)
  | rdData (status : MStatus) (data : List Byte)
  | wrAck (status : MStatus)
  | opDone (status : MStatus)
  | msgNak (status : MStatus)
  | sig (op : SigOp) (sig value : Nat) (iss : Issuer)
  | wake (outcome : WakeOutcome) (sig count : Nat) (iss : Issuer)
  | msg (csig : Nat) (credited : Bool) (peerDev : Nat) (peer : Bool) (body : List Byte)
  | probe (origin lowest edges : Nat) (request : Bool)
  deriving DecidableEq, Repr

/-- A mesh packet: header fields of R235 and its body. The source router writes tenant, cls and share (R237), and the lane
(R240). -/
structure Packet where
  src : Nat
  dst : Nat
  tenant : Nat
  cls : SrcClass
  share : Nat
  tag : Nat
  body : Body
  lane : Nat := 0
  deriving DecidableEq, Repr

/-- The virtual channel of a packet type (R236). -/
def Body.vc : Body → VC
  | .rd .. | .wr .. | .mtOp .. | .ctrl .. | .engCmd .. | .cfg .. => .req
  | .rdData .. | .wrAck .. | .opDone .. | .msgNak .. => .rsp
  | .sig .. | .wake .. | .msg .. | .probe .. => .ctl

/-! ### The packet as flits (R234 to R236, R264, R266) -/

/-- The ptype code (R236). -/
def Body.ptype : Body → Nat
  | .rd .. => 0x01 | .wr .. => 0x02 | .mtOp .. => 0x03 | .ctrl .. => 0x04 | .engCmd .. => 0x05 | .cfg .. => 0x06
  | .rdData .. => 0x10 | .wrAck .. => 0x11 | .opDone .. => 0x12 | .msgNak .. => 0x13
  | .sig .. => 0x20 | .wake .. => 0x21 | .msg .. => 0x22 | .probe .. => 0x23

/-- The bytes a packet moves beside its inline fields. -/
def Body.data : Body → List Byte
  | .wr _ bs => bs
  | .rdData _ bs => bs
  | .mtOp bs => bs
  | .engCmd _ _ _ bs => bs
  | .cfg _ bs => bs
  | _ => []

/-- Data flits: a payload of more than 32 B travels in them, 64 B each (R234). -/
def Body.nflits (b : Body) : Nat := if b.data.length ≤ 32 then 0 else (b.data.length + 63) / 64

/-- The status of a response. -/
def Body.status : Body → Nat
  | .rdData st _ => st.ctorIdx
  | .wrAck st => st.ctorIdx
  | .opDone st => st.ctorIdx
  | .msgNak st => st.ctorIdx
  | _ => 0

/-- The address and the length of a transfer; no other packet has them. -/
def Body.span : Body → Nat × Nat
  | .rd a n => (a, n)
  | .wr a bs => (a, bs.length)
  | _ => (0, 1)

/-- Words 0 to 4 of the header (R235). -/
def Packet.headerWords (p : Packet) : List Nat :=
  let (a, n) := p.body.span
  [p.body.ptype + 2 ^ 8 * p.lane + 2 ^ 9 * p.body.nflits + 2 ^ 12 * p.tenant + 2 ^ 17 * p.cls.ctorIdx + 2 ^ 20 * p.share,
   p.dst + 2 ^ 12 * p.src, p.tag + 2 ^ 16 * p.body.status, a % 2 ^ 32, a / 2 ^ 32 + 2 ^ 8 * (n - 1)]

/-- Words 8 to 15 of the inline payload for SIG, SIG_WAKE, MSG and PROBE (R236, R264, R266); the reserved ones read 0. -/
def Body.inlineWords : Body → List Nat
  | .sig op n v i => [n + 2 ^ 16 * op.ctorIdx, v, i.node + 2 ^ 12 * i.unit + 2 ^ 16 * i.tag]
  | .wake o k n i => [k + 2 ^ 16 * o.ctorIdx, n, i.node + 2 ^ 12 * i.unit + 2 ^ 16 * i.tag]
  | .msg csig credited dev peer _ => [csig + 2 ^ 14 * credited.toNat + 2 ^ 16 * dev + 2 ^ 28 * peer.toNat]
  | .probe origin lowest edges request => [origin, lowest, edges + 2 ^ 8 * request.toNat]
  | _ => []

/-- What the host does beside a command that reads host memory (R487, R488): the stores it has made by then, at bus
addresses of the command's function, and whether the read fails. -/
structure HostIn where
  stores : List (Nat × List Byte)
  fail : Bool
  deriving DecidableEq, Repr

/-- A Ferier message (R443): its eight header words, its payload, and the 16-byte tag of an encrypted one. -/
structure FMsg where
  words : List Nat
  data : List Byte
  tag : List Byte := []
  deriving DecidableEq, Repr

/-- A Ferier flit (R434): the fields of its link header, its 15 units of payload, and the CRC it carries, 0 where it has yet to
be sent; the symbols corrected and the uncorrectable codewords since the flit before it (R430). -/
structure Flit where
  ftype : Nat
  fseq : Nat
  ack : Nat
  nak : Bool
  tc : Nat
  first : Nat
  crdTc : Nat
  crdCount : Nat
  payload : List Byte
  crc : Nat := 0
  corr : Nat := 0
  uncorr : Nat := 0
  deriving DecidableEq, Repr

/-- The node IDs of the hubs and of the slices (R232). -/
def hubN : Nat := 0xA00
def hubS : Nat := 0xA01
def sliceNode (i : Nat) : Nat := 0x900 + i

end Sys2Proof
end

