-- ==== Sys2Proof/Syntax.lean ====
section
/-!
DEFINITION. Sys2Proof/Syntax.lean: the commands, one constructor for each row of spec/opcode_table.json, in its order.
The table gives no operands: those of a command name the unit it reaches and what arrives from outside (log 1).
-/
namespace Sys2Proof

/-- The commands of the block. -/
inductive Instr where
  /-- JOB_LAUNCH (R310): A JOB_LAUNCH entry is admitted by Ferryman: a slot is taken, the descriptor is checked, signals are claimed and ALLOC pages are reserved. -/
  | jobLaunch (fn : Nat) (ring : Nat) (h : HostIn)
  /-- JOB_CANCEL (R329): A JOB_CANCEL names a job by ring and tag and stops it, or acts on nothing, as the race table states. -/
  | jobCancel (fn : Nat) (ring : Nat)
  /-- CFG_LOAD (R287): A configuration load is admitted in check order, and a FULL load reserves its rectangle and gallery number. -/
  | cfgLoad (fn : Nat) (ring : Nat) (h : HostIn)
  /-- CFG_UNLOAD (R298): A resident or parked gallery is unloaded: its jobs are cancelled, its signals are freed, and its cells are cleared where they are resident. -/
  | cfgUnload (fn : Nat) (ring : Nat)
  /-- ENGINE_CMD (R502): A single engine command is submitted as a job with one ENGINE task. -/
  | engineCmd (fn : Nat) (ring : Nat) (h : HostIn)
  /-- SIGNAL_SET (R510): The host performs a SET at a signal's home with the function's tenant. -/
  | signalSet (fn : Nat) (ring : Nat)
  /-- SIGNAL_ADD (R510): The host performs an ADD at a signal's home with the function's tenant. -/
  | signalAdd (fn : Nat) (ring : Nat)
  /-- SIGNAL_WAIT (R522): The host waits until a signal's counter reaches a value, and completes on release, abandonment or timeout. -/
  | signalWait (fn : Nat) (ring : Nat)
  /-- FENCE (R523): Consumption of the ring stops until every earlier entry of the ring, or of the function, has completed. -/
  | fence (fn : Nat) (ring : Nat)
  /-- EXPORT_SHARD (R425): Training state of the listed shards is written as a stream of records ending in END. -/
  | exportShard (fn : Nat) (ring : Nat) (h : HostIn)
  /-- IMPORT_SHARD (R426): Export records are read and applied to matching shards, and a report is written. -/
  | importShard (fn : Nat) (ring : Nat) (h : HostIn)
  /-- RESERVE_BW_SET (R396): An HBM bandwidth reservation is set or replaced if admission limits hold, and otherwise refused with REFUSED_QUOTA. -/
  | reserveBwSet (fn : Nat) (ring : Nat)
  /-- RESERVE_BW_RELEASE (R395): A tenant's reservation is released and BW_FACTOR is recomputed. -/
  | reserveBwRelease (fn : Nat) (ring : Nat)
  /-- TIME_QUERY (R564): The GC, wall time, time states and fingerprint are written to a result buffer. -/
  | timeQuery (fn : Nat) (ring : Nat)
  /-- SETTINGS_STORE (R628): A settings image is validated and written, with journaling, to both non-volatile copies in turn. -/
  | settingsStore (fn : Nat) (ring : Nat) (h : HostIn)
  /-- TETHER_FORM (R472): A tethered pair is formed, with an initial mirror copy until the pair is PAIRED. -/
  | tetherForm (fn : Nat) (ring : Nat) (h : HostIn)
  /-- TETHER_DISSOLVE (R484): The tethered pair is ended from any state. -/
  | tetherDissolve (fn : Nat) (ring : Nat) (h : HostIn)
  /-- TETHER_ADOPT (R482): The alias gate is given its contribution table, signals and decision record, so that it casts votes. -/
  | tetherAdopt (fn : Nat) (ring : Nat) (h : HostIn)
  /-- TETHER_RESYNC (R483): Every listed shard is read back from the partner's mirror by GET and written in place. -/
  | tetherResync (fn : Nat) (ring : Nat) (h : HostIn)
  /-- TETHER_RELEASE (R484): The alias is returned to the switch, the alias gate ends, and the module becomes SOLO. -/
  | tetherRelease (fn : Nat) (ring : Nat) (h : HostIn)
  /-- CONSUME_ENTRY (R504): The device consumes the entry at sq_head once CQ room, slot, wait, fence and load conditions hold, then checks for a duplicate and executes it. -/
  | consumeEntry (fn : Nat) (ring : Nat) (h : HostIn)
  /-- DOORBELL_WRITE (R513): A write to a ring's BAR2 doorbell page sets sq_tail, cq_head or both. -/
  | doorbellWrite (fn : Nat) (off : Nat) (size : Nat) (value : Nat)
  /-- DOORBELL_POLL (R514): In POLL mode the device reads the doorbell word when its poll interval expires. -/
  | doorbellPoll (fn : Nat) (ring : Nat) (h : HostIn)
  /-- DOORBELL_SNOOP (R515): A host snoop of the pinned doorbell line makes the device reread it and take the new counts. -/
  | doorbellSnoop (fn : Nat) (ring : Nat) (h : HostIn)
  /-- CQ_LINE_EVICT (R516): The device writes back a completion line with DirtyEvict within 1 microsecond of its last write to it. -/
  | cqLineEvict (fn : Nat) (ring : Nat) (addr : Nat)
  /-- CQ_LINE_SNOOP (R517): A host snoop of a completion line is answered from the line or from the write-back buffer. -/
  | cqLineSnoop (fn : Nat) (ring : Nat) (addr : Nat) (inv : Bool)
  /-- EVICT_RESPONSE (R517): The host answers a DirtyEvict with GO_WritePull or GO_WritePull_Drop, and the eviction ends. -/
  | evictResponse (fn : Nat) (ring : Nat) (addr : Nat) (drop : Bool)
  /-- RING_ENABLE (R498): A write of enable 1 makes a DISABLED ring ACTIVE, or puts it in ERROR with CONFIG. -/
  | ringEnable (fn : Nat) (ring : Nat) (ctl : Nat)
  /-- RING_DISABLE (R499): A write of enable 0 makes the ring DRAINING. -/
  | ringDisable (fn : Nat) (ring : Nat)
  /-- RING_DRAIN_END (R499): A draining ring becomes DISABLED once every consumed entry has its completion written. -/
  | ringDrainEnd (fn : Nat) (ring : Nat)
  /-- IRQ_DELAY_EXPIRE (R526): The ring raises its vector when irq_time_us has passed since the first uncovered completion. -/
  | irqDelayExpire (fn : Nat) (ring : Nat)
  /-- CMD_TIMEOUT_EXPIRE (R521): An entry's command timeout expires, and the entry or its job stops with TIMEOUT. -/
  | cmdTimeoutExpire (id : Nat)
  /-- VF_FLR (R527): A VF function-level reset disables its rings, cancels its jobs and releases its reservations. -/
  | vfFlr (fn : Nat)
  /-- PF_FLR (R617): A PF function-level reset removes every tenant, frees owner state and uncommits the features. -/
  | pfFlr
  /-- FEAT_COMMIT (R495): The accepted feature set is committed when it is offered and its dependencies hold, or refused. -/
  | featCommit (value : Nat)
  /-- REGISTER_WRITE (R680): A write to a BAR0 register that has no behaviour of its own sets its fields, subject to range checks. -/
  | registerWrite (fn : Nat) (off : Nat) (size : Nat) (value : Nat)
  /-- TENANT_CREATE (R530): An ABSENT tenant is created with a new key, an empty page table and its quotas. -/
  | tenantCreate (t : Nat)
  /-- TENANT_REMOVE (R531): A tenant is removed: its jobs, galleries, pages, signals and keys are cleared in order. -/
  | tenantRemove (t : Nat)
  /-- SIG_RANGE_WRITE (R534): A write of a tenant's signal range is accepted only when the signals affected are FREE and the ranges do not overlap. -/
  | sigRangeWrite (t : Nat) (base : Nat) (count : Nat)
  /-- SHARE_COMMIT (R535): The share weights and classes are committed to the mesh wheels, engine wheels and cache ways. -/
  | shareCommit
  /-- SEAL_CTL_WRITE (R539): A write of seal_en makes a change of sealed tenancy pending and holds admission. -/
  | sealCtlWrite (en : Bool)
  /-- SEAL_APPLY (R539): Once no job is in flight, the pending seal is checked and applied or refused. -/
  | sealApply
  /-- BILLING_PERIOD_CLOSE (R550): When wall time reaches B_next, the counters are captured, PERIOD records are written and a new period opens. -/
  | billingPeriodClose
  /-- ENERGY_INTERVAL (R546): Every 1 ms the measured energy is split into base and dynamic energy and charged to tenants. -/
  | energyInterval (uj : Nat) (counts : List (List Nat))
  /-- WALL_BASE_WRITE (R557): A write of WALL_BASE sets wall time, as the initial set or as a step. -/
  | wallBaseWrite (v : Nat)
  /-- WALL_SLEW_WRITE (R558): A write of WALL_SLEW starts a gradual adjustment of WALL_BASE, or is refused. -/
  | wallSlewWrite (v : Nat)
  /-- PPS_EN_WRITE (R557): A write of pps_en 1 truncates WALL_BASE to a whole second and starts PPS discipline. -/
  | ppsEnWrite (ctl : Nat)
  /-- PPS_EDGE (R559): A rising PPS edge is captured and, if accepted, corrects the GC by slew or step. -/
  | ppsEdge
  /-- PPS_LOST (R561): No accepted edge for 1.5 s puts PPS in HOLDOVER. -/
  | ppsLost
  /-- SYNC_REQUEST_SEND (R562): A SLAVE sends a TIME_SYNC request to its master every interval_ms. -/
  | syncRequestSend
  /-- TIME_SYNC_REQ (R562): A received TIME_SYNC request is answered with the responder's timestamps. -/
  | timeSyncReq (port : Nat) (m : FMsg)
  /-- TIME_SYNC_RESP (R563): A received TIME_SYNC response is evaluated, and after eight exchanges the best corrects wall time and GC. -/
  | timeSyncResp (port : Nat) (m : FMsg)
  /-- LAUNCH_ARM (R565): A launch slot is armed, or refused for a bad tenant, signal or basis. -/
  | launchArm (k : Nat)
  /-- LAUNCH_DISARM (R567): An armed launch slot is disarmed unless it fires in the same T-cycle. -/
  | launchDisarm (k : Nat)
  /-- LAUNCH_FIRE (R566): An armed slot fires when its basis reaches the agreed instant and sends its signal operation. -/
  | launchFire (k : Nat)
  /-- DEEP_IDLE_REQUEST (R598): A write of deep_idle 1 makes a deep-idle request pending. -/
  | deepIdleRequest (ctl : Nat)
  /-- DEEP_IDLE_ENTER (R598): Once the idle conditions hold, the module writes back its slices, self-refreshes HBM and stops the array clocks. -/
  | deepIdleEnter
  /-- DEEP_IDLE_EXIT (R599): A wake event returns the module from deep idle to READY. -/
  | deepIdleExit
  /-- AP_GATE_WRITE (R596): A write of AP_GATE asks for array domains to be gated when no resident gallery uses them. -/
  | apGateWrite (v : Nat)
  /-- DOMAIN_GATE (R596): The device gates an array domain at the first moment its gate condition holds. -/
  | domainGate (n : Nat)
  /-- POWER_CAP_EVAL (R608): Every 1 ms the 10 ms mean power is compared with the cap, and the cap level is lowered or raised. -/
  | powerCapEval (mean : Nat) (now : Nat)
  /-- SAG_STAGE_ENTER (R603): Input samples below a threshold enter supply-sag stages S1 to S4 with their actions. -/
  | sagStageEnter (samples : List Nat)
  /-- SAG_STAGE_EXIT (R604): After 10 ms above threshold plus 1 V, the highest stage is left and its actions are reversed. -/
  | sagStageExit (low : Nat) (mv : Nat)
  /-- SAG_S5_ENTER (R605): Stage S5 stops all jobs with SHED, flushes completions and powers off every domain but AO. -/
  | sagS5Enter (samples : List Nat) (n : Nat)
  /-- OVERVOLTAGE (R678): An input above 62 V for 5 microseconds stops all work and disconnects the input. -/
  | overvoltage (samples : List Nat) (n : Nat)
  /-- THERM_SAMPLE (R607): Every 100 microseconds the temperature sensors are sampled and thermal levels are evaluated. -/
  | thermSample (temps : List Int) (n : Nat)
  /-- DROOP_TRIP (R602): A droop detector trip stretches its die's A-clock and is recorded in DROOP_MAP. -/
  | droopTrip (cell : Nat)
  /-- DROOP_STEP_RISE (R602): After 1 s without stretching, the die's droop step rises by 100 MHz. -/
  | droopStepRise (die : Nat)
  /-- REFCLK_LOSS (R669): Loss of REFCLK for 100 microseconds takes the link down and runs the GC from the AO oscillator. -/
  | refclkLoss
  /-- POWER_ON (R605): Input qualification at 48 V for 10 ms starts the module as at power-on. -/
  | powerOn (low : Nat) (high : Nat)
  /-- PERST_ASSERT (R615): PERST# assertion performs a fundamental reset and holds the GC at 0. -/
  | perstAssert
  /-- PERST_DEASSERT (R610): PERST# deassertion starts the GC and the Landing stage. -/
  | perstDeassert
  /-- DEV_RESET (R616): A device reset from RST_CTL, hot reset, link disable or MCTP clears device state and restarts at Landing. -/
  | devReset (trig : Nat)
  /-- LANDING (R610): The Landing stage verifies the ROM images and brings up AO, PCIe and management. -/
  | landing
  /-- STAGE_1 (R610): Stage 1 checks non-volatile memory, loads settings, trains HBM and verifies microcode. -/
  | stage1 (fwOk : Bool) (hbm : List Nat)
  /-- STAGE_2 (R610): Stage 2 starts the array clocks, self-tests cells, confirms the cell map and computes routing tables. -/
  | stage2 (fwOk : Bool) (bad : List Nat)
  /-- STAGE_3 (R610): Stage 3 checks engines, trains Ferier ports, frees signals and makes features valid. -/
  | stage3 (fwOk : Bool) (engines : Nat)
  /-- NV_ERASE_COMPLETE (R622): A journaled sector erase completes and its DONE entry is programmed. -/
  | nvEraseComplete (ok : Bool)
  /-- FIRMWARE_UPDATE (R620): A PLDM firmware update writes a bundle and boot records into the non-preferred bank. -/
  | firmwareUpdate (svn : Nat) (valid : Bool)
  /-- PLDM_SETTINGS_WRITE (R629): Board management writes non-security settings fields as a store of the newest copy. -/
  | pldmSettingsWrite (image : List Byte)
  /-- SVN_COMMIT (R576): A write to SEC_SVN_COMMIT raises svn_floor. -/
  | svnCommit (v : Nat)
  /-- DEBUG_UNLOCK (R590): A write of SEC_DBG_CTL.go evaluates a debug token and unlocks the module or reports a result code. -/
  | debugUnlock
  /-- DEBUG_LOCK (R592): A write of SEC_DBG_CTL.lock returns the module to LOCKED until the next start. -/
  | debugLock
  /-- SLOT_CLEAR (R584): A write to SEC_SLOT_CLEAR clears a key slot for later uses. -/
  | slotClear (slot : Nat)
  /-- FER_KEY_RETIRE (R585): A write to SEC_FER_RETIRE discards a Ferier slot's previous key. -/
  | ferKeyRetire (slot : Nat)
  /-- PREVIOUS_KEY_EXPIRE (R585): A displaced Ferier key is discarded 10 s after it was displaced. -/
  | previousKeyExpire (slot : Nat)
  /-- SET_KEY (R582): A SET_KEY request in a mutually authenticated session places a key in a slot. -/
  | setKey (session : Nat) (req : List Byte)
  /-- GET_MEASUREMENTS (R579): An SPDM measurement request is answered with signed measurements. -/
  | getMeasurements (index : Nat) (nonce : List Byte) (sign : Bool)
  /-- GET_CERTIFICATE (R578): An SPDM certificate request is answered with the slot's chain. -/
  | getCertificate (slot : Nat) (off : Nat) (len : Nat)
  /-- KEY_PROG (R587): IDE_KM KEY_PROG programs an IDE key set. -/
  | keyProg (session : Nat) (set : Nat) (key : List Byte)
  /-- K_SET_GO (R587): IDE_KM K_SET_GO brings a key set into use. -/
  | kSetGo (session : Nat) (set : Nat)
  /-- K_SET_STOP (R587): IDE_KM K_SET_STOP stops a key set. -/
  | kSetStop (session : Nat) (set : Nat)
  /-- IDE_QUERY (R587): IDE_KM QUERY reports the IDE stream state. -/
  | ideQuery (session : Nat)
  /-- MMA (R82): A matrix context computes a Hilbert-ordered grid of output tiles by the dot-product definition. -/
  | mma (cell : Nat) (ctx : Nat) (arrayErr : Option Nat)
  /-- MT_WAIT (R89): A matrix context waits until a signal's counter reaches a value. -/
  | mtWait (cell : Nat) (ctx : Nat)
  /-- MT_POST (R87): A matrix context adds a value to a signal after its earlier MMAs retire. -/
  | mtPost (cell : Nat) (ctx : Nat)
  /-- MT_LOOP (R90): A matrix context repeats a range of earlier commands by its loop counter. -/
  | mtLoop (cell : Nat) (ctx : Nat)
  /-- MT_END (R87): A matrix context finishes its task after its earlier MMAs retire and becomes IDLE. -/
  | mtEnd (cell : Nat) (ctx : Nat)
  /-- MT_CONTEXT_READY (R104): A matrix context becomes READY once the operands of its next k-steps are staged. -/
  | mtContextReady (cell : Nat) (ctx : Nat)
  /-- MT_CONTEXT_SWITCH (R105): When the active context cannot issue, the next READY context is selected at a cost of 2 A-cycles. -/
  | mtContextSwitch (cell : Nat)
  /-- TILE_HANDOVER (R106): A finished tile enters the finished-tile queue once the queue has room. -/
  | tileHandover (cell : Nat) (ctx : Nat)
  /-- MMA_RETIRE (R87): An MMA retires when its last epilogue has completed and its writes are acknowledged. -/
  | mmaRetire (cell : Nat) (ctx : Nat)
  /-- VT_END (R130): A vector context finishes its task after its earlier instructions retire. -/
  | vtEnd (cell : Nat) (ctx : Nat)
  /-- VT_WAIT (R130): A vector context waits until a signal's counter reaches a value. -/
  | vtWait (cell : Nat) (ctx : Nat)
  /-- VT_POST (R130): A vector context adds a value to a signal after earlier instructions retire. -/
  | vtPost (cell : Nat) (ctx : Nat)
  /-- VT_LOOP (R130): A vector context repeats a range of earlier instructions. -/
  | vtLoop (cell : Nat) (ctx : Nat)
  /-- SETVL (R126): The context's element count VL is set. -/
  | setvl (cell : Nat) (ctx : Nat)
  /-- ASET (R130): An address register is set to an immediate. -/
  | aset (cell : Nat) (ctx : Nat)
  /-- AADD (R130): A signed immediate is added to an address register modulo 2^20. -/
  | aadd (cell : Nat) (ctx : Nat)
  /-- SRSEED (R143): Half of the SR seed is set and the SR counter is cleared. -/
  | srseed (cell : Nat) (ctx : Nat)
  /-- FLCLR (R145): The context's sticky flags are cleared. -/
  | flclr (cell : Nat) (ctx : Nat)
  /-- EPILOGUE (R160): The oldest finished tile of the context runs through an epilogue entry's stages to its destinations. -/
  | epilogue (cell : Nat) (ctx : Nat) (arrayErr : Option Nat)
  /-- EPILOGUE_END (R148): An epilogue ends once its last byte is accepted, and its queue entry is freed. -/
  | epilogueEnd (cell : Nat) (ctx : Nat)
  /-- XFENCE (R130): A vector context waits until its earlier XFERs have completed. -/
  | xfence (cell : Nat) (ctx : Nat)
  /-- VLD (R132): Elements are loaded from local space into a register and converted exactly. -/
  | vld (cell : Nat) (ctx : Nat) (arrayErr : Option Nat)
  /-- VST (R132): Register elements are converted and stored into local space. -/
  | vst (cell : Nat) (ctx : Nat)
  /-- VLDB (R131): A block-scaled array is loaded into a register as FP32 values. -/
  | vldb (cell : Nat) (ctx : Nat) (arrayErr : Option Nat)
  /-- VSTQ (R131): A register is quantised into blocks with scales and stored. -/
  | vstq (cell : Nat) (ctx : Nat)
  /-- MLD (R131): Mask bits are loaded from local space. -/
  | mld (cell : Nat) (ctx : Nat) (arrayErr : Option Nat)
  /-- MST (R131): Mask bits are stored into local space. -/
  | mst (cell : Nat) (ctx : Nat)
  /-- VRECV (R133): Elements are received from a stream channel into a register. -/
  | vrecv (cell : Nat) (ctx : Nat)
  /-- VSEND (R133): Register elements are converted and sent as one record on a stream channel. -/
  | vsend (cell : Nat) (ctx : Nat)
  /-- XFER (R134): An asynchronous move between local space and the memory tile is issued. -/
  | xfer (cell : Nat) (ctx : Nat)
  /-- XFER_COMPLETE (R134): An XFER's last byte is in place at its destination. -/
  | xferComplete (cell : Nat) (ctx : Nat)
  /-- FADD (R136): Elements are added with one rounding. -/
  | fadd (cell : Nat) (ctx : Nat)
  /-- FSUB (R136): Elements are subtracted with one rounding. -/
  | fsub (cell : Nat) (ctx : Nat)
  /-- FMUL (R136): Elements are multiplied with one rounding. -/
  | fmul (cell : Nat) (ctx : Nat)
  /-- FFMA (R136): A fused multiply-add is performed with one rounding. -/
  | ffma (cell : Nat) (ctx : Nat)
  /-- FDIV (R136): Elements are divided with correct rounding. -/
  | fdiv (cell : Nat) (ctx : Nat)
  /-- FSQRT (R136): A correctly rounded square root is computed. -/
  | fsqrt (cell : Nat) (ctx : Nat)
  /-- FMIN (R39): MIN is computed under the committed min and max semantics. -/
  | fmin (cell : Nat) (ctx : Nat)
  /-- FMAX (R39): MAX is computed under the committed min and max semantics. -/
  | fmax (cell : Nat) (ctx : Nat)
  /-- FMINNUM (R40): minimumNumber is computed. -/
  | fminnum (cell : Nat) (ctx : Nat)
  /-- FMAXNUM (R40): maximumNumber is computed. -/
  | fmaxnum (cell : Nat) (ctx : Nat)
  /-- FABS (R136): The sign of each element is cleared. -/
  | fabs (cell : Nat) (ctx : Nat)
  /-- FNEG (R136): The sign of each element is inverted. -/
  | fneg (cell : Nat) (ctx : Nat)
  /-- FRND (R136): Each element is rounded to an integral value. -/
  | frnd (cell : Nat) (ctx : Nat)
  /-- FEXP2 (R137): 2^x is computed, correctly rounded. -/
  | fexp2 (cell : Nat) (ctx : Nat)
  /-- FLOG2 (R137): log2 x is computed, correctly rounded. -/
  | flog2 (cell : Nat) (ctx : Nat)
  /-- FRSQRT (R137): 1/sqrt x is computed, correctly rounded. -/
  | frsqrt (cell : Nat) (ctx : Nat)
  /-- FTANH (R137): tanh x is computed, correctly rounded. -/
  | ftanh (cell : Nat) (ctx : Nat)
  /-- FSIGM (R137): The logistic sigmoid is computed, correctly rounded. -/
  | fsigm (cell : Nat) (ctx : Nat)
  /-- FERF (R137): erf x is computed, correctly rounded. -/
  | ferf (cell : Nat) (ctx : Nat)
  /-- FCMPEQ (R139): A quiet equality compare writes mask bits. -/
  | fcmpeq (cell : Nat) (ctx : Nat)
  /-- FCMPNE (R139): A quiet inequality compare writes mask bits. -/
  | fcmpne (cell : Nat) (ctx : Nat)
  /-- FCMPLT (R139): A signalling less-than compare writes mask bits. -/
  | fcmplt (cell : Nat) (ctx : Nat)
  /-- FCMPLE (R139): A signalling less-or-equal compare writes mask bits. -/
  | fcmple (cell : Nat) (ctx : Nat)
  /-- FCMPGT (R139): A signalling greater-than compare writes mask bits. -/
  | fcmpgt (cell : Nat) (ctx : Nat)
  /-- FCMPGE (R139): A signalling greater-or-equal compare writes mask bits. -/
  | fcmpge (cell : Nat) (ctx : Nat)
  /-- FSEL (R139): Elements are selected from two registers by a mask. -/
  | fsel (cell : Nat) (ctx : Nat)
  /-- FQNT (R139): Elements are rounded to a narrower format and held as FP32. -/
  | fqnt (cell : Nat) (ctx : Nat)
  /-- F2I (R139): Elements are converted to saturated INT32. -/
  | f2i (cell : Nat) (ctx : Nat)
  /-- I2F (R139): INT32 elements are rounded to FP32. -/
  | i2f (cell : Nat) (ctx : Nat)
  /-- IADD (R140): Integer addition wrapping modulo 2^32. -/
  | iadd (cell : Nat) (ctx : Nat)
  /-- ISUB (R140): Integer subtraction wrapping modulo 2^32. -/
  | isub (cell : Nat) (ctx : Nat)
  /-- IMUL (R140): The low 32 bits of an integer product are taken. -/
  | imul (cell : Nat) (ctx : Nat)
  /-- IMIN (R140): The signed minimum is taken. -/
  | imin (cell : Nat) (ctx : Nat)
  /-- IMAX (R140): The signed maximum is taken. -/
  | imax (cell : Nat) (ctx : Nat)
  /-- IAND (R140): A bitwise AND is computed. -/
  | iand (cell : Nat) (ctx : Nat)
  /-- IOR (R140): A bitwise OR is computed. -/
  | ior (cell : Nat) (ctx : Nat)
  /-- IXOR (R140): A bitwise XOR is computed. -/
  | ixor (cell : Nat) (ctx : Nat)
  /-- ISHL (R140): A left shift is performed. -/
  | ishl (cell : Nat) (ctx : Nat)
  /-- ISRA (R140): An arithmetic right shift is performed. -/
  | isra (cell : Nat) (ctx : Nat)
  /-- ISRL (R140): A logical right shift is performed. -/
  | isrl (cell : Nat) (ctx : Nat)
  /-- ICMPEQ (R140): An integer equality compare writes mask bits. -/
  | icmpeq (cell : Nat) (ctx : Nat)
  /-- ICMPLT (R140): A signed less-than compare writes mask bits. -/
  | icmplt (cell : Nat) (ctx : Nat)
  /-- FRSUM (R141): The active elements are summed in a fixed order into element 0. -/
  | frsum (cell : Nat) (ctx : Nat)
  /-- FRMAX (R141): The active elements are reduced by MAX into element 0. -/
  | frmax (cell : Nat) (ctx : Nat)
  /-- FRMIN (R141): The active elements are reduced by MIN into element 0. -/
  | frmin (cell : Nat) (ctx : Nat)
  /-- IRSUM (R141): The active elements are summed as integers into element 0. -/
  | irsum (cell : Nat) (ctx : Nat)
  /-- VMOV (R142): A register is copied bit for bit. -/
  | vmov (cell : Nat) (ctx : Nat)
  /-- VBCAST (R142): An immediate is broadcast to every element. -/
  | vbcast (cell : Nat) (ctx : Nat)
  /-- VIOTA (R142): Each element is set to its index. -/
  | viota (cell : Nat) (ctx : Nat)
  /-- VPERM (R142): Elements are permuted by an index register. -/
  | vperm (cell : Nat) (ctx : Nat)
  /-- MAND (R142): Two masks are ANDed. -/
  | mand (cell : Nat) (ctx : Nat)
  /-- MOR (R142): Two masks are ORed. -/
  | mor (cell : Nat) (ctx : Nat)
  /-- MXOR (R142): Two masks are XORed. -/
  | mxor (cell : Nat) (ctx : Nat)
  /-- MNOT (R142): A mask is inverted. -/
  | mnot (cell : Nat) (ctx : Nat)
  /-- MCNT (R142): The set mask bits at active positions are counted into element 0. -/
  | mcnt (cell : Nat) (ctx : Nat)
  /-- VT_CONTEXT_SWITCH (R151): A vector context that cannot issue yields to the next READY context at a cost of 2 A-cycles. -/
  | vtContextSwitch (cell : Nat)
  /-- MT_OP_FILL (R192): A memory tile fills a range with a 64-bit pattern. -/
  | mtOpFill (p : Packet)
  /-- MT_OP_COPY (R192): A memory tile copies a range within itself, carrying poison. -/
  | mtOpCopy (p : Packet)
  /-- FILL_COPY_COMPLETE (R194): A FILL or COPY completes once its last write is in the banks and returns its completion and signal. -/
  | fillCopyComplete (cell : Nat)
  /-- MEMT_SCRUB (R197): Every 512 A-cycles the scrubber reads and corrects one word. -/
  | memtScrub (cell : Nat) (found : List (Nat × Bool))
  /-- WIDE_PORT_YIELD (R183): A narrow request refused for 64 A-cycles is granted while the wide port yields a cycle. -/
  | widePortYield (cell : Nat)
  /-- READY_BIT_SET (R188): A control request sets a memory-tile ready bit. -/
  | readyBitSet (p : Packet)
  /-- READY_BIT_CLEAR (R188): A control request clears a ready bit and acknowledges once earlier grants have delivered. -/
  | readyBitClear (p : Packet)
  /-- REGION_FENCE (R293): A control request fences a cell for a configuration load. -/
  | regionFence (p : Packet)
  /-- CONTEXT_BIND (R324): A control request binds a cell's contexts to a task with starting indices. -/
  | contextBind (p : Packet)
  /-- RD (R189): A mesh read is performed at a memory tile or slice after owner and range checks. -/
  | rd (p : Packet) (found : List (Nat × Bool))
  /-- WR (R189): A mesh write is performed at a memory tile or slice after owner and range checks. -/
  | wr (p : Packet)
  /-- ENG_CMD (R236): An engine command packet from Ferryman is placed in an engine queue at Hub S. -/
  | engCmd (p : Packet)
  /-- CFG (R236): A configuration delivery packet is written into a cell and acknowledged. -/
  | cfg (p : Packet)
  /-- RD_DATA (R236): A read response arrives at its requester with data or status. -/
  | rdData (p : Packet)
  /-- WR_ACK (R236): A write acknowledgement arrives at its requester. -/
  | wrAck (p : Packet)
  /-- OP_DONE (R236): Completion of an MT_OP, CTRL or ENG_CMD arrives at its requester. -/
  | opDone (p : Packet)
  /-- STREAM_WORD_ARRIVE (R203): A stream word arriving at a switch is forwarded in its slot or delivered to its channel. -/
  | streamWordArrive (cell : Nat) (port : Nat) (slot : Nat) (chan : Nat)
  /-- SPLIT_RECORD (R218): A SPLIT steering unit forwards one record to its outputs by its condition. -/
  | splitRecord (cell : Nat) (su : Nat)
  /-- MERGE_RECORD (R218): A MERGE steering unit forwards one record from one of its inputs by its condition. -/
  | mergeRecord (cell : Nat) (su : Nat)
  /-- SUMP_PROBE_SEND (R225): A channel's wait run reaching a multiple of 8,192 sends a probe along its edge. -/
  | sumpProbeSend (cell : Nat) (chan : Nat)
  /-- PROBE (R225): A Sump probe is forwarded along waiting edges or, on return to its origin, opens the Sump. -/
  | probe (p : Packet)
  /-- PROBE_OPEN_REQUEST (R225): An open request reaches a circuit's producer and opens its Sump if still waiting. -/
  | probeOpenRequest (p : Packet)
  /-- SUMP_CLOSE (R226): An open Sump closes when its spill is empty and the producer holds a credit. -/
  | sumpClose (cell : Nat) (chan : Nat)
  /-- SUMP_EXHAUSTED (R229): A spill region full for 8,192 A-cycles ends the cycle's jobs with OVERFLOW_FAULT. -/
  | sumpExhausted (cell : Nat) (chan : Nat)
  /-- SIG_SET (R255): A SET is applied at the signal's home and waiters are tested. -/
  | sigSet (p : Packet)
  /-- SIG_ADD (R255): An ADD is applied at the signal's home with saturation and waiters are tested. -/
  | sigAdd (p : Packet)
  /-- SIG_WAIT (R255): A WAIT at the home is satisfied at once, queued, answered RETRY, or released ABANDONED. -/
  | sigWait (p : Packet)
  /-- SIG_WAKE (R264): A wake reaches the issuer with SATISFIED, ABANDONED, RETRY or REFUSED. -/
  | sigWake (p : Packet)
  /-- WAIT_RETRY (R262): A WAIT answered RETRY is sent again after 64 M-cycles. -/
  | waitRetry (cell : Nat) (ctx : Nat)
  /-- MSG_ENTRY_SEND (R267): The message logic sends the next due outbox entry once its credit allows. -/
  | msgEntrySend (cell : Nat)
  /-- MSG (R270): A message is accepted into a receive queue's inbox or refused with MSG_NAK. -/
  | msg (p : Packet)
  /-- MSG_NAK (R269): A refused message is held for resending or dropped after its retries. -/
  | msgNak (p : Packet)
  /-- MSG_RESEND (R269): A refused uncredited message is resent after 256 M-cycles. -/
  | msgResend (cell : Nat)
  /-- SEGMENT_APPLY (R280): A staged segment is authenticated, decrypted and its sections are checked and applied. -/
  | segmentApply (load : Nat) (h : HostIn)
  /-- COMMIT_APPLY (R296): After the checks pass, COMMIT writes cell state, owner tags, ready bits and signals. -/
  | commitApply (load : Nat)
  /-- LOAD_FENCE_DROP (R296): When every cell has acknowledged COMMIT, the fence drops and the load completes. -/
  | loadFenceDrop (load : Nat)
  /-- PARTIAL_FENCE_FALL (R294): When the region's contexts are IDLE, the PARTIAL fence falls and signals and FIFOs are handled. -/
  | partialFenceFall (load : Nat)
  /-- CFG_MCAST (R454): A configuration multicast message is passed to a matching load or discarded. -/
  | cfgMcast (port : Nat) (m : FMsg)
  /-- MCAST_GAP_FETCH (R300): A receiver missing the next segment for 1 ms fetches it by get from the sender. -/
  | mcastGapFetch (load : Nat)
  /-- HOLD_WINDOW_CLOSE (R299): The sender's repair window closes after hold_ms and its CFG_LOAD completes. -/
  | holdWindowClose (load : Nat)
  /-- SLIPWAY_RECORD (R304): The Slipway port serves a queued request record as a PARTIAL load. -/
  | slipwayRecord (gallery : Nat)
  /-- TASK_BIND (R323): Ferryman binds the first ready task whose resources are free. -/
  | taskBind
  /-- TASK_COMPLETE (R325): A task completes when its contexts end or its engine command completes. -/
  | taskComplete (job : Nat) (task : Nat)
  /-- JOB_COMPLETE (R326): A job completes: granules and pages are released and its completion entry is written; the job is
  named by its slot and its entry's tag. -/
  | jobComplete (job : Nat) (tag : Nat)
  /-- JOB_STOP (R327): A job is stopped: contexts stop, commands and paging end, and its signals are abandoned. -/
  | jobStop (job : Nat)
  /-- PAGE_ZEROING_DONE (R315): Freed pages finish zeroing, and admissions waiting for clean pages proceed. -/
  | pageZeroingDone (page : Nat)
  /-- PHASE_BEGIN (R320): Ferryman begins paging a phase once its half is released. -/
  | phaseBegin (job : Nat) (task : Nat)
  /-- PHASE_IN_PLACE (R320): A phase's writes are acknowledged, its ready bits are set and rdy_sig is added to. -/
  | phaseInPlace (job : Nat) (task : Nat)
  /-- CACHE_WARM (R322): With warm_en, the sources of a later phase are read into the shared cache. -/
  | cacheWarm (job : Nat) (task : Nat)
  /-- GALLERY_PARK (R331): A gallery is parked: its state is saved to HBM and its cells are cleared. -/
  | galleryPark (gallery : Nat)
  /-- GALLERY_RESTORE (R334): A parked gallery is restored and its suspended contexts are re-bound. -/
  | galleryRestore (gallery : Nat)
  /-- ENGINE_ACTIVATE (R342): An eligible placed command takes a free active slot of its engine. -/
  | engineActivate (engine : Nat)
  /-- ENGINE_CHUNK (R343): An engine selects and performs one chunk of an active command. -/
  | engineChunk (engine : Nat) (h : HostIn)
  /-- ENGINE_COMPLETE (R347): A command completes: its record is written, done_sig is operated on and Ferryman is told. -/
  | engineComplete (engine : Nat)
  /-- DMA_COPY (R355): A DMA engine copies a range. -/
  | dmaCopy (engine : Nat) (h : HostIn)
  /-- COPY2D (R355): A DMA engine copies rows with pitches. -/
  | copy2d (engine : Nat) (h : HostIn)
  /-- SCATTER (R356): A DMA engine performs a list of copy entries. -/
  | scatter (engine : Nat) (h : HostIn)
  /-- CONVERT (R357): A DMA engine converts or quantises elements between formats. -/
  | convert (engine : Nat) (h : HostIn)
  /-- DMA_FILL (R355): A DMA engine fills a range with a pattern. -/
  | dmaFill (engine : Nat) (h : HostIn)
  /-- DMA_MSG (R359): A DMA engine sends one uncredited message to a cell's queue. -/
  | dmaMsg (engine : Nat) (h : HostIn)
  /-- ALL_REDUCE (R462): Contributions are reduced and the result is left on every rank. -/
  | allReduce (engine : Nat) (h : HostIn)
  /-- REDUCE_SCATTER (R462): Contributions are reduced and each rank receives its segment. -/
  | reduceScatter (engine : Nat) (h : HostIn)
  /-- ALL_GATHER (R462): Every rank receives every rank's contribution. -/
  | allGather (engine : Nat) (h : HostIn)
  /-- BROADCAST (R462): The root's data is copied to every rank. -/
  | broadcast (engine : Nat) (h : HostIn)
  /-- ALL_TO_ALL (R462): Each rank sends a block to every other rank. -/
  | allToAll (engine : Nat) (h : HostIn)
  /-- REDUCE (R462): Contributions are reduced into the root. -/
  | reduce (engine : Nat) (h : HostIn)
  /-- GATHER (R363): Table rows are copied by index. -/
  | gather (engine : Nat) (h : HostIn)
  /-- BAG (R363): Rows of each bag are combined by SUM, MEAN or MAX. -/
  | bag (engine : Nat) (h : HostIn)
  /-- SORT (R365): Keys are sorted stably in place. -/
  | sort (engine : Nat) (h : HostIn)
  /-- TOPK (R365): The first k keys of each row are selected in sort order. -/
  | topk (engine : Nat) (h : HostIn)
  /-- RAND (R367): Random values of a distribution are generated from seed and counter. -/
  | rand (engine : Nat) (h : HostIn)
  /-- COMPRESS (R369): Input is compressed into one Zstandard frame. -/
  | compress (engine : Nat) (h : HostIn)
  /-- DECOMPRESS (R369): Zstandard frames are decompressed and checked. -/
  | decompress (engine : Nat) (h : HostIn)
  /-- GCM_ENC (R371): Data is encrypted with AES-256-GCM and its tag is written. -/
  | gcmEnc (engine : Nat) (h : HostIn)
  /-- GCM_DEC (R371): Data is decrypted with AES-256-GCM and its tag is checked. -/
  | gcmDec (engine : Nat) (h : HostIn)
  /-- SHA384 (R370): A SHA-384 digest of a range is written. -/
  | sha384 (engine : Nat) (h : HostIn)
  /-- UPDATE (R409): An optimiser engine updates a shard's state, gated by the step decision when requested. -/
  | update (engine : Nat) (h : HostIn)
  /-- GATE_ENABLE (R414): A write of gate_en 1 starts the gate at step_base, or is refused. -/
  | gateEnable (ctl : Nat)
  /-- GATE_DISABLE (R421): A write of gate_en 0 discards the gate's state. -/
  | gateDisable
  /-- GATE_VOTE_FORM (R414): Once contrib_sig reaches contrib_count, the gate reads the table and forms and casts its vote. -/
  | gateVoteForm (al : Bool)
  /-- GATE_VOTE (R415): A child's vote is held or discarded, and the combined vote is passed up. -/
  | gateVote (port : Nat) (m : FMsg)
  /-- GATE_TIMEOUT (R418): The root's timeout expires and it decides SKIP with cause TIMEOUT. -/
  | gateTimeout (al : Bool)
  /-- GATE_DECISION (R419): A decision is forwarded, recorded and signalled, and waiting UPDATEs are released. -/
  | gateDecision (port : Nat) (m : FMsg)
  /-- GATE_REPORT (R419): The root receives a report of silent modules after a timeout decision. -/
  | gateReport (port : Nat) (m : FMsg)
  /-- HEARTBEAT_SEND (R477): A paired module sends a HEARTBEAT to its partner every hb_us. -/
  | heartbeatSend
  /-- HEARTBEAT (R477): A received heartbeat refreshes the partner's liveness or reports its failure. -/
  | heartbeat (port : Nat) (m : FMsg)
  /-- PARTNER_DECLARE (R478): The heartbeat silence limit expires and the partner is declared failed. -/
  | partnerDeclare
  /-- CLAIM_RETRY (R479): A refused claim is repeated every 10 ms. -/
  | claimRetry
  /-- ALIAS_CLAIM_RESPONSE (R479): The switch grants or refuses the alias claim, and a grant enters CATCHING_UP. -/
  | aliasClaimResponse (granted : Bool)
  /-- CATCH_UP_DONE (R479): Pending mirror UPDATEs complete, the alias gate starts, and the module holds the alias. -/
  | catchUpDone
  /-- PORT_ENABLE (R433): Enabling a port starts its TRAINING. -/
  | portEnable (mask : Nat)
  /-- IDENT (R433): The switch's IDENT assigns the device ID and advertises credits. -/
  | ident (port : Nat) (dev : Nat) (enc : Bool) (credits : List Nat)
  /-- PORT_TRAINING_END (R433): A training port reaches UP or, after 500 ms, FAILED. -/
  | portTrainingEnd (port : Nat) (ok : Bool)
  /-- DATA_FLIT (R435): A received flit is accepted or discarded by CRC and sequence, and its ack and nak are acted on. -/
  | dataFlit (port : Nat) (f : Flit)
  /-- REPLAY_BUDGET_EXPIRE (R436): A replay unfinished after 64 microseconds or eight naks puts the port in RETRAIN. -/
  | replayBudgetExpire (port : Nat)
  /-- REPLAY_TIME_RETRAIN (R646): Replay time above 50 ms in one second forces RETRAIN. -/
  | replayTimeRetrain (port : Nat)
  /-- PORT_RETRAIN_END (R433): A retrain ends in UP with the replay buffer resent, or in FAILED. -/
  | portRetrainEnd (port : Nat) (ok : Bool)
  /-- FDOM_WRITE (R442): Binding a tenant to a fabric domain is accepted or refused for a duplicate domain. -/
  | fdomWrite (tenant : Nat) (dom : Nat)
  /-- PUT (R450): A PUT is translated, written and, with sig_en, signalled after earlier messages. -/
  | put (port : Nat) (m : FMsg)
  /-- GET (R450): A GET reads data and returns it in a GET_RESP. -/
  | get (port : Nat) (m : FMsg)
  /-- GET_RESP (R450): A GET response delivers data to the requester. -/
  | getResp (port : Nat) (m : FMsg)
  /-- ATOMIC (R450): An 8-byte atomic is performed once at the owning slice and its old value kept. -/
  | atomic (port : Nat) (m : FMsg)
  /-- ATOMIC_RESP (R447): An atomic response returns the old value and frees its slot. -/
  | atomicResp (port : Nat) (m : FMsg)
  /-- SIGNAL (R450): A Ferier SIGNAL message is applied at the signal's home after earlier messages. -/
  | signal (port : Nat) (m : FMsg)
  /-- QMSG (R450): A Ferier QMSG is delivered to a cell's queue as an uncredited message. -/
  | qmsg (port : Nat) (m : FMsg)
  /-- COLL_FRAG_REDUCE (R463): A REDUCE-phase fragment's partials are combined and passed on. -/
  | collFragReduce (port : Nat) (m : FMsg)
  /-- COLL_FRAG_GATHER (R466): A GATHER-phase fragment's bits are written to the destination. -/
  | collFragGather (port : Nat) (m : FMsg)
  /-- COLL_GRANT (R467): A GRANT raises the fragment limit a peer may send. -/
  | collGrant (port : Nat) (m : FMsg)
  /-- ACK (R446): An ACK completes covered messages and returns their credits. -/
  | ack (port : Nat) (m : FMsg)
  /-- NAK (R448): A NAK makes the sender retry, drop or end the message by its reason. -/
  | nak (port : Nat) (m : FMsg)
  /-- RETRANSMIT_TIMEOUT (R446): A message with no ACK after 250 microseconds is retransmitted, or fails after eight times. -/
  | retransmitTimeout (al : Bool) (dst : Nat) (tc : Nat) (seq : Nat)
  /-- BUSY_RETRY (R448): A message refused BUSY is resent after its backoff. -/
  | busyRetry (al : Bool) (dst : Nat) (tc : Nat) (seq : Nat)
  /-- QUEUE_FULL_RETRY (R448): A QMSG refused QUEUE_FULL is resent after 2 microseconds. -/
  | queueFullRetry (al : Bool) (dst : Nat) (tc : Nat) (seq : Nat)
  /-- RX_BUFFER_TIMEOUT (R448): A message that cannot leave the receive buffer within 16 microseconds is refused BUSY. -/
  | rxBufferTimeout (port : Nat) (m : FMsg)
  /-- GRP_COMMIT (R459): A collective group entry is checked against its rank table and made valid. -/
  | grpCommit (g : Nat) (h : HostIn)
  /-- GRP_CLEAR (R694): A write of grp_valid 0 invalidates a group, unless a command names it. -/
  | grpClear (g : Nat)
  /-- HBM_PATROL (R385): The controller patrols its stack, reading and correcting every unit in 12 hours. -/
  | hbmPatrol (stack : Nat) (found : List (Nat × Bool))
  /-- PAGE_MIGRATE (R386): A marked mapped page is copied to a spare page and its translation is replaced. -/
  | pageMigrate (ppn : Nat)
  /-- REDUCED_MODE_ENTRY (R389): Excess interface retries retrain a stack at 4.0 Gb/s, or fail it. -/
  | reducedModeEntry (stack : Nat) (ok : Bool)
  /-- CELL_RETIREMENT (R643): A cell is retired by threshold or CELL_RETIRE write, its gallery breaks and routes are recomputed. -/
  | cellRetirement (cell : Nat) (write : Bool)
  /-- WATCHDOG_EXPIRE (R641): A hub microcontroller silent for 100 ms causes a fatal stop. -/
  | watchdogExpire (silentMs : Nat)
  /-- FATAL_STOP (R641): Unrecoverable hub state loss stops all work and disables the Ferier ports. -/
  | fatalStop
  /-- CELL_HALT (R653): A halt write stops issue in a cell or a gallery. -/
  | cellHalt (scope : Bool)
  /-- CELL_RESUME (R653): A resume write ends a halt. -/
  | cellResume (scope : Bool)
  /-- CELL_STEP (R653): A step write runs a halted cell for a count of A-cycles. -/
  | cellStep (scope : Bool) (count : Nat)
  /-- CELL_STEP_END (R653): The step count expires and the cell halts again. -/
  | cellStepEnd (cell : Nat)
  /-- SNAPSHOT_TAKE (R649): A write of DBG_SNAP.take latches cell counters in every good ON cell. -/
  | snapshotTake
  /-- SIGNAL_HAND_SET (R654): A debug set performs SET at a signal's home if the lock state permits. -/
  | signalHandSet
  /-- DBG_WINDOW_ACCESS (R652): A debug cell window access reads or writes a cell space, or is refused. -/
  | dbgWindowAccess (write : Bool) (off : Nat) (wide : Bool) (data : Nat)
  /-- TRACE_COPY (R657): A write of TRACE_COPY_CTL.go copies the trace ring to host memory. -/
  | traceCopy
  /-- TRACE_COPY_DONE (R657): The trace copy ends and tracing resumes. -/
  | traceCopyDone
  /-- TRACE_ENTRY_DROP (R657): A trace entry not written within 16 microseconds is dropped. -/
  | traceEntryDrop
  /-- STREAM_CREDIT_RETURN (R209): A credit returned along a circuit's path reaches the outbound channel and lets a credit-waiting sender send again. -/
  | streamCreditReturn (circuit : Nat)
  /-- FER_LOSS_OF_LOCK (R638): A port in UP loses a lane or its FEC or flit lock and enters RETRAIN. -/
  | ferLossOfLock (port : Nat)
  /-- PCIE_LINK_RETRAIN (R486): The PCIe link retrains at run time to another rate or width, changing LINK_INFO and what the functions may do. -/
  | pcieLinkRetrain (rate : Nat) (width : Nat) (cxl : Bool)
  /-- SQ_LINE_SNOOP (R515): A host snoop of a submission-ring line held in the host-line cache is answered and the stale copy invalidated. -/
  | sqLineSnoop (fn : Nat) (ring : Nat) (addr : Nat)
  /-- ATS_INVALIDATE (R485): An ATS Invalidate Request from the host removes cached translations and is completed. -/
  | atsInvalidate (fn : Nat) (pages : List Nat)
  /-- D3HOT_TRANSITION (R485): A function enters D3hot, allowed only with all its rings DISABLED, or returns to D0. -/
  | d3hotTransition (fn : Nat) (d3 : Bool)
  /-- VF_ENABLE (R485): The host sets or clears SR-IOV VF Enable, making the VFs appear or vanish. -/
  | vfEnable (on : Bool)
  /-- MSIX_UNMASK (R526): Unmasking an MSI-X vector whose pending bit is set sends its interrupt message. -/
  | msixUnmask (fn : Nat) (vec : Nat)
  /-- KEY_EXCHANGE (R579): An SPDM KEY_EXCHANGE with mutual authentication establishes a secure session. -/
  | keyExchange (chain : Option (List Byte)) (nonce : List Byte)
  /-- CHALLENGE (R579): An SPDM CHALLENGE is answered with a signature by the alias key. -/
  | challenge (slot : Nat) (nonce : List Byte)
  /-- END_SESSION (R579): An SPDM END_SESSION closes a secure session and frees one of the four session slots. -/
  | endSession (session : Nat)
  /-- KEY_UPDATE (R579): An SPDM KEY_UPDATE replaces a secure session's keys. -/
  | keyUpdate (session : Nat)
  /-- PLDM_EVENT_READ (R672): Board management reads a pending PLDM event, and SMBALERT# is released when none remain. -/
  | pldmEventRead
  /-- SMBUS_ARP (R672): SMBus ARP assigns the module an address, which it keeps until the next power-on. -/
  | smbusArp (addr : Nat)
  /-- JTAG_INSTRUCTION (R658): An instruction shifted into the test access port selects BYPASS, IDCODE, boundary scan, EXTEST, CLAMP, HIGHZ or internal scan. -/
  | jtagInstruction (op : Nat)
  /-- REFCLK_RETURN (R669): REFCLK returns after a loss, the GC leaves the AO oscillator, and PPS discipline resumes in ACQUIRING. -/
  | refclkReturn
  /-- POWER_LOSS (R603): The input falls below 37.0 V, the module becomes unpowered, and the AO queue is lost. -/
  | powerLoss
  /-- QUIESCE_TIMEOUT (R305): A Slipway load whose region is not quiescent within quiesce_ms completes with TIMEOUT. -/
  | quiesceTimeout (load : Nat)
  /-- SHARE_BUSY_CLEAR (R688): Every port, engine and slice has taken the new wheel, SHARE_STATUS.busy clears, and a held SHARE_COMMIT is applied. -/
  | shareBusyClear
  /-- DROOP_STRETCH_END (R602): After 256 A-cycles without a trip the die's A-clock stretch ends. -/
  | droopStretchEnd (die : Nat)
  /-- WALL_SLEW_END (R558): The slew amount is used up and WALL_STATUS.slewing clears. -/
  | wallSlewEnd
  deriving DecidableEq, Repr

end Sys2Proof
end

