-- ==== Sys2Proof/Decode.lean ====
section
/-!
DEFINITION. Sys2Proof/Decode.lean: commands as the table's words spell them. spec/opcode_table.json gives no row any bits: the
block takes commands, and no word spells one (log 4).
-/
namespace Sys2Proof

/-- The command that a word of `nbits` bits spells: none. -/
def decodeTableWord (nbits w : Nat) : Option Instr :=
  match nbits, w with
  | _, _ => none

end Sys2Proof
end

