-- ==== Sys2Proof/Machine/Bits.lean ====
section
/-!
DEFINITION. Sys2Proof/Machine/Bits.lean: bit fields of a number, little-endian byte order (R6), sign extension,
and reading and writing sparse tables and memories (the canonical form of a table is kept by `Tab.put`).
-/
namespace Sys2Proof

/-- `bits x hi lo` is x[hi:lo] (00, "Pseudocode and examples"). -/
def bits (x hi lo : Nat) : Nat := (x >>> lo) % 2 ^ (hi + 1 - lo)

/-- Bit `i` of `x`. -/
def bit (x i : Nat) : Bool := x.testBit i

/-- `x` with the field [hi:lo] replaced by `v`. -/
def setBits (x hi lo v : Nat) : Nat :=
  x - (bits x hi lo <<< lo) + ((v % 2 ^ (hi + 1 - lo)) <<< lo)

/-- `x` with bit `i` set to `b`. -/
def setBit (x i : Nat) (b : Bool) : Nat := setBits x i i b.toNat

/-- The two's-complement reading of the low `n` bits of `x`. -/
def sext (n x : Nat) : Int :=
  let y := x % 2 ^ n
  if y < 2 ^ (n - 1) then (y : Int) else (y : Int) - (2 ^ n : Nat)

/-- The low `n` bits of the two's complement of an integer. -/
def twos (n : Nat) (x : Int) : Nat := (x % ((2 ^ n : Nat) : Int)).toNat

/-- The low `n` bits of a number (a counter of n bits wraps). -/
def wrap (n x : Nat) : Nat := x % 2 ^ n

/-- `n` rounded up to a multiple of `m`. -/
def roundUp (n m : Nat) : Nat := (n + m - 1) / m * m

/-- Ceiling division. -/
def ceilDiv (n m : Nat) : Nat := (n + m - 1) / m

/-- Reading a table: what key `k` holds, `d` where it is not listed. -/
def Tab.get {α : Type} (d : α) : Tab α → Nat → α
  | [], _ => d
  | (a, v) :: r, k => if a = k then v else Tab.get d r k

/-- Writing a table: strictly rising keys stay so, and a key given the value an unlisted key has is removed. -/
def Tab.put {α : Type} [DecidableEq α] (d : α) : Tab α → Nat → α → Tab α
  | [], k, v => if v = d then [] else [(k, v)]
  | (a, w) :: r, k, v =>
    if k < a then (if v = d then (a, w) :: r else (k, v) :: (a, w) :: r)
    else if k = a then (if v = d then r else (a, v) :: r)
    else (a, w) :: Tab.put d r k v

/-- The entries a run of values from key `k` up leaves listed. -/
def Tab.run {α : Type} [DecidableEq α] (d : α) : Nat → List α → Tab α
  | _, [] => []
  | k, v :: vs => if v = d then Tab.run d (k + 1) vs else (k, v) :: Tab.run d (k + 1) vs

/-- Writing a run of values from key `k` up. -/
def Tab.putRun {α : Type} [DecidableEq α] (d : α) (t : Tab α) (k : Nat) (vs : List α) : Tab α :=
  t.filter (fun c => decide (c.1 < k)) ++ Tab.run d k vs ++ t.filter (fun c => decide (k + vs.length ≤ c.1))

/-- Every listed value of a table changed; what becomes the unlisted value leaves the list. -/
def Tab.update {α : Type} [DecidableEq α] (d : α) (t : Tab α) (f : Nat → α → α) : Tab α :=
  (t.map (fun e => (e.1, f e.1 e.2))).filter (fun e => decide (e.2 ≠ d))

/-- The keys rise strictly from `lo` on and no listed value equals `d`. -/
def Tab.wfFrom {α : Type} [DecidableEq α] (d : α) : Nat → Tab α → Bool
  | _, [] => true
  | lo, (a, v) :: r => decide (lo ≤ a) && decide (v ≠ d) && Tab.wfFrom d (a + 1) r

/-- The canonical form of a table. -/
def Tab.wf {α : Type} [DecidableEq α] (d : α) (t : Tab α) : Bool := Tab.wfFrom d 0 t

/-- What an unlisted address of a memory of the device (a memory tile, HBM, an operand cache, host memory) reads as:
DESIGN CHOICE (log 2). -/
def Memory.unlisted : Byte := 0#8

/-- The canonical form of a memory. -/
def Memory.wf (m : Memory) : Bool := Tab.wf Memory.unlisted m

/-- One byte of a memory. -/
def Memory.read (m : Memory) (a : Nat) : Byte := Tab.get Memory.unlisted m a

/-- One byte written. -/
def Memory.write (m : Memory) (a : Nat) (b : Byte) : Memory := Tab.put Memory.unlisted m a b

/-- `n` bytes from `a` up. -/
def Memory.readBytes (m : Memory) (a : Nat) : Nat → List Byte
  | 0 => []
  | n + 1 => m.read a :: m.readBytes (a + 1) n

/-- Bytes written from `a` up. -/
def Memory.writeBytes (m : Memory) (a : Nat) (bs : List Byte) : Memory := Tab.putRun Memory.unlisted m a bs

/-- The little-endian number bytes spell (R6). -/
def leNat : List Byte → Nat
  | [] => 0
  | b :: bs => b.toNat + 256 * leNat bs

/-- `n` bytes of a number, least significant first (R6). -/
def leBytes : Nat → Nat → List Byte
  | 0, _ => []
  | n + 1, x => BitVec.ofNat 8 x :: leBytes n (x / 256)

/-- The `n`-byte little-endian number at `a`. -/
def Memory.readLe (m : Memory) (a n : Nat) : Nat := leNat (m.readBytes a n)

/-- The `n` bytes of `x` stored at `a`. -/
def Memory.writeLe (m : Memory) (a n x : Nat) : Memory := m.writeBytes a (leBytes n x)

/-- The field [hi:lo] of byte `i` of a record held as bytes. -/
def byteAt (bs : List Byte) (i : Nat) : Nat := (bs.getD i 0#8).toNat

/-- The `n`-byte little-endian field at byte `i` of a record held as bytes. -/
def leAt (bs : List Byte) (i n : Nat) : Nat := leNat ((bs.drop i).take n)

/-- Element `i` of a bit stream of `n`-bit elements (R42). -/
def streamElem (bs : List Byte) (n i : Nat) : Nat :=
  (leNat ((bs.drop (n * i / 8)).take ((n * i % 8 + n + 7) / 8)) >>> (n * i % 8)) % 2 ^ n

/-- A list of `n`-bit elements packed as one little-endian bit stream (R42), in whole bytes. -/
def packElems (n : Nat) (es : List Nat) : List Byte :=
  leBytes ((n * es.length + 7) / 8) (es.foldr (fun e acc => e % 2 ^ n + acc * 2 ^ n) 0)

/-- The list with entry `i` replaced (no change past its end). -/
def setAt {α : Type} (l : List α) (i : Nat) (v : α) : List α := l.set i v

/-- The list without entry `i`. -/
def dropAt {α : Type} (l : List α) (i : Nat) : List α := l.take i ++ l.drop (i + 1)

/-- A list cut into pieces of `n` elements, the last one shorter. -/
def cutList {α : Type} (n : Nat) (l : List α) : List (List α) :=
  (List.range (ceilDiv l.length n)).map (fun k => (l.drop (n * k)).take n)

end Sys2Proof
end

