-- ==== Sys2Proof/Machine/Formats.lean ====
section
/-!
DEFINITION. Sys2Proof/Machine/Formats.lean: the twelve number formats (ch. 02): decoding, rounding, conversion,
comparison, minimum and maximum, block scales.
-/
namespace Sys2Proof

/-- The formats of R30, in code order. -/
inductive Fmt where
  | fp32 | fp16 | bf16 | e4m3 | e5m2 | e3m2 | e2m3 | e2m1 | int8 | int4 | int32 | e8m0
  deriving DecidableEq, Repr

/-- The format of a 4-bit format code; 0xC to 0xF are reserved (R30). -/
def Fmt.ofCode : Nat → Option Fmt
  | 0 => some .fp32 | 1 => some .fp16 | 2 => some .bf16 | 3 => some .e4m3 | 4 => some .e5m2 | 5 => some .e3m2
  | 6 => some .e2m3 | 7 => some .e2m1 | 8 => some .int8 | 9 => some .int4 | 10 => some .int32 | 11 => some .e8m0
  | _ => none

/-- The 4-bit code of a format (R30). -/
def Fmt.code : Fmt → Nat
  | .fp32 => 0 | .fp16 => 1 | .bf16 => 2 | .e4m3 => 3 | .e5m2 => 4 | .e3m2 => 5
  | .e2m3 => 6 | .e2m1 => 7 | .int8 => 8 | .int4 => 9 | .int32 => 10 | .e8m0 => 11

/-- The width of an element in bits (R31, R32). -/
def Fmt.width : Fmt → Nat
  | .fp32 => 32 | .fp16 => 16 | .bf16 => 16 | .e4m3 => 8 | .e5m2 => 8 | .e3m2 => 6
  | .e2m3 => 6 | .e2m1 => 4 | .int8 => 8 | .int4 => 4 | .int32 => 32 | .e8m0 => 8

/-- p, the width of the mantissa field (R31); 0 for a format that has none. -/
def Fmt.p : Fmt → Nat
  | .fp32 => 23 | .fp16 => 10 | .bf16 => 7 | .e4m3 => 3 | .e5m2 => 2 | .e3m2 => 2 | .e2m3 => 3 | .e2m1 => 1
  | _ => 0

/-- The exponent bias (R31, R32). -/
def Fmt.bias : Fmt → Nat
  | .fp32 => 127 | .fp16 => 15 | .bf16 => 127 | .e4m3 => 7 | .e5m2 => 15 | .e3m2 => 3 | .e2m3 => 1 | .e2m1 => 1
  | .e8m0 => 127 | _ => 0

/-- An integer format (R32). -/
def Fmt.isInt : Fmt → Bool
  | .int8 | .int4 | .int32 => true
  | _ => false

/-- The encoding of the largest finite magnitude of a floating-point format (R33). -/
def Fmt.maxEnc : Fmt → Nat
  | .fp32 => 0x7F7FFFFF | .fp16 => 0x7BFF | .bf16 => 0x7F7F | .e4m3 => 0x7E | .e5m2 => 0x7B | .e3m2 => 0x1F
  | .e2m3 => 0x1F | .e2m1 => 7 | .int8 => 127 | .int4 => 7 | .int32 => 0x7FFFFFFF | .e8m0 => 254

/-- The encoding of +∞, where the format has one (R34). -/
def Fmt.infEnc : Fmt → Option Nat
  | .fp32 => some 0x7F800000 | .fp16 => some 0x7C00 | .bf16 => some 0x7F80 | .e5m2 => some 0x7C
  | _ => none

/-- The canonical NaN, where the format has a NaN (R34; BF16's is the 16-bit 0x7FC0). -/
def Fmt.nanEnc : Fmt → Option Nat
  | .fp32 => some 0x7FC00000 | .fp16 => some 0x7E00 | .bf16 => some 0x7FC0 | .e4m3 => some 0x7F | .e5m2 => some 0x7E
  | .e8m0 => some 0xFF
  | _ => none

/-- What an encoding stands for: a NaN (signalling or quiet), an infinity, or (−1)^neg × m × 2^e exactly. -/
inductive FVal where
  | nan (signalling : Bool)
  | inf (neg : Bool)
  | fin (neg : Bool) (m : Nat) (e : Int)
  deriving DecidableEq, Repr

/-- The exception conditions of R52. -/
structure Cond where
  inv : Bool := false
  ovf : Bool := false
  unf : Bool := false
  inx : Bool := false
  deriving DecidableEq, Repr

/-- No condition. -/
def Cond.none : Cond := {}

/-- Both conditions. -/
def Cond.or (a b : Cond) : Cond :=
  { inv := a.inv || b.inv, ovf := a.ovf || b.ovf, unf := a.unf || b.unf, inx := a.inx || b.inx }

/-- Invalid alone. -/
def Cond.invalid : Cond := { inv := true }

/-- Four flag bits: [0] invalid, [1] overflow, [2] underflow, [3] inexact (R108, R144). -/
def Cond.toBits (c : Cond) : Nat :=
  c.inv.toNat + 2 * c.ovf.toNat + 4 * c.unf.toNat + 8 * c.inx.toNat

/-- The value of an encoding (R31, R32, R34, R35). -/
def FVal.decode (f : Fmt) (w : Nat) : FVal :=
  match f with
  | .int8 | .int4 | .int32 =>
    let v := sext f.width w
    .fin (decide (v < 0)) v.natAbs 0
  | .e8m0 => if w % 256 = 255 then .nan false else .fin false 1 ((w % 256 : Nat) - 127)
  | _ =>
    let s := bit w (f.width - 1)
    let m := w % 2 ^ f.p
    let e := bits w (f.width - 2) f.p
    let top := 2 ^ (f.width - 1 - f.p) - 1
    let special := match f with
      | .fp32 | .fp16 | .bf16 | .e5m2 => decide (e = top)
      | .e4m3 => decide (e = top ∧ m = 7)
      | _ => false
    if special then
      (if m = 0 then .inf s
       else .nan (match f with
         | .fp32 | .fp16 | .bf16 => !bit m (f.p - 1)
         | _ => false))
    else if e = 0 then .fin s m (1 - (f.bias : Int) - f.p)
    else .fin s (m + 2 ^ f.p) ((e : Int) - f.bias - f.p)

/-- NaN of either kind. -/
def FVal.isNan : FVal → Bool
  | .nan _ => true
  | _ => false

/-- A signalling NaN. -/
def FVal.isSnan : FVal → Bool
  | .nan b => b
  | _ => false

/-- An infinity. -/
def FVal.isInf : FVal → Bool
  | .inf _ => true
  | _ => false

/-- A zero of either sign. -/
def FVal.isZero : FVal → Bool
  | .fin _ 0 _ => true
  | _ => false

/-- Finite. -/
def FVal.isFin : FVal → Bool
  | .fin _ _ _ => true
  | _ => false

/-- The sign (false for a NaN). -/
def FVal.neg? : FVal → Bool
  | .nan _ => false
  | .inf s => s
  | .fin s _ _ => s

/-- The sign inverted. -/
def FVal.negate : FVal → FVal
  | .nan b => .nan b
  | .inf s => .inf (!s)
  | .fin s m e => .fin (!s) m e

/-- The sign cleared. -/
def FVal.abs : FVal → FVal
  | .nan b => .nan b
  | .inf _ => .inf false
  | .fin _ m e => .fin false m e

/-- The value times 2^k, exactly. -/
def FVal.scale (v : FVal) (k : Int) : FVal :=
  match v with
  | .fin s m e => .fin s m (e + k)
  | v => v

/-- +0. -/
def FVal.zero : FVal := .fin false 0 0

/-- An integer. -/
def FVal.ofInt (x : Int) : FVal := .fin (decide (x < 0)) x.natAbs 0

/-- floor(log2) of a non-zero magnitude m × 2^e. -/
def floorLog2 (m : Nat) (e : Int) : Int := (Nat.log2 m : Int) + e

/-- An exact dyadic number n × 2^e. -/
structure Dy where
  n : Int
  e : Int
  deriving DecidableEq, Repr

/-- The dyadic value of a finite encoding (0 for the rest). -/
def FVal.dy : FVal → Dy
  | .fin s m e => { n := if s then - (m : Int) else (m : Int), e := e }
  | _ => { n := 0, e := 0 }

/-- Exact sum. -/
def Dy.add (a b : Dy) : Dy :=
  if a.n = 0 then b
  else if b.n = 0 then a
  else
    let e := min a.e b.e
    { n := a.n * ((2 ^ (a.e - e).toNat : Nat) : Int) + b.n * ((2 ^ (b.e - e).toNat : Nat) : Int), e := e }

/-- Exact difference. -/
def Dy.sub (a b : Dy) : Dy := a.add { n := - b.n, e := b.e }

/-- Exact product. -/
def Dy.mul (a b : Dy) : Dy := { n := a.n * b.n, e := a.e + b.e }

/-- The value as an `FVal`; zero is +0 unless `negZero`. -/
def Dy.toF (d : Dy) (negZero : Bool := false) : FVal :=
  if d.n = 0 then .fin negZero 0 0 else .fin (decide (d.n < 0)) d.n.natAbs d.e

/-- Exact comparison a < b of dyadics. -/
def Dy.lt (a b : Dy) : Bool := decide ((a.sub b).n < 0)

/-- The order of two finite or infinite values (−0 = +0): a < b. -/
def FVal.lt (a b : FVal) : Bool :=
  match a, b with
  | .nan _, _ => false
  | _, .nan _ => false
  | .inf s, .inf t => s && !t
  | .inf s, .fin _ _ _ => s
  | .fin _ _ _, .inf t => !t
  | a, b => Dy.lt a.dy b.dy

/-- Equality of values (−0 = +0, NaN equal to nothing): R38. -/
def FVal.eqv (a b : FVal) : Bool := !a.isNan && !b.isNan && !a.lt b && !b.lt a

/-- Rounding modes (R43). -/
inductive RMode where
  | rne | rz | sr
  deriving DecidableEq, Repr

/-- The mode of a 2-bit rounding code; 0b11 is reserved (R43). -/
def RMode.ofCode : Nat → Option RMode
  | 0 => some .rne | 1 => some .rz | 2 => some .sr | _ => none

/-- A magnitude m × 2^e placed on the grid 2^q, as a multiple of 2^q, and whether it was exact (R44, R49). -/
def roundGrid (mode : RMode) (r16 : Nat) (m : Nat) (e q : Int) : Nat × Bool :=
  if q ≤ e then (m * 2 ^ (e - q).toNat, true)
  else
    let k := (q - e).toNat
    let t := m >>> k
    let rem := m % 2 ^ k
    let up := match mode with
      | .rne => decide (2 ^ k < 2 * rem) || (decide (2 * rem = 2 ^ k) && decide (t % 2 = 1))
      | .rz => false
      | .sr => decide (65536 ≤ rem * 65536 / 2 ^ k + r16)
    (if up then t + 1 else t, decide (rem = 0))

/-- The encoding of ± the largest finite magnitude, an infinity or the canonical NaN of the target. -/
def Fmt.signed (f : Fmt) (neg : Bool) (enc : Nat) : Nat := if neg then enc + 2 ^ (f.width - 1) else enc

/-- Rounding a value into an integer format: the result always saturates (R47, R45). `sym` clamps to the
symmetric range of quantisation (R58). -/
def roundInt (f : Fmt) (mode : RMode) (sym : Bool) (r16 : Nat) (v : FVal) : Nat × Cond :=
  let hi : Int := ((2 ^ (f.width - 1) : Nat) : Int) - 1
  let lo : Int := if sym then - hi else - hi - 1
  match v with
  | .nan _ => (0, Cond.invalid)
  | .inf s => (twos f.width (if s then lo else hi), { ovf := true, inx := true })
  | .fin s m e =>
    let (t, exact) := roundGrid mode r16 m e 0
    let x : Int := if s then - (t : Int) else (t : Int)
    if hi < x then (twos f.width hi, { ovf := true, inx := true })
    else if x < lo then (twos f.width lo, { ovf := true, inx := true })
    else (twos f.width x, { inx := !exact })

/-- Rounding a value into a floating-point format (R44, R45, R46, R49, R52). A NaN raises invalid where it is
signalling (`sigInv`) or the target has no NaN. -/
def roundFloat (f : Fmt) (mode : RMode) (sat : Bool) (r16 : Nat) (v : FVal) : Nat × Cond :=
  match v with
  | .nan sg =>
    match f.nanEnc with
    | some c => (c, { inv := sg })
    | none => (0, Cond.invalid)
  | .inf s =>
    if sat then (f.signed s f.maxEnc, { ovf := true, inx := true })
    else match f.infEnc, f.nanEnc with
      | some c, _ => (f.signed s c, Cond.none)
      | none, some c => (c, Cond.invalid)
      | none, none => (f.signed s f.maxEnc, { ovf := true, inx := true })
  | .fin s m e =>
    if m = 0 then (f.signed s 0, Cond.none)
    else
      let emin : Int := 1 - (f.bias : Int)
      let q : Int := max (floorLog2 m e) emin - f.p
      let (t, exact) := roundGrid mode r16 m e q
      let enc := (q - (emin - f.p)).toNat * 2 ^ f.p + t
      if f.maxEnc < enc then
        let c : Cond := { ovf := true, inx := true }
        if sat || decide (mode = .rz) then (f.signed s f.maxEnc, c)
        else match f.infEnc, f.nanEnc with
          | some i, _ => (f.signed s i, c)
          | none, some n => (n, c)
          | none, none => (f.signed s f.maxEnc, c)
      else (f.signed s enc, { unf := !exact && decide (enc < 2 ^ f.p), inx := !exact })

/-- Rounding into any format a conversion may name. E8M0 is produced by the scale rule only (R57). -/
def Fmt.round (f : Fmt) (mode : RMode) (sat : Bool) (r16 : Nat) (v : FVal) : Nat × Cond :=
  if f.isInt then roundInt f mode false r16 v else roundFloat f mode sat r16 v

/-- rne32: RNE, non-saturating, into FP32. -/
def rne32 (v : FVal) : Nat × Cond := roundFloat .fp32 .rne false 0 v

/-- The exact conversions of R48: a NaN becomes the canonical NaN and raises nothing. R47 calls every conversion from INT8
and INT4 to a floating-point format exact, R48 lists some of them only: the others (INT8 into FP8, FP6 and FP4, INT4 into FP6 E2M3 and
FP4) hold no exact result for every input and round here, raising their conditions (DEDUCED, log 61). -/
def Fmt.exactInto (src dst : Fmt) : Bool :=
  match src, dst with
  | .fp16, .fp32 | .bf16, .fp32 | .e4m3, .fp32 | .e5m2, .fp32 | .e3m2, .fp32 | .e2m3, .fp32 | .e2m1, .fp32 => true
  | .e4m3, .fp16 | .e5m2, .fp16 | .e3m2, .fp16 | .e2m3, .fp16 | .e2m1, .fp16 => true
  | .e4m3, .bf16 | .e5m2, .bf16 | .e3m2, .bf16 | .e2m3, .bf16 | .e2m1, .bf16 => true
  | .e3m2, .e4m3 | .e2m3, .e4m3 | .e2m1, .e4m3 => true
  | .e2m1, .e2m3 | .e2m1, .e3m2 | .e2m1, .e5m2 => true
  | .int4, .e2m1 => false
  | .int4, .e2m3 => false
  | .int4, _ => true
  | .int8, .int32 | .int8, .fp32 | .int8, .fp16 | .int8, .bf16 => true
  | .e8m0, .fp32 => true
  | _, _ => false

/-- A conversion from one format to another (R43 to R48): the encoding and the conditions raised. A pair of R48 is exact
for every input, an infinity among them, so neither the mode nor the saturation bit changes its result. -/
def Fmt.convert (src dst : Fmt) (mode : RMode) (sat : Bool) (r16 : Nat) (w : Nat) : Nat × Cond :=
  if src.exactInto dst then ((dst.round .rne false 0 (FVal.decode src w)).1, Cond.none)
  else dst.round mode sat r16 (FVal.decode src w)

/-- A conversion to FP32 that is exact, or rounds INT32 by RNE (R47). -/
def Fmt.toFp32 (src : Fmt) (w : Nat) : Nat :=
  if src = .fp32 then w % 2 ^ 32 else (src.convert .fp32 .rne false 0 w).1

/-- The 16 random bits of element `i` out of the random words (R50). -/
def srBits (word : Nat → Nat) (i : Nat) : Nat :=
  let w := word (i / 2)
  if i % 2 = 0 then w % 65536 else w / 65536 % 65536

/-! ### Comparison, minimum and maximum -/

/-- A signalling NaN among the operands of a quiet comparison or a minimum raises invalid (R35, R38). -/
def snanCond (a b : FVal) : Cond := { inv := a.isSnan || b.isSnan }

/-- The comparisons of R38. -/
inductive Cmp where
  | eq | ne | lt | le | gt | ge
  deriving DecidableEq, Repr

/-- A comparison and its condition: EQ and NE are quiet, the rest signalling (R38). -/
def Cmp.run (c : Cmp) (a b : FVal) : Bool × Cond :=
  let sig : Cond := { inv := a.isNan || b.isNan }
  match c with
  | .eq => (a.eqv b, snanCond a b)
  | .ne => (!a.eqv b, snanCond a b)
  | .lt => (a.lt b, sig)
  | .le => (a.lt b || a.eqv b, sig)
  | .gt => (b.lt a, sig)
  | .ge => (b.lt a || a.eqv b, sig)

/-- The canonical FP32 NaN (R34). -/
def canonNan : Nat := 0x7FC00000

/-- −0 in FP32. -/
def negZero32 : Nat := 0x80000000

/-- MAX of two FP32 encodings under IEEE maximum (`fp32Native`) or the Z7 rule (R39). -/
def fmax32 (fp32Native : Bool) (a b : Nat) : Nat :=
  let x := FVal.decode .fp32 a
  let y := FVal.decode .fp32 b
  if fp32Native then
    if x.isNan || y.isNan then canonNan
    else if x.isZero && y.isZero then (if x.neg? && y.neg? then negZero32 else 0)
    else if y.lt x then a else b
  else if x.isNan && y.isNan then canonNan
  else if x.isNan then b
  else if y.isNan then a
  else if y.lt x then a else b

/-- MIN of two FP32 encodings (R39). -/
def fmin32 (fp32Native : Bool) (a b : Nat) : Nat :=
  let x := FVal.decode .fp32 a
  let y := FVal.decode .fp32 b
  if fp32Native then
    if x.isNan || y.isNan then canonNan
    else if x.isZero && y.isZero then (if !x.neg? && !y.neg? then 0 else negZero32)
    else if x.lt y then a else b
  else if x.isNan && y.isNan then canonNan
  else if x.isNan then b
  else if y.isNan then a
  else if x.lt y then a else b

/-- MAX_NUM, IEEE maximumNumber (R40). -/
def fmaxNum32 (a b : Nat) : Nat :=
  let x := FVal.decode .fp32 a
  let y := FVal.decode .fp32 b
  if x.isNan && y.isNan then canonNan
  else if x.isNan then b
  else if y.isNan then a
  else fmax32 true a b

/-- MIN_NUM, IEEE minimumNumber (R40). -/
def fminNum32 (a b : Nat) : Nat :=
  let x := FVal.decode .fp32 a
  let y := FVal.decode .fp32 b
  if x.isNan && y.isNan then canonNan
  else if x.isNan then b
  else if y.isNan then a
  else fmin32 true a b

/-- The key that puts encodings of a floating-point format into the total order of R41, and of an integer format
into numeric order: keys compare as integers. -/
def Fmt.sortKey (f : Fmt) (w : Nat) : Int :=
  if f.isInt then sext f.width w
  else if f = .e8m0 then ((w % 256 : Nat) : Int)
  else if bit w (f.width - 1) then - ((w % 2 ^ (f.width - 1) : Nat) : Int) - 1
  else ((w % 2 ^ (f.width - 1) : Nat) : Int)

/-! ### Block scales -/

/-- Block layouts (R53). -/
inductive Layout where
  | unblocked | mx32 | mx16
  deriving DecidableEq, Repr

/-- The layout of a 2-bit code; 0b11 is reserved, and 0b10 without MX16_BLOCKS (R53, R59). -/
def Layout.ofCode (mx16 : Bool) : Nat → Option Layout
  | 0 => some .unblocked
  | 1 => some .mx32
  | 2 => if mx16 then some .mx16 else none
  | _ => none

/-- Elements that share one scale (R53); 1 for UNBLOCKED. -/
def Layout.block : Layout → Nat
  | .unblocked => 1 | .mx32 => 32 | .mx16 => 16

/-- The formats allowed with each layout (R54). -/
def Fmt.layoutOk (f : Fmt) (l : Layout) : Bool :=
  match l with
  | .unblocked => true
  | _ => match f with
    | .e4m3 | .e5m2 | .e3m2 | .e2m3 | .e2m1 | .int8 | .int4 => true
    | _ => false

/-- The value of a block element under scale byte `E` (R55). -/
def blockElem (f : Fmt) (E w : Nat) : FVal :=
  if E = 255 then .nan false
  else (FVal.decode f w).scale ((E : Int) - 127)

/-- emax of the FLOOR rule (R57). -/
def Fmt.emax : Fmt → Int
  | .e4m3 => 8 | .e5m2 => 15 | .e3m2 => 4 | .e2m3 => 2 | .e2m1 => 2 | .int8 => 6 | .int4 => 2 | _ => 0

/-- The largest finite element magnitude, exactly (R33, R57). -/
def Fmt.maxDy (f : Fmt) : Dy := (FVal.decode f f.maxEnc).dy

/-- The largest finite magnitude of a list of values (R57). -/
def amaxOf (vs : List FVal) : Dy :=
  vs.foldl (fun a v => if v.isFin && a.lt v.abs.dy then v.abs.dy else a) { n := 0, e := 0 }

/-- mx_scale of R57; `fit` selects scale mode FIT. -/
def mxScale (f : Fmt) (fit : Bool) (vs : List FVal) : Nat :=
  if vs.any FVal.isNan then 255
  else
    let a := amaxOf vs
    if a.n = 0 then 0
    else
      let e0 := floorLog2 a.n.natAbs a.e - f.emax
      let e := if fit && (f.maxDy.mul { n := 1, e := e0 }).lt a then e0 + 1 else e0
      (max (-127) (min 127 e) + 127).toNat

/-- Quantising a block (R57, R58): the scale byte, the element encodings and the conditions. `r16 i` is the random
half of element `i` of the block. -/
def quantBlock (f : Fmt) (fit : Bool) (mode : RMode) (sat : Bool) (r16 : Nat → Nat) (vs : List FVal) :
    Nat × List Nat × Cond :=
  let E := mxScale f fit vs
  if E = 255 then (255, vs.map (fun _ => 0), { inv := vs.any FVal.isSnan })
  else
    let conv := fun (iv : Nat × FVal) =>
      let v := iv.2.scale (127 - (E : Int))
      if f.isInt then roundInt f mode true (r16 iv.1) v
      else roundFloat f mode (sat || (!fit && v.isFin)) (r16 iv.1) v
    let rs := ((List.range vs.length).zip vs).map conv
    (E, rs.map Prod.fst, rs.foldl (fun c r => c.or r.2) Cond.none)

end Sys2Proof
end

