-- ==== Sys2Proof/Machine/CellTypes.lean ====
section
/-!
DEFINITION. Sys2Proof/Machine/CellTypes.lean: the state of one cell site: matrix contexts (ch. 04), vector contexts
(ch. 05, 06), memory tile (ch. 07), stream switch (ch. 08), signal and message logic (ch. 10).
-/
namespace Sys2Proof.Machine

/-- States of a matrix context (R84), in code order with 0x7 last. -/
inductive MtSt where
  | idle | ready | active | late | wait | held | partner | faulted
  deriving DecidableEq, Repr

/-- States of a vector context (R117). -/
inductive VtSt where
  | idle | ready | active | late | wait | faulted
  deriving DecidableEq, Repr

/-- A signal wait a context has outstanding (R262): `retry` once the home answered RETRY. -/
structure CtxWait where
  sig : Nat
  value : Nat
  retry : Bool := false
  deriving DecidableEq, Repr

/-- An MMA that has not retired (R87): tiles still to be handed over, handed-over tiles whose epilogue has not ended,
and epilogue writes not yet acknowledged. -/
structure MmaRec where
  id : Nat
  cmd : Nat
  toHand : Nat
  inEpi : Nat
  acks : Nat
  deriving DecidableEq, Repr

/-- One operand's k-step as the tile holds it once it is staged (R83, R103): its k-slice, and its scale slice where the
k-step begins a block of the operand. -/
structure KSlice where
  data : List Byte
  scale : List Byte := []
  deriving DecidableEq, Repr

/-- One hardware context of a matrix tile (R83). `cmd` holds the words of the MMA the context has fetched (R86); `acc` and
`lo` are row-major 128 × 64 words, empty where nothing is held; `visit` is the ordinal of the current tile in visiting
order and `kpos` its next k-step. `headA` and `headB` are the staged head: the k-steps of each operand from `kpos` on
whose fetch was granted; `rawA` and `rawB` are stream bytes taken from a channel that do not make a k-step yet. `blkA` and
`blkB` are the k-steps issued of the current block, `sclA` and `sclB` the scale slices in force; `raced` lists the ranges
written during the MMA without the ready-bit protocol (R111). `bindTag` numbers the binding: the context's signal operations carry
it as their issuer's tag, by which a wake of an earlier binding is told (R239, R259, R264, log 78). -/
structure MtCtx where
  st : MtSt := .idle
  job : Option Nat := none
  task : Nat := 0
  bindTag : Nat := 0
  pair : Bool := false
  ptr : Nat := 0
  loopCtr : Nat := 0
  visit : Nat := 0
  kpos : Nat := 0
  begun : Bool := false
  acc : List Word := []
  lo : List Word := []
  holds : Bool := false
  finished : Bool := false
  tag : Nat := 0
  sticky : Nat := 0
  cmd : Option (List Nat) := none
  headA : List KSlice := []
  headB : List KSlice := []
  rawA : List Byte := []
  rawB : List Byte := []
  blkA : List KSlice := []
  blkB : List KSlice := []
  sclA : List Byte := []
  sclB : List Byte := []
  raced : List (Nat × Nat) := []
  mmas : List MmaRec := []
  mmaCount : Nat := 0
  wait : Option CtxWait := none
  stopping : Bool := false
  deriving DecidableEq, Repr

/-- An XFER not yet complete (R134). -/
structure Xfer where
  local_ : Nat
  memt : Nat
  len : Nat
  toMem : Bool
  deriving DecidableEq, Repr

/-- An EPILOGUE that has not retired (R130): the finished tile it took, that tile's MMA, its writes not yet acknowledged, and
whether its last byte has been accepted. -/
structure EpiRec where
  tile : Nat
  mma : Nat
  acks : Nat
  ended : Bool := false
  deriving DecidableEq, Repr

/-- A word of 128 B with its end-of-record mark (R208), the circuit it travels and the job that produced it. -/
structure SWord where
  data : List Byte
  eor : Bool
  circuit : Nat
  job : Option Nat
  deriving DecidableEq, Repr

/-- The partition the configuration gives a vector context (R115). -/
structure Part where
  vrBase : Nat := 0
  vrCap : Nat := 0
  ocBase : Nat := 0
  ocSize : Nat := 0
  tbOwn : Nat := 0
  deriving DecidableEq, Repr

/-- One hardware context of a vector tile (R115 to R118, R134, R143, R144). `instr` holds the words of an
instruction that has begun or waits (R121, R151); `rx` holds stream bytes received by an unfinished VRECV, `tx` stream words a
VSEND or an EPILOGUE has still to stage, `epi` an EPILOGUE in progress (its queue entry's identity), `epis` the EPILOGUEs that
have not retired. -/
structure VtCtx where
  st : VtSt := .idle
  job : Option Nat := none
  task : Nat := 0
  bindTag : Nat := 0
  part : Part := {}
  idx : Nat := 0
  vl : Nat := 0
  a0 : Nat := 0
  a1 : Nat := 0
  a2 : Nat := 0
  a3 : Nat := 0
  loopCtr : Nat := 0
  flags : Nat := 0
  srSeed : Nat := 0
  srCtr : Nat := 0
  xfers : List Xfer := []
  rx : List Byte := []
  tx : List (Nat × SWord) := []
  sending : Bool := false
  epi : Option Nat := none
  epis : List EpiRec := []
  instr : Option (Nat × Nat) := none
  wait : Option CtxWait := none
  stopping : Bool := false
  deriving DecidableEq, Repr

/-- A tile in the finished-tile queue (R146); `lo` is the second word of a pair tile, which occupies both entries.
`cmd` keeps the words of its MMA, from which the grid position is derived (R167); `buf` is the tile buffer it lies in. -/
structure FtqEntry where
  id : Nat
  mctx : Nat
  tile : List Word
  lo : Option (List Word)
  tag : Nat
  epi : Nat
  rowBlk : Nat
  colBlk : Nat
  cmd : List Nat
  mma : Nat
  job : Option Nat
  buf : Nat := 0
  taken : Bool := false
  deriving DecidableEq, Repr

/-- The Sump of a circuit (R225 to R229): spilled words in order, the cycle's edge count, the words spilled since it
opened and how many of those were written to the spill region (there lies their data, 512 words a chunk), the chunks it holds, oldest
first, how many more words its region has room for, whether a producer stands before it for want of room, and the jobs of the
contexts in the cycle. -/
structure Sump where
  spill : List SWord
  edges : Nat
  spilled : Nat
  stored : Nat
  places : List Nat
  stalled : Bool := false
  room : Nat
  jobs : List Nat
  deriving DecidableEq, Repr

/-- One channel's runtime state (R206 to R209, R222); `sentAt` is the A-cycle after that of the last word sent, `withheld` says a fence withholds its credits (R294), `cycRec` that
the cycle it is the lowest circuit of has been recorded (R231). -/
structure Chan where
  fifo : List SWord := []
  staging : List SWord := []
  credits : Nat := 0
  withheld : Bool := false
  waitRun : Nat := 0
  sentAt : Nat := 0
  evtWords : Nat := 0
  cycCredit : Nat := 0
  cycSlot : Nat := 0
  cycEmpty : Nat := 0
  evtSump : Nat := 0
  sumpWords : Nat := 0
  sump : Option Sump := none
  cycRec : Bool := false
  deriving DecidableEq, Repr

/-- The counters of a channel but its wait run, in the order of R651. -/
def Chan.counters (x : Chan) : List Nat := [x.evtWords, x.cycCredit, x.cycSlot, x.cycEmpty, x.evtSump, x.sumpWords]

/-- A steering unit: its two configuration words (R217) and where it stands (R218, R219): records begun, the record in
progress (which output or input: SPLIT 0, 1, 2 discarded, 3 both; MERGE 0, 1), the input last used (2 before the first
record), and the selector of a control record whose remaining words are being removed. -/
structure Steer where
  w0 : Nat := 0
  w1 : Nat := 0
  recNo : Nat := 0
  cur : Option Nat := none
  lastIn : Nat := 2
  sel : Option Nat := none
  deriving DecidableEq, Repr

/-- One credit entry of a message entry (R265) with its sent count c_e (R268). -/
structure Credit where
  dst : Nat
  count : Nat
  sig : Nat
  sent : Nat := 0
  deriving DecidableEq, Repr

/-- The message logic of a cell: the configuration's entry (R265) and its counts (R267 to R270). `inbox` keeps for each unreleased entry the
sender's node, its csig and whether it came credited; `freed` counts releases asked for while the
gallery is parked; `held` lists the messages sent and not yet taken, each with its resends so far and whether the last attempt
was refused. -/
structure MsgLogic where
  inboxCtx : Nat
  inboxBase : Nat
  sigArrive : Nat
  sigRelease : Nat
  outboxBase : Nat
  sigSend : Nat
  nakEn : Bool
  sigNak : Nat
  credits : List Credit
  nS : Nat := 0
  due : Nat := 0
  nA : Nat := 0
  nR : Nat := 0
  inbox : List (Nat × Nat × Bool) := []
  freed : Nat := 0
  held : List (Packet × Nat × Bool) := []
  deriving DecidableEq, Repr

/-- The 48-bit counters of a cell (R112, R154, R201, R222, R249, R274, R636). -/
inductive CellCtr where
  | mtCycIssue | mtCycPair | mtCycLoad | mtCycSwitch | mtCycHeld | mtCycLate | mtCycWait | mtCycIdle
  | mtEvtKsteps | mtEvtTiles | mtEvtSwitches
  | vtCycIssue | vtCycEpi | vtCycSwitch | vtCycDep | vtCycLate | vtCycWait | vtCycIdle | vtCycFtqFull
  | vtEvtInstr | vtEvtTiles | vtEvtSwitches
  | memtCycWide | memtCycWideEpi | memtCycNarrow | memtCycNarrowDeny | memtCycStarve | memtEvtRmw | memtEvtMerge
  | memtEccCorr | memtEccUncorr
  | suEvtRec00 | suEvtRec01 | suEvtRec10 | suEvtRec11 | suCycCtl0 | suCycCtl1
  | swCycBusyN | swCycBusyE | swCycBusyS | swCycBusyW | swCycBusyL
  | meshEvtFlits | meshCycNocredit | meshCycLostarb | meshCycSealidle | meshEvtLane1 | meshEvtBadnode
  | sigEvtOps | sigEvtWakes | sigEvtRetry | sigEvtAbandon
  | msgEvtTx | msgEvtRx | msgEvtNak | msgEvtDrop | msgCycNocredit
  | cellEccCorr | cellEccUncorr
  deriving DecidableEq, Repr

/-- A cell site that the configuration and the work have reached; an unlisted site is `Cell.reset`. Region bases and
counts are those of CELL_CTRL (R283); `ready`, `owner` are R187, R189; `slots` is keyed by port × 8 + slot (R204),
`chanCfg` by channel (R206), `parts` by vector context (a context with vr_cap 0 is disabled, R283); `vr` and `vm` by register × 4,096 + physical element (R114); `loc` is the local space of
R119 (its finished-tile buffers are `ftq`); `memErr` the granules of the
memory tile in which an error has arisen that no read has met yet, 1 where the code corrects it and 2 where it only detects
it (R195), `poison` the poisoned granules and `seen` those of them that have been found; `ctrlWords` the words of the CELL_CTRL section; `since` the A-cycle of its die at which `ctr` was cleared; `stepEnd` the A-cycle of its die at which a step ends (R653); `snap`
and `snapCh` the counters latched last and, by channel, those of its channels with their wait runs (R649). -/
structure Cell where
  mtSel : Nat := 0
  mt : Tab MtCtx := []
  vtSel : Nat := 0
  vt : Tab VtCtx := []
  vr : Tab Word := []
  vm : Tab Bool := []
  loc : Memory := []
  locBad : Tab Bool := []
  ftq : List FtqEntry := []
  ftqCount : Nat := 0
  mem : Memory := []
  poison : Tab Bool := []
  memErr : Tab Nat := []
  seen : Tab Bool := []
  ready : Nat := 0xFFFF
  owner : Nat := 0
  ownerSaved : Nat := 0
  fenced : Bool := false
  cmdBase : Nat := 0
  cmdCount : Nat := 0
  progBase : Nat := 0
  progCount : Nat := 0
  mtOps : List Packet := []
  scrubPos : Nat := 0
  scrubCur : List Nat := []
  scrubPrev : List Nat := []
  slots : Tab Nat := []
  chanCfg : Tab Nat := []
  chans : Tab Chan := []
  su0 : Steer := {}
  su1 : Steer := {}
  parts : Tab Part := []
  route : Tab Nat := []
  homed : List Nat := []
  msg : Option MsgLogic := none
  halted : Bool := false
  stepLeft : Nat := 0
  stepEnd : Nat := 0
  snap : Tab Nat := []
  snapCh : Tab (List Nat) := []
  ctrlWords : List Nat := []
  narrowRefused : Nat := 0
  bindCtr : Nat := 0
  ctr : Tab Nat := []
  since : Nat := 0
  deriving DecidableEq, Repr

/-- A cell as Stage 2 leaves it (R188, R199, R252). -/
def Cell.reset : Cell := {}

end Sys2Proof.Machine
end

