-- ==== Sys2Proof/Machine/FaultTypes.lean ====
section
/-!
DEFINITION. Sys2Proof/Machine/FaultTypes.lean: fault record kinds with their codes and levels (R631, R635), the fault
record (R632) and the completion statuses (R509).
-/
namespace Sys2Proof.Machine

/-- The record kinds of R635. -/
inductive Kind where
  | mtOverflow | mtBadCmd | vtOverflow | vtBadInstr | epiOverflow
  | cellUncorrectable | cellRetired | galleryBroken | epiBadParam | memtAccess
  | memtRange | memtUncorrectable | memtDegraded | streamMisroute | streamShort
  | steerCtrl | sumpOpened | sumpClosed | sumpExhausted | streamCycle
  | meshBadNode | sigSaturated | sigAccess | msgBadEntry | msgRefused
  | cfgReject | cfgWordsDiscarded | fmUnmapped | fmRoWrite | fmBadPhase
  | cmdTimeout | hbmUncorrectable | hbmPageRetired | hbmRetireDeferred | hbmRetireListFull
  | hbmReduced | hbmStackFailed | bwShortfall | tenantTablesLost | faultBufMoved
  | engineOffline | ferIdMismatch | ferRetrain | ferPortFailed | ferUnreachable
  | ferRefused | ferTetherStray | collGroupReject | collMismatch | gateLateVote
  | gateStepMismatch | gateSilent | gateDetached | gateUnapplied | tetherPushFailed
  | tetherMirrorFailed | tetherPartnerFailed | tetherTakeover | tetherClaimRefused | tetherPartnerReturned
  | hostRingError | ppsStep | ppsFault | ppsLost | syncLost
  | secBootFallback | secDebugUnlock | droopStep | thermLevel | thermTrip
  | thermCritical | sagStage | stageHalt | eraseRecovered | settingsResync
  | settingsDefaulted | dbgHalt | dbgSignalSet | fatal
  deriving DecidableEq, Repr

/-- The code of a kind (R635). -/
def Kind.code : Kind → Nat
  | .mtOverflow => 0x010
  | .mtBadCmd => 0x011
  | .vtOverflow => 0x012
  | .vtBadInstr => 0x013
  | .epiOverflow => 0x014
  | .cellUncorrectable => 0x015
  | .cellRetired => 0x016
  | .galleryBroken => 0x017
  | .epiBadParam => 0x018
  | .memtAccess => 0x020
  | .memtRange => 0x021
  | .memtUncorrectable => 0x022
  | .memtDegraded => 0x023
  | .streamMisroute => 0x030
  | .streamShort => 0x031
  | .steerCtrl => 0x032
  | .sumpOpened => 0x033
  | .sumpClosed => 0x034
  | .sumpExhausted => 0x035
  | .streamCycle => 0x036
  | .meshBadNode => 0x040
  | .sigSaturated => 0x041
  | .sigAccess => 0x042
  | .msgBadEntry => 0x043
  | .msgRefused => 0x044
  | .cfgReject => 0x050
  | .cfgWordsDiscarded => 0x051
  | .fmUnmapped => 0x060
  | .fmRoWrite => 0x061
  | .fmBadPhase => 0x062
  | .cmdTimeout => 0x063
  | .hbmUncorrectable => 0x070
  | .hbmPageRetired => 0x071
  | .hbmRetireDeferred => 0x072
  | .hbmRetireListFull => 0x073
  | .hbmReduced => 0x074
  | .hbmStackFailed => 0x075
  | .bwShortfall => 0x076
  | .tenantTablesLost => 0x077
  | .faultBufMoved => 0x078
  | .engineOffline => 0x080
  | .ferIdMismatch => 0x090
  | .ferRetrain => 0x091
  | .ferPortFailed => 0x092
  | .ferUnreachable => 0x093
  | .ferRefused => 0x094
  | .ferTetherStray => 0x095
  | .collGroupReject => 0x0A0
  | .collMismatch => 0x0A1
  | .gateLateVote => 0x0B0
  | .gateStepMismatch => 0x0B1
  | .gateSilent => 0x0B2
  | .gateDetached => 0x0B3
  | .gateUnapplied => 0x0B4
  | .tetherPushFailed => 0x0C0
  | .tetherMirrorFailed => 0x0C1
  | .tetherPartnerFailed => 0x0C2
  | .tetherTakeover => 0x0C3
  | .tetherClaimRefused => 0x0C4
  | .tetherPartnerReturned => 0x0C5
  | .hostRingError => 0x0D0
  | .ppsStep => 0x0E0
  | .ppsFault => 0x0E1
  | .ppsLost => 0x0E2
  | .syncLost => 0x0E3
  | .secBootFallback => 0x0F0
  | .secDebugUnlock => 0x0F1
  | .droopStep => 0x100
  | .thermLevel => 0x101
  | .thermTrip => 0x102
  | .thermCritical => 0x103
  | .sagStage => 0x104
  | .stageHalt => 0x110
  | .eraseRecovered => 0x111
  | .settingsResync => 0x112
  | .settingsDefaulted => 0x113
  | .dbgHalt => 0x120
  | .dbgSignalSet => 0x121
  | .fatal => 0x1F0

/-- The level of a kind (R635): 0 INFO, 1 UNIT, 2 JOB, 3 TENANT, 4 MODULE (R631). -/
def Kind.level : Kind → Nat
  | .sumpOpened | .sumpClosed | .sigSaturated | .msgBadEntry => 0
  | .msgRefused | .cfgWordsDiscarded | .bwShortfall | .faultBufMoved => 0
  | .ferTetherStray | .collGroupReject | .gateLateVote | .gateStepMismatch => 0
  | .gateSilent | .tetherClaimRefused | .tetherPartnerReturned | .ppsStep => 0
  | .ppsFault | .ppsLost | .syncLost | .droopStep => 0
  | .thermLevel | .dbgHalt | .dbgSignalSet => 0
  | .cellRetired | .memtDegraded | .hbmPageRetired | .hbmRetireDeferred => 1
  | .hbmRetireListFull | .ferIdMismatch | .ferRetrain | .ferPortFailed => 1
  | .eraseRecovered | .settingsResync => 1
  | .mtOverflow | .mtBadCmd | .vtOverflow | .vtBadInstr => 2
  | .epiOverflow | .cellUncorrectable | .epiBadParam | .memtAccess => 2
  | .memtRange | .memtUncorrectable | .streamMisroute | .streamShort => 2
  | .steerCtrl | .sumpExhausted | .streamCycle | .meshBadNode => 2
  | .sigAccess | .cfgReject | .fmUnmapped | .fmRoWrite => 2
  | .fmBadPhase | .cmdTimeout | .hbmUncorrectable | .ferUnreachable => 2
  | .ferRefused | .collMismatch | .tetherPushFailed | .tetherMirrorFailed => 2
  | .galleryBroken | .tenantTablesLost | .gateDetached | .gateUnapplied => 3
  | .hostRingError => 3
  | .hbmReduced | .hbmStackFailed | .engineOffline | .tetherPartnerFailed => 4
  | .tetherTakeover | .secBootFallback | .secDebugUnlock | .thermTrip => 4
  | .thermCritical | .sagStage | .stageHalt | .settingsDefaulted => 4
  | .fatal => 4

/-- A fault record (R632). `job` absent means job_valid 0, `gallery` absent gal_valid 0, `tenant` 0x1F names none,
`node` 0xFFF names none; `extra0` is words 13 and 14 as one number, `extra1` word 15. In the view of the tenant it names (R637) its number is
`tseq` and its lost bit `tlost`. -/
structure FaultRec where
  kind : Kind
  level : Nat
  lost : Bool := false
  tenant : Nat := 0x1F
  job : Option Nat := none
  status : Nat := 0
  seq : Nat := 0
  gc : Nat := 0
  node : Nat := 0xFFF
  unit : Nat := 0xF
  gallery : Option Nat := none
  causeSeq : Nat := 0
  idx0 : Nat := 0
  idx1 : Nat := 0
  addr : Nat := 0
  code : Nat := 0
  extra0 : Nat := 0
  extra1 : Nat := 0
  tseq : Nat := 0
  tlost : Bool := false
  deriving DecidableEq, Repr

/-- A pair of values in words 13 and 14, the low 32 bits of each (R632). -/
def recPair (a b : Nat) : Nat := a % 2 ^ 32 + 2 ^ 32 * (b % 2 ^ 32)

/-- The fault log (R633, R634): the ring in HBM, newest last (at most 262,144 entries), the queue of 64 in AO, records
their sources hold back, the count of the current start, and the bookkeeping of dropped records; by tenant the count of the
records that name it, and the tenants that a record dropped since their last one, or since FR_STATUS.lost was cleared,
named (R637). -/
structure FaultLog where
  ring : List FaultRec := []
  total : Nat := 0
  ao : List FaultRec := []
  held : List FaultRec := []
  count : Nat := 0
  lostNext : Bool := false
  lostSticky : Bool := false
  evtLost : Nat := 0
  tcount : Tab Nat := []
  tlostNext : List Nat := []
  tlostSticky : List Nat := []
  deriving DecidableEq, Repr

/-- Completion statuses (R509), in code order. -/
inductive Status where
  | ok | cancelled | abandoned | timeout | refusedQuota | cfgRejected | overflowFault | stepSkipped | sumpOpened
  | linkFailed | memUncorrectable | authFail | preempted | shed | nakExhausted | badCommand
  deriving DecidableEq, Repr

/-- The code of a status (R509). -/
def Status.code (s : Status) : Nat := s.ctorIdx

end Sys2Proof.Machine
end

