-- ==== Sys2Proof/Machine/JobTypes.lean ====
section
/-!
DEFINITION. Sys2Proof/Machine/JobTypes.lean: the state of signals (ch. 10), jobs, tasks and pages (ch. 12).
-/
namespace Sys2Proof.Machine
open Sys2Proof

/-- States of a signal (R252). -/
inductive SigSt where
  | free | live | abandoned
  deriving DecidableEq, Repr

/-- A queued wait (R255, R262). -/
structure Waiter where
  value : Nat
  tenant : Nat := 0
  iss : Issuer
  deriving DecidableEq, Repr

/-- A signal (R250): `home` is 0 for the Hub N store and n + 1 for cell n (R261); `satRec` says a saturation has been
recorded since the counter was last given a value (R255); `waiters` oldest first. -/
structure Signal where
  counter : Nat := 0
  st : SigSt := .free
  owner : Nat := 0
  satRec : Bool := false
  waiters : List Waiter := []
  home : Nat := 0
  deriving DecidableEq, Repr

/-- Where a ring's entry came from: function (0 the PF, 1 to 16 a VF), ring and tag; the completion goes there. -/
structure RingRef where
  fn : Nat
  ring : Nat
  tag : Nat
  deriving DecidableEq, Repr

/-- States of a task: waiting for predecessors, ready, bound, done. -/
inductive TaskSt where
  | waiting | ready | bound | done
  deriving DecidableEq, Repr

/-- A phase record and its transfers as Ferryman read them (R318); whether their fields are well formed. -/
structure Phase where
  relSig : Nat
  relVal : Nat
  rdySig : Nat
  rdyEn : Bool
  xfers : List (List Nat)
  ok : Bool
  deriving DecidableEq, Repr

/-- Where a task's paging stands (R319, R320): the next phase to begin; the phase in steps 2 to 4 as it was read and checked, with
the regions whose ready bits it cleared as (cell, region); the phases whose sources were warmed; the releases of the phases begun, as
(signal, value); the regions that the phases of half 0 and of half 1 touch; whether the phase's writes are in place and its ready
bits being set (step 4); the phases a restore repeats (R332). -/
structure PhaseProg where
  next : Nat := 0
  current : Option Nat := none
  held : Option Phase := none
  regions : List (Nat × Nat) := []
  warmed : List Nat := []
  rels : List (Nat × Nat) := []
  half0 : List (Nat × Nat) := []
  half1 : List (Nat × Nat) := []
  placed : Bool := false
  again : List Nat := []
  deriving DecidableEq, Repr

/-- A task (R309): the words of its record and where it stands; `eng` is the engine it was placed on. -/
structure Task where
  words : List Nat
  st : TaskSt := .waiting
  eng : Option Nat := none
  phase : PhaseProg := {}
  readyGc : Nat := 0
  deriving DecidableEq, Repr

/-- Why a job is stopping (R328): its status and the record that caused it. -/
structure StopCause where
  status : Status
  seq : Nat
  deriving DecidableEq, Repr

/-- A job in flight, in one of 4,096 slots (R308 to R328): who submitted it, its tasks, the words of its map entries, the
granules it holds as (cell, granule, class, task), its condition summary, the pages it waits to see zeroed, why it is
stopping and how far stopping has come (contexts told, signals abandoned), the cancellations that wait for it,
when it was suspended, the HBM stacks its work has accessed (R647), and the GC ticks it has been held in (R542). -/
structure Job where
  tenant : Nat
  ref : RingRef
  cmdId : Option Nat
  opcode : Nat
  gallery : Option Nat
  noSuspend : Bool := false
  deadline : Nat
  admitGc : Nat
  endGc : Nat := 0
  sigs : List Nat := []
  tasks : List Task := []
  maps : List (List Nat) := []
  gran : List (Nat × Nat × Nat × Nat) := []
  cond : Nat := 0
  detail : Option Nat := none
  dirty : List Nat := []
  stop : Option StopCause := none
  stopped : Bool := false
  abandoned : Bool := false
  suspended : Bool := false
  susGc : Nat := 0
  hbmStacks : List Nat := []
  sumpSeen : Bool := false
  heldTicks : Nat := 0
  cancelledBy : List Nat := []
  shard : List Nat := []
  deriving DecidableEq, Repr

/-- A gallery's Slipway port (R302, R304): its section's fields, the request count and the records queued. -/
structure Slipway where
  sigGo : Nat
  tbl : Nat
  len : Nat
  keySlot : Nat
  quiesceMs : Nat
  nG : Nat := 0
  queue : List Nat := []
  deriving DecidableEq, Repr

/-- A gallery (R20), resident or parked: `spill` is the size of its spill region (R228), `busy` that it is being
saved or restored, `residentGc` when it last became resident, `saved` its cells while parked (R332), `config` its
configured granules as (cell, granule) (R312). -/
structure Gallery where
  x0 : Nat
  y0 : Nat
  x1 : Nat
  y1 : Nat
  tenant : Nat
  resident : Bool := true
  spill : Nat := 64 * 2 ^ 20
  busy : Bool := false
  spillPages : List Nat := []
  savePages : List Nat := []
  slip : Option Slipway := none
  loading : Bool := false
  broken : Bool := false
  residentGc : Nat := 0
  saved : List (Nat × Cell) := []
  config : List (Nat × Nat) := []
  deriving DecidableEq, Repr

end Sys2Proof.Machine
end

