-- ==== Sys2Proof/Machine/FerTypes.lean ====
section
/-!
DEFINITION. Sys2Proof/Machine/FerTypes.lean: the state of the Ferier ports and transport (ch. 16), of the step gate (ch.
15) and of the tethered pair (ch. 17).
-/
namespace Sys2Proof.Machine
open Sys2Proof

/-- States of a port (R432), in code order. -/
inductive PortSt where
  | disabled | training | up | replay | retrain | keepalive | failed
  deriving DecidableEq, Repr

/-- A Ferier port (R432 to R438): its state and since when; whether the switch's IDENT arrived in this training; the next
fseq and the last accepted one; whether it is discarding received flits; the flits not yet acknowledged;
by class the units waiting to leave (a message whose header still leads it is fresh), the link credits, the received
bytes of unfinished messages, the flits held and the credits to be returned; the round robin; the entries to RETRAIN in
the last second; the fseq of the last nak and how often it was repeated; the spans of ticks in replay or discarding within the last second
(R646); the record of the last retrain. -/
structure Port where
  st : PortSt := .disabled
  since : Nat := 0
  peerEnc : Bool := false
  ident : Bool := false
  part : List Nat := []
  nextTx : Nat := 0
  rxSeq : Nat := 4095
  nak : Bool := false
  buf : List Flit := []
  txq : Tab (List (Bool × List Byte)) := []
  credits : Tab Nat := []
  asm : Tab (List Byte) := []
  held : Tab Nat := []
  owed : Tab Nat := []
  drr : Nat := 0
  left : Nat := 0
  retrains : List Nat := []
  nakSeq : Nat := 0
  naks : Nat := 0
  spans : List (Nat × Nat) := []
  cause : Nat := 0
  deriving DecidableEq, Repr

/-- Whose message it is: what its completion or its failure is told to. -/
inductive FerOwner where
  | none
  | epilogue (cell ctx tile : Nat) (job : Option Nat)
  | engine (id : Nat)
  | gate (alias_ : Bool)
  | push (step : Nat)
  | copy
  | resync
  | timeReq (n : Nat)
  | timeResp (dev : Nat)
  deriving DecidableEq, Repr

/-- A sequenced message of the module that is not complete (R446, R447): whether it is sent as the alias; when it last
left and on which port; retransmissions, BUSY and QUEUE_FULL refusals; when it is to be sent again after a
refusal, and whether that was QUEUE_FULL. -/
structure OutMsg where
  m : FMsg
  owner : FerOwner
  tenant : Nat
  alias_ : Bool := false
  sentGc : Nat := 0
  port : Option Nat := Option.none
  retx : Nat := 0
  naks : Nat := 0
  fulls : Nat := 0
  due : Option Nat := Option.none
  full : Bool := false
  deriving DecidableEq, Repr

/-- A stream at its receiver (R445): source device, destination ID, class; the base and the marked positions above it. -/
structure RxStream where
  src : Nat
  dst : Nat
  tc : Nat
  base : Nat
  marked : List Nat := []
  deriving DecidableEq, Repr

/-- A whole message in a port's receive buffer, since when; `held` says it waits for the messages before it (R451), or for
HOLDING_ALIAS (R480); `tried` that its data has been written. -/
structure RxMsg where
  port : Nat
  m : FMsg
  since : Nat := 0
  held : Bool := false
  tried : Bool := false
  deriving DecidableEq, Repr

/-- What a GET of the module fetches: a multicast load's missing bytes at an offset of its stream (R300), or a range of
a mirror into a local TVA (R483). -/
inductive GetFor where
  | mcast (gallery offset : Nat)
  | mirror (tva : Nat)
  deriving DecidableEq, Repr

/-- A GET whose response has not arrived. -/
structure GetReq where
  tag : Nat
  dst : Nat
  use : GetFor
  deriving DecidableEq, Repr

/-- An atomic slot of a source device (R450): the seq of its last ATOMIC, the old value and the status. -/
structure AtomSlot where
  seq : Nat
  old : List Byte
  deriving DecidableEq, Repr

/-- The Ferier transport (R440 to R453): the ports; the device ID, the alias and the epochs; messages waiting for a credit
and outstanding; the next seq of each stream by (as alias, destination, class); the receive buffers; streams and the
current epoch by source device; the slots of received and of own ATOMICs; the GETs. -/
structure Ferier where
  ports : Tab Port := []
  devId : Nat := 0
  idValid : Bool := false
  alias_ : Option Nat := none
  epoch : Nat := 0
  aliasEpoch : Nat := 0
  wait : List OutMsg := []
  out : List OutMsg := []
  nextSeq : Tab Nat := []
  rx : List RxMsg := []
  streams : List RxStream := []
  epochs : Tab Nat := []
  atoms : Tab (Option AtomSlot) := []
  atomBusy : Tab Bool := []
  gets : List GetReq := []
  reqTag : Nat := 0
  deriving DecidableEq, Repr

/-! ### The step gate (R411 to R422) -/

/-- A vote (R415): its step, ok, voters and sum of squares. -/
structure Vote where
  step : Nat
  ok : Bool
  voters : Nat
  sumsq : Nat
  deriving DecidableEq, Repr

/-- A decision (R417, R420). -/
structure Decision where
  step : Nat
  skip : Bool
  cause : Nat
  voters : Nat
  gsumsq : Nat
  deriving DecidableEq, Repr

/-- A gate's settings (R412). -/
structure GateSet where
  tenant : Nat
  tc : Nat
  group : Nat
  parent : Nat
  kids : List Nat
  stepBase : Nat
  timeoutMs : Nat
  contribCount : Nat
  contribTva : Nat
  contribSig : Nat
  decideSig : Nat
  decideTva : Nat
  gnormMax : Nat
  deriving DecidableEq, Repr

/-- A running gate: its settings; c and v; its own votes not yet decided, with the pushes each still waits for (R473) and whether it has been cast; the children's
votes; whether the combined vote for c has gone up; when the root's timeout for c started; the last 16 decisions; whether
it is detached; whether it may vote (an alias gate only after ADOPT); the UPDATEs whose job stopped while they waited, as
(step, tenant, tensor, shard) (R422). -/
structure Gate where
  set : GateSet
  c : Nat
  v : Nat
  own : List (Vote × Nat × Bool) := []
  kids : List (Nat × Vote) := []
  passed : Bool := false
  start : Option Nat := none
  hist : List Decision := []
  detached : Bool := false
  votes : Bool := true
  stopped : List (Nat × Nat × Nat × Nat) := []
  deriving DecidableEq, Repr

/-! ### The tethered pair (R470 to R484) -/

/-- States of the pair (R472), in code order. -/
inductive TethSt where
  | none | forming | paired | holdingAlias | catchingUp | solo
  deriving DecidableEq, Repr

/-- What the partner's gate record tells (R472): its gate's settings, c and v; its UPDATE list; where its mirror reports
go. -/
structure PeerInfo where
  gate : Option GateSet := Option.none
  c : Nat := 0
  v : Nat := 0
  list : List (List Byte) := []
  reportTva : Nat := 0
  reportSig : Nat := 0
  deriving DecidableEq, Repr, Inhabited

/-- The pair: FORM's fields (R471); the FORM or RESYNC entry that waits; own copy and pushes outstanding; the partner's
record; heartbeats (when the last arrived, whether it said SHEDDING, the partner's epoch when the pair formed and the last
one seen, whether one told of its failure, its last step); decisions whose mirror UPDATEs are not yet placed or reported, as (step, entries left, worst status);
reports from the partner as (step, status); pushes that failed as (step, status);
the claim outstanding and when it was last refused; when a heartbeat last left. -/
structure Tether where
  st : TethSt := .none
  tenant : Nat := 0
  partner : Nat := 0
  mirrorOff : Nat := 0
  sigOff : Nat := 0
  hbUs : Nat := 1000
  hbMiss : Nat := 8
  tc : Nat := 0
  list : List (List Byte) := []
  reportTva : Nat := 0
  reportSig : Nat := 0
  cmd : Option Nat := Option.none
  resync : Option Nat := Option.none
  copies : Nat := 0
  peer : Option PeerInfo := Option.none
  hbGc : Nat := 0
  shedding : Bool := false
  peerEpoch : Option Nat := Option.none
  peerLast : Nat := 0
  failing : Bool := false
  peerStep : Nat := 0
  lastStep : Nat := 0
  partnerStep : Nat := 0
  mirrors : List (Nat × Nat × Nat) := []
  waiting : List (List Byte × Decision) := []
  reports : List (Nat × Nat) := []
  pushFail : List (Nat × Nat) := []
  claiming : Bool := false
  refusedGc : Option Nat := Option.none
  hbSent : Nat := 0
  deriving DecidableEq, Repr

end Sys2Proof.Machine
end

