-- ==== Sys2Proof/Config.lean ====
section
/-!
DEFINITION. Sys2Proof/Config.lean: the free values: what the spec leaves open. Each is a constant with no body, so no
proof can see it (log 3).
-/
namespace Sys2Proof

/-- The value an open choice takes the `n`-th time one is met; the state's `freeCtr` counts them. -/
opaque Config.freeNat : Nat → Nat

/-- An open choice among `k` alternatives. -/
def Config.freePick (n k : Nat) : Nat := Config.freeNat n % k

/-- `len` open bytes. -/
def Config.freeBytes (n len : Nat) : List Byte := (List.range len).map (fun i => BitVec.ofNat 8 (Config.freeNat n / 256 ^ i))

/-- A byte an MMA reads at an address of its memory tile that was written during the MMA without the ready-bit protocol
(R111): by the free value of the run and the place of the read in it. -/
opaque Config.racedByte : Nat → Nat → Nat → Byte

/-- cos2pi and sin2pi of R367 on FP32 encodings: functions the device fixes, within 2^−23. -/
opaque Config.cos2pi : Nat → Nat
opaque Config.sin2pi : Nat → Nat

/-- The Zstandard frame COMPRESS writes for a level, a window log, a checksum flag and an input (R369): the device's
choice among the frames of RFC 8878. -/
opaque Config.zstdFrame : Nat → Nat → Bool → List Byte → List Byte

/-- What RFC 8878 gives for the content of a sequence of frames: 0 and the bytes, or the detail code of R369 (log 15). -/
opaque Config.zstdContent : List Byte → Nat × List Byte

/-- Where a module's gate record lies in its tether partner's owner context (R472): the spec gives no place. -/
opaque Config.gateRecordTva : Nat

/-- The bytes of a gate record and what a module reads from one (R472): the record's format is the device's own. -/
opaque Config.gateRecord : Machine.PeerInfo → List Byte
opaque Config.gateRecordRead : List Byte → Machine.PeerInfo

/-! Where the device-reserved pages lie in a start, by BOOT_COUNT (R379): whether a stack holds a context's level-1 table, a
pair of loader buffers, the fault buffer, the trace buffer. -/
opaque Config.l1On : Nat → Nat → Nat → Bool
opaque Config.pairOn : Nat → Nat → Nat → Bool
opaque Config.faultBufOn : Nat → Nat → Bool
opaque Config.traceBufOn : Nat → Nat → Bool

/-! What the security block's fuses, keys and firmware give (R573 to R579, R589, R590): the module serial number; the
nonces the DRBG draws; what measurement 1 takes for an svn_floor; the images of a bundle by bank and component
(0 security block, 1 management, 2 Ferryman and loader, 3 array, 4 engine); a signature by the alias key derived from
measurements 1 to 7 and the lock state mixed in, and one by the DeviceID's chain; the root hash of a certificate chain
that verifies; whether a debug token's signature verifies for a state under the owner key hash. -/
opaque Config.serial : List Byte
opaque Config.nonce : Nat → List Byte
opaque Config.romInput : Nat → List Byte
opaque Config.fwImage : Nat → Nat → List Byte
opaque Config.aliasSign : List (List Byte) → Nat → List Byte → List Byte
opaque Config.certChain : Nat → List (List Byte) → Nat → List Byte
opaque Config.chainRoot : List Byte → Option (List Byte)
opaque Config.tokenOk : Nat → List Byte → List Byte → Bool

end Sys2Proof
end

