-- ==== Sys2Proof/Machine/Dot.lean ====
section
/-!
DEFINITION. Sys2Proof/Machine/Dot.lean: the dot product, bit for bit (ch. 03): products, block sums, the accumulator
update, pair accumulation, the three-pass split and the INT32 accumulator.
-/
namespace Sys2Proof

/-- prod of R64 and whether it raised invalid (an infinity times a zero, a signalling NaN). -/
def fprod (x y : FVal) : FVal × Bool :=
  let s := x.isSnan || y.isSnan
  match x, y with
  | .nan _, _ => (.nan false, s)
  | _, .nan _ => (.nan false, s)
  | .inf a, .inf b => (.inf (a != b), s)
  | .inf a, .fin b m _ => if m = 0 then (.nan false, true) else (.inf (a != b), s)
  | .fin a m _, .inf b => if m = 0 then (.nan false, true) else (.inf (a != b), s)
  | .fin a m e, .fin b n f => (.fin (a != b) (m * n) (e + f), s)

/-- hi(x) of R79: BF16, RNE, saturating. -/
def splitHi (x : FVal) : FVal :=
  FVal.decode .bf16 (roundFloat .bf16 .rne (match x with | .fin _ _ _ => true | _ => false) 0 x).1

/-- lo(x) of R79: the exact remainder, in BF16. -/
def splitLo (x : FVal) : FVal :=
  match x with
  | .fin _ _ _ => FVal.decode .bf16 (roundFloat .bf16 .rne false 0 ((x.dy.sub (splitHi x).dy).toF)).1
  | _ => FVal.zero

/-- The term of R80. -/
def splitTerm (x y : FVal) : FVal × Bool :=
  match x, y with
  | .fin _ _ _, .fin _ _ _ =>
    let p1 := (fprod (splitHi x) (splitHi y)).1
    let p2 := (fprod (splitHi x) (splitLo y)).1
    let p3 := (fprod (splitLo x) (splitHi y)).1
    let t := (p1.dy.add p2.dy).add p3.dy
    (t.toF (p1.isZero && p1.neg? && p2.isZero && p2.neg? && p3.isZero && p3.neg?), false)
  | _, _ => fprod x y

/-- block_sum of R63 before scaling by the block's exponents, over the terms; the flag is invalid. -/
def sumTerms (ts : List (FVal × Bool)) : FVal × Bool :=
  let inv := ts.any Prod.snd
  let vs := ts.map Prod.fst
  if vs.any FVal.isNan then (.nan false, inv)
  else
    let pinf := vs.any (fun v => v.isInf && !v.neg?)
    let ninf := vs.any (fun v => v.isInf && v.neg?)
    if pinf && ninf then (.nan false, true)
    else if pinf then (.inf false, inv)
    else if ninf then (.inf true, inv)
    else
      let t : Dy := vs.foldl (fun a v => Dy.add a v.dy) ⟨0, 0⟩
      (t.toF (vs.all (fun v => v.isZero && v.neg?)), inv)

/-- One block: the element values of a and b with the two scale bytes (127 where unblocked). -/
structure Block where
  a : List FVal
  b : List FVal
  ea : Nat
  eb : Nat
  deriving DecidableEq, Repr

/-- block_sum of R63: exact and scaled. -/
def blockSum (split : Bool) (k : Block) : FVal × Bool :=
  if k.ea = 255 ∨ k.eb = 255 then (.nan false, false)
  else
    let (s, inv) := sumTerms ((k.a.zip k.b).map (fun p => if split then splitTerm p.1 p.2 else fprod p.1 p.2))
    (s.scale ((k.ea : Int) - 127 + ((k.eb : Int) - 127)), inv)

/-- acc_add of R63 on an FP32 accumulator encoding; a signalling NaN it takes in raises invalid (R35, R52). -/
def accAdd (acc : Nat) (s : FVal) : Nat × Cond :=
  let a := FVal.decode .fp32 acc
  match a, s with
  | .nan _, _ => (canonNan, { inv := a.isSnan || s.isSnan })
  | _, .nan _ => (canonNan, { inv := a.isSnan || s.isSnan })
  | .inf p, .inf q => if p = q then (acc, Cond.none) else (canonNan, Cond.invalid)
  | .inf _, .fin _ _ _ => (acc, Cond.none)
  | .fin _ _ _, .inf q => (Fmt.signed .fp32 q 0x7F800000, Cond.none)
  | .fin p m _, .fin q n _ =>
    let t := a.dy.add s.dy
    if t.n = 0 then ((if p && decide (m = 0) && q && decide (n = 0) then negZero32 else 0), Cond.none)
    else rne32 t.toF

/-- pair_step of R74 on FP32 encodings hi and lo, with the conditions of R75. -/
def pairStep (hi lo : Nat) (s : FVal) : Nat × Nat × Cond :=
  let h := FVal.decode .fp32 hi
  let l := FVal.decode .fp32 lo
  let all := [h, l, s]
  if all.any FVal.isNan then (canonNan, 0, Cond.none)
  else if all.any (fun v => v.isInf && v.neg?) && all.any (fun v => v.isInf && !v.neg?) then
    (canonNan, 0, Cond.invalid)
  else if h.isInf then (hi, 0, Cond.none)
  else if l.isInf then (lo, 0, Cond.none)
  else if s.isInf then (Fmt.signed .fp32 s.neg? 0x7F800000, 0, Cond.none)
  else
    let t := (h.dy.add l.dy).add s.dy
    if t.n = 0 then ((if h.isZero && h.neg? && s.isZero && s.neg? then negZero32 else 0), 0, Cond.none)
    else
      let (r, c) := rne32 t.toF
      let rv := FVal.decode .fp32 r
      if rv.isInf then (r, 0, c)
      else
        let d := t.sub rv.dy
        if d.n = 0 then (r, 0, Cond.none)
        else
          let lo' := (rne32 d.toF).1
          let exact := decide ((d.sub (FVal.decode .fp32 lo').dy).n = 0)
          (r, lo', { unf := !exact && decide (r % 2 ^ 31 < 2 ^ 23), inx := !exact })

/-- The dot product of R63 over its blocks in ascending order: accumulator, lo, conditions. -/
def dot (split pair : Bool) : List Block → Nat → Nat → Nat × Nat × Cond
  | [], acc, lo => (acc, lo, Cond.none)
  | k :: ks, acc, lo =>
    let (s, inv) := blockSum split k
    let (acc', lo', c) := if pair then pairStep acc lo s else
      let (a, c) := accAdd acc s
      (a, lo, c)
    let (ra, rl, rc) := dot split pair ks acc' lo'
    (ra, rl, (c.or { inv := inv }).or rc)

/-- The INT32 accumulator of R67: each block's exact integer sum added modulo 2^32. -/
def dotInt : List (List Int × List Int) → Nat → Nat × Cond
  | [], acc => (acc % 2 ^ 32, Cond.none)
  | (a, b) :: ks, acc =>
    let s := (List.zipWith (fun x y => x * y) a b).foldl (fun t x => t + x) 0
    let t := sext 32 acc + s
    let c : Cond := { ovf := decide (t < - 2 ^ 31) || decide (2 ^ 31 - 1 < t) }
    let (r, rc) := dotInt ks (twos 32 t)
    (r, c.or rc)

/-- The groups of operand formats a dot product takes (R60). -/
inductive DotGroup where
  | narrowFloat | narrowInt | half | single
  deriving DecidableEq, Repr

/-- The group of a format; INT32 and E8M0 are never elements (R60). -/
def Fmt.dotGroup : Fmt → Option DotGroup
  | .e4m3 | .e5m2 | .e3m2 | .e2m3 | .e2m1 => some .narrowFloat
  | .int8 | .int4 => some .narrowInt
  | .fp16 | .bf16 => some .half
  | .fp32 => some .single
  | _ => none

/-- The block length L of R61. -/
def dotL (f : Fmt) (la lb : Layout) (split : Bool) : Nat :=
  if f = .fp32 ∧ split = false then 1
  else if la = .mx16 ∨ lb = .mx16 then 16
  else 32

/-- Both operands are unblocked narrow integers: the accumulator is INT32 (R60, R67). -/
def dotIsInt (fa fb : Fmt) (la lb : Layout) : Bool :=
  decide (fa.dotGroup = some .narrowInt) && decide (fb.dotGroup = some .narrowInt)
    && decide (la = .unblocked) && decide (lb = .unblocked)

/-- The blocks of R61 and R62 for vectors of length `k` given by element and scale-byte reads. -/
def dotBlocks (fa fb : Fmt) (la lb : Layout) (L k : Nat) (ea eb sa sb : Nat → Nat) : List Block :=
  (List.range (ceilDiv k L)).map (fun j =>
    let n := min L (k - j * L)
    { a := (List.range n).map (fun i => FVal.decode fa (ea (j * L + i)))
      b := (List.range n).map (fun i => FVal.decode fb (eb (j * L + i)))
      ea := if la = .unblocked then 127 else sa (j * L / la.block)
      eb := if lb = .unblocked then 127 else sb (j * L / lb.block) })

/-- A whole dot product of length `k`, the accumulator and lo it starts from and leaves, and its conditions. -/
def dotFull (fa fb : Fmt) (la lb : Layout) (split pair : Bool) (k : Nat) (ea eb sa sb : Nat → Nat) (acc lo : Nat) :
    Nat × Nat × Cond :=
  let L := dotL fa la lb split
  if dotIsInt fa fb la lb then
    let blocks := (List.range (ceilDiv k L)).map (fun j =>
      let n := min L (k - j * L)
      ((List.range n).map (fun i => sext fa.width (ea (j * L + i))),
       (List.range n).map (fun i => sext fb.width (eb (j * L + i)))))
    let (r, c) := dotInt blocks acc
    (r, lo, c)
  else dot split pair (dotBlocks fa fb la lb L k ea eb sa sb) acc lo

end Sys2Proof
end

