-- ==== Sys2Proof/Machine/MatrixTile.lean ====
section
/-!
DEFINITION. Sys2Proof/Machine/MatrixTile.lean: what one matrix tile computes inside its cell (ch. 04): command fields
and their well-formedness, the visiting order, panels, one block of k-steps, a whole output tile.
-/
namespace Sys2Proof.Machine
open Sys2Proof

/-- The features of R495 that the array's formats and commands depend on. -/
structure ArrFeat where
  fp32Native : Bool
  sr : Bool
  mx16 : Bool
  pairAccum : Bool
  deriving DecidableEq, Repr

/-- A cell's matrix context. -/
def Cell.mtx (c : Cell) (k : Nat) : MtCtx := Tab.get {} c.mt k

/-- A matrix context replaced. -/
def Cell.setMtx (c : Cell) (k : Nat) (x : MtCtx) : Cell := { c with mt := Tab.put {} c.mt k x }

/-- A cell's vector context. -/
def Cell.vtx (c : Cell) (k : Nat) : VtCtx := Tab.get {} c.vt k

/-- A vector context replaced. -/
def Cell.setVtx (c : Cell) (k : Nat) (x : VtCtx) : Cell := { c with vt := Tab.put {} c.vt k x }

/-- A channel of a cell. -/
def Cell.chan (c : Cell) (n : Nat) : Chan := Tab.get {} c.chans n

/-- A channel replaced. -/
def Cell.setChan (c : Cell) (n : Nat) (x : Chan) : Cell := { c with chans := Tab.put {} c.chans n x }

/-- A counter of a cell. -/
def Cell.counter (c : Cell) (k : CellCtr) : Nat := Tab.get 0 c.ctr k.ctorIdx

/-- A 48-bit counter advanced by `n`, wrapping (R112). -/
def Cell.count (c : Cell) (k : CellCtr) (n : Nat) : Cell :=
  { c with ctr := Tab.put 0 c.ctr k.ctorIdx ((c.counter k + n) % 2 ^ 48) }

/-! ### Memory tile ranges -/

/-- The size of a memory tile in bytes (R177). -/
def memtSize : Nat := 0x100000

/-- Two byte ranges [a, a+n) and [b, b+m) share a byte. -/
def overlaps (a n b m : Nat) : Bool := decide (a < b + m) && decide (b < a + n) && decide (0 < n) && decide (0 < m)

/-- The cell's command region (R86) and vector program region (R121) as byte ranges. -/
def Cell.inCmd (c : Cell) (a n : Nat) : Bool := overlaps a n c.cmdBase (64 * c.cmdCount)
def Cell.inProg (c : Cell) (a n : Nat) : Bool := overlaps a n (1024 * c.progBase) (8 * c.progCount)

/-- The 256-byte blocks that hold [a, a+n): their first byte and length (R109, R178). -/
def wideSpan (a n : Nat) : Nat × Nat :=
  if n = 0 then (a / 256 * 256, 0) else (a / 256 * 256, (a + n + 255) / 256 * 256 - a / 256 * 256)

/-- A matrix read range overflows (R109). -/
def Cell.mtOverflows (c : Cell) (a n : Nat) : Bool :=
  let (b, l) := wideSpan a n
  decide (0 < l) && (decide (memtSize < b + l) || c.inCmd b l)

/-- Every 64 KiB region [a, a+n) touches has its ready bit set (R187). -/
def Cell.rangeReady (c : Cell) (a n : Nat) : Bool :=
  let (b, l) := wideSpan a n
  (List.range 16).all (fun r => !overlaps b l (0x10000 * r) 0x10000 || bit c.ready r)

/-! ### Error codes (R195) -/

/-- The 8-byte granule `g` holds a byte of [a, a+n). -/
def granIn (a n g : Nat) : Bool := decide (0 < n) && decide (a / 8 ≤ g) && decide (g ≤ (a + n - 1) / 8)

/-- The poisoned granules of [a, a+n). -/
def Cell.poisoned (c : Cell) (a n : Nat) : List Nat := (c.poison.map Prod.fst).filter (granIn a n)

/-- The code checks the granules of [a, a+n) on a read: an error it corrects is gone and counted, one it only detects
poisons its granule (R195). -/
def Cell.sense (c : Cell) (a n : Nat) : Cell :=
  match c.memErr.filter (fun g => granIn a n g.1) with
  | [] => c
  | here =>
    let bad := here.filter (fun g => g.2 == 2)
    { c with memErr := c.memErr.filter (fun g => !granIn a n g.1)
             poison := bad.foldl (fun t (g : Nat × Nat) => Tab.put false t g.1 true) c.poison }.count .memtEccCorr (here.length - bad.length)

/-- The granules a write of [a, a+n) covers only in part, which it reads, modifies and writes (R182). -/
def rmwGrans (a n : Nat) : List Nat :=
  if n = 0 then []
  else if a / 8 = (a + n - 1) / 8 then (if a % 8 = 0 && n == 8 then [] else [a / 8])
  else (if a % 8 = 0 then [] else [a / 8]) ++ (if (a + n) % 8 = 0 then [] else [(a + n) / 8])

/-- A write without the ready-bit protocol of [a, a+n) while a context has an MMA in hand: noted in every such context
(R103, R111). -/
def MtCtx.race (x : MtCtx) (ready : Bool) (a n : Nat) : MtCtx :=
  if ready && x.cmd.isSome && decide (0 < n) then { x with raced := x.raced ++ [(a, n)] } else x

/-- Bytes written into a memory tile; a granule covered in part is read first, one written whole is good again (R182,
R195). -/
def Cell.memWrite (c : Cell) (a : Nat) (bs : List Byte) : Cell :=
  let n := bs.length
  let c := (rmwGrans a n).foldl (fun c g => c.sense (8 * g) 8) c
  let part := fun (g : Nat) => !(decide (a ≤ 8 * g) && decide (8 * g + 8 ≤ a + n))
  let ready := (List.range 16).any (fun r => overlaps a n (0x10000 * r) 0x10000 && bit c.ready r)
  { c with mem := c.mem.writeBytes a bs, poison := c.poison.filter (fun g => part g.1), seen := c.seen.filter (fun g => part g.1)
           memErr := c.memErr.filter (fun g => part g.1), mt := Tab.update {} c.mt (fun _ x => x.race ready a n) }

/-! ### Commands -/

/-- The sixteen words of matrix command `i` (R86). -/
def Cell.mtCmd (c : Cell) (i : Nat) : List Nat :=
  (List.range 16).map (fun w => c.mem.readLe (c.cmdBase + 64 * i + 4 * w) 4)

/-- The fields of an MMA (R88), as codes and numbers. -/
structure Mma where
  fmtA : Nat
  layA : Nat
  fmtB : Nat
  layB : Nat
  pair : Bool
  split : Bool
  accInit : Nat
  srcA : Bool
  srcB : Bool
  kLen : Nat
  epi : Nat
  rFirst : Nat
  rCount : Nat
  rStep : Nat
  cFirst : Nat
  cCount : Nat
  aBase : Nat
  aPitch : Nat
  aChan : Nat
  bBase : Nat
  bPitch : Nat
  bChan : Nat
  asBase : Nat
  asPitch : Nat
  bsBase : Nat
  bsPitch : Nat
  accBase : Nat
  accPitch : Nat
  loBase : Nat
  deriving DecidableEq, Repr

/-- The fields of the words of an MMA (R88). -/
def Mma.ofWords (w : List Nat) : Mma :=
  let g := fun i hi lo => bits (w.getD i 0) hi lo
  { fmtA := g 0 11 8, layA := g 0 13 12, fmtB := g 0 17 14, layB := g 0 19 18, pair := g 0 20 20 == 1
    split := g 0 21 21 == 1, accInit := g 0 23 22, srcA := g 0 24 24 == 1, srcB := g 0 25 25 == 1
    kLen := g 1 19 0, epi := g 1 27 20, rFirst := g 2 11 0, rCount := g 2 21 12, rStep := g 2 31 22
    cFirst := g 3 11 0, cCount := g 3 21 12, aBase := g 4 11 0, aPitch := g 4 23 12, aChan := g 4 28 24
    bBase := g 5 11 0, bPitch := g 5 23 12, bChan := g 5 28 24, asBase := g 6 13 0, asPitch := g 6 27 14
    bsBase := g 7 13 0, bsPitch := g 7 27 14, accBase := g 8 11 0, accPitch := g 8 23 12, loBase := g 9 11 0 }

/-- The formats and layouts of an MMA where none is reserved (R91). -/
def Mma.types (m : Mma) (mx16 : Bool) : Option (Fmt × Fmt × Layout × Layout) :=
  match Fmt.ofCode m.fmtA, Fmt.ofCode m.fmtB, Layout.ofCode mx16 m.layA, Layout.ofCode mx16 m.layB with
  | some a, some b, some la, some lb => some (a, b, la, lb)
  | _, _, _, _ => none

/-- An entry number defined for the accumulator and mode (R156, R158). -/
def epiDefined (epi : Nat) (int pair : Bool) : Bool :=
  decide (bits epi 4 0 < 0x10) && (bit epi 7 == int) && (!bit epi 6 || pair) && !(bit epi 6 && bit epi 7)

/-- R91 for the words of an MMA. -/
def mmaWellFormed (f : ArrFeat) (w : List Nat) : Bool :=
  let m := Mma.ofWords w
  let z := fun i hi lo => bits (w.getD i 0) hi lo == 0
  match m.types f.mx16 with
  | none => false
  | some (a, b, la, lb) =>
    let int := dotIsInt a b la lb
    z 0 31 26 && z 1 31 28 && z 3 31 22 && z 4 31 29 && z 5 31 29 && z 6 31 28 && z 7 31 28 && z 8 31 24
      && z 9 31 12 && (List.range 6).all (fun i => w.getD (10 + i) 0 == 0)
      && decide (m.accInit ≠ 3)
      && a.dotGroup.isSome && decide (a.dotGroup = b.dotGroup) && a.layoutOk la && b.layoutOk lb
      && (!m.split || (decide (a = .fp32) && decide (b = .fp32)))
      && (!m.pair || (!int && f.pairAccum))
      && m.kLen % la.block == 0 && m.kLen % lb.block == 0
      && decide (1 ≤ m.rCount) && decide (1 ≤ m.rStep) && decide (1 ≤ m.cCount)
      && decide (m.rFirst + (m.rCount - 1) * m.rStep ≤ 4095) && decide (m.cFirst + m.cCount - 1 ≤ 4095)
      && (!m.srcA || (m.aBase == 0 && m.aPitch == 0 && m.asBase == 0 && m.asPitch == 0))
      && (!m.srcB || (m.bBase == 0 && m.bPitch == 0 && m.bsBase == 0 && m.bsPitch == 0))
      && (m.epi == 0xFF || epiDefined m.epi int m.pair)
      && (!(m.epi == 0xFF || m.accInit == 2) || (m.rCount == 1 && m.cCount == 1))

/-- R91 for the command at index `i`: opcode, reserved fields, LOOP's target, count and body. -/
def Cell.mtCmdOk (c : Cell) (f : ArrFeat) (i : Nat) : Bool :=
  let w := c.mtCmd i
  let w0 := w.getD 0 0
  let rest := (List.range 14).all (fun j => w.getD (2 + j) 0 == 0)
  match bits w0 7 0 with
  | 0 => bits w0 31 8 == 0 && w.getD 1 0 == 0 && rest
  | 1 => mmaWellFormed f w
  | 2 => bits w0 31 22 == 0 && rest
  | 3 => bits w0 31 22 == 0 && rest
  | 4 =>
    bits w0 31 20 == 0 && rest && decide (bits w0 19 8 < i) && decide (1 ≤ w.getD 1 0)
      && (List.range (i - bits w0 19 8)).all (fun j => bits ((c.mtCmd (bits w0 19 8 + j)).getD 0 0) 7 0 != 4)
  | _ => false

/-- What a fetch at a context's pointer meets (R86, R92, R196). -/
inductive MtFetch where
  | bad
  | poisoned (granules : List Nat)
  | cmd (opcode : Nat) (w : List Nat)
  deriving DecidableEq, Repr

/-- The fetch of the command at a context's pointer. -/
def Cell.mtFetch (c : Cell) (f : ArrFeat) (i : Nat) : MtFetch :=
  if c.cmdCount ≤ i then .bad
  else match c.poisoned (c.cmdBase + 64 * i) 64 with
    | [] => if c.mtCmdOk f i then .cmd (bits ((c.mtCmd i).getD 0 0) 7 0) (c.mtCmd i) else .bad
    | gs => .poisoned gs

/-- The MMA in a context's hand, else the fetch at its pointer (R86). -/
def Cell.mtFetched (c : Cell) (f : ArrFeat) (x : MtCtx) : MtFetch :=
  match x.cmd with
  | some w => .cmd 1 w
  | none => c.mtFetch f x.ptr

/-! ### Visiting order (R102) -/

/-- One level of the Hilbert map: fuel `k` levels from scale `s`. -/
def hilbertGo : Nat → Nat → Nat → Nat → Nat → Nat × Nat
  | 0, _, _, u, v => (u, v)
  | k + 1, s, t, u, v =>
    let ru := t / 2 % 2
    let rv := (t + ru) % 2
    let (u, v) := if rv = 0 then
        (let (u, v) := if ru = 1 then (s - 1 - u, s - 1 - v) else (u, v)
         (v, u))
      else (u, v)
    hilbertGo k (2 * s) (t / 4) (u + s * ru) (v + s * rv)

/-- The number of doublings until n ≥ m. -/
def log2Up (m : Nat) : Nat := if m ≤ 1 then 0 else Nat.log2 (m - 1) + 1

/-- hilbert(2^k, d) of R102. -/
def hilbert (k d : Nat) : Nat × Nat := hilbertGo k 1 d 0 0

/-- The grid positions of an MMA in visiting order (R102). -/
def visitOrder (rCount cCount : Nat) : List (Nat × Nat) :=
  let k := log2Up (max rCount cCount)
  ((List.range (4 ^ k)).map (hilbert k)).filter (fun p => decide (p.1 < rCount) && decide (p.2 < cCount))

/-! ### Computing a tile -/

/-- c of R99: A-cycles per k-step. -/
def mmaC (a b : Fmt) (split : Bool) : Nat :=
  let one : Fmt → Nat := fun f => match f with
    | .e2m1 | .e3m2 | .e2m3 | .int4 => 1
    | .e4m3 | .e5m2 | .int8 => 2
    | .fp16 | .bf16 => 4
    | _ => if split then 12 else 32
  max (one a) (one b)

/-- What running a tile met. `late` leaves the context waiting; the others fault it. -/
inductive TileEnd where
  | done
  | late
  | overflow (addr : Nat)
  | poisoned (granules : List Nat)
  deriving DecidableEq, Repr

/-- The depth field of a channel's entry (R206). -/
def Cell.chanDepth (c : Cell) (ch : Nat) : Nat := bits (Tab.get 0 c.chanCfg ch) 13 6

/-- The stream words needed so that `stage` holds `need` bytes are taken from a channel, as far as it has them. Answers
the cell, the stage and the circuits to which a credit goes back (R97, R209). A channel shallower than the `unit` of
words its consumer removes at once never satisfies it (R212, R213). -/
def Cell.takeStream (c : Cell) (ch : Nat) (stage : List Byte) (need unit : Nat) : Cell × List Byte × List Nat :=
  let x := c.chan ch
  let n := if c.chanDepth ch < unit then 0 else min x.fifo.length (ceilDiv (need - stage.length) 128)
  let ws := x.fifo.take n
  (c.setChan ch { x with fifo := x.fifo.drop n, evtWords := (x.evtWords + n) % 2 ^ 48
                         waitRun := if n = 0 then x.waitRun else 0 },
   stage ++ ws.flatMap SWord.data, ws.map SWord.circuit)

/-- Bytes read of a range during an MMA: a byte of a range raced is an open value, one for each read (R111, log 69).
`draw` is the free value of the run and `at_` the place of the read in it. -/
def MtCtx.racedBytes (x : MtCtx) (draw at_ a : Nat) (bs : List Byte) : List Byte :=
  if x.raced = [] then bs
  else ((List.range bs.length).zip bs).map (fun ib =>
    if x.raced.any (fun r => overlaps r.1 r.2 (a + ib.1) 1) then Config.racedByte draw at_ (a + ib.1) else ib.2)

/-- A memory-tile range read for an MMA: overflowing, late, poisoned, or its bytes (R103, R109, R196). Every 256-byte block
that holds a byte of it is read whole (R178). -/
def Cell.operand (c : Cell) (x : MtCtx) (draw at_ a n : Nat) : Cell × TileEnd × List Byte :=
  if c.mtOverflows a n then (c, .overflow a, [])
  else if !c.rangeReady a n then (c, .late, [])
  else
    let (b, l) := wideSpan a n
    let c := c.sense b l
    match c.poisoned b l with
    | [] => (c, .done, x.racedBytes draw at_ a (c.mem.readBytes a n))
    | gs => (c, .poisoned gs, [])

/-- Where an operand of an output tile comes from and how it is cut (R88, R95 to R97): a stream channel, or the first byte
of its element panel and of its scale panel; `side` is 0 for A and 1 for B. -/
structure OpSrc where
  side : Nat
  stream : Bool
  ch : Nat
  lay : Layout
  panel : Nat
  spanel : Nat
  sliceLen : Nat
  scaleLen : Nat
  deriving DecidableEq, Repr

/-- The sources of A and B at grid position (u, v). -/
def Mma.srcOfA (m : Mma) (fa : Fmt) (la : Layout) (u : Nat) : OpSrc :=
  { side := 0, stream := m.srcA, ch := m.aChan, lay := la, panel := 256 * m.aBase + 256 * u * m.aPitch
    spanel := 64 * m.asBase + 64 * u * m.asPitch, sliceLen := 16 * fa.width, scaleLen := 128 }
def Mma.srcOfB (m : Mma) (fb : Fmt) (lb : Layout) (v : Nat) : OpSrc :=
  { side := 1, stream := m.srcB, ch := m.bChan, lay := lb, panel := 256 * m.bBase + 256 * v * m.bPitch
    spanel := 64 * m.bsBase + 64 * v * m.bsPitch, sliceLen := 8 * fb.width, scaleLen := 64 }

/-- K-step `k` begins a block of the operand: its scale slice comes with it (R56, R97, R103). -/
def OpSrc.scaled (o : OpSrc) (k : Nat) : Bool := decide (o.lay ≠ .unblocked) && k % o.lay.block == 0

/-- Bytes a stream operand needs for k-step `k` (R97). -/
def OpSrc.need (o : OpSrc) (k : Nat) : Nat := (if o.scaled k then o.scaleLen else 0) + o.sliceLen

/-- What fetching an operand leaves: the cell, the outcome, the staged k-steps, the stream bytes left over, and the circuits
owed a credit. -/
structure Fetched where
  c : Cell
  fin : TileEnd := .done
  head : List KSlice
  raw : List Byte
  credits : List Nat := []
  deriving DecidableEq, Repr

/-- K-step `k` of an operand fetched onto the end of its staged head (R95 to R97, R103). -/
def Cell.fetchStep (c : Cell) (o : OpSrc) (x : MtCtx) (draw k : Nat) (head : List KSlice) (raw : List Byte) : Fetched :=
  if o.stream then
    let (c, st, cr) := c.takeStream o.ch raw (o.need k) (ceilDiv (o.need k) 128)
    if st.length < o.need k then { c := c, fin := .late, head := head, raw := st, credits := cr }
    else
      let s := o.need k - o.sliceLen
      { c := c, head := head ++ [{ data := (st.drop s).take o.sliceLen, scale := st.take s }], raw := st.drop (o.need k)
        credits := cr }
  else
    let at_ := 4 * k + o.side
    match c.operand x draw at_ (o.panel + k * o.sliceLen) o.sliceLen with
    | (c, .done, bs) =>
      if o.scaled k then
        match c.operand x draw (at_ + 2) (o.spanel + k / o.lay.block * o.scaleLen) o.scaleLen with
        | (c, .done, ss) => { c := c, head := head ++ [{ data := bs, scale := ss }], raw := raw }
        | (c, e, _) => { c := c, fin := e, head := head, raw := raw }
      else { c := c, head := head ++ [{ data := bs }], raw := raw }
    | (c, e, _) => { c := c, fin := e, head := head, raw := raw }

/-- K-steps from `k` on fetched onto a staged head, one after the other, until `n` more are staged or one is late or
faults. -/
def Cell.fetchSteps (o : OpSrc) (x : MtCtx) (draw : Nat) : Nat → Cell → Nat → List KSlice → List Byte → Fetched
  | 0, c, _, head, raw => { c := c, head := head, raw := raw }
  | n + 1, c, k, head, raw =>
    let r := c.fetchStep o x draw k head raw
    if r.fin = .done then
      let t := Cell.fetchSteps o x draw n r.c (k + 1) r.head r.raw
      { t with credits := r.credits ++ t.credits }
    else r

/-- Both operands of a context's next `n` k-steps staged: those that are not yet are fetched (R104). -/
def Cell.stageSteps (c : Cell) (oa ob : OpSrc) (x : MtCtx) (draw n : Nat) : Cell × MtCtx × TileEnd × List Nat :=
  let a := Cell.fetchSteps oa x draw (n - x.headA.length) c (x.kpos + x.headA.length) x.headA x.rawA
  let x := { x with headA := a.head, rawA := a.raw }
  let b := Cell.fetchSteps ob x draw (n - x.headB.length) a.c (x.kpos + x.headB.length) x.headB x.rawB
  (b.c, { x with headB := b.head, rawB := b.raw },
   if a.fin = .done ∨ (a.fin = .late ∧ b.fin ≠ .done) then b.fin else a.fin, a.credits ++ b.credits)

/-- One output element's accumulators over one block. -/
structure ElemAcc where
  acc : Nat
  lo : Nat
  cond : Cond
  deriving DecidableEq, Repr

/-- A block applied to one element (R63, R67). -/
def elemStep (int split pair : Bool) (ia ib : List Int) (k : Block) (acc lo : Nat) : ElemAcc :=
  if int then
    let (r, c) := dotInt [(ia, ib)] acc
    { acc := r, lo := lo, cond := c }
  else
    let (r, l, c) := dot split pair [k] acc lo
    { acc := r, lo := l, cond := c }

/-- All 8,192 elements advanced by one block of `n` k-steps: rows of A, columns of B, their scale bytes (R82). -/
def blockStep (fa fb : Fmt) (la lb : Layout) (split pair : Bool) (n : Nat) (a b : KSlice)
    (acc lo : List Word) : List Word × List Word × Cond :=
  let int := dotIsInt fa fb la lb
  let sa := 16 * fa.width
  let sb := 8 * fb.width
  let el := fun (f : Fmt) (bs : List Byte) (sz i t : Nat) => streamElem ((bs.drop (t * sz)).take sz) f.width i
  let rows := (List.range 128).map (fun i => (i, (List.range n).map (fun t => el fa a.data sa i t)))
  let cols := (List.range 64).map (fun j => (j, (List.range n).map (fun t => el fb b.data sb j t)))
  let pairs := rows.flatMap (fun r => cols.map (fun q => (r, q)))
  let res := List.zipWith (fun (p : (Nat × List Nat) × (Nat × List Nat)) (al : Word × Word) =>
      elemStep int split pair (p.1.2.map (sext fa.width)) (p.2.2.map (sext fb.width))
        { a := p.1.2.map (FVal.decode fa), b := p.2.2.map (FVal.decode fb)
          ea := if la = .unblocked then 127 else byteAt a.scale p.1.1
          eb := if lb = .unblocked then 127 else byteAt b.scale p.2.1 }
        al.1.toNat al.2.toNat) pairs (acc.zip lo)
  (res.map (fun r => BitVec.ofNat 32 r.acc), res.map (fun r => BitVec.ofNat 32 r.lo),
   res.foldl (fun c r => c.or r.cond) Cond.none)

/-- The k-steps of a block joined, with the scale slice in force: the last one that came with a k-step, else the one from
before (R62, R96). -/
def joinBlock (scl : List Byte) (ks : List KSlice) : KSlice :=
  { data := ks.flatMap KSlice.data, scale := ks.foldl (fun s k => if k.scale = [] then s else k.scale) scl }

/-- The canonical NaN on loading an FP32 accumulator, and invalid for a signalling one (R93). -/
def loadAcc (int : Bool) (bs : List Byte) : List Word × Cond :=
  let ws := (List.range 8192).map (fun i => leAt bs (4 * i) 4)
  if int then (ws.map (BitVec.ofNat 32), Cond.none)
  else
    (ws.map (fun w => BitVec.ofNat 32 (if (FVal.decode .fp32 w).isNan then canonNan else w)),
     { inv := ws.any (fun w => (FVal.decode .fp32 w).isSnan) })

/-- 8,192 zero words. -/
def zeroTile : List Word := List.replicate 8192 0#32

/-- The starting accumulator put in place (R93, R94): CLEAR, LOAD or KEEP. With KEEP in pair mode after a HOLD without
pair, lo0 is what the context's lo holds (log 67). -/
def Cell.mmaBegin (c : Cell) (m : Mma) (int : Bool) (u v : Nat) (x : MtCtx) (draw : Nat) : Cell × TileEnd × MtCtx × Nat :=
  match m.accInit with
  | 1 =>
    let t := u * m.cCount + v
    match c.operand x draw (4 * m.kLen) (256 * m.accBase + 256 * t * m.accPitch) 32768 with
    | (c, .done, bs) =>
      let (c, e, ls) := if m.pair then c.operand x draw (4 * m.kLen + 1) (256 * m.loBase + 256 * t * m.accPitch) 32768
        else (c, .done, [])
      if e = .done then
        let (acc, c1) := loadAcc int bs
        let (lo, c2) := if m.pair then loadAcc false ls else (zeroTile, Cond.none)
        (c, .done, { x with acc := acc, lo := lo, begun := true, holds := false, tag := (c1.or c2).toBits },
         if m.pair then 256 else 128)
      else (c, e, x, 0)
    | (c, e, _) => (c, e, x, 0)
  | 2 => (c, .done, { x with begun := true, tag := 0, lo := if x.lo = [] then zeroTile else x.lo }, 0)
  | _ => (c, .done, { x with acc := zeroTile, lo := zeroTile, begun := true, holds := false, tag := 0 }, 0)

/-- One staged k-step issued: it joins its block, and the block is applied once it is whole or the tile's last (R63, R67,
R82). Cycles are counted by R99 and R112. -/
def Cell.issue (c : Cell) (m : Mma) (fa fb : Fmt) (la lb : Layout) (x : MtCtx) : Cell × MtCtx :=
  let L := dotL fa la lb m.split
  let x := { x with blkA := x.blkA ++ x.headA.take 1, blkB := x.blkB ++ x.headB.take 1, headA := x.headA.drop 1
                    headB := x.headB.drop 1, kpos := x.kpos + 1 }
  let c := (c.count .mtCycIssue (mmaC fa fb m.split)).count .mtEvtKsteps 1
  if x.kpos % L = 0 ∨ x.kpos = m.kLen then
    let a := joinBlock x.sclA x.blkA
    let b := joinBlock x.sclB x.blkB
    let (acc, lo, cond) := blockStep fa fb la lb m.split m.pair x.blkA.length a b x.acc x.lo
    (if m.pair then c.count .mtCycPair 1 else c,
     { x with acc := acc, lo := lo, blkA := [], blkB := [], sclA := a.scale, sclB := b.scale, tag := x.tag ||| cond.toBits })
  else (c, x)

/-- K-steps issued one after the other, each once its operands are staged, until the tile is complete, a k-step is late, or
an access faults (R82, R103). Fuel bounds their number. -/
def Cell.mmaSteps (m : Mma) (fa fb : Fmt) (la lb : Layout) (oa ob : OpSrc) (draw : Nat) :
    Nat → Cell → MtCtx → List Nat → Cell × MtCtx × TileEnd × List Nat
  | 0, c, x, cr => (c, x, .done, cr)
  | fuel + 1, c, x, cr =>
    if m.kLen ≤ x.kpos then (c, x, .done, cr)
    else
      match c.stageSteps oa ob x draw 1 with
      | (c, x, .done, cr1) =>
        let (c, x) := c.issue m fa fb la lb x
        Cell.mmaSteps m fa fb la lb oa ob draw fuel c x (cr ++ cr1)
      | (c, x, e, cr1) => (c, x, e, cr ++ cr1)

/-- The current output tile of a context's MMA run to its end or until it is late or faults. -/
def Cell.mmaTile (c : Cell) (m : Mma) (fa fb : Fmt) (la lb : Layout) (x : MtCtx) (draw : Nat) :
    Cell × MtCtx × TileEnd × List Nat :=
  let (u, v) := (visitOrder m.rCount m.cCount).getD x.visit (0, 0)
  match (if x.begun then (c, TileEnd.done, x, 0) else c.mmaBegin m (dotIsInt fa fb la lb) u v x draw) with
  | (c, .done, x, ld) =>
    Cell.mmaSteps m fa fb la lb (m.srcOfA fa la u) (m.srcOfB fb lb v) draw (m.kLen + 1) (c.count .mtCycLoad ld) x []
  | (c, e, x, _) => (c, x, e, [])

end Sys2Proof.Machine
end

