-- ==== Sys2Proof/Machine/Transcend.lean ====
section
/-!
DEFINITION. Sys2Proof/Machine/Transcend.lean: FP32 arithmetic with one rounding (R136) and the correctly rounded
transcendental functions (R137, R138). A function value that no FP32 holds exactly is formed in fixed point with 400
fraction bits and rounded once from there (log 6).
-/
namespace Sys2Proof

/-- The flag bit of divide-by-zero (R144). -/
def dzFlag : Nat := 16

/-- Fraction bits of the working precision. -/
def fixP : Nat := 400

/-- ln 2, π and 2/√π, times 2^400, truncated. -/
def fixLn2 : Nat :=
  0xb17217f7d1cf79abc9e3b39803f2f6af40f343267298b62d8a0d175b8baafa2be7b876206debac98559552fb4afa1b10ed2e
def fixTwoOverSqrtPi : Nat :=
  0x120dd750429b6d11ae3a914fed7fd8688281341d7587cea2e7342b06199cc416180eb39f0b24e1e2281806c12d98f35d77a3e

/-- Digit by digit integer square root: fuel is the number of result bits. -/
def isqrtGo (n : Nat) : Nat → Nat → Nat
  | 0, r => r
  | k + 1, r => if (r + 2 ^ k) * (r + 2 ^ k) ≤ n then isqrtGo n k (r + 2 ^ k) else isqrtGo n k r

/-- floor(√n). -/
def isqrt (n : Nat) : Nat := isqrtGo n (Nat.log2 n / 2 + 1) 0

/-- FP32 rounding whose result flags are the four of R52 as bits. -/
def round32 (mode : RMode) (sat : Bool) (r16 : Nat) (v : FVal) : Nat × Nat :=
  match v with
  | .nan _ => (canonNan, 0)
  | .inf s => (Fmt.signed .fp32 s 0x7F800000, 0)
  | .fin _ _ _ =>
    let (x, c) := roundFloat .fp32 mode sat r16 v
    (x, c.toBits)

/-- An irrational magnitude just above m × 2^e rounded RNE: always inexact. -/
def roundApprox (neg : Bool) (m : Nat) (e : Int) : Nat × Nat := round32 .rne false 0 (.fin neg (2 * m + 1) (e - 1))

/-- The invalid operation: the canonical NaN and flag invalid. -/
def invalid32 : Nat × Nat := (canonNan, 1)

/-- A NaN among the operands: canonical NaN, invalid for a signalling one (R35). -/
def nanResult (vs : List FVal) : Nat × Nat := (canonNan, if vs.any FVal.isSnan then 1 else 0)

/-- x + y rounded once (R136). -/
def fadd32 (mode : RMode) (sat : Bool) (r16 a b : Nat) : Nat × Nat :=
  let x := FVal.decode .fp32 a
  let y := FVal.decode .fp32 b
  match x, y with
  | .nan _, _ => nanResult [x, y]
  | _, .nan _ => nanResult [x, y]
  | .inf s, .inf t => if s = t then (a, 0) else invalid32
  | .inf _, _ => (a, 0)
  | _, .inf _ => (b, 0)
  | .fin s m _, .fin t n _ =>
    let z := x.dy.add y.dy
    if z.n = 0 then (if s && t && decide (m = 0) && decide (n = 0) then negZero32 else 0, 0)
    else round32 mode sat r16 z.toF

/-- The sign bit of an FP32 encoding inverted. -/
def flipSign (a : Nat) : Nat := if a % 2 ^ 32 < 2 ^ 31 then a % 2 ^ 32 + 2 ^ 31 else a % 2 ^ 32 - 2 ^ 31

/-- x − y rounded once. -/
def fsub32 (mode : RMode) (sat : Bool) (r16 a b : Nat) : Nat × Nat :=
  if (FVal.decode .fp32 b).isNan then nanResult [FVal.decode .fp32 a, FVal.decode .fp32 b]
  else fadd32 mode sat r16 a (flipSign b)

/-- x × y rounded once. -/
def fmul32 (mode : RMode) (sat : Bool) (r16 a b : Nat) : Nat × Nat :=
  let x := FVal.decode .fp32 a
  let y := FVal.decode .fp32 b
  match x, y with
  | .nan _, _ => nanResult [x, y]
  | _, .nan _ => nanResult [x, y]
  | .inf s, .inf t => (Fmt.signed .fp32 (s != t) 0x7F800000, 0)
  | .inf s, .fin t n _ => if n = 0 then invalid32 else (Fmt.signed .fp32 (s != t) 0x7F800000, 0)
  | .fin s m _, .inf t => if m = 0 then invalid32 else (Fmt.signed .fp32 (s != t) 0x7F800000, 0)
  | .fin s m e, .fin t n f => round32 mode sat r16 (.fin (s != t) (m * n) (e + f))

/-- x × y + z formed exactly and rounded once. -/
def ffma32 (mode : RMode) (sat : Bool) (r16 a b c : Nat) : Nat × Nat :=
  let x := FVal.decode .fp32 a
  let y := FVal.decode .fp32 b
  let z := FVal.decode .fp32 c
  if x.isNan || y.isNan || z.isNan then
    (canonNan, if [x, y, z].any FVal.isSnan || ((x.isInf && y.isZero) || (x.isZero && y.isInf)) then 1 else 0)
  else if (x.isInf && y.isZero) || (x.isZero && y.isInf) then invalid32
  else
    let ps := x.neg? != y.neg?
    if x.isInf || y.isInf then
      (match z with
       | .inf t => if t = ps then (c, 0) else invalid32
       | _ => (Fmt.signed .fp32 ps 0x7F800000, 0))
    else if z.isInf then (c, 0)
    else
      let p := x.dy.mul y.dy
      let t := p.add z.dy
      if t.n = 0 then (if ps && z.neg? && decide (p.n = 0) && z.isZero then negZero32 else 0, 0)
      else round32 mode sat r16 t.toF

/-- A quotient of naturals with 80 bits beyond the divisor and a sticky bit. -/
def stickyDiv (m n : Nat) : Nat × Int :=
  let s := 80 + Nat.log2 n
  let q := (m <<< s) / n
  (2 * q + (if (m <<< s) % n = 0 then 0 else 1), - (s : Int) - 1)

/-- x / y correctly rounded. -/
def fdiv32 (mode : RMode) (sat : Bool) (a b : Nat) : Nat × Nat :=
  let x := FVal.decode .fp32 a
  let y := FVal.decode .fp32 b
  match x, y with
  | .nan _, _ => nanResult [x, y]
  | _, .nan _ => nanResult [x, y]
  | .inf _, .inf _ => invalid32
  | .inf s, .fin t _ _ => (Fmt.signed .fp32 (s != t) 0x7F800000, 0)
  | .fin s _ _, .inf t => (Fmt.signed .fp32 (s != t) 0, 0)
  | .fin s m e, .fin t n f =>
    if n = 0 then (if m = 0 then invalid32 else (Fmt.signed .fp32 (s != t) 0x7F800000, dzFlag))
    else if m = 0 then (Fmt.signed .fp32 (s != t) 0, 0)
    else
      let (q, g) := stickyDiv m n
      round32 mode sat 0 (.fin (s != t) q (e - f + g))

/-- A magnitude written with an even exponent. -/
def evenExp (m : Nat) (e : Int) : Nat × Int := if e % 2 = 0 then (m, e) else (2 * m, e - 1)

/-- √x correctly rounded. -/
def fsqrt32 (mode : RMode) (sat : Bool) (a : Nat) : Nat × Nat :=
  match FVal.decode .fp32 a with
  | .nan s => (canonNan, if s then 1 else 0)
  | .inf s => if s then invalid32 else (a, 0)
  | .fin s m e =>
    if m = 0 then (a, 0)
    else if s then invalid32
    else
      let (m, e) := evenExp m e
      let n := m <<< 160
      let r := isqrt n
      round32 mode sat 0 (.fin false (2 * r + (if r * r = n then 0 else 1)) (e / 2 - 81))

/-- The sign cleared; a NaN gives the canonical NaN (R136). -/
def fabs32 (a : Nat) : Nat × Nat :=
  match FVal.decode .fp32 a with
  | .nan s => (canonNan, if s then 1 else 0)
  | _ => (a % 2 ^ 31, 0)

/-- The sign inverted; a NaN gives the canonical NaN. -/
def fneg32 (a : Nat) : Nat × Nat :=
  match FVal.decode .fp32 a with
  | .nan s => (canonNan, if s then 1 else 0)
  | _ => (flipSign a, 0)

/-- Rounded to an integral FP32 value; inexact where the value changes. -/
def frnd32 (mode : RMode) (r16 a : Nat) : Nat × Nat :=
  match FVal.decode .fp32 a with
  | .nan s => (canonNan, if s then 1 else 0)
  | .inf _ => (a, 0)
  | .fin s m e =>
    let (t, exact) := roundGrid mode r16 m e 0
    (if t = 0 then Fmt.signed .fp32 s 0 else (roundFloat .fp32 .rne false 0 (.fin s t 0)).1, if exact then 0 else 8)

/-! ### Fixed-point functions of 400 fraction bits -/

/-- Σ r^n / n!, one term per unit of fuel. -/
def expSeries (r : Nat) : Nat → Nat → Nat → Nat → Nat
  | 0, _, _, s => s
  | k + 1, n, t, s =>
    let t' := (t * r / n) >>> fixP
    expSeries r k (n + 1) t' (s + t')

/-- e^r for 0 ≤ r < 1. -/
def expFix (r : Nat) : Nat := expSeries r 100 1 (2 ^ fixP) (2 ^ fixP)

/-- e^y for any y ≥ 0. -/
def expBig (y : Nat) : Nat := expFix (y % fixLn2) <<< (y / fixLn2)

/-- Σ z^(2n+1)/(2n+1). -/
def atanhSeries (z2 : Nat) : Nat → Nat → Nat → Nat → Nat
  | 0, _, _, s => s
  | k + 1, n, t, s =>
    let t' := (t * z2) >>> fixP
    atanhSeries z2 k (n + 2) t' (s + t' / n)

/-- The magnitude of ln(p/q) for p/q in [2/3, 3/2]: 2 atanh(|p − q| / (p + q)). -/
def lnRatio (p q : Nat) : Nat :=
  let z := ((if q ≤ p then p - q else q - p) <<< fixP) / (p + q)
  2 * atanhSeries ((z * z) >>> fixP) 160 3 z z

/-- Σ (−x²)^n / (n! (2n+1)): alternating, in integers. -/
def erfSeries (x2 : Nat) : Nat → Nat → Int → Int → Int
  | 0, _, _, s => s
  | k + 1, n, t, s =>
    let t' : Int := - (t * x2 / ((n : Int) * (2 ^ fixP : Nat)))
    erfSeries x2 k (n + 1) t' (s + t' / (2 * n + 1))

/-- A magnitude in fixed point (exact for FP32 magnitudes below 2^24). -/
def toFix (m : Nat) (e : Int) : Nat :=
  if 0 ≤ e + fixP then m <<< (e + fixP).toNat else m >>> (- (e + fixP)).toNat

/-- 2^x (R137, R138). -/
def fexp2 (a : Nat) : Nat × Nat :=
  match FVal.decode .fp32 a with
  | .nan s => (canonNan, if s then 1 else 0)
  | .inf s => if s then (0, 0) else (0x7F800000, 0)
  | .fin s m e =>
    if m = 0 then (0x3F800000, 0)
    else if 8 ≤ floorLog2 m e then
      (if s then roundApprox false 1 (-300) else round32 .rne false 0 (.fin false 1 300))
    else
      let x : Int := if s then - (toFix m e : Int) else (toFix m e : Int)
      let n := x / (2 ^ fixP : Nat)
      let f := (x % (2 ^ fixP : Nat)).toNat
      if f = 0 then round32 .rne false 0 (.fin false 1 n)
      else roundApprox false (expFix ((f * fixLn2) >>> fixP)) (n - fixP)

/-- log2 x (R137, R138). -/
def flog2 (a : Nat) : Nat × Nat :=
  match FVal.decode .fp32 a with
  | .nan s => (canonNan, if s then 1 else 0)
  | .inf s => if s then invalid32 else (a, 0)
  | .fin s m e =>
    if m = 0 then (0xFF800000, dzFlag)
    else if s then invalid32
    else
      let l := Nat.log2 m
      let n : Int := floorLog2 m e
      if m = 2 ^ l then round32 .rne false 0 (FVal.ofInt n)
      else
        let up := decide (3 * 2 ^ l < 2 * m)
        let q := if up then 2 ^ (l + 1) else 2 ^ l
        let n := if up then n + 1 else n
        let lg := (lnRatio m q <<< fixP) / fixLn2
        let v : Int := n * (2 ^ fixP : Nat) + (if q ≤ m then (lg : Int) else - (lg : Int))
        roundApprox (decide (v < 0)) v.natAbs (- (fixP : Int))

/-- 1/√x (R137, R138). -/
def frsqrt (a : Nat) : Nat × Nat :=
  match FVal.decode .fp32 a with
  | .nan s => (canonNan, if s then 1 else 0)
  | .inf s => if s then invalid32 else (0, 0)
  | .fin s m e =>
    if m = 0 then (Fmt.signed .fp32 s 0x7F800000, dzFlag)
    else if s then invalid32
    else
      let (m, e) := evenExp m e
      let l := Nat.log2 m
      if m = 2 ^ l ∧ l % 2 = 0 then round32 .rne false 0 (.fin false 1 (- (e / 2) - (l / 2 : Nat)))
      else roundApprox false (isqrt (2 ^ (2 * fixP) / m)) (- (e / 2) - fixP)

/-- tanh x (R137, R138). -/
def ftanh (a : Nat) : Nat × Nat :=
  match FVal.decode .fp32 a with
  | .nan s => (canonNan, if s then 1 else 0)
  | .inf s => (Fmt.signed .fp32 s 0x3F800000, 0)
  | .fin s m e =>
    if m = 0 then (a, 0)
    else if 4 ≤ floorLog2 m e then round32 .rne false 0 (.fin s (2 ^ 80 - 1) (-80))
    else if floorLog2 m e < -60 then round32 .rne false 0 (.fin s (m * 2 ^ 90 - 1) (e - 90))
    else
      let t := expBig (2 * toFix m e)
      roundApprox s (((t - 2 ^ fixP) <<< fixP) / (t + 2 ^ fixP)) (- (fixP : Int))

/-- 1/(1 + e^−x) (R137, R138). -/
def fsigm (a : Nat) : Nat × Nat :=
  match FVal.decode .fp32 a with
  | .nan s => (canonNan, if s then 1 else 0)
  | .inf s => (if s then 0 else 0x3F800000, 0)
  | .fin s m e =>
    if m = 0 then (0x3F000000, 0)
    else if 8 ≤ floorLog2 m e then
      (if s then roundApprox false 1 (-300) else round32 .rne false 0 (.fin false (2 ^ 80 - 1) (-80)))
    else
      let t := expBig (toFix m e)
      let one := 2 ^ fixP
      roundApprox false (if s then (one <<< fixP) / (one + t) else (t <<< fixP) / (one + t)) (- (fixP : Int))

/-- erf x (R137, R138). -/
def ferf (a : Nat) : Nat × Nat :=
  match FVal.decode .fp32 a with
  | .nan s => (canonNan, if s then 1 else 0)
  | .inf s => (Fmt.signed .fp32 s 0x3F800000, 0)
  | .fin s m e =>
    if m = 0 then (a, 0)
    else if 2 ≤ floorLog2 m e then round32 .rne false 0 (.fin s (2 ^ 80 - 1) (-80))
    else
      let x := toFix m e
      let ser := erfSeries ((x * x) >>> fixP) 200 1 (2 ^ fixP : Nat) (2 ^ fixP : Nat)
      roundApprox s (m * ((fixTwoOverSqrtPi * ser.toNat) >>> fixP)) (e - fixP)

end Sys2Proof
end

