-- ==== Sys2Proof/Machine/VectorOps.lean ====
section
/-!
DEFINITION. Sys2Proof/Machine/VectorOps.lean: what one vector instruction does inside its cell (ch. 05): fields,
well-formedness, the register partition, masking, element-wise operations, reductions, loads and stores of the local
space.
-/
namespace Sys2Proof.Machine
open Sys2Proof

/-- One round of rng32 (R353). -/
def rngRound (x k : Nat) : Nat :=
  let x := (x + k) % 2 ^ 64
  let x := x ^^^ (x >>> 29)
  let x := (x * 0xC2B53D9184A7E66F) % 2 ^ 64
  x ^^^ (x >>> 32)

/-- The six rounds of rng32. -/
def rngGo : Nat → Nat → Nat → Nat
  | 0, x, _ => x
  | n + 1, x, k => rngGo n (rngRound x k) ((k + 0xA3C59AC32F6B1D47) % 2 ^ 64)

/-- The counter-based generator (R353). -/
def rng32 (seed c : Nat) : Nat := bits (rngGo 6 (c % 2 ^ 64) (seed % 2 ^ 64)) 63 32

/-- The fields of a vector instruction (R122): `lo` is bits [31:0], `imm` bits [63:32]. -/
structure VInstr where
  lo : Nat
  imm : Nat
  deriving DecidableEq, Repr

namespace VInstr
def op (i : VInstr) : Nat := bits i.lo 7 0
def vd (i : VInstr) : Nat := bits i.lo 10 8
def vs1 (i : VInstr) : Nat := bits i.lo 13 11
def vs2 (i : VInstr) : Nat := bits i.lo 16 14
def vs3 (i : VInstr) : Nat := bits i.lo 19 17
def mreg (i : VInstr) : Nat := bits i.lo 21 20
def mmode (i : VInstr) : Nat := bits i.lo 23 22
def fmt (i : VInstr) : Nat := bits i.lo 27 24
def rnd (i : VInstr) : Nat := bits i.lo 29 28
def sat (i : VInstr) : Bool := bit i.lo 30
def sc (i : VInstr) : Bool := bit i.lo 31
def ar (i : VInstr) : Nat := bits i.lo 12 11
def dir (i : VInstr) : Bool := bit i.lo 13
def lay (i : VInstr) : Nat := bits i.lo 15 14
def smode (i : VInstr) : Bool := bit i.lo 16
/-- The rounding mode the field codes (RNE for the reserved code, which no well-formed instruction has). -/
def mode (i : VInstr) : RMode := (RMode.ofCode i.rnd).getD .rne
end VInstr

/-- What R122 to R142 fix for an opcode: the bits of [31:8] it uses, the bits of imm it uses, the rounding codes and
the formats it accepts, and whether it needs a block layout. -/
structure VSpec where
  mask : Nat
  imm : Nat := 0
  rnds : List Nat := [0]
  fmts : List Nat := [0]
  blocked : Bool := false
  deriving DecidableEq, Repr

/-- Formats a load or receive accepts, a store or send accepts, and a block accepts (R132, R54). -/
def loadFmts : List Nat := [0, 1, 2, 3, 4, 5, 6, 7, 8, 9, 10, 11]
def storeFmts : List Nat := [0, 1, 2, 3, 4, 5, 6, 7, 8, 9, 10]
def blockFmts : List Nat := [3, 4, 5, 6, 7, 8, 9]

/-- Field masks of class A (R122): vd, md, vs1, a mask in vs1, vs2, a mask in vs2, vs3, mk with mmode, rnd, sat, sc. -/
def fVd : Nat := 0x700
def fMd : Nat := 0x300
def fVs1 : Nat := 0x3800
def fMs1 : Nat := 0x1800
def fVs2 : Nat := 0x1C000
def fMs2 : Nat := 0xC000
def fVs3 : Nat := 0xE0000
def fM : Nat := 0xF00000
def fFmt : Nat := 0xF000000
def fRnd : Nat := 0x30000000
def fSat : Nat := 0x40000000
def fSc : Nat := 0x80000000
/-- Field masks of class M: ar, dir, lay, smode. -/
def fAr : Nat := 0x1800
def fDir : Nat := 0x2000
def fLay : Nat := 0xC000
def fSmode : Nat := 0x10000

/-- The table entries of R130 to R142; none for a reserved opcode. -/
def vspec (op : Nat) : Option VSpec :=
  let all : Nat := 0xFFFFFFFF
  let bin : VSpec := { mask := fVd ||| fVs1 ||| fVs2 ||| fM ||| fSc, imm := all }
  let un : VSpec := { mask := fVd ||| fVs1 ||| fM }
  let cmp : VSpec := { mask := fMd ||| fVs1 ||| fVs2 ||| fM ||| fSc, imm := all }
  match op with
  | 0x00 => some { mask := 0 }
  | 0x01 | 0x02 => some { mask := 0x3FFF00, imm := all }
  | 0x03 => some { mask := 0x1FFF00, imm := all }
  | 0x04 => some { mask := 0, imm := all }
  | 0x05 => some { mask := 0x300, imm := 0xFFFFF }
  | 0x06 => some { mask := 0x300, imm := all }
  | 0x07 => some { mask := 0x100, imm := all }
  | 0x08 => some { mask := 0 }
  | 0x09 => some { mask := 0, imm := 0xFFFF }
  | 0x0A => some { mask := 0 }
  | 0x10 => some { mask := fVd ||| fAr ||| fM ||| fFmt, imm := 0x3FFFF, fmts := loadFmts }
  | 0x11 => some { mask := fVd ||| fAr ||| fM ||| fFmt ||| fRnd ||| fSat, imm := 0x3FFFF, rnds := [0, 1, 2]
                   fmts := storeFmts }
  | 0x12 => some { mask := fVd ||| fAr ||| fLay ||| fM ||| fFmt, imm := 0x3FFFFFFF, fmts := blockFmts, blocked := true }
  | 0x13 => some { mask := fVd ||| fAr ||| fLay ||| fSmode ||| fM ||| fFmt ||| fRnd ||| fSat, imm := 0x3FFFFFFF
                   rnds := [0, 1, 2], fmts := blockFmts, blocked := true }
  | 0x14 | 0x15 => some { mask := fMd ||| fAr ||| fM, imm := 0x3FFFF }
  | 0x16 => some { mask := fVd ||| fM ||| fFmt, imm := 0x1F, fmts := loadFmts }
  | 0x17 => some { mask := fVd ||| fM ||| fFmt ||| fRnd ||| fSat, imm := 0x1F, rnds := [0, 1, 2], fmts := storeFmts }
  | 0x18 => some { mask := fAr ||| fDir, imm := 0x1FF }
  | 0x20 | 0x21 | 0x22 => some { bin with mask := bin.mask ||| fRnd ||| fSat, rnds := [0, 1, 2] }
  | 0x23 => some { bin with mask := bin.mask ||| fVs3 ||| fRnd ||| fSat, rnds := [0, 1, 2] }
  | 0x24 => some { bin with mask := bin.mask ||| fRnd ||| fSat, rnds := [0, 1] }
  | 0x25 => some { un with mask := un.mask ||| fRnd ||| fSat, rnds := [0, 1] }
  | 0x26 | 0x27 | 0x28 | 0x29 => some bin
  | 0x2A | 0x2B => some un
  | 0x2C => some { un with mask := un.mask ||| fRnd, rnds := [0, 1, 2] }
  | 0x30 | 0x31 | 0x32 | 0x33 | 0x34 | 0x35 => some un
  | 0x38 | 0x39 | 0x3A | 0x3B | 0x3C | 0x3D => some cmp
  | 0x3E => some { mask := fVd ||| fVs1 ||| fVs2 ||| 0x300000 ||| fSc, imm := all }
  | 0x40 => some { un with mask := un.mask ||| fFmt ||| fRnd ||| fSat, rnds := [0, 1, 2]
                           fmts := [1, 2, 3, 4, 5, 6, 7, 8, 9] }
  | 0x41 | 0x42 => some { un with mask := un.mask ||| fRnd, rnds := [0, 1, 2] }
  | 0x48 | 0x49 | 0x4A | 0x4B | 0x4C | 0x4D | 0x4E | 0x4F | 0x50 | 0x51 | 0x52 => some bin
  | 0x53 | 0x54 => some cmp
  | 0x58 | 0x59 | 0x5A | 0x5B => some un
  | 0x60 => some un
  | 0x61 => some { mask := fVd ||| fM, imm := all }
  | 0x62 => some { mask := fVd ||| fM }
  | 0x63 => some bin
  | 0x68 | 0x69 | 0x6A => some { mask := fMd ||| fMs1 ||| fMs2 ||| fM }
  | 0x6B => some { mask := fMd ||| fMs1 ||| fM }
  | 0x6C => some { mask := fVd ||| fMs1 ||| fM }
  | _ => none

/-- The instruction at index `i` of the cell's program region (R121). -/
def Cell.vtInstr (c : Cell) (i : Nat) : VInstr :=
  let a := 1024 * c.progBase + 8 * i
  { lo := c.mem.readLe a 4, imm := c.mem.readLe (a + 4) 4 }

/-- R124 for an instruction at index `idx`; `other j` is the opcode at index j, for a LOOP's body. Fields that the instruction does
not use are fixed at 0 (R122): mk where mmode is 0b00, rnd and sat of a store or send that copies 32-bit elements. An EPILOGUE
whose block address is not a multiple of 64 is ill-formed: the model's choice (log 75). -/
def vtWellFormed (f : ArrFeat) (vrCap idx : Nat) (other : Nat → Nat) (i : VInstr) : Bool :=
  match vspec i.op with
  | none => false
  | some s =>
    let used := if s.mask &&& fSc = fSc ∧ i.sc then s.mask - (s.mask &&& fVs2) else s.mask
    let immOk := if s.mask &&& fSc = fSc ∧ !i.sc then 0 else s.imm
    let isM := decide (0x10 ≤ i.op) && decide (i.op < 0x20)
    (i.lo - i.op) &&& (0xFFFFFF00 - used) == 0 && i.imm &&& (0xFFFFFFFF - immOk) == 0
      && decide (i.mmode ≠ 3 ∨ i.op < 0x10)
      && (decide (i.op < 0x10) ||
          ((s.rnds.contains i.rnd) && (i.rnd != 2 || f.sr) && s.fmts.contains i.fmt
            && (!isM || (if s.blocked then decide (i.lay = 1 ∨ (i.lay = 2 ∧ f.mx16)) else i.lay == 0 || i.op == 0x18))))
      && (!(i.op == 0x13 || i.op == 0x17) || i.mmode != 1)
      && (i.op == 0x3E || decide (i.op < 0x10) || i.mmode != 0 || i.mreg == 0)
      && (!((i.op == 0x11 || i.op == 0x17) && (i.fmt == 0 || i.fmt == 0xA)) || (i.rnd == 0 && !i.sat))
      && (i.op != 4 || (decide (1 ≤ i.imm) && decide (i.imm ≤ vrCap)))
      && (i.op != 9 || i.imm % 64 == 0)
      && (i.op != 3 || (decide (bits i.lo 20 8 < idx) && decide (1 ≤ i.imm)
            && (List.range (idx - bits i.lo 20 8)).all (fun j => other (bits i.lo 20 8 + j) != 3)))

/-- VL fits the instruction's packing (R127). That VSEND counts as a packed store is the model's choice (log 76). -/
def vlOk (vl : Nat) (i : VInstr) : Bool :=
  let w := match Fmt.ofCode i.fmt with | some f => f.width | none => 32
  let packed := decide (i.op = 0x11 ∨ i.op = 0x13 ∨ i.op = 0x17)
  let blocked := decide (i.op = 0x12 ∨ i.op = 0x13)
  (!packed || vl * w % 8 == 0) && (!blocked || vl % (if i.lay = 1 then 32 else 16) == 0)

/-- What a fetch at a vector context's index meets (R121, R125, R196). -/
inductive VtFetch where
  | bad
  | poisoned (granules : List Nat)
  | instr (i : VInstr)
  deriving DecidableEq, Repr

/-- The fetch of a vector context's next instruction. -/
def Cell.vtFetch (c : Cell) (f : ArrFeat) (x : VtCtx) : VtFetch :=
  if c.progCount ≤ x.idx then .bad
  else match c.poisoned (1024 * c.progBase + 8 * x.idx) 8 with
    | [] =>
      let i := c.vtInstr x.idx
      if vtWellFormed f x.part.vrCap x.idx (fun j => (c.vtInstr j).op) i then .instr i else .bad
    | gs => .poisoned gs

/-- The instruction in a context's hand, else the fetch at its index (R121, R151). -/
def Cell.vtFetched (c : Cell) (f : ArrFeat) (x : VtCtx) : VtFetch :=
  match x.instr with
  | some w => .instr ⟨w.1, w.2⟩
  | none => c.vtFetch f x

/-- The instruction at a context's index read through the narrow port, where it has none in hand (R121, R195). -/
def Cell.vtSense (c : Cell) (x : VtCtx) : Cell :=
  if x.instr.isSome ∨ c.progCount ≤ x.idx then c else c.sense (1024 * c.progBase + 8 * x.idx) 8

/-! ### Registers, masks and the local space of a context -/

/-- The cell, its context and the instruction an execution sees; `fp32Native` is NATIVE_IEEE_MINMAX (R39). -/
structure VEnv where
  c : Cell
  x : VtCtx
  i : VInstr
  fp32Native : Bool
  deriving DecidableEq, Repr

/-- How an instruction ends: done (the context goes on), late (it waits), or a fault. -/
inductive VEnd where
  | done
  | late
  | overflow (addr : Nat)
  | arrayBad (offset : Nat)
  deriving DecidableEq, Repr

/-- An execution's result: cell, context, end, A-cycles of datapath occupancy, and circuits owed a credit. -/
structure VOut where
  c : Cell
  x : VtCtx
  fin : VEnd := .done
  occ : Nat := 1
  credits : List Nat := []
  deriving DecidableEq, Repr

/-- Element `i` of register `n` (R116). -/
def VEnv.reg (e : VEnv) (n i : Nat) : Nat := (Tab.get 0#32 e.c.vr (4096 * n + e.x.part.vrBase + i)).toNat

/-- Bit `i` of mask `n`. -/
def VEnv.maskBit (e : VEnv) (n i : Nat) : Bool := Tab.get false e.c.vm (4096 * n + e.x.part.vrBase + i)

/-- Elements 0 to VL − 1 of a register replaced. -/
def VEnv.putReg (e : VEnv) (n : Nat) (vs : List Nat) : Cell :=
  { e.c with vr := Tab.putRun 0#32 e.c.vr (4096 * n + e.x.part.vrBase) (vs.map (BitVec.ofNat 32)) }

/-- Bits 0 to VL − 1 of a mask replaced. -/
def VEnv.putMask (e : VEnv) (n : Nat) (bs : List Bool) : Cell :=
  { e.c with vm := Tab.putRun false e.c.vm (4096 * n + e.x.part.vrBase) bs }

/-- Element `j` is active (R126, R128). -/
def VEnv.active (e : VEnv) (j : Nat) : Bool := e.i.mmode == 0 || e.maskBit e.i.mreg j

/-- Sources: vs1, vs2 (imm where sc, R122), vs3. -/
def VEnv.s1 (e : VEnv) (j : Nat) : Nat := e.reg e.i.vs1 j
def VEnv.s2 (e : VEnv) (j : Nat) : Nat := if e.i.sc then e.i.imm else e.reg e.i.vs2 j
def VEnv.s3 (e : VEnv) (j : Nat) : Nat := e.reg e.i.vs3 j

/-- The 16 random bits of element `j` (R143). -/
def VEnv.r16 (e : VEnv) (j : Nat) : Nat := srBits (fun w => rng32 e.x.srSeed (e.x.srCtr + w)) j

/-- The SR counter after an instruction with this rounding (R143). -/
def VEnv.srNext (e : VEnv) (uses : Bool) : Nat :=
  if uses then (e.x.srCtr + ceilDiv e.x.vl 2) % 2 ^ 64 else e.x.srCtr

/-- Element groups (R149). -/
def VEnv.groups (e : VEnv) : Nat := ceilDiv e.x.vl 64

/-- The next instruction, flags ORed in, the SR counter advanced where the instruction rounds SR. -/
def VEnv.advance (e : VEnv) (flags : Nat) : VtCtx :=
  { e.x with idx := e.x.idx + 1, flags := e.x.flags ||| flags, srCtr := e.srNext (e.i.rnd == 2 && decide (0x10 ≤ e.i.op)) }

/-- Results for elements 0 to VL − 1: the computed value where active, else kept or zeroed (R128), and the flags of
the active elements. -/
def VEnv.elems (e : VEnv) (old : Nat → Nat) (g : Nat → Nat × Nat) : List Nat × Nat :=
  let rs := (List.range e.x.vl).map (fun j =>
    if e.active j then g j else (if e.i.mmode = 2 then 0 else old j, 0))
  (rs.map Prod.fst, rs.foldl (fun a r => a ||| r.2) 0)

/-- An element-wise operation into vd; `k` is the datapath figure of R149. -/
def vElem (k : Nat) (g : VEnv → Nat → Nat × Nat) (e : VEnv) : VOut :=
  let (vs, fl) := e.elems (e.reg e.i.vd) (g e)
  { c := e.putReg e.i.vd vs, x := e.advance fl, occ := k * e.groups }

/-- A compare into mask md. -/
def vCmp (g : VEnv → Nat → Bool × Nat) (e : VEnv) : VOut :=
  let md := e.i.vd % 4
  let (vs, fl) := e.elems (fun j => (e.maskBit md j).toNat) (fun j => ((g e j).1.toNat, (g e j).2))
  { c := e.putMask md (vs.map (fun v => v == 1)), x := e.advance fl, occ := e.groups }

/-- A floating-point compare by R38. -/
def vFcmp (k : Cmp) : VEnv → VOut :=
  vCmp (fun e j =>
    let (b, c) := k.run (FVal.decode .fp32 (e.s1 j)) (FVal.decode .fp32 (e.s2 j))
    (b, c.toBits))

/-- A mask operation on the masks ms1 and ms2. -/
def vMask (g : Bool → Bool → Bool) (e : VEnv) : VOut :=
  let md := e.i.vd % 4
  let (vs, _) := e.elems (fun j => (e.maskBit md j).toNat)
    (fun j => ((g (e.maskBit (e.i.vs1 % 4) j) (e.maskBit (e.i.vs2 % 4) j)).toNat, 0))
  { c := e.putMask md (vs.map (fun v => v == 1)), x := e.advance 0, occ := e.groups }

/-- A two-operand FP operation with rnd and sat. -/
def vBin (k : Nat) (g : RMode → Bool → Nat → Nat → Nat → Nat × Nat) : VEnv → VOut :=
  vElem k (fun e j => g e.i.mode e.i.sat (e.r16 j) (e.s1 j) (e.s2 j))

/-- A one-operand operation. -/
def vUn (k : Nat) (g : Nat → Nat × Nat) : VEnv → VOut := vElem k (fun e j => g (e.s1 j))

/-- A minimum or maximum: invalid for a signalling NaN (R35). -/
def vMinMax (g : Bool → Nat → Nat → Nat) : VEnv → VOut :=
  vElem 1 (fun e j => (g e.fp32Native (e.s1 j) (e.s2 j),
    (snanCond (FVal.decode .fp32 (e.s1 j)) (FVal.decode .fp32 (e.s2 j))).toBits))

/-- An INT32 operation on two's-complement words (R140). -/
def vInt (g : Word → Word → Word) : VEnv → VOut :=
  vElem 1 (fun e j => ((g (BitVec.ofNat 32 (e.s1 j)) (BitVec.ofNat 32 (e.s2 j))).toNat, 0))

/-- An INT32 compare. -/
def vIcmp (g : Word → Word → Bool) : VEnv → VOut :=
  vCmp (fun e j => (g (BitVec.ofNat 32 (e.s1 j)) (BitVec.ofNat 32 (e.s2 j)), 0))

/-! ### Reductions (R141) -/

/-- Two optional partial results combined; the flags are ORed. -/
def redOp (op : Nat → Nat → Nat × Nat) (a b : Option Nat × Nat) : Option Nat × Nat :=
  match a.1, b.1 with
  | none, _ => (b.1, a.2 ||| b.2)
  | _, none => (a.1, a.2 ||| b.2)
  | some x, some y => (some (op x y).1, a.2 ||| b.2 ||| (op x y).2)

/-- The halving tree over `2^k` partial results. -/
def redTree (op : Nat → Nat → Nat × Nat) : Nat → List (Option Nat × Nat) → Option Nat × Nat
  | 0, ps => ps.getD 0 (none, 0)
  | k + 1, ps =>
    let w := 2 ^ k
    redTree op k (List.zipWith (redOp op) (ps.take w) (ps.drop w))

/-- reduce of R141: lane partial results in ascending order, then the tree. -/
def VEnv.reduced (op : Nat → Nat → Nat × Nat) (e : VEnv) : Option Nat × Nat :=
  redTree op 6 ((List.range 64).map (fun l =>
    ((List.range e.groups).map (fun g => 64 * g + l)).foldl
      (fun p j => if decide (j < e.x.vl) && e.active j then redOp op p (some (e.s1 j), 0) else p) (none, 0)))

/-- A reduction into element 0 of vd, +0 where no element is active. -/
def vReduce (op : Nat → Nat → Nat × Nat) (e : VEnv) : VOut :=
  let r := e.reduced op
  { c := e.putReg e.i.vd [r.1.getD 0], x := e.advance r.2, occ := e.groups + 6 }

/-! ### Conversions -/

/-- FQNT (R139). -/
def fqnt (f : Fmt) (mode : RMode) (sat : Bool) (r16 a : Nat) : Nat × Nat :=
  let (w, c) := Fmt.fp32.convert f mode sat r16 a
  ((rne32 (FVal.decode f w)).1, c.toBits)

/-- The value a load or receive leaves for an element (R132). -/
def loadElem (f : Fmt) (w : Nat) : Nat :=
  match f with
  | .fp32 | .int32 => w
  | .int8 | .int4 => twos 32 (sext f.width w)
  | f => f.toFp32 w

/-- The encoding a store or send writes for an element, and its flags (R132). -/
def storeElem (f : Fmt) (mode : RMode) (sat : Bool) (r16 a : Nat) : Nat × Nat :=
  match f with
  | .fp32 | .int32 => (a, 0)
  | f =>
    let (w, c) := Fmt.fp32.convert f mode sat r16 a
    (w, c.toBits)

/-! ### The local space (R119, R120, R152) -/

/-- Every byte of [a, a+n) lies in the context's window (R120). -/
def VtCtx.inWindow (x : VtCtx) (a n : Nat) : Bool :=
  let tbLo := if bit x.part.tbOwn 0 then 0x20000 else 0x28000
  let tbHi := if bit x.part.tbOwn 1 then 0x30000 else 0x28000
  decide (n = 0)
    || (decide (1024 * x.part.ocBase ≤ a) && decide (a + n ≤ 1024 * (x.part.ocBase + x.part.ocSize)))
    || (decide (tbLo ≤ a) && decide (a + n ≤ tbHi))

/-- A pending XFER of the context overlaps [a, a+n) of the local space (R120). -/
def VtCtx.xferOverlaps (x : VtCtx) (a n : Nat) : Bool := x.xfers.any (fun t => overlaps t.local_ t.len a n)

/-- An uncorrectable granule of the local space in [a, a+n) (R636). -/
def Cell.localBad (c : Cell) (a n : Nat) : Option Nat :=
  if n = 0 then none
  else (c.locBad.find? (fun g => decide (a / 8 ≤ g.1) && decide (g.1 ≤ (a + n - 1) / 8))).map Prod.fst

/-- Bytes stored in the local space; a granule written whole is good again (R636). -/
def Cell.putLocal (c : Cell) (a : Nat) (bs : List Byte) : Cell :=
  { c with loc := c.loc.writeBytes a bs
           locBad := c.locBad.filter (fun g => !(decide (a ≤ 8 * g.1) && decide (8 * g.1 + 8 ≤ a + bs.length))) }

/-- The address of an element array and of a scale array (R131). -/
def VEnv.areg (e : VEnv) (n : Nat) : Nat := match n % 4 with | 0 => e.x.a0 | 1 => e.x.a1 | 2 => e.x.a2 | _ => e.x.a3
def VEnv.ea (e : VEnv) : Nat := (e.areg e.i.ar + bits e.i.imm 17 0) % 2 ^ 20
def VEnv.sa (e : VEnv) : Nat := (e.areg (e.i.ar ^^^ 1) + 64 * bits e.i.imm 29 18) % 2 ^ 20

/-- The checks of R152 on a local range, then the interlock of R120, then uncorrectable bytes for a read. -/
def VEnv.localCheck (e : VEnv) (a n align : Nat) (read : Bool) : VEnd :=
  if a % align ≠ 0 || !e.x.inWindow a n then .overflow a
  else if e.x.xferOverlaps a n then .late
  else if read then (match e.c.localBad a n with | some g => .arrayBad (8 * g) | none => .done)
  else .done

/-- The element format of the instruction. -/
def VEnv.f (e : VEnv) : Fmt := (Fmt.ofCode e.i.fmt).getD .fp32

/-- Alignment of an unblocked element array (R132). -/
def VEnv.elAlign (e : VEnv) : Nat := if e.f.width = 16 then 2 else if e.f.width = 32 then 4 else 1

/-- Bytes of VL packed elements of n bits. -/
def VEnv.span (e : VEnv) (n : Nat) : Nat := (n * e.x.vl + 7) / 8

/-- A stopped access: the context keeps its place. -/
def VEnv.stop (e : VEnv) (f : VEnd) : VOut := { c := e.c, x := e.x, fin := f, occ := 0 }

/-- VLD (R131, R132). -/
def vLoad (e : VEnv) : VOut :=
  let n := e.span e.f.width
  match e.localCheck e.ea n e.elAlign true with
  | .done =>
    let bs := e.c.loc.readBytes e.ea n
    let (vs, _) := e.elems (e.reg e.i.vd) (fun j => (loadElem e.f (streamElem bs e.f.width j), 0))
    { c := e.putReg e.i.vd vs, x := e.advance 0, occ := e.groups }
  | r => e.stop r

/-- Elements packed over the bytes a store finds there: inactive elements keep their bits under merge (R128). -/
def VEnv.storeBytes (e : VEnv) (n : Nat) (old : List Byte) (g : Nat → Nat × Nat) : List Byte × Nat :=
  let (vs, fl) := e.elems (fun j => streamElem old n j) g
  let packed := packElems n vs
  let tailBits := n * e.x.vl % 8
  let last := packed.length - 1
  (if tailBits = 0 then packed
   else packed.take last ++ [BitVec.ofNat 8 (byteAt packed last % 2 ^ tailBits + byteAt old last / 2 ^ tailBits * 2 ^ tailBits)],
   fl)

/-- VST (R131, R132). -/
def vStore (e : VEnv) : VOut :=
  let n := e.span e.f.width
  match e.localCheck e.ea n e.elAlign false with
  | .done =>
    let (bs, fl) := e.storeBytes e.f.width (e.c.loc.readBytes e.ea n)
      (fun j => storeElem e.f e.i.mode e.i.sat (e.r16 j) (e.reg e.i.vd j))
    { c := e.c.putLocal e.ea bs, x := e.advance fl, occ := e.groups }
  | r => e.stop r

/-- The block length of a blocked instruction. -/
def VEnv.blk (e : VEnv) : Nat := if e.i.lay = 2 then 16 else 32

/-- VLDB (R131, R55). -/
def vLoadB (e : VEnv) : VOut :=
  let n := e.span e.f.width
  let ns := e.x.vl / e.blk
  match e.localCheck e.ea n 64 true, e.localCheck e.sa ns 64 true with
  | .done, .done =>
    let bs := e.c.loc.readBytes e.ea n
    let ss := e.c.loc.readBytes e.sa ns
    let (vs, fl) := e.elems (e.reg e.i.vd) (fun j =>
      let (w, c) := rne32 (blockElem e.f (byteAt ss (j / e.blk)) (streamElem bs e.f.width j))
      (w, c.toBits))
    { c := e.putReg e.i.vd vs, x := e.advance fl, occ := e.groups }
  | .done, r => e.stop r
  | r, _ => e.stop r

/-- VSTQ (R131, R57, R58): under zero masking an inactive element takes part as +0 (R129). -/
def vStoreQ (e : VEnv) : VOut :=
  let n := e.span e.f.width
  let ns := e.x.vl / e.blk
  match e.localCheck e.ea n 64 false, e.localCheck e.sa ns 64 false with
  | .done, .done =>
    let qs := (List.range ns).map (fun b =>
      quantBlock e.f e.i.smode e.i.mode e.i.sat (fun j => e.r16 (b * e.blk + j))
        ((List.range e.blk).map (fun j =>
          let j := b * e.blk + j
          if e.active j then FVal.decode .fp32 (e.reg e.i.vd j) else FVal.zero)))
    let c := e.c.putLocal e.ea (packElems e.f.width (qs.flatMap (fun q => q.2.1)))
    let c := c.putLocal e.sa (qs.map (fun q => BitVec.ofNat 8 q.1))
    { c := c, x := e.advance ((qs.foldl (fun a q => a.or q.2.2) Cond.none).toBits), occ := 2 * e.groups }
  | .done, r => e.stop r
  | r, _ => e.stop r

/-- MLD (R131). -/
def vMaskLoad (e : VEnv) : VOut :=
  let n := e.span 1
  let md := e.i.vd % 4
  match e.localCheck e.ea n 1 true with
  | .done =>
    let bs := e.c.loc.readBytes e.ea n
    let (vs, _) := e.elems (fun j => (e.maskBit md j).toNat) (fun j => (streamElem bs 1 j, 0))
    { c := e.putMask md (vs.map (fun v => v == 1)), x := e.advance 0, occ := e.groups }
  | r => e.stop r

/-- MST (R131, R127). -/
def vMaskStore (e : VEnv) : VOut :=
  let n := e.span 1
  match e.localCheck e.ea n 1 false with
  | .done =>
    let (bs, _) := e.storeBytes 1 (e.c.loc.readBytes e.ea n) (fun j => ((e.maskBit (e.i.vd % 4) j).toNat, 0))
    { c := e.c.putLocal e.ea bs, x := e.advance 0, occ := e.groups }
  | r => e.stop r

/-- VRECV (R131, R133): words are taken as they come; once all are there the elements are written. -/
def vRecv (e : VEnv) : VOut :=
  let need := 128 * ceilDiv (e.span e.f.width) 128
  let (c, rx, cr) := e.c.takeStream (e.i.imm % 32) e.x.rx need (min 2 (need / 128))
  let e := { e with c := c }
  if rx.length < need then { c := c, x := { e.x with rx := rx }, fin := .late, occ := 0, credits := cr }
  else
    let (vs, _) := e.elems (e.reg e.i.vd) (fun j => (loadElem e.f (streamElem rx e.f.width j), 0))
    { c := e.putReg e.i.vd vs, x := { e.advance 0 with rx := [] }, occ := e.groups, credits := cr }

/-- Bytes cut into stream words of 128 B, the last padded with zeros and marked eor (R133, R208). -/
def toWords (circuit : Nat) (job : Option Nat) (bs : List Byte) : List SWord :=
  let n := ceilDiv bs.length 128
  (List.range n).map (fun i =>
    let d := (bs.drop (128 * i)).take 128
    { data := d ++ List.replicate (128 - d.length) 0#8, eor := decide (i + 1 = n), circuit := circuit, job := job })

/-- Words moved from a context's list into the staging registers of their channels, or, where the circuit's Sump is
open and its region has room, into the spill (R209, R226, R229). -/
def stageWords : Nat → Cell → List (Nat × SWord) → Cell × List (Nat × SWord)
  | 0, c, tx => (c, tx)
  | _ + 1, c, [] => (c, [])
  | k + 1, c, (ch, w) :: tx =>
    let x := c.chan ch
    match x.sump with
    | some s =>
      if s.room = 0 then
        (c.setChan ch { x with waitRun := if s.stalled then x.waitRun else 0, sump := some { s with stalled := true } }, (ch, w) :: tx)
      else stageWords k (c.setChan ch { x with sump := some { s with spill := s.spill ++ [w], spilled := s.spilled + 1
                                                                     room := s.room - 1, stalled := false }
                                               waitRun := 0, sumpWords := (x.sumpWords + 1) % 2 ^ 48 }) tx
    | none =>
      if x.staging.length < 2 then stageWords k (c.setChan ch { x with staging := x.staging ++ [w] }) tx
      else (c, (ch, w) :: tx)

/-- VSEND (R131, R133): the record is formed once; the instruction retires when its last word is staged. -/
def vSend (cell : Nat) (e : VEnv) : VOut :=
  let ch := e.i.imm % 32
  let x :=
    if e.x.sending then e.x
    else
      let (vs, fl) := e.elems (fun _ => 0) (fun j => storeElem e.f e.i.mode e.i.sat (e.r16 j) (e.reg e.i.vd j))
      let a := e.advance fl
      { a with idx := e.x.idx, sending := true
               tx := (toWords (32 * cell + ch) e.x.job (packElems e.f.width vs)).map (fun w => (ch, w)) }
  let (c, tx) := stageWords x.tx.length e.c x.tx
  if tx = [] then { c := c, x := { x with tx := [], sending := false, idx := x.idx + 1 }, occ := e.groups }
  else { c := c, x := { x with tx := tx }, fin := .late, occ := 0 }

/-- The ranges of an XFER are allowed (R134): 64-byte aligned, the local one in the window, the memory-tile one in the
tile and outside the command and program regions. -/
def VEnv.xferCheck (e : VEnv) (t : Xfer) : VEnd :=
  if t.local_ % 64 ≠ 0 || !e.x.inWindow t.local_ t.len then .overflow t.local_
  else if t.memt % 64 ≠ 0 || decide (memtSize < t.memt + t.len) || e.c.inCmd t.memt t.len || e.c.inProg t.memt t.len then
    .overflow t.memt
  else .done

/-- XFER's issue (R134): a fifth pending XFER waits. -/
def vXfer (e : VEnv) : VOut :=
  let t : Xfer := { local_ := e.areg e.i.ar, memt := e.areg (e.i.ar ^^^ 1), len := 64 * (e.i.imm % 512 + 1), toMem := e.i.dir }
  match e.xferCheck t with
  | .done =>
    if 4 ≤ e.x.xfers.length then e.stop .late
    else { c := e.c, x := { e.advance 0 with xfers := e.x.xfers ++ [t] } }
  | r => e.stop r

/-- A context's address register replaced. -/
def VtCtx.setA (x : VtCtx) (n v : Nat) : VtCtx :=
  match n % 4 with
  | 0 => { x with a0 := v }
  | 1 => { x with a1 := v }
  | 2 => { x with a2 := v }
  | _ => { x with a3 := v }

/-- A control instruction that only changes its context. -/
def vCtl (g : VEnv → VtCtx) (e : VEnv) : VOut := { c := e.c, x := g e }

/-- LOOP (R90, R130). -/
def vLoop (e : VEnv) : VtCtx :=
  let n := (if e.x.loopCtr = 0 then e.i.imm else e.x.loopCtr) - 1
  { e.x with loopCtr := n, idx := if n ≠ 0 then bits e.i.lo 20 8 else e.x.idx + 1 }

/-- VPERM's source (R142). -/
def vPermElem (e : VEnv) (j : Nat) : Nat × Nat := (e.s1 (e.s2 j % e.x.vl), 0)

/-- VPERM. -/
def vPerm (e : VEnv) : VOut := { vElem 1 vPermElem e with occ := e.groups + 2 }

/-- MCNT (R142). -/
def vMaskCount (e : VEnv) : VOut :=
  let n := ((List.range e.x.vl).filter (fun j => e.active j && e.maskBit (e.i.vs1 % 4) j)).length
  { c := e.putReg e.i.vd [n], x := e.advance 0, occ := e.groups + 2 }

end Sys2Proof.Machine
end

