-- ==== Sys2Proof/Machine/EpilogueOps.lean ====
section
/-!
DEFINITION. Sys2Proof/Machine/EpilogueOps.lean: one run of the fused epilogue menu over a finished tile (ch. 06):
entries, stages, parameter block, destinations and their placement.
-/
namespace Sys2Proof.Machine
open Sys2Proof

/-- The stages a base entry runs before its output stage (R157). -/
inductive Stage where
  | a | r | b | c | d | relu | gelu | silu | tanh | sigm | clamp | amax
  deriving DecidableEq, Repr

/-- The stages of base entry `b` (R157). -/
def entryStages : Nat → List Stage
  | 0x1 => [.b] | 0x2 => [.c] | 0x3 => [.r] | 0x4 => [.r, .b] | 0x5 => [.b, .relu] | 0x6 => [.b, .gelu]
  | 0x7 => [.b, .silu] | 0x8 => [.b, .tanh] | 0x9 => [.b, .sigm] | 0xA => [.d] | 0xB => [.b, .d] | 0xC => [.a, .d]
  | 0xD => [.b, .gelu, .d] | 0xE => [.b, .clamp] | 0xF => [.b, .amax]
  | _ => []

/-- The vector steps of a stage (R160). -/
def Stage.steps : Stage → Nat
  | .gelu => 7 | .silu => 5 | .tanh => 4 | .sigm => 4 | .clamp => 2 | _ => 1

/-- The fields of an entry number (R156). -/
def epiQ (epi : Nat) : Bool := bit epi 5
def epiP (epi : Nat) : Bool := bit epi 6
def epiI (epi : Nat) : Bool := bit epi 7

/-- E = 16 + 128·n (R159). -/
def epiCost (epi : Nat) : Nat :=
  16 + 128 * (((entryStages (bits epi 4 0)).map Stage.steps).sum + (if epiQ epi then 2 else 1)
    + (epiP epi).toNat + (epiI epi).toNat)

/-- The parameter block as its sixteen words (R166). -/
structure PBlk where
  w : List Nat
  deriving DecidableEq, Repr

namespace PBlk
def word (p : PBlk) (i : Nat) : Nat := p.w.getD i 0
def outFmt (p : PBlk) : Nat := bits (p.word 0) 3 0
def outLay (p : PBlk) : Nat := bits (p.word 0) 5 4
def smode (p : PBlk) : Bool := bit (p.word 0) 6
def outRnd (p : PBlk) : Nat := bits (p.word 0) 8 7
def outSat (p : PBlk) : Bool := bit (p.word 0) 9
def outArr (p : PBlk) : Nat := bits (p.word 0) 11 10
def dest (p : PBlk) (k : Nat) : Nat := if k = 0 then bits (p.word 1) 2 0 else bits (p.word 1) 5 3
def residBuf (p : PBlk) : Bool := bit (p.word 1) 6
def nfCount (p : PBlk) : Nat := bits (p.word 1) 31 16
def colBase (p : PBlk) : Nat := bits (p.word 2) 15 0
def rowBase (p : PBlk) : Nat := bits (p.word 2) 31 16
def alpha (p : PBlk) : Nat := p.word 3
def beta (p : PBlk) : Nat := p.word 4
def clampLo (p : PBlk) : Nat := p.word 5
def clampHi (p : PBlk) : Nat := p.word 6
def amax (p : PBlk) : Nat := p.word 7
/-- Word `i` of descriptor `k` (R169). -/
def desc (p : PBlk) (k i : Nat) : Nat := p.word (8 + 4 * k + i)
end PBlk

/-- The bits of a descriptor's words that its kind uses (R169). -/
def descMask : Nat → List Nat
  | 1 => [0xFFFF000, 0xFFFFF, 0xFFFFF, 0xFFFF]
  | 2 => [0x1F, 0, 0, 0]
  | 3 => [0xFFFFFFF, 0xFFFFF, 0xFFFFF, 0xFFFF]
  | 4 => [0x3FFFFFFF, 0xFFFFFFFF, 0xFFFF, 0]
  | _ => [0, 0, 0, 0]

/-- The pair store of R161: entry 0x40 with FP32 output. -/
def isPairStore (epi : Nat) (p : PBlk) : Bool := epi == 0x40 && p.outFmt == 0

/-- The checks of R171 on the parameter block itself; false is EPI_BAD_PARAM. -/
def PBlk.ok (p : PBlk) (f : ArrFeat) (epi : Nat) : Bool :=
  match Fmt.ofCode p.outFmt, Layout.ofCode f.mx16 p.outLay with
  | some fm, some lay =>
    let q := epiQ epi
    let descOk := fun k =>
      let kind := p.dest k
      let usesScale := q || isPairStore epi p
      decide (kind ≤ 4)
        && (List.range 4).all (fun i => (p.desc k i) &&& (0xFFFFFFFF - (descMask kind).getD i 0) == 0)
        && (!(kind == 1 || kind == 3) ||
            (bits (p.desc k 1) 19 0 % 64 == 0 && (!usesScale || bits (p.desc k 2) 19 0 % 64 == 0)
              && (p.outArr != 0 || bits (p.desc k 0) 27 12 % 16 == 0)))
    fm != .e8m0 && bits (p.word 0) 31 12 == 0 && bits (p.word 1) 15 7 == 0 && decide (p.outArr ≤ 1)
      && decide (p.outRnd ≠ 3) && (p.outRnd != 2 || f.sr)
      && (if q then lay != .unblocked else lay == .unblocked) && fm.layoutOk lay
      && descOk 0 && descOk 1
  | _, _ => false

/-- x·y + z on values formed exactly and rounded once (RNE, non-saturating), as IEEE 754-2019 has it. -/
def fmaV (x y z : FVal) : Nat × Nat :=
  if x.isNan || y.isNan || z.isNan then
    (canonNan, if [x, y, z].any FVal.isSnan || ((x.isInf && y.isZero) || (x.isZero && y.isInf)) then 1 else 0)
  else if (x.isInf && y.isZero) || (x.isZero && y.isInf) then invalid32
  else
    let ps := x.neg? != y.neg?
    if x.isInf || y.isInf then
      (match z with
       | .inf t => if t = ps then (Fmt.signed .fp32 t 0x7F800000, 0) else invalid32
       | _ => (Fmt.signed .fp32 ps 0x7F800000, 0))
    else if z.isInf then (Fmt.signed .fp32 z.neg? 0x7F800000, 0)
    else
      let p := x.dy.mul y.dy
      let t := p.add z.dy
      if t.n = 0 then (if ps && z.neg? && decide (p.n = 0) && z.isZero then negZero32 else 0, 0)
      else round32 .rne false 0 t.toF

/-- x·y rounded once. -/
def fmulV (x y : FVal) : Nat × Nat :=
  if x.isNan || y.isNan then nanResult [x, y]
  else if (x.isInf && y.isZero) || (x.isZero && y.isInf) then invalid32
  else if x.isInf || y.isInf then (Fmt.signed .fp32 (x.neg? != y.neg?) 0x7F800000, 0)
  else
    let p := x.dy.mul y.dy
    if p.n = 0 then (Fmt.signed .fp32 (x.neg? != y.neg?) 0, 0) else round32 .rne false 0 p.toF

/-- 1 as a value. -/
def oneV : FVal := .fin false 1 0

/-- hi + lo as the next stage takes it under P (R161): exact where both are finite (a zero sum is −0 only for hi = −0, R37,
R74), the value of pair_step otherwise. -/
def pairVal (hi lo : Nat) : FVal :=
  let h := FVal.decode .fp32 hi
  let l := FVal.decode .fp32 lo
  if h.isNan || l.isNan then .nan false
  else match h, l with
    | .inf s, .inf t => if s = t then .inf s else .nan false
    | .inf s, _ => .inf s
    | _, .inf t => .inf t
    | _, _ => (h.dy.add l.dy).toF (h.isZero && h.neg?)

/-- An FP32 value decoded. -/
def v32 (a : Nat) : FVal := FVal.decode .fp32 a

/-- The operands of the stages at one element. -/
structure EpiArgs where
  bCol : Nat
  sCol : Nat
  sRow : Nat
  resid : Nat
  deriving DecidableEq, Repr

/-- One stage on one value: the FP32 result and its flags (R160). -/
def Stage.run (s : Stage) (p : PBlk) (a : EpiArgs) (v : FVal) (vb : Nat) : Nat × Nat :=
  match s with
  | .a => fmulV v (v32 p.alpha)
  | .r => fmulV v (v32 a.sRow)
  | .b => fmaV v oneV (v32 a.bCol)
  | .c => fmaV v (v32 a.sCol) (v32 a.bCol)
  | .d => fmaV (v32 p.beta) (v32 a.resid) v
  | .relu => if v.isNan then (canonNan, 0) else if FVal.zero.lt v then (vb, 0) else (0, 0)
  | .gelu =>
    let (u, f1) := fmul32 .rne false 0 vb 0x3F3504F3
    let (e, f2) := ferf u
    let (w, f3) := ffma32 .rne false 0 e 0x3F000000 0x3F000000
    let (y, f4) := fmul32 .rne false 0 vb w
    (y, f1 ||| f2 ||| f3 ||| f4)
  | .silu =>
    let (t, f1) := fsigm vb
    let (y, f2) := fmul32 .rne false 0 vb t
    (y, f1 ||| f2)
  | .tanh => ftanh vb
  | .sigm => fsigm vb
  | .clamp =>
    if v.isNan then (canonNan, 0)
    else
      let m := fmaxNum32 vb p.clampLo
      (fminNum32 m p.clampHi,
       ((snanCond v (v32 p.clampLo)).or (snanCond (v32 m) (v32 p.clampHi))).toBits)
  | .amax => (vb, 0)

/-- The stages in order from a starting value; `vb` is its FP32 encoding where it has one. -/
def runStages (p : PBlk) (a : EpiArgs) : List Stage → FVal → Nat → Nat → FVal × Nat × Nat
  | [], v, vb, fl => (v, vb, fl)
  | s :: ss, v, vb, fl =>
    let (r, f) := s.run p a v vb
    runStages p a ss (v32 r) r (fl ||| f)

/-- What a destination receives outside the cell: a mesh write of a CELL destination, or a PEER record. -/
structure CellWrite where
  cell : Nat
  addr : Nat
  data : List Byte
  deriving DecidableEq, Repr

/-- A PEER record (R169, R170): a Ferier put of the job's tenant, with the signal add after it. -/
structure PeerRec where
  dev : Nat
  tc : Nat
  sigEn : Bool
  sig : Nat
  tva : Nat
  data : List Byte
  deriving DecidableEq, Repr

/-- How an epilogue ends. -/
inductive EpiEnd where
  | done
  | late
  | blockOverflow (addr : Nat)
  | overflow (addr : Nat)
  | badParam
  | arrayBad (offset : Nat)
  deriving DecidableEq, Repr

/-- An epilogue's result. -/
structure EpiOut where
  c : Cell
  x : VtCtx
  fin : EpiEnd
  own : List CellWrite := []
  cells : List CellWrite := []
  peers : List PeerRec := []
  deriving DecidableEq, Repr

/-- A finished tile's elements in output form: row-major element encodings, the scale of each block of each row (empty
without Q), the lo tile of a pair store. -/
structure EpiTile where
  elems : List Nat
  scales : List Nat
  lo : List Nat
  w : Nat
  L : Nat
  deriving DecidableEq, Repr

/-- Element (i, j) of a row-major tile. -/
def tileAt (es : List Nat) (i j : Nat) : Nat := es.getD (64 * i + j) 0

/-- Rows of a tile as bytes (R146, R170 ROW). -/
def rowBytes (w : Nat) (es : List Nat) (i : Nat) : List Byte := packElems w ((es.drop (64 * i)).take 64)

/-- k-slice `j` of a tile as bytes (R170 PANEL_A). -/
def sliceBytes (w : Nat) (es : List Nat) (j : Nat) : List Byte := packElems w ((List.range 128).map (fun i => tileAt es i j))

/-- The scale slice of block `b`: one byte per row. -/
def scaleSlice (t : EpiTile) (b : Nat) : List Byte :=
  (List.range 128).map (fun i => BitVec.ofNat 8 (t.scales.getD (i * (64 / t.L) + b) 0))

/-- A tile as one record (R170): elements in the arrangement, then scales; for a stream in PANEL_A each scale slice
stands before its block's first slice (R97). -/
def recordBytes (t : EpiTile) (panel stream : Bool) : List Byte :=
  let scaled := t.scales ≠ []
  if panel then
    let slices := fun j => sliceBytes t.w t.elems j
    if stream ∧ scaled then
      (List.range 64).flatMap (fun j => (if j % t.L = 0 then scaleSlice t (j / t.L) else []) ++ slices j)
    else (List.range 64).flatMap slices ++ (if scaled then (List.range (64 / t.L)).flatMap (scaleSlice t) else [])
      ++ (if t.lo = [] then [] else (List.range 64).flatMap (sliceBytes t.w t.lo))
  else
    (List.range 128).flatMap (rowBytes t.w t.elems) ++ t.scales.map (BitVec.ofNat 8)
      ++ (if t.lo = [] then [] else (List.range 128).flatMap (rowBytes t.w t.lo))

/-- The memory-tile writes of a MEMT or CELL destination (R170): (offset, bytes). -/
def tileWrites (t : EpiTile) (panel : Bool) (u v elemBase pitch scaleBase spitch : Nat) : List (Nat × List Byte) :=
  let place := fun (base : Nat) (es : List Nat) =>
    if panel then (List.range 64).map (fun j => (base + 256 * u * pitch + (64 * v + j) * (16 * t.w), sliceBytes t.w es j))
    else (List.range 128).map (fun i => (base + (128 * u + i) * pitch + 64 * v * t.w / 8, rowBytes t.w es i))
  place elemBase t.elems
    ++ (if t.lo = [] then [] else place scaleBase t.lo)
    ++ (if t.scales = [] then []
        else if panel then
          (List.range (64 / t.L)).map (fun b => (scaleBase + 64 * u * spitch + 128 * (64 * v / t.L + b), scaleSlice t b))
        else
          (List.range 128).map (fun i => (scaleBase + (128 * u + i) * spitch + 64 * v / t.L,
            (List.range (64 / t.L)).map (fun b => BitVec.ofNat 8 (t.scales.getD (i * (64 / t.L) + b) 0)))))

/-- A write range allowed in a memory tile (R171). -/
def Cell.epiWriteOk (c : Cell) (a n : Nat) : Bool :=
  decide (a + n ≤ memtSize) && !c.inCmd a n && !c.inProg a n

/-- The AMAX fields after a tile (R163). -/
def amaxUpdate (p : PBlk) (vs : List Nat) : Nat × Nat :=
  let fin := vs.filter (fun v => (v32 v).isFin)
  let m := fin.foldl (fun a v => fmaxNum32 a (v % 2 ^ 31)) p.amax
  (if fin = [] then p.amax else m, min 0xFFFF (p.nfCount + (vs.length - fin.length)))

/-- The local ranges an entry reads besides its block (R167): (start, length). -/
def epiReads (p : PBlk) (ss : List Stage) (u v : Nat) : List (Nat × Nat) :=
  (if ss.contains .b || ss.contains .c then [(p.colBase + 512 * v, 256)] else [])
    ++ (if ss.contains .c then [(p.colBase + 512 * v + 256, 256)] else [])
    ++ (if ss.contains .r then [(p.rowBase + 512 * u, 512)] else [])
    ++ (if ss.contains .d then [(if p.residBuf then 0x28000 else 0x20000, 32768)] else [])

/-- Stages over all 8,192 elements: final values and the ORed flags. -/
def epiValues (c : Cell) (p : PBlk) (q : FtqEntry) (u v : Nat) : List (FVal × Nat) × Nat :=
  let epi := q.epi
  let ss := entryStages (bits epi 4 0)
  let word := fun a => c.loc.readLe a 4
  let resid := if p.residBuf then 0x28000 else 0x20000
  let bCol := (List.range 64).map (fun j => if ss.contains .b || ss.contains .c then word (p.colBase + 512 * v + 4 * j) else 0)
  let sCol := (List.range 64).map (fun j => if ss.contains .c then word (p.colBase + 512 * v + 256 + 4 * j) else 0)
  let sRow := (List.range 128).map (fun i => if ss.contains .r then word (p.rowBase + 512 * u + 4 * i) else 0)
  let los := match q.lo with | some l => l | none => []
  let vals := (List.range 8192).map (fun k =>
    let raw := (q.tile.getD k 0#32).toNat
    let a : EpiArgs := { bCol := bCol.getD (k % 64) 0, sCol := sCol.getD (k % 64) 0, sRow := sRow.getD (k / 64) 0
                         resid := if ss.contains .d then word (resid + 4 * k) else 0 }
    let (x, xf) := if epiI epi then rne32 (FVal.ofInt (sext 32 raw)) else (raw, Cond.none)
    let x0 := if epiP epi then pairVal raw (los.getD k 0#32).toNat else v32 x
    let (r, rb, fl) := runStages p a ss x0 x (if epi = 0x80 ∧ p.outFmt = 0xA then 0 else xf.toBits)
    (r, rb, fl))
  (vals.map (fun t => (t.1, t.2.1)), vals.foldl (fun a t => a ||| t.2.2) 0)

/-- The output stage O or Q, or the two raw stores (R160 to R162, R164). -/
def epiOutput (x : VtCtx) (p : PBlk) (q : FtqEntry) (vals : List (FVal × Nat)) : EpiTile × Nat :=
  let fm := (Fmt.ofCode p.outFmt).getD .fp32
  let mode := (RMode.ofCode p.outRnd).getD .rne
  let r16 := srBits (fun w => rng32 x.srSeed (x.srCtr + w))
  let raw := q.tile.map BitVec.toNat
  if isPairStore q.epi p then
    ({ elems := raw, scales := [], lo := (q.lo.getD []).map BitVec.toNat, w := 32, L := 1 }, 0)
  else if q.epi = 0x80 ∧ p.outFmt = 0xA then ({ elems := raw, scales := [], lo := [], w := 32, L := 1 }, 0)
  else if epiQ q.epi then
    let L := if p.outLay = 2 then 16 else 32
    let bs := (List.range (8192 / L)).map (fun b =>
      quantBlock fm p.smode mode p.outSat (fun j => r16 (b * L + j)) (((vals.drop (b * L)).take L).map Prod.fst))
    ({ elems := bs.flatMap (fun b => b.2.1), scales := bs.map Prod.fst, lo := [], w := fm.width, L := L },
     (bs.foldl (fun a b => a.or b.2.2) Cond.none).toBits)
  else
    let bitsOut := fm = .fp32 ∨ (fm = .int32 ∧ epiI q.epi = false)
    let noStage := epiP q.epi ∧ entryStages (bits q.epi 4 0) = []
    let rs := ((List.range vals.length).zip vals).map (fun kv =>
      if bitsOut ∧ ¬ noStage then (kv.2.2, 0)
      else
        let (w, c) := fm.round mode p.outSat (r16 kv.1) kv.2.1
        (w, c.toBits))
    ({ elems := rs.map Prod.fst, scales := [], lo := [], w := fm.width, L := 1 }, rs.foldl (fun a r => a ||| r.2) 0)

/-- The cell index a CELL descriptor names by cx and cy; none of the grid where cx lies past its last column (R16, R169). -/
def PBlk.target (p : PBlk) (k : Nat) : Nat :=
  let cx := bits (p.desc k 0) 5 0
  if cx < 44 then 44 * bits (p.desc k 0) 11 6 + cx else 2112

/-- One destination of an output tile: memory-tile writes (own cell or another's), stream words, a peer record. -/
def epiDest (cell : Nat) (p : PBlk) (q : FtqEntry) (t : EpiTile) (u v : Nat) (k : Nat) :
    List CellWrite × List (Nat × SWord) × List PeerRec :=
  let d := p.desc k
  let panel := p.outArr = 1
  let ws := fun (tgt : Nat) => (tileWrites t panel u v (bits (d 1) 19 0) (bits (d 0) 27 12) (bits (d 2) 19 0)
    (bits (d 3) 15 0)).map (fun w => { cell := tgt, addr := w.1, data := w.2 : CellWrite })
  match p.dest k with
  | 1 => (ws cell, [], [])
  | 2 =>
    let ch := bits (d 0) 4 0
    ([], (toWords (32 * cell + ch) q.job (recordBytes t panel true)).map (fun w => (ch, w)), [])
  | 3 => (ws (p.target k), [], [])
  | 4 =>
    let m := Mma.ofWords q.cmd
    let bytes := recordBytes t panel false
    let s := roundUp bytes.length 64
    ([], [], [{ dev := bits (d 0) 11 0, tc := bits (d 0) 14 12, sigEn := bit (d 0) 15, sig := bits (d 0) 29 16
                tva := d 1 + 2 ^ 32 * bits (d 2) 15 0 + (u * m.cCount + v) * s
                data := bytes ++ List.replicate (s - bytes.length) 0#8 }])
  | _ => ([], [], [])

/-- The EPILOGUE of the oldest tile `q` of its context, with the block at `pblk` (R160 to R171). `target n` is the cell
a CELL destination names where it is a good cell of the same gallery. -/
def epilogueRun (cell : Nat) (f : ArrFeat) (target : Nat → Option Cell) (q : FtqEntry) (c : Cell) (x : VtCtx)
    (pblk : Nat) : EpiOut :=
  let stop := fun e => ({ c := c, x := x, fin := e : EpiOut })
  if !x.inWindow pblk 64 then stop (.blockOverflow pblk)
  else if x.xferOverlaps pblk 64 then stop .late
  else
    match c.localBad pblk 64 with
    | some g => stop (.arrayBad (8 * g))
    | none =>
    let p : PBlk := { w := (List.range 16).map (fun i => c.loc.readLe (pblk + 4 * i) 4) }
    if !p.ok f q.epi then stop .badParam
    else
      let m := Mma.ofWords q.cmd
      let u := (q.rowBlk - m.rFirst) / max 1 m.rStep
      let v := q.colBlk - m.cFirst
      let ss := entryStages (bits q.epi 4 0)
      let reads := epiReads p ss u v
      match reads.find? (fun r => !x.inWindow r.1 r.2) with
      | some r => stop (.overflow r.1)
      | none =>
        if reads.any (fun r => x.xferOverlaps r.1 r.2) then stop .late
        else match reads.findSome? (fun r => c.localBad r.1 r.2) with
        | some g => stop (.arrayBad (8 * g))
        | none =>
          let (vals, fl) := epiValues c p q u v
          let (t, ofl) := epiOutput x p q vals
          let (am, nf) := amaxUpdate p (vals.map Prod.snd)
          let d0 := epiDest cell p q t u v 0
          let d1 := epiDest cell p q t u v 1
          let ws := d0.1 ++ d1.1
          let bad := ws.find? (fun w => match (if w.cell = cell then some c else target w.cell) with
            | some tc => !tc.epiWriteOk w.addr w.data.length
            | none => true)
          match bad with
          | some w => stop (.overflow w.addr)
          | none =>
            let own := ws.filter (fun w => w.cell == cell)
            let c := own.foldl (fun c w => c.memWrite w.addr w.data) c
            let c := if ss.contains .amax then
                (c.putLocal (pblk + 28) (leBytes 4 am)).putLocal (pblk + 6) (leBytes 2 nf) else c
            let x := { x with flags := x.flags ||| fl ||| ofl ||| q.tag, tx := x.tx ++ d0.2.1 ++ d1.2.1
                              srCtr := if p.outRnd = 2 then (x.srCtr + 4096) % 2 ^ 64 else x.srCtr }
            { c := c, x := x, fin := .done, own := own, cells := ws.filter (fun w => w.cell != cell), peers := d0.2.2 ++ d1.2.2 }

end Sys2Proof.Machine
end

