-- ==== Sys2Proof/Machine/Crypto.lean ====
section
/-!
DEFINITION. Sys2Proof/Machine/Crypto.lean: the algorithms the spec names by their standards: SHA-384 and HMAC-SHA-384
(R278, R279, R370), AES-256 and AES-256-GCM (R279, R371, R455).
-/
namespace Sys2Proof.Machine
open Sys2Proof

/-! ### SHA-384 -/

/-- The 80 round constants of the SHA-512 family (FIPS 180-4). -/
def shaK : List Nat :=
  [0x428A2F98D728AE22, 0x7137449123EF65CD, 0xB5C0FBCFEC4D3B2F, 0xE9B5DBA58189DBBC,
    0x3956C25BF348B538, 0x59F111F1B605D019, 0x923F82A4AF194F9B, 0xAB1C5ED5DA6D8118,
    0xD807AA98A3030242, 0x12835B0145706FBE, 0x243185BE4EE4B28C, 0x550C7DC3D5FFB4E2,
    0x72BE5D74F27B896F, 0x80DEB1FE3B1696B1, 0x9BDC06A725C71235, 0xC19BF174CF692694,
    0xE49B69C19EF14AD2, 0xEFBE4786384F25E3, 0x0FC19DC68B8CD5B5, 0x240CA1CC77AC9C65,
    0x2DE92C6F592B0275, 0x4A7484AA6EA6E483, 0x5CB0A9DCBD41FBD4, 0x76F988DA831153B5,
    0x983E5152EE66DFAB, 0xA831C66D2DB43210, 0xB00327C898FB213F, 0xBF597FC7BEEF0EE4,
    0xC6E00BF33DA88FC2, 0xD5A79147930AA725, 0x06CA6351E003826F, 0x142929670A0E6E70,
    0x27B70A8546D22FFC, 0x2E1B21385C26C926, 0x4D2C6DFC5AC42AED, 0x53380D139D95B3DF,
    0x650A73548BAF63DE, 0x766A0ABB3C77B2A8, 0x81C2C92E47EDAEE6, 0x92722C851482353B]
  ++ [0xA2BFE8A14CF10364, 0xA81A664BBC423001, 0xC24B8B70D0F89791, 0xC76C51A30654BE30,
    0xD192E819D6EF5218, 0xD69906245565A910, 0xF40E35855771202A, 0x106AA07032BBD1B8,
    0x19A4C116B8D2D0C8, 0x1E376C085141AB53, 0x2748774CDF8EEB99, 0x34B0BCB5E19B48A8,
    0x391C0CB3C5C95A63, 0x4ED8AA4AE3418ACB, 0x5B9CCA4F7763E373, 0x682E6FF3D6B2B8A3,
    0x748F82EE5DEFB2FC, 0x78A5636F43172F60, 0x84C87814A1F0AB72, 0x8CC702081A6439EC,
    0x90BEFFFA23631E28, 0xA4506CEBDE82BDE9, 0xBEF9A3F7B2C67915, 0xC67178F2E372532B,
    0xCA273ECEEA26619C, 0xD186B8C721C0C207, 0xEADA7DD6CDE0EB1E, 0xF57D4F7FEE6ED178,
    0x06F067AA72176FBA, 0x0A637DC5A2C898A6, 0x113F9804BEF90DAE, 0x1B710B35131C471B,
    0x28DB77F523047D84, 0x32CAAB7B40C72493, 0x3C9EBE0A15C9BEBC, 0x431D67C49C100D4C,
    0x4CC5D4BECB3E42B6, 0x597F299CFC657E2A, 0x5FCB6FAB3AD6FAEC, 0x6C44198C4A475817]

/-- The initial hash value of SHA-384. -/
def shaH : List Nat :=
  [0xCBBB9D5DC1059ED8, 0x629A292A367CD507, 0x9159015A3070DD17, 0x152FECD8F70E5939,
    0x67332667FFC00B31, 0x8EB44A8768581511, 0xDB0C2E0D64F98FA7, 0x47B5481DBEFA4FA4]

/-- The big-endian number bytes spell, and the `n` bytes of a number, most significant first. -/
def beNat (bs : List Byte) : Nat := bs.foldl (fun a b => 256 * a + b.toNat) 0
def beBytes (n x : Nat) : List Byte := (leBytes n x).reverse

/-- A message padded to whole blocks of 128 bytes. -/
def shaPad (m : List Byte) : List Byte :=
  m ++ 0x80#8 :: List.replicate ((239 - m.length % 128) % 128) 0#8 ++ beBytes 16 (8 * m.length)

/-- The message schedule, newest word first. -/
def shaSched : Nat → List DWord → List DWord
  | 0, w => w
  | k + 1, w =>
    let g := fun (i : Nat) => w.getD i 0#64
    let a := g 14
    let b := g 1
    let s0 := a.rotateRight 1 ^^^ a.rotateRight 8 ^^^ a >>> 7
    let s1 := b.rotateRight 19 ^^^ b.rotateRight 61 ^^^ b >>> 6
    shaSched k ((s1 + g 6 + s0 + g 15) :: w)

/-- One round. -/
def shaRound (h : List DWord) (kw : DWord) : List DWord :=
  match h with
  | [a, b, c, d, e, f, g, hh] =>
    let t1 := hh + (e.rotateRight 14 ^^^ e.rotateRight 18 ^^^ e.rotateRight 41) + ((e &&& f) ^^^ (~~~e &&& g)) + kw
    let t2 := (a.rotateRight 28 ^^^ a.rotateRight 34 ^^^ a.rotateRight 39) + ((a &&& b) ^^^ (a &&& c) ^^^ (b &&& c))
    [t1 + t2, a, b, c, d + t1, e, f, g]
  | _ => h

/-- One block compressed. -/
def shaBlock (h : List DWord) (b : List Byte) : List DWord :=
  let w0 := (List.range 16).map (fun i => BitVec.ofNat 64 (beNat ((b.drop (8 * i)).take 8)))
  let w := (shaSched 64 w0.reverse).reverse
  let kw := List.zipWith (fun (k : Nat) (x : DWord) => BitVec.ofNat 64 k + x) shaK w
  List.zipWith (· + ·) h (kw.foldl shaRound h)

/-- All blocks of a padded message; the first argument bounds their number. -/
def shaBlocks : Nat → List DWord → List Byte → List DWord
  | 0, h, _ => h
  | _ + 1, h, [] => h
  | k + 1, h, m => shaBlocks k (shaBlock h (m.take 128)) (m.drop 128)

/-- SHA-384: 48 bytes. -/
def sha384 (m : List Byte) : List Byte :=
  let p := shaPad m
  ((shaBlocks (p.length / 128) (shaH.map (BitVec.ofNat 64)) p).flatMap (fun x => beBytes 8 x.toNat)).take 48

/-- HMAC-SHA-384. -/
def hmac384 (k m : List Byte) : List Byte :=
  let k := if 128 < k.length then sha384 k else k
  let k := k ++ List.replicate (128 - k.length) 0#8
  sha384 (k.map (· ^^^ 0x5C#8) ++ sha384 (k.map (· ^^^ 0x36#8) ++ m))

/-! ### AES-256 (FIPS 197) -/

/-- Multiplication by x in GF(2^8). -/
def xtime (a : Nat) : Nat := (2 * a ^^^ (if 128 ≤ a then 0x11B else 0)) % 256

/-- Multiplication in GF(2^8). -/
def gmul : Nat → Nat → Nat → Nat
  | 0, _, _ => 0
  | k + 1, a, b => (if b % 2 = 1 then a else 0) ^^^ gmul k (xtime a) (b / 2)

/-- The inverse a^254 in GF(2^8). -/
def ginv (a : Nat) : Nat :=
  let m := gmul 8
  let a2 := m a a
  let a4 := m a2 a2
  let a8 := m a4 a4
  let a16 := m a8 a8
  let a32 := m a16 a16
  let a64 := m a32 a32
  let a128 := m a64 a64
  m a2 (m a4 (m a8 (m a16 (m a32 (m a64 a128)))))

/-- The S-box. -/
def sbox (a : Nat) : Nat :=
  let b := ginv a
  let r := fun k => ((b <<< k) ||| (b >>> (8 - k))) % 256
  b ^^^ r 1 ^^^ r 2 ^^^ r 3 ^^^ r 4 ^^^ 0x63

/-- The expanded key, as words of four bytes, newest first. -/
def keyExpand : Nat → Nat → Nat → List (List Nat) → List (List Nat)
  | 0, _, _, w => w
  | k + 1, i, rcon, w =>
    let t := w.getD 0 []
    let sub := t.map sbox
    let t' :=
      if i % 8 = 0 then
        match sub with
        | a :: rest => (match rest with | b :: r => (b ^^^ rcon) :: (r ++ [a]) | [] => [])
        | [] => []
      else if i % 8 = 4 then sub else t
    keyExpand k (i + 1) (if i % 8 = 0 then xtime rcon else rcon) (List.zipWith (· ^^^ ·) (w.getD 7 []) t' :: w)

/-- The 15 round keys of 16 bytes. -/
def roundKeys (key : List Byte) : List (List Nat) :=
  let w0 := (List.range 8).map (fun i => ((key.drop (4 * i)).take 4).map BitVec.toNat)
  let w := (keyExpand 52 8 1 w0.reverse).reverse
  (List.range 15).map (fun r => ((w.drop (4 * r)).take 4).flatten)

/-- ShiftRows on 16 bytes in column order. -/
def shiftRows (s : List Nat) : List Nat :=
  (List.range 16).map (fun i => s.getD ((i + 4 * (i % 4)) % 16) 0)

/-- MixColumns. -/
def mixColumns (s : List Nat) : List Nat :=
  (List.range 16).map (fun i =>
    let g := fun k => s.getD (4 * (i / 4) + (i + k) % 4) 0
    xtime (g 0) ^^^ (xtime (g 1) ^^^ g 1) ^^^ g 2 ^^^ g 3)

/-- One block encrypted. -/
def aesBlock (rk : List (List Nat)) (b : List Byte) : List Byte :=
  let x := List.zipWith (· ^^^ ·)
  let s := x (b.map BitVec.toNat) (rk.getD 0 [])
  let s := (List.range 13).foldl (fun s r => x (mixColumns (shiftRows (s.map sbox))) (rk.getD (r + 1) [])) s
  (x (shiftRows (s.map sbox)) (rk.getD 14 [])).map (BitVec.ofNat 8)

/-! ### GCM (SP 800-38D) -/

/-- Multiplication in GF(2^128), bit 0 the leftmost: `z` accumulates, `v` is shifted. -/
def ghashMul : Nat → Nat → Nat → Nat → Nat
  | 0, _, _, z => z
  | k + 1, x, v, z =>
    ghashMul k x (v / 2 ^^^ (if v % 2 = 1 then 0xE1 * 2 ^ 120 else 0)) (if x.testBit k then z ^^^ v else z)

/-- GHASH over whole blocks. -/
def ghash (h : Nat) : Nat → Nat → List Byte → Nat
  | 0, y, _ => y
  | _ + 1, y, [] => y
  | k + 1, y, bs => ghash h k (ghashMul 128 (y ^^^ beNat (bs.take 16 ++ List.replicate (16 - bs.length) 0#8)) h 0) (bs.drop 16)

/-- Zero padding to whole blocks of 16. -/
def pad16 (bs : List Byte) : List Byte := bs ++ List.replicate ((16 - bs.length % 16) % 16) 0#8

/-- Counter-mode encryption from a counter on. -/
def ctrMode (rk : List (List Nat)) (iv : List Byte) : Nat → Nat → List Byte → List Byte
  | 0, _, _ => []
  | k + 1, c, bs =>
    if bs = [] then []
    else List.zipWith (· ^^^ ·) (bs.take 16) (aesBlock rk (iv ++ beBytes 4 c)) ++ ctrMode rk iv k (c + 1) (bs.drop 16)

/-- The 16-byte tag of a ciphertext under AES-256-GCM with a 96-bit IV. -/
def gcmTag (key iv aad ct : List Byte) : List Byte :=
  let rk := roundKeys key
  let h := beNat (aesBlock rk (List.replicate 16 0#8))
  let m := pad16 aad ++ pad16 ct ++ beBytes 8 (8 * aad.length) ++ beBytes 8 (8 * ct.length)
  List.zipWith (· ^^^ ·) (beBytes 16 (ghash h (m.length / 16) 0 m)) (aesBlock rk (iv ++ beBytes 4 1))

/-- Encryption and decryption are the same stream. -/
def gcmCrypt (key iv bs : List Byte) : List Byte := ctrMode (roundKeys key) iv (bs.length / 16 + 1) 2 bs

/-- The PRF block of R278: the segment key and its IV. -/
def segmentKey (kIn streamId : List Byte) (i : Nat) : List Byte × List Byte :=
  let label : List Byte := [0x4B#8, 0x5A#8, 0x39#8, 0x20#8, 0x43#8, 0x46#8, 0x47#8, 0x20#8, 0x53#8, 0x45#8, 0x47#8]
  let blk := hmac384 kIn (beBytes 4 1 ++ label ++ 0#8 :: streamId ++ beBytes 4 i ++ beBytes 4 352)
  (blk.take 32, (blk.drop 32).take 12)

end Sys2Proof.Machine
end

