-- ==== Sys2Proof/Machine/EngineTypes.lean ====
section
/-!
DEFINITION. Sys2Proof/Machine/EngineTypes.lean: the state of the fixed-function engines (ch. 13).
-/
namespace Sys2Proof.Machine
open Sys2Proof

/-- A data fragment of a collective that waits to be sent (R466): the rank it goes to, phase (0 REDUCE, 1 GATHER),
direction, segment or block, its index there, its bytes. -/
structure CollFrag where
  peer : Nat
  phase : Nat
  dir : Nat
  seg : Nat
  frag : Nat
  data : List Byte
  deriving DecidableEq, Repr

/-- An active collective (R461 to R467): its group entry, number, size, rank and mode; by rank the limit granted to a
peer, the fragments arrived from it and the fragments sent to it; fragments waiting to be sent and how many are still
expected; the rounded fragments of its own segment (R463). -/
structure CollSt where
  grp : Nat
  no : Nat
  n : Nat
  rank : Nat
  ordered : Bool
  limitIn : Tab Nat := []
  arrived : Tab Nat := []
  sent : Tab Nat := []
  outq : List CollFrag := []
  left : Nat := 0
  own : Tab (List Byte) := []
  deriving DecidableEq, Repr

/-- A command in an engine's queue (R337 to R350): its identity (the tag of its signal and message packets), its job and
task, its 64 bytes; whether its wait is satisfied or was answered RETRY; whether it is active, since when (GC and order of
activation), how often it was passed over, and how many chunks are done; the key a GCM command read at activation; the
refusals of its message and whether it waits to be sent again; the collective number a CE command was given and its
progress; for an UPDATE the step decision once it has arrived, and for a mirror UPDATE its tenant and step (R474);
how it ended (status and detail codes), the record's count and its conditions. -/
structure EngCmd where
  id : Nat := 0
  job : Nat
  task : Nat
  cmd : List Byte
  ready : Bool := false
  retry : Bool := false
  active : Bool := false
  order : Nat := 0
  start : Nat := 0
  passed : Nat := 0
  done : Nat := 0
  wrote : List (Nat × Nat × Nat) := []
  others : List (Nat × Nat × Nat) := []
  key : List Byte := []
  tries : Nat := 0
  again : Bool := false
  sent : Bool := false
  collNo : Nat := 0
  coll : Option CollSt := none
  decision : Option Decision := none
  mirror : Option (Nat × Nat) := none
  fin : Option (Nat × Nat) := none
  count : Nat := 0
  cond : Nat := 0
  deriving DecidableEq, Repr

end Sys2Proof.Machine
end

