-- ==== Sys2Proof/Machine/HostTypes.lean ====
section
/-!
DEFINITION. Sys2Proof/Machine/HostTypes.lean: the state of rings, consumed entries, completion lines and functions (ch.
18), of HBM pages (ch. 12, 14), of tenants' billing (ch. 19) and of launch slots (ch. 20).
-/
namespace Sys2Proof.Machine
open Sys2Proof

/-- States of a ring (R497), in code order. -/
inductive RingSt where
  | disabled | active | error | draining
  deriving DecidableEq, Repr

/-- A completion's own fields (R507): phase and sq_head_lo are those of its writing. `slot` is the job slot that returns when it has
been written (R311). -/
structure Compl where
  tag : Nat
  status : Nat
  opcode : Nat
  late : Bool
  cond : Nat
  slow : Nat
  detail : Nat
  start : Nat
  fin : Nat
  slot : Option Nat := none
  deriving DecidableEq, Repr

/-- A tag of the duplicate window (R518): the entry that was executed for it, its completion once written, and whether it is itself a
duplicate. -/
structure WinEntry where
  tag : Nat
  id : Nat
  job : Bool
  dup : Bool
  done : Option Compl
  deriving DecidableEq, Repr

/-- A ring (R497): its registers, the duplicate window, the consumed entries whose completion is not written, and the
completions since its last interrupt with the GC of the first of them; `cqWait` are completions
waiting for their line's eviction to end (R516). `size` holds sq_log2 in [4:0] and cq_log2 in
[12:8], `irq` irq_count in [8:0] and irq_time_us in [25:16]. -/
structure Ring where
  ctl : Nat := 0
  st : RingSt := .disabled
  err : Nat := 0
  sqBase : Nat := 0
  cqBase : Nat := 0
  dbAddr : Nat := 0
  size : Nat := 0x0606
  poll : Nat := 10
  tmoDef : Nat := 10000
  irq : Nat := 1
  sqHead : Nat := 0
  cqTail : Nat := 0
  dbTail : Nat := 0
  dbHead : Nat := 0
  window : List WinEntry := []
  owed : Nat := 0
  irqN : Nat := 0
  irqGc : Nat := 0
  pollGc : Nat := 0
  cqWait : List (Compl × Bool) := []
  deriving DecidableEq, Repr

/-- Where a consumed entry stands: to be executed, or executed and not complete. -/
inductive CmdSt where
  | fresh | running
  deriving DecidableEq, Repr

/-- A consumed entry whose completion is not written (R501, R504): its words, when it was consumed, its place in the order
of consumption, and when its command timeout expires (R520; none: never); `retry` says its WAIT was
answered RETRY; `slot` is the job slot a launch took when it was consumed (R310), and `dups` the duplicates that wait for its
completion (R519). -/
structure Cmd where
  id : Nat
  fn : Nat
  ring : Nat
  tag : Nat
  op : Nat
  words : List Nat
  gcIn : Nat
  expires : Option Nat
  st : CmdSt := .fresh
  job : Option Nat := none
  slot : Option Nat := none
  retry : Bool := false
  dups : Nat := 0
  deriving DecidableEq, Repr

/-- The kinds of host line the device may hold (R490). -/
inductive LineKind where
  | sq | db | cq
  deriving DecidableEq, Repr

/-- A line of the host-line cache (R490, R516, R517): a completion line holds its bytes; `evict` says its DirtyEvict is
outstanding, its bytes then lying in the write-back buffer, and `given` that a snoop has taken them. -/
structure HostLine where
  fn : Nat
  ring : Nat
  addr : Nat
  kind : LineKind
  data : List Byte
  evict : Bool := false
  given : Bool := false
  deriving DecidableEq, Repr

/-- The configuration-space state of a function that commands depend on (R485): ATS enabled, the pages its translation
cache holds, MSI-X enabled, D3hot. -/
structure FnCfg where
  ats : Bool := false
  atc : List Nat := []
  msix : Bool := false
  d3 : Bool := false
  deriving DecidableEq, Repr

/-- States of an HBM page of the pool (R315, R386, R387): free and zeroed, free and awaiting zeroing, in use, in use and
marked for retirement, marked with no page free to migrate to, out of use. -/
inductive PageSt where
  | clean | dirty | used | marked | deferred | retired
  deriving DecidableEq, Repr

/-- A stack's patrol (R385, R386): the page it reads next, the units (PA / 32) corrected in this pass and in the pass
before, and those other reads corrected in this period. -/
structure PatrolSt where
  pos : Nat := 0
  cur : List Nat := []
  prev : List Nat := []
  other : List Nat := []
  deriving DecidableEq, Repr

/-- A tenant's bandwidth reservation (R395). -/
structure Reserve where
  tenant : Nat
  id : Nat
  mask : Nat
  rate : Nat
  deriving DecidableEq, Repr

/-- A configuration load or unload at the loader, in order of arrival (R286 to R300, R304): the descriptor's fields
(`slip` the TVA of the Slipway record it serves, `expires` its quiesce timeout); then where it stands: admitted, its
region fenced, the stream header, the segments applied and the stream and plaintext bytes they took, the chained key,
the bytes a multicast receiver holds, whether some are missing and when the last came, the sections seen as (type, cell), the bodies
staged for COMMIT, the ranges written as (cell, offset, length) with operand-cache offsets above 2^20, whether COMMIT has
arrived and whether it has been applied, and its pair of loader buffers (R280). A sender's load that has ended waits for its repair window to close with its
status, reason and the window's end. -/
structure Load where
  cmd : Option Nat := none
  slip : Option Nat := none
  unload : Bool := false
  tenant : Nat
  gallery : Nat
  src : Nat := 0
  addr : Nat := 0
  length : Nat := 0
  keySlot : Nat := 0
  group : Nat := 0
  mcSrc : Nat := 0
  tx : Bool := false
  txOnly : Bool := false
  holdMs : Nat := 0
  expires : Option Nat := none
  started : Bool := false
  fenced : Bool := false
  full : Bool := true
  header : List Byte := []
  got : Nat := 0
  off : Nat := 64
  plain : Nat := 0
  key : List Byte := []
  buf : List Byte := []
  gap : Bool := false
  lastGc : Nat := 0
  secs : List (Nat × Nat) := []
  ctrl : Tab (List Nat) := []
  switch : Tab (List Byte) := []
  slipway : Option (List Nat) := none
  written : List (Nat × Nat × Nat) := []
  ended : Bool := false
  commitAt : Nat × Nat := (0, 0)
  committed : Bool := false
  pair : Nat := 0
  holdEnd : Option Nat := none
  result : Option (Nat × Nat) := none
  deriving DecidableEq, Repr

/-- A general key slot (R581): tenant, usage mask (bit 0 CFG, bit 1 GCM) and key; an absent slot is not valid. -/
structure KeySlot where
  tenant : Nat
  usage : Nat
  key : List Byte
  deriving DecidableEq, Repr

/-- A Ferier slot (R581, R585): the current and the previous key, and when the previous one was displaced. -/
structure FerKey where
  cur : Option (List Byte) := none
  prev : Option (List Byte) := none
  since : Nat := 0
  deriving DecidableEq, Repr

/-- A launch slot (R565): its state (0 IDLE, 1 ARMED, 2 FIRED, 3 FIRED_LATE, 4 REFUSED) and the GC at firing; its settings
stand in the registers. -/
structure LaunchSlot where
  st : Nat := 0
  fired : Nat := 0
  deriving DecidableEq, Repr

/-- A tenant's billing: records written to its stream since Stage 3, whether its open period is partial, when it began for
this tenant (wall time and GC), the last 16 records by slot, µJ charged to activity and idle µJ not yet recorded, and
the values of ACCT_FER_TX, ACCT_FER_RX and ACCT_HOST at the last energy interval, less what closes took away. -/
structure Billing where
  seq : Nat := 0
  partial_ : Bool := true
  startWall : Int := 0
  startGc : Nat := 0
  slots : Tab (List Nat) := []
  uj : Nat := 0
  idleUj : Nat := 0
  marks : List Int := []
  deriving DecidableEq, Repr

end Sys2Proof.Machine
end

