-- ==== Sys2Proof/Machine/RegMap.lean ====
section
/-!
DEFINITION. Sys2Proof/Machine/RegMap.lean: where the registers and counters of BAR0 lie (ch. 26), and their reset
values. A register of the PF has its BAR0 offset as its key, one of VF n its offset plus n × 0x400000.
-/
namespace Sys2Proof.Machine
open Sys2Proof

/-- The key of a VF's register. -/
def vfKey (n off : Nat) : Nat := 0x400000 * n + off

/-! Identification (R683), reset (R630). -/
def rDevIdent : Nat := 0x000
def rLinkInfo : Nat := 0x008
def rFeatOffered : Nat := 0x010
def rFeatAccept : Nat := 0x020
def rFeatStatus : Nat := 0x050
def rFprint : Nat := 0x058

/-! Tenancy (R686, R687). -/
def rTen (t off : Nat) : Nat := 0x20000 + 0x40 * t + off
def rTenStatus (t : Nat) : Nat := rTen t 0x04
def rTenSig (t : Nat) : Nat := rTen t 0x18
def rShareW (c : Nat) : Nat := 0x21000 + 4 * c
def rShareStatus : Nat := 0x21044
def rSealCtl : Nat := 0x21080
def rSealStatus : Nat := 0x21084

/-! MSI-X (R685): table entry `v` and pending-bit array of function `fn`; fault records' event vector is 8 (R525). -/
def rMsix (fn v : Nat) : Nat := (if fn = 0 then 0x18000 else vfKey fn 0x8000) + 16 * v
def rPba (fn : Nat) : Nat := if fn = 0 then 0x1C000 else vfKey fn 0xC000

/-! Ring counters (R684): `k` 0 consumed, 1 duplicates, 2 timeouts, 3 hold, 4 CQ full; per function 0 snoops, 1 polls, 2
crossings. -/
def rRingCtr (fn ring k : Nat) : Nat := (if fn = 0 then 0x10800 else vfKey fn 0x1800) + 0x40 * ring + 8 * k
def rHif (fn k : Nat) : Nat := (if fn = 0 then 0x10A00 else vfKey fn 0x1A00) + 8 * k

/-! Ferryman (R690). -/
def rFmDl (t : Nat) : Nat := 0x40000 + 0x10 * t
def rFmPlace (t : Nat) : Nat := 0x40004 + 0x10 * t
def rGalCtl (g : Nat) : Nat := 0x40200 + 0x10 * g
def rFmCtl : Nat := 0x40400
def rFmEvt (k : Nat) : Nat := 0x40800 + 8 * k
def rHubSig (k : Nat) : Nat := 0x40900 + 8 * k

/-! External memory (R691). -/
def rStack (n : Nat) : Nat := 0x50000 + 8 * n
def rBwFactor : Nat := 0x50040
def rHbmEnc : Nat := 0x50048
def rHbmCtr (n k : Nat) : Nat := 0x50100 + 0x40 * n + 8 * k

def rSc (n k : Nat) : Nat := 0x50300 + 0x20 * n + 8 * k

/-! Ferier, gate, groups, tether (R692 to R695). -/
def rPortEn : Nat := 0x60000
def rFerCtl : Nat := 0x60004
def rTcBuf (c : Nat) : Nat := 0x60010 + 4 * c
def rTcWeight (c : Nat) : Nat := 0x60030 + 4 * c
def rFdom (n : Nat) : Nat := 0x60050 + 4 * (n - 1)
def rFerStatus : Nat := 0x60090
def rGate (off : Nat) : Nat := 0x60400 + off
def rGrp (i off : Nat) : Nat := 0x61000 + 0x20 * i + off
def rPortCtr (p k : Nat) : Nat := 0x62000 + 0x100 * p + 8 * k
def rFerCtr (k : Nat) : Nat := 0x63000 + 8 * k

/-! Telemetry and accounting (R696). -/
def rEng (e k : Nat) : Nat := 0x90000 + 0x80 * e + 8 * k
def rAcct (t off : Nat) : Nat := 0x92000 + 0x100 * t + off
def rBillPeriod : Nat := 0x93100
def rAcctW (i : Nat) : Nat := 0x93200 + 4 * i

/-! Power (R609): PWR_CTL, AP_GATE, PWR_CAP, DROOP_EVT, DROOP_MAP. -/
def rPwrCtl : Nat := 0x1100
def rApGate : Nat := 0x1108
def rPwrCap : Nat := 0x1120
def rDroopEvt (d : Nat) : Nat := 0x1160 + 8 * d
def rDroopMap (d : Nat) : Nat := 0x1200 + 0x80 * d

/-- The registers whose value after reset is not 0 (R686, R690 to R696, R547). DEV_IDENT names a KZ9-M2048 at stepping B0
with PCIe device ID 0x9A20; its JEP106 code is not given (log 12). -/
def regReset : Tab Nat :=
  ([(rDevIdent, 0x0800 + 0xB0 * 2 ^ 16 + 0x9A20 * 2 ^ 48), (rTen 0 0x04, 1), (rTen 0 0x08, 4096), (rTen 0 0x0C, 261632), (rTen 0 0x1C, 14000), (rBwFactor, 1024)]
    ++ (List.range 17).map (fun t => (rFmDl t, 1000000)) ++ (List.range 17).map (fun t => (rFmPlace t, 1))
    ++ (List.range 7).map (fun c => (rTcWeight c, 8))
    ++ [(rPwrCap, 3600), (0xA0028, 2)] ++ (List.range 16).map (fun n => (vfKey (n + 1) 0x5028, 2))
    ++ (List.range 17).flatMap (fun fn => (List.range 9).map (fun v => (rMsix fn v + 12, 1)))
    ++ [(rGate 0x58, 50), (rGate 0x5C, 1), (rGate 0x78, 0x7F800000)]
    ++ [420, 90, 1500, 4000, 2000, 1500, 500, 3000, 1000, 4000, 30, 30, 40, 40, 40].zipIdx.map
        (fun (w : Nat × Nat) => (rAcctW w.2, w.1))).foldl (fun (t : Tab Nat) (e : Nat × Nat) => Tab.put 0 t e.1 e.2) []

end Sys2Proof.Machine
end

