-- ==== Sys2Proof/Machine/SysTypes.lean ====
section
/-!
DEFINITION. Sys2Proof/Machine/SysTypes.lean: the state of the time base (ch. 20), the security block (ch. 21), power and
heat (ch. 22), start-up and the non-volatile memory (ch. 23), debug and trace (ch. 24), and the pins (ch. 25).
-/
namespace Sys2Proof.Machine
open Sys2Proof

/-! ### The shared cache (R390) -/

/-- A line a slice holds: its way, its number (physical address / 128), whether it is newer than HBM, whether it is poisoned,
and its 128 bytes. -/
structure CLine where
  way : Nat
  line : Nat
  dirty : Bool
  poison : Bool
  data : List Byte
  deriving DecidableEq, Repr

/-! ### Time (R554 to R567) -/

/-- States of PPS_STATUS and SYNC_STATUS (R556), in code order. -/
inductive PpsSt where
  | off | acquiring | locked | slewing | holdover | fault
  deriving DecidableEq, Repr

/-- An exchange at a time-sync slave (R563): its number, t1, t2 and t4, and whether nothing discards it so far. -/
structure SyncEx where
  n : Nat
  t1 : Int
  t2 : Int := 0
  t4 : Int := 0
  clean : Bool := true
  deriving DecidableEq, Repr

/-- What a responder keeps of a slave (R562): its wall time when its last RESP left, and whether that RESP was sent again. -/
structure SyncPeer where
  t3 : Int := 0
  again : Bool := false
  deriving DecidableEq, Repr

/-- The time base (R556): whether the GC counts; WALL_BASE, wall_valid, the wall slew left, when it last moved and whether it has not ended; PPS
settings, state, last error, last accepted edge, whether one has been accepted since ACQUIRING or HOLDOVER, consecutive
small errors, the error of the accepted edge before where a later one may be compared with it, phase error still to be
slewed out, when a correction was last applied or ACQUIRING began, FREQ_CORR; the sync role, master, interval, state, last offset, the request outstanding and when it left, the
exchange whose t3 is awaited, the (d, o) accepted in the group, how many exchanges it has seen, groups without one,
corrections of small error, the responder's record by slave; whether REFCLK is lost. -/
structure TimeSt where
  running : Bool := false
  base : Int := 0
  valid : Bool := false
  refused : Bool := false
  slew : Int := 0
  slewGc : Nat := 0
  slewing : Bool := false
  ppsEn : Bool := false
  stepEn : Bool := true
  delay : Nat := 0
  pps : PpsSt := .off
  lastErr : Int := 0
  edgeGc : Nat := 0
  edge : Bool := false
  small : Nat := 0
  prevErr : Option Int := none
  toSlew : Int := 0
  since : Nat := 0
  freq : Int := 0
  role : Nat := 0
  master : Nat := 0
  interval : Nat := 125
  sync : PpsSt := .off
  lastOff : Int := 0
  reqN : Nat := 0
  reqGc : Nat := 0
  req : Option SyncEx := none
  exch : Option SyncEx := none
  group : List (Int × Int) := []
  seen : Nat := 0
  empty : Nat := 0
  syncSmall : Nat := 0
  peers : Tab SyncPeer := []
  refLost : Bool := false
  deriving DecidableEq, Repr

/-! ### Billing (R548 to R553) -/

/-- The module's billing: periods closed since Stage 3, the last closed boundary and the next, wall times in ns; the
period length in force for the open period, in ns; when the last energy interval ended (GC) and the energy it left
undivided, in µJ. -/
structure BillSt where
  closed : Nat := 0
  last : Option Int := none
  next : Option Int := none
  p : Int := 3600 * 1000000000
  energyGc : Nat := 0
  carryUj : Nat := 0
  deriving DecidableEq, Repr

/-! ### Security (R573 to R593) -/

/-- What a requester was answered last (R578, R579, R582, R587): nothing yet; an error; a chain's bytes; measurements with
their signature where one was asked for; a signature; the session opened; a session ended; its keys updated; SET_KEY's
response byte; an IDE_KM request acknowledged; the IDE stream's state (the set in use and the sets programmed). -/
inductive SpdmReply where
  | none
  | error
  | chain (bytes : List Byte)
  | measurements (ms : List (Nat × List Byte)) (sig : Option (List Byte))
  | signature (bytes : List Byte)
  | session (id : Nat) (sig : List Byte)
  | ended
  | updated
  | setKey (code : Nat)
  | ideAck
  | ideState (on : Option Nat) (sets : List Nat)
  deriving DecidableEq, Repr

/-- A secure SPDM session (R579, R582): its number, the provisioning root its requester's certificate chains to, where it
authenticated mutually, and how often its keys were updated. -/
structure Session where
  id : Nat
  root : Option Nat
  keys : Nat := 0
  deriving DecidableEq, Repr

/-- The security block: the boot status; svn_floor and the running bundle's lowest svn; the debug lock state, whether it
was unlocked since start and locked again, the state mixed into the alias key, how many nonces were drawn, the last
unlock's result; measurements 1 to 10; whether the DeviceID and alias keys are available; sessions; the IDE key sets and the one in use; how often HBM keys of tags 0 and 17 and of each
tenant were generated; the last response sent to a requester. -/
structure SecSt where
  recovery : Bool := false
  bank : Nat := 0
  fallback : Bool := false
  fwSigned : Bool := true
  svnFloor : Nat := 0
  svnRun : Nat := 0
  dbg : Nat := 0
  unlocked : Bool := false
  relocked : Bool := false
  mix : Nat := 0
  nonceNo : Nat := 0
  result : Nat := 0
  meas : Tab (List Byte) := []
  keysUp : Bool := true
  sessions : List Session := []
  ideSets : Tab (List Byte) := []
  ideOn : Option Nat := none
  hbmKeys : Tab Nat := []
  reply : SpdmReply := .none
  deriving DecidableEq, Repr

/-! ### Power and heat (R594 to R609) -/

/-- Power and heat: PWR_STATUS.mode (0 READY, 2 DEEP_IDLE), a pending deep-idle request, a wake event seen; the supply-sag
stage S1 to S5 of the input alone; how many 100 MHz steps the power-cap level lies below 2.0 GHz, cap_short and when the
cap was last evaluated; the thermal levels of dies (groups 0 to 3) and stacks (4 to 11), by 4 × group + level
when the group was last within 3 °C of the level's threshold or above it; consecutive samples at the trip threshold by group (12, 13
the hubs), the trip in force and when a sensor was last within 10 °C of its trip threshold; by die the droop steps of 100
MHz, whether the A-clock is stretched, since when and when the last trip was, the finished stretches of the last 10 ms,
and when the step last changed or a stretch ended; the sensors' last samples, the input in mV, PWR_NOW in mW, and the energy since Stage 3 in µJ;
`acyc` the A-cycles each die's clock has made, in units of 1/5,000 (R12, R601, R602). -/
structure PowerSt where
  mode : Nat := 0
  request : Bool := false
  wake : Bool := false
  stage : Nat := 0
  capStep : Nat := 0
  capShort : Bool := false
  capGc : Nat := 0
  level : Tab Nat := []
  warmGc : Tab Nat := []
  tripN : Tab Nat := []
  trip : Bool := false
  tripGc : Nat := 0
  droop : Tab Nat := []
  stretched : Tab Bool := []
  stretchGc : Tab Nat := []
  droopGc : Tab Nat := []
  stretches : Tab (List (Nat × Nat)) := []
  calmGc : Tab Nat := []
  therm : Tab Int := []
  mv : Nat := 54000
  mw : Nat := 0
  energyUj : Nat := 0
  acyc : Tab Nat := []
  counted : Tab Nat := []
  deriving DecidableEq, Repr

/-! ### The non-volatile memory and the settings (R620 to R630) -/

/-- The settings of a record (R626). -/
structure Settings where
  flags : Nat := 1 + 2
  plainCfg : Nat := 0
  portEn : Nat := 0xFFFF
  delayNs : Nat := 0
  apGate : Nat := 0
  capW : Nat := 3600
  billS : Nat := 3600
  tcBuf : List Nat := List.replicate 8 128
  ownerKey : List Byte := List.replicate 48 0#8
  roots : List (List Byte × Nat) := List.replicate 8 (List.replicate 48 0#8, 0)
  deriving DecidableEq, Repr

/-- A journal entry (R622): DONE or BEGIN, bank, sector, erase number. -/
structure JEntry where
  done : Bool
  bank : Nat
  sector : Nat
  no : Nat
  deriving DecidableEq, Repr

/-- A bank (R620): its boot record (sequence number and preferred bank), journal, boot counts, settings copy (seq and
settings), retired cells and pages, and the lowest svn of its bundle; an absent copy is one that is erased, partly erased or
invalid. -/
structure NvBank where
  boot : Option (Nat × Nat) := some (1, 0)
  journal : List JEntry := []
  counts : List Nat := []
  settings : Option (Nat × Settings) := some (1, {})
  cells : List Nat := []
  pages : List Nat := []
  bundle : Option Nat := some 0
  deriving DecidableEq, Repr

/-- A store in the controller's order: the settings copy; the bank and seq chosen once it has begun; the entry that waits
for it; whether the other bank's copy follows; whether board management wrote it, whose fields alone it changes; the number of the erase in progress. -/
structure NvOp where
  bank : Option Nat := none
  seq : Nat := 0
  val : Settings
  cmd : Option Nat
  more : Bool := true
  pldm : Bool := false
  begun : Option Nat := none
  deriving DecidableEq, Repr

/-- The non-volatile memory: both banks, the sites bad at manufacture, the next erase number, the operations in order, and
the settings in force with their seq (0: defaults). -/
structure NvSt where
  banks : List NvBank := [{}, {}]
  mfgBad : List Nat := []
  eraseNo : Nat := 0
  ops : List NvOp := []
  active : Nat × Settings := (0, {})
  deriving DecidableEq, Repr

/-! ### AO, start-up and pins (R610 to R619, R669 to R673) -/

/-- What lies in AO: power present, PERST# asserted, the input qualified; a start event seen and not yet taken by Landing,
whether Landing has completed; the halt code; RST_STATUS.cause; the crash log; whether the module rests in S5 or
disconnected; the trigger of the reset under way; the bank to start from after microcode that did not verify; whether
Stage 3 has sent the ports into TRAINING; entries to each sag stage, and whether supply sag brought it to S5; the SMBus address; pending PLDM events; the test
access port's instruction. -/
structure AoSt where
  powered : Bool := true
  perst : Bool := true
  qualified : Bool := true
  start : Bool := false
  landed : Bool := false
  halt : Option Nat := none
  cause : Nat := 0
  crash : Option FaultRec := none
  off : Bool := false
  trigger : Nat := 0
  force : Option Nat := none
  training : Bool := false
  sagEvt : Tab Nat := []
  inS5 : Bool := false
  smbus : Nat := 0x64
  events : Nat := 0
  jtag : Nat := 0xFF
  deriving DecidableEq, Repr

/-! ### Debug and trace (R649 to R657) -/

/-- A trace entry (R656): GC, kind, tenant, lost, job slot, data. -/
structure TraceRec where
  gc : Nat
  kind : Nat
  tenant : Nat
  lost : Bool
  job : Nat
  data : List Nat
  deriving DecidableEq, Repr

/-- Trace: the newest entry, which waits to be written; the ring's entries, oldest first, the entries written, whether the next
carries lost, TRACE_STATUS.full, a copy in progress. -/
structure TraceSt where
  wait : Option TraceRec := none
  ring : List TraceRec := []
  head : Nat := 0
  lost : Bool := false
  full : Bool := false
  copying : Bool := false
  deriving DecidableEq, Repr

/-- Debug: the GC and the dies' A-cycles at which cell counters were latched last (R649), and the bytes the last window access returned. -/
structure DebugSt where
  snapGc : Nat := 0
  snapCyc : Tab Nat := []
  win : List Byte := []
  deriving DecidableEq, Repr

end Sys2Proof.Machine
end

