-- ==== Sys2Proof/Machine/State.lean ====
section
/-!
DEFINITION. Sys2Proof/Machine/State.lean: the machine's state, its faults and refusals, and the state after reset.
-/
namespace Sys2Proof.Machine
open Sys2Proof

/-- A word on a stream link, forwarded by the switch of `cell` from input `port` in A-cycle `due` of its die; a word that has
crossed a die boundary lies in the crossing's FIFO till then (R203, R214). -/
structure LinkWord where
  cell : Nat
  port : Nat
  due : Nat
  crossed : Bool
  word : SWord
  deriving DecidableEq, Repr

/-- The state of the machine; widths and reset values stand in INVENTORY.md. -/
structure State where
  /-- The commands that wait (the model's own queue). -/
  pending : List Instr
  /-- The model's own counter of free values (log 3). -/
  freeCtr : Nat := 0
  /-- The global counter, ns (R555). -/
  gc : Nat := 0
  /-- FEAT_ACTIVE, 0 until a commit (R496). -/
  feat : Nat := 0
  /-- The last stage completed (R610). -/
  stage : Nat := 0
  /-- Cell state (R16). -/
  cells : Tab Cell := []
  /-- Bad and retired cells: the cell map (R18). -/
  badCells : List Nat := []
  /-- The bad sites that the routing tables in force know (R243). -/
  routeBad : List Nat := []
  /-- Packets held at their routers while new tables wait (R243). -/
  heldPkts : List Packet := []
  /-- MESH_EVT_FLITS by 8 × cell + output port, and as last latched (R249, R649). -/
  flits : Tab Nat := []
  flitsSnap : Tab Nat := []
  /-- The arbitration wheel every port runs: 0 to 15 a class, 16 free, 17 system (R245). -/
  wheel : List Nat := (List.range 64).map (fun p => if p % 16 = 15 then 17 else 16)
  /-- Stream words on links, by receiving switch, port and A-cycle (R203). -/
  links : List LinkWord := []
  /-- Stream credits on their way back (R209). -/
  creditFlight : List Nat := []
  /-- Mesh packets in flight, in injection order (R248). -/
  flight : List Packet := []
  /-- Signals (R250). -/
  sigs : Tab Signal := []
  /-- Jobs in flight (R308). -/
  jobs : Tab (Option Job) := []
  /-- Galleries (R20). -/
  gals : Tab (Option Gallery) := []
  /-- The fault log (R634). -/
  log : FaultLog := {}
  /-- BOOT_COUNT of this start (R621). -/
  bootCount : Nat := 0
  /-- The share class in force by tenant (R535). -/
  shareClass : Tab Nat := []
  /-- Memory tiles hold in retention (R200). -/
  arrayHeld : Bool := false
  /-- Registers and 64-bit counters of BAR0 (R680). -/
  regs : Tab Nat := regReset
  /-- Host rings (R497). -/
  rings : Tab Ring := []
  /-- Consumed entries whose completion is not written (R504). -/
  cmds : List Cmd := []
  /-- The order of consumption and of engine activation (R343) (R504). -/
  cmdCtr : Nat := 0
  /-- Host memory at each function's bus addresses (log 17) (R487). -/
  host : Tab Memory := []
  /-- The host-line cache (R490). -/
  lines : List HostLine := []
  /-- Configuration-space state by function (R485). -/
  fns : Tab FnCfg := []
  /-- SR-IOV VF Enable (R485). -/
  vfEn : Bool := false
  /-- The link runs below 64 GT/s: only the PF exists (R486). -/
  pfOnly : Bool := false
  /-- HBM contents (R376). -/
  hbm : Memory := []
  /-- Poisoned lines (R383). -/
  hbmPoison : Tab Bool := []
  /-- The sets of the shared cache, each most recently used line first (R390). -/
  cache : Tab (List CLine) := []
  /-- The token buckets of tenants at stacks, in 1/1,024 byte (R398). -/
  tokens : Tab Nat := []
  /-- The state of each page of the pool (R315). -/
  pages : Tab PageSt := []
  /-- The key tag a page is held under (R394). -/
  pageTag : Tab Nat := []
  /-- Ferryman's cached translations as (tenant, page), newest first (R317). -/
  tlb : List (Nat × Nat) := []
  /-- The page tables: physical page, write, placement (R316). -/
  pt : Tab Nat := []
  /-- Level-2 table pages by tenant and TVA range (R380). -/
  l2 : Tab Nat := []
  /-- The SPREAD pointer (R378). -/
  spreadPtr : Nat := 0
  /-- NEAR alternation between a die's two stacks (R378). -/
  dieAlt : Tab Nat := []
  /-- Bandwidth reservations (R395). -/
  reserves : List Reserve := []
  /-- Configuration loads (R286). -/
  loads : List Load := []
  /-- General key slots (R581). -/
  keySlots : Tab (Option KeySlot) := []
  /-- Ferier key slots (R581). -/
  ferKeys : Tab FerKey := []
  /-- Fixed-function engines (R342). -/
  engines : Tab (List EngCmd) := []
  /-- Each engine's position on the wheel (R345). -/
  engWheel : Tab Nat := []
  /-- The Ferier transport (R432). -/
  fer : Ferier := {}
  /-- Rank tables read at GRP_COMMIT (R459). -/
  groups : Tab (List Nat) := []
  /-- GRANTs of collectives not yet active here (R467). -/
  grants : List (Nat × Nat × Nat × Nat) := []
  /-- The step gate (R412). -/
  gate : Option Gate := none
  /-- The alias gate (R482). -/
  aliasGate : Option Gate := none
  /-- The tethered pair (R472). -/
  tether : Tether := {}
  /-- The shedding stage in force (R603). -/
  sag : Nat := 0
  /-- The module is stopped (R641). -/
  fatal : Bool := false
  /-- The share weights in force (R535). -/
  shareW : List Nat := List.replicate 16 0
  /-- Array domains GATED (R595). -/
  gated : List Nat := []
  /-- The time base (R556). -/
  time : TimeSt := {}
  /-- Launch slots (R565). -/
  launch : Tab LaunchSlot := []
  /-- A tenant's billing (R548). -/
  billing : Tab Billing := []
  /-- The module's billing (R549). -/
  bill : BillSt := {}
  /-- The security block (R573). -/
  sec : SecSt := {}
  /-- Power and heat (R594). -/
  pwr : PowerSt := {}
  /-- The non-volatile memory (R620). -/
  nv : NvSt := {}
  /-- What lies in AO (R610). -/
  ao : AoSt := {}
  /-- Debug (R649). -/
  dbg : DebugSt := {}
  /-- Trace (R656). -/
  trace : TraceSt := {}
  /-- JOB_CAUSE (R647). -/
  jobCause : Tab Nat := []
  /-- When a job's queue was last looked at for its command timeout (R521). -/
  jobLast : Tab Nat := []
  /-- A stack's patrol (R385). -/
  patrol : Tab PatrolSt := []
  /-- Free pairs of loader buffers (R280). -/
  pairs : List Nat := [0, 1, 2, 3]
  /-- Tenants whose tables a failed stack took (R389). -/
  tablesLost : List Nat := []
  /-- A SHARE_COMMIT that waits for the one before (R535). -/
  shareHeld : Bool := false
  /-- Staged low halves of 64-bit registers (R10). -/
  staged : Tab (Option Nat) := []
  /-- Latched high halves of 64-bit registers (R10). -/
  latched : Tab (Option Nat) := []
  deriving DecidableEq, Repr

/-- Faults: a command never ends in one. -/
inductive Fault where
  /-- Raised by no command: every command of the table has an effect or none (safe). -/
  | none
  deriving DecidableEq, Repr

/-- Refusals. -/
inductive Refusal where
  /-- Raised by an arm of Dispatch.lean whose command has no meaning yet (safe). -/
  | notModelled (mnemonic : String)
  deriving DecidableEq, Repr

/-- What a meaning answers. -/
abbrev Out := Host.Outcome State Fault Refusal

/-- After reset. -/
def State.reset : State := { pending := [] }

end Sys2Proof.Machine
end

