-- ==== Sys2Proof/Machine/Routes.lean ====
section
/-!
DEFINITION. Sys2Proof/Machine/Routes.lean: the grid of cell sites (R16) and the routes of the packet mesh over it (R233, R240 to
R243), by the routing tables in force.
-/
namespace Sys2Proof.Machine
open Sys2Proof

/-- The number of cell sites and the grid's width (R16). -/
def cellSites : Nat := 2112
def gridW : Nat := 44
def gridH : Nat := 48
def cellX (i : Nat) : Nat := i % gridW
def cellY (i : Nat) : Nat := i / gridW
def cellIndex (x y : Nat) : Nat := y * gridW + x

/-- The array die of a cell (R16). -/
def cellDie (i : Nat) : Nat := (if 22 ≤ cellX i then 1 else 0) + (if 24 ≤ cellY i then 2 else 0)

/-- A good cell site (R18, R19). -/
def State.goodCell (s : State) (i : Nat) : Bool := decide (i < cellSites) && !s.badCells.contains i

/-- A cell that the routing tables in force know as good (R243): they are computed from the cell map of the last load. -/
def State.routeGood (s : State) (i : Nat) : Bool := decide (i < cellSites) && !s.routeBad.contains i

/-- The neighbour site of a cell through a port (0 N, 1 E, 2 S, 3 W), none off the grid. -/
def neighbour (cell port : Nat) : Option Nat :=
  let x := cellX cell
  let y := cellY cell
  match port with
  | 0 => if y + 1 < gridH then some (cell + gridW) else none
  | 1 => if x + 1 < gridW then some (cell + 1) else none
  | 2 => if 0 < y then some (cell - gridW) else none
  | 3 => if 0 < x then some (cell - 1) else none
  | _ => none

/-- The port a word leaving through `port` arrives on. -/
def oppPort (port : Nat) : Nat := (port + 2) % 4

/-! ### Attachments (R233, R242) -/

/-- Hops between two cells with a die boundary costing `cross` in place of 1. -/
def axisCost (cross a b edge : Nat) : Nat :=
  let d := if a ≤ b then b - a else a - b
  if decide (a < edge) = decide (b < edge) then d else d - 1 + cross

/-- Nearness of two attachment cells: hop cost by coordinates alone (R242). -/
def nearness (a b : Nat) : Nat := axisCost 4 (cellX a) (cellX b) 22 + axisCost 4 (cellY a) (cellY b) 24

/-- The attachment cells of a hub or a slice. -/
def attachCells (node : Nat) : List Nat :=
  if node = hubN then (List.range 44).map (fun x => cellIndex x 47)
  else if node = hubS then (List.range 44).map (fun x => cellIndex x 0)
  else
    let k := node - 0x900
    let x := if (k / 2) % 2 = 0 then 0 else 43
    let y0 := (if k / 4 = 0 then 0 else 24) + 12 * (k % 2)
    (List.range 12).map (fun y => cellIndex x (y0 + y))

/-- The least of a list by a cost, the first (lowest node) on ties. -/
def leastBy (f : Nat → Nat) : List Nat → Option Nat
  | [] => none
  | a :: l => match leastBy f l with
    | none => some a
    | some b => if f b < f a then some b else some a

/-- The good cell of a set nearest a chosen one. -/
def State.nearestGood (s : State) (set : List Nat) (c : Nat) : Option Nat := leastBy (nearness c) (set.filter s.routeGood)

/-- The attachment of a hub or slice used with a cell at the other end (R242). -/
def State.attachFor (s : State) (node cell : Nat) : Option Nat :=
  let set := attachCells node
  let want :=
    if node = hubN then cellIndex (cellX cell) 47
    else if node = hubS then cellIndex (cellX cell) 0
    else set.getD ((cellY cell % 24) % 12) 0
  s.nearestGood set want

/-- The cells at which a route enters and leaves the grid (R241, R242): the attachments are chosen with bad sites ignored, and one
whose cell is bad gives way to the nearest good one of its set. -/
def State.routeEnds (s : State) (src dst : Nat) : Option (Nat × Nat) :=
  let isCell := fun n => decide (n < cellSites)
  if isCell src && isCell dst then some (src, dst)
  else if isCell src then (s.attachFor dst src).map (fun a => (src, a))
  else if isCell dst then (s.attachFor src dst).map (fun a => (a, dst))
  else
    let ss := attachCells src
    let ds := attachCells dst
    let near := fun (a : Nat) (l : List Nat) => (l.map (nearness a)).foldl min 10000
    match leastBy (fun a => near a ss) ds with
    | none => none
    | some b => match leastBy (fun a => nearness a b) ss with
      | none => none
      | some a => match s.nearestGood ss a, s.nearestGood ds b with
        | some a, some b => some (a, b)
        | _, _ => none

/-! ### Dimension-order routes and lanes (R240) -/

/-- The numbers from `a` to `b`, either way. -/
def rangeTo (a b : Nat) : List Nat :=
  if a ≤ b then (List.range (b - a + 1)).map (a + ·) else ((List.range (a - b + 1)).map (b + ·)).reverse

/-- The cells of the dimension-order path, X first and then Y. -/
def dimPath (a b : Nat) : List Nat :=
  (rangeTo (cellX a) (cellX b)).map (fun x => cellIndex x (cellY a)) ++
    ((rangeTo (cellY a) (cellY b)).drop 1).map (fun y => cellIndex (cellX b) y)

/-- The lane a packet travels on: 0 where its dimension-order path crosses only good sites. -/
def State.laneOf (s : State) (src dst : Nat) : Nat :=
  match s.routeEnds src dst with
  | some (a, b) => if (dimPath a b).all s.routeGood then 0 else 1
  | none => 1

/-! ### Lane-1 routes (R241) -/

/-- The hop's cost between neighbours. -/
def hopCost (a b : Nat) : Nat := if cellDie a = cellDie b then 1 else 4

/-- The good neighbours of a cell, by port N, E, S, W. -/
def State.goodNbrs (s : State) (c : Nat) : List Nat := ([0, 1, 2, 3].filterMap (neighbour c)).filter s.routeGood

/-- A cost no route has. -/
def far : Nat := 1000000

/-- One round of relaxation: every cell's cost brought down to what a hop to one of `nbrs` gives. -/
def relaxRound (cost : Array Nat) (nbrs : Nat → List Nat) (hop : Nat → Nat → Nat) : Array Nat :=
  ((List.range cellSites).map (fun c => (nbrs c).foldl (fun m n => min m (hop c n + cost.getD n far)) (cost.getD c far))).toArray

/-- Relaxation until nothing changes. -/
def relax (nbrs : Nat → List Nat) (hop : Nat → Nat → Nat) : Nat → Array Nat → Array Nat
  | 0, c => c
  | k + 1, c => let d := relaxRound c nbrs hop; if d = c then c else relax nbrs hop k d

/-- Costs with one cell at zero. -/
def zeroAt (d : Nat) : Array Nat := ((List.range cellSites).map (fun c => if c = d then 0 else far)).toArray

/-- The root of the up*/down* order: the good cell with the lowest index. -/
def State.meshRoot (s : State) : Nat := ((List.range cellSites).find? s.routeGood).getD 0

/-- Breadth-first depths from the root. -/
def State.depths (s : State) : Array Nat :=
  relax (fun c => if s.routeGood c then s.goodNbrs c else []) (fun _ _ => 1) cellSites (zeroAt s.meshRoot)

/-- A hop from `a` to `b` is up: toward a lower depth, or a lower node at the same depth. -/
def isUp (depth : Array Nat) (a b : Nat) : Bool :=
  let da := depth.getD a far
  let db := depth.getD b far
  decide (db < da) || (da == db && decide (b < a))

/-- The costs to a destination by down hops alone, and by up hops followed by down hops. -/
def State.lane1Costs (s : State) (dst : Nat) : Array Nat × Array Nat :=
  let depth := s.depths
  let downs := fun c => if s.routeGood c then (s.goodNbrs c).filter (fun n => !isUp depth c n) else []
  let ups := fun c => if s.routeGood c then (s.goodNbrs c).filter (isUp depth c) else []
  let dn := relax downs hopCost cellSites (zeroAt dst)
  (dn, relax ups hopCost cellSites dn)

/-- The port a router's lane-1 table gives for a destination cell: the first of N, E, S, W on a shortest route. -/
def State.nextPort (s : State) (cell dst : Nat) : Option Nat :=
  let depth := s.depths
  let (dn, any) := s.lane1Costs dst
  [0, 1, 2, 3].find? (fun p => match neighbour cell p with
    | some n => s.routeGood n && decide (any.getD cell far < far) && hopCost cell n +
        (if isUp depth cell n then any.getD n far else dn.getD n far) == any.getD cell far
    | none => false)

/-- The cells of the lane-1 route between two cells: `down` says a down hop has been taken. -/
def lane1Walk (s : State) (depth dn any : Array Nat) (dst : Nat) : Nat → Nat → Bool → List Nat
  | 0, c, _ => [c]
  | k + 1, c, down =>
    if c = dst then [c]
    else
      let cost := fun (n : Nat) (d : Bool) => if d then dn.getD n far else any.getD n far
      match (s.goodNbrs c).find? (fun n =>
          !(down && isUp depth c n) && hopCost c n + cost n (!isUp depth c n) == cost c down) with
      | some n => c :: lane1Walk s depth dn any dst k n (!isUp depth c n)
      | none => [c]

/-- The lane-1 route (R241). -/
def State.lane1Route (s : State) (src dst : Nat) : List Nat :=
  let (dn, any) := s.lane1Costs dst
  lane1Walk s s.depths dn any dst cellSites src false

/-! ### A packet's way (R240, R241) -/

/-- The sites a packet crosses from source to destination, on its lane. -/
def State.routeOf (s : State) (src dst : Nat) : List Nat :=
  match s.routeEnds src dst with
  | some (a, b) => if s.laneOf src dst = 0 then dimPath a b else s.lane1Route a b
  | none => []

/-- The output ports of the routers a packet leaves through: (cell, port), ports N, E, S, W, local and attachment (R249). -/
def outPorts (dst : Nat) : List Nat → List (Nat × Nat)
  | [] => []
  | [b] => [(b, if dst < cellSites then 4 else 5)]
  | a :: b :: rest => (a, ([0, 1, 2, 3].find? (fun p => neighbour a p == some b)).getD 4) :: outPorts dst (b :: rest)

end Sys2Proof.Machine
end

