-- ==== Sys2Proof/Machine/Ops.lean ====
section
/-!
DEFINITION. Sys2Proof/Machine/Ops.lean: the operations every family shares: reaching a cell, writing a fault record,
stopping a job, sending a packet and taking one that arrives.
-/
namespace Sys2Proof.Machine
open Sys2Proof

/-- The array domain of a cell (R594), and whether it is GATED (R595). -/
def apDomain (i : Nat) : Nat := 8 * cellDie i + (cellY i % 24) / 3
def State.cellGated (s : State) (i : Nat) : Bool := s.gated.contains (apDomain i)

/-- A cell's state. -/
def State.cell (s : State) (i : Nat) : Cell := Tab.get Cell.reset s.cells i

/-- A cell's state replaced. -/
def State.setCell (s : State) (i : Nat) (c : Cell) : State := { s with cells := Tab.put Cell.reset s.cells i c }

/-- A register or counter of BAR0. -/
def State.reg (s : State) (k : Nat) : Nat := Tab.get 0 s.regs k
def State.setReg (s : State) (k v : Nat) : State := { s with regs := Tab.put 0 s.regs k v }

/-- A 64-bit counter advanced; it wraps. -/
def State.regAdd (s : State) (k n : Nat) : State := s.setReg k ((s.reg k + n) % 2 ^ 64)

/-- A field of a register changed. -/
def State.setField (s : State) (k hi lo v : Nat) : State := s.setReg k (setBits (s.reg k) hi lo v)

/-- A feature bit of FEAT_ACTIVE (R495, R496). -/
def State.feature (s : State) (n : Nat) : Bool := bit s.feat n

/-- The features the array's commands depend on. -/
def State.arrFeat (s : State) : ArrFeat :=
  { fp32Native := s.feature 0, pairAccum := s.feature 2, mx16 := s.feature 3, sr := s.feature 4 }

/-- The next free value's index, consumed. -/
def State.drawFree (s : State) : Nat × State := (s.freeCtr, { s with freeCtr := s.freeCtr + 1 })

/-- The array domains a rectangle touches are powered on; what they held was lost (R200, R596). -/
def State.ungate (s : State) (x0 y0 x1 y1 : Nat) : State :=
  let touched := fun (n : Nat) => (List.range cellSites).any (fun i => apDomain i == n && decide (x0 ≤ cellX i) && decide (cellX i ≤ x1)
    && decide (y0 ≤ cellY i) && decide (cellY i ≤ y1))
  { s with gated := s.gated.filter (fun n => !touched n) }

/-- A BAR0 block that works from stage `n` on (0: Landing) takes writes (R611, R641, R680). -/
def State.bar (s : State) (n : Nat) : Bool :=
  s.ao.powered && !s.ao.perst && s.ao.landed && decide (n ≤ s.stage) && !s.fatal

/-- The ports rest in KEEPALIVE: supply-sag stage S4, a thermal trip or deep idle (R453, R598, R606). -/
def State.lowPower (s : State) : Bool := decide (4 ≤ s.sag) || decide (s.pwr.mode ≠ 0)

/-- The module is sealed (R539). -/
def State.sealed (s : State) : Bool := bit (s.reg rSealStatus) 0

/-- Ferryman may decide for a tenant now: in sealed tenancy in its own of 17 decision slots of 64 H-cycles, which are 40 ticks
(R540, log 94). -/
def State.myTurn (s : State) (tenant : Nat) : Bool := !s.sealed || s.gc / 40 % 17 == tenant

/-! ### The A-clock (R12, R601, R602) -/

/-- The frequency a number of thermal levels allows a die. -/
def thermMhz (level : Nat) : Nat := [2000, 1700, 1400, 1000].getD level 1000

/-- ACLK_MHZ of a die. -/
def State.aclk (s : State) (d : Nat) : Nat :=
  min (min (if 2 ≤ s.sag then 1400 else 2000) (thermMhz (Tab.get 0 s.pwr.level d)))
    (min (2000 - 100 * s.pwr.capStep) (2000 - 100 * Tab.get 0 s.pwr.droop d))

/-- What a tick of the GC adds to a die's A-cycles, in units of 1/5,000 A-cycle: a stretched period is a quarter longer, and a
die held in retention makes none. -/
def State.aclkTick (s : State) (d : Nat) : Nat :=
  if s.arrayHeld then 0 else if Tab.get false s.pwr.stretched d then 4 * s.aclk d else 5 * s.aclk d

/-- The whole A-cycles a die has made. -/
def State.acycles (s : State) (d : Nat) : Nat := Tab.get 0 s.pwr.acyc d / 5000

/-! ### Jobs -/

/-- The job in a slot. -/
def State.job? (s : State) (slot : Nat) : Option Job := Tab.get none s.jobs slot

/-- A job replaced (no job: the slot is free). -/
def State.setJob (s : State) (slot : Nat) (j : Option Job) : State := { s with jobs := Tab.put none s.jobs slot j }

/-- A job changed where there is one. -/
def State.updJob (s : State) (slot : Nat) (f : Job → Job) : State :=
  match s.job? slot with
  | some j => s.setJob slot (some (f j))
  | none => s

/-- Every job changed. -/
def State.mapJobs (s : State) (f : Nat → Job → Job) : State :=
  { s with jobs := Tab.update none s.jobs (fun k j => j.map (f k)) }

/-- Every cell that is not as Stage 2 leaves it changed. -/
def State.mapCells (s : State) (f : Nat → Cell → Cell) : State := { s with cells := Tab.update Cell.reset s.cells f }

/-- The waits of some issuers leave every signal's queue. -/
def State.dropWaiters (s : State) (p : Issuer → Bool) : State :=
  { s with sigs := Tab.update {} s.sigs (fun _ g => { g with waiters := g.waiters.filter (fun w => !p w.iss) }) }

/-- A job's tenant, 0x1F where the slot is free. -/
def State.jobTenant (s : State) (slot : Nat) : Nat := match s.job? slot with | some j => j.tenant | none => 0x1F

/-- The newest record of the ring that a condition holds for since a time. -/
def FaultLog.latest (l : FaultLog) (since : Nat) (p : FaultRec → Bool) : Option FaultRec :=
  l.ring.reverse.find? (fun r => decide (since ≤ r.gc) && p r)

/-- The record that stopped a job with a status: the one its rule has just written, else the latest that names the job; a
cancelled, preempted or shed job has none (R647). -/
def State.causeOf (s : State) (slot : Nat) (j : Job) (status : Status) (seq : Nat) : Nat :=
  if seq ≠ 0 ∨ status = .cancelled ∨ status = .preempted ∨ status = .shed then seq
  else ((s.log.latest j.admitGc (fun r => r.job == some slot)).map FaultRec.seq).getD 0

/-- A job stops for a cause; its first cause stays (R328). JOB_CAUSE holds the record that stopped it (R647). -/
def State.stopJob (s : State) (slot : Option Nat) (status : Status) (seq : Nat) : State :=
  match slot with
  | none => s
  | some k => match s.job? k with
    | none => s
    | some j =>
      if j.stop.isSome then s
      else
        let seq := s.causeOf k j status seq
        { s.setJob k (some { j with stop := some { status := status, seq := seq } }) with jobCause := Tab.put 0 s.jobCause k seq }

/-- A site lies in a gallery's rectangle (R20). -/
def Gallery.holds (g : Gallery) (cell : Nat) : Bool :=
  decide (g.x0 ≤ cellX cell) && decide (cellX cell ≤ g.x1) && decide (g.y0 ≤ cellY cell) && decide (cellY cell ≤ g.y1)

/-- The gallery with a number. -/
def State.gallery? (s : State) (n : Nat) : Option Gallery := Tab.get none s.gals n

/-- The resident gallery that holds a cell (R20). -/
def State.galleryOf (s : State) (cell : Nat) : Option Nat :=
  (List.range 32).find? (fun n => match s.gallery? n with | some g => g.resident && g.holds cell | none => false)

/-! ### The Sump's spill region (R228, R229) -/

/-- Chunks of 64 KiB, of 512 words each, that a Sump holds. -/
def Sump.held (u : Sump) : Nat := ceilDiv u.spilled 512 - (u.spilled - u.spill.length) / 512

/-- The open Sumps of a gallery: (circuit, Sump). -/
def State.openSumps (s : State) (g : Option Nat) : List (Nat × Sump) :=
  s.cells.flatMap (fun c => if s.galleryOf c.1 = g then c.2.chans.filterMap (fun x => x.2.sump.map (fun u => (32 * c.1 + x.1, u)))
    else [])

/-- How many more words a Sump may spill: what its last chunk holds and the region's free chunks. -/
def State.sumpRoom (s : State) (cell : Nat) (u : Sump) : Nat :=
  let g := s.galleryOf cell
  let size := match g.bind s.gallery? with | some g => g.spill / 65536 | none => 0
  let used := ((s.openSumps g).map (fun x => x.2.held)).sum
  (512 * ceilDiv u.spilled 512 - u.spilled) + 512 * (size - used)

/-- The room of every open Sump of a cell brought up to date. -/
def State.roomCell (s : State) (cell : Nat) : State :=
  let c := s.cell cell
  s.setCell cell (c.chans.foldl (fun c x => match x.2.sump with
    | some u => c.setChan x.1 { x.2 with sump := some { u with room := s.sumpRoom cell u } }
    | none => c) c)

/-! ### Host memory and interrupts (R487, R525, R526) -/

/-- Bytes of host memory at a function's bus address. -/
def State.hostRead (s : State) (fn a n : Nat) : List Byte := Memory.readBytes (Tab.get [] s.host fn) a n

/-- Bytes the device writes to a function's bus address. -/
def State.hostWrite (s : State) (fn a : Nat) (bs : List Byte) : State :=
  { s with host := Tab.put [] s.host fn (Memory.writeBytes (Tab.get [] s.host fn) a bs) }

/-- What a function's bus traffic is charged (R545). -/
def State.acctHost (s : State) (fn n : Nat) : State := s.regAdd (rAcct fn 0x70) n

/-- A function's configuration-space state. -/
def State.fnCfg (s : State) (fn : Nat) : FnCfg := Tab.get {} s.fns fn
def State.setFnCfg (s : State) (fn : Nat) (c : FnCfg) : State := { s with fns := Tab.put {} s.fns fn c }

/-- The message of an MSI-X vector sent: its data written to its address. -/
def State.msiSend (s : State) (fn v : Nat) : State :=
  s.hostWrite fn (s.reg (rMsix fn v)) (leBytes 4 (s.reg (rMsix fn v + 8)))

/-- A vector raised: its message is sent, or its pending bit set where the vector is masked or MSI-X is disabled. -/
def State.raise (s : State) (fn v : Nat) : State :=
  if (s.fnCfg fn).msix && !bit (s.reg (rMsix fn v + 12)) 0 then s.msiSend fn v
  else s.setReg (rPba fn) (setBit (s.reg (rPba fn)) v true)

/-! ### Fault records (R631 to R634) -/

/-- The sequence number a record written now gets (R633). -/
def State.nextSeq (s : State) : Nat := s.bootCount * 2 ^ 32 + s.log.count + 1

/-- The ring's capacity and the AO queue's (R634). -/
def faultRingSize : Nat := 262144
def aoQueueSize : Nat := 64

/-- A record written into the ring, numbered; the newest overwrites the oldest when it is full. -/
def FaultLog.append (l : FaultLog) (boot : Nat) (r : FaultRec) : FaultLog :=
  let n := Tab.get 0 l.tcount r.tenant + 1
  let r := { r with seq := boot * 2 ^ 32 + l.count + 1, lost := l.lostNext, tseq := n, tlost := l.tlostNext.contains r.tenant }
  let ring := l.ring ++ [r]
  { l with ring := ring.drop (ring.length - faultRingSize), total := l.total + 1, count := l.count + 1, lostNext := false
           tcount := Tab.put 0 l.tcount r.tenant n, tlostNext := l.tlostNext.filter (fun t => t != r.tenant) }

/-- A record raised before the end of Stage 1 or in S5: held in the AO queue, dropped or held back when it is full (R634). -/
def FaultLog.appendAo (l : FaultLog) (r : FaultRec) : FaultLog :=
  if l.ao.length < aoQueueSize then { l with ao := l.ao ++ [r] }
  else if r.level ≤ 1 then
    { l with evtLost := (l.evtLost + 1) % 2 ^ 64, lostNext := true, lostSticky := true
             tlostNext := if l.tlostNext.contains r.tenant then l.tlostNext else l.tlostNext ++ [r.tenant]
             tlostSticky := if l.tlostSticky.contains r.tenant then l.tlostSticky else l.tlostSticky ++ [r.tenant] }
  else { l with held := l.held ++ [r] }

/-- FR_LEVEL_MIN of a function (R637, R659). -/
def rLevelMin (fn : Nat) : Nat := if fn = 0 then 0xA0028 else vfKey fn 0x5028

/-- Vector 8 raised for a record of a level. -/
def State.raiseRec (s : State) (fn level : Nat) : State := if bits (s.reg (rLevelMin fn)) 2 0 ≤ level then s.raise fn 8 else s

/-- A PLDM event becomes pending (R672). -/
def State.pldmEvent (s : State) : State := { s with ao := { s.ao with events := s.ao.events + 1 } }

/-- A fault record is written: its kind's level, or INFO for a JOB kind that affected no job and no command (R633); the
time is the GC (R632). The event vectors of the PF and of the tenant it names are raised (R525, R637), and a record of level MODULE is
an event for board management (R672). -/
def State.record (s : State) (k : Kind) (r : FaultRec) (affects : Bool := true) : State :=
  let r := { r with kind := k, level := if k.level = 2 ∧ affects = false then 0 else k.level, gc := s.gc }
  let s := { s with log := if s.stage < 1 ∨ 5 ≤ s.sag then s.log.appendAo r else s.log.append s.bootCount r }
  let s := if r.level = 4 then s.pldmEvent else s
  let s := s.raiseRec 0 r.level
  if 1 ≤ r.tenant ∧ r.tenant ≤ 16 then s.raiseRec r.tenant r.level else s

/-- A record with no field set. -/
def noRec : FaultRec := { kind := .fatal, level := 0 }

/-- A fault of a job's work: the record names the job, its tenant and the status, and the job stops with that status
and that record as its cause. -/
def State.jobFault (s : State) (k : Kind) (job : Option Nat) (st : Status) (r : FaultRec) : State :=
  let t := match job with | some j => s.jobTenant j | none => r.tenant
  let s := if k = .cellUncorrectable then s.setCell r.node ((s.cell r.node).count .cellEccUncorr 1) else s
  (s.record k { r with job := job, tenant := t, status := if job.isSome then st.code else 0 } job.isSome).stopJob
    job st s.nextSeq

/-! ### Trace (R656, R657) -/

/-- The trace ring's entries, TRACE_CTL and TRACE_TENANT_MASK. -/
def traceSize : Nat := 1572864
def rTraceCtl : Nat := 0xB0200
def rTraceMask : Nat := 0xB0204

/-- The entry that waits is written: over the oldest when the ring is full, unless stop_full stops tracing. -/
def State.traceFlush (s : State) : State :=
  match s.trace.wait with
  | none => s
  | some r =>
    let t := s.trace
    let stop := bit (s.reg rTraceCtl) 1
    if stop && decide (traceSize ≤ t.ring.length) then { s with trace := { t with wait := none, full := true } }
    else
      let ring := t.ring ++ [{ r with lost := t.lost }]
      { s with trace := { t with wait := none, lost := false, head := t.head + 1, ring := ring.drop (ring.length - traceSize)
                                 full := t.full || (stop && decide (traceSize ≤ ring.length)) } }

/-- An event is traced where TRACE_CTL and TRACE_TENANT_MASK include it and no copy is in progress; the entry before it is
written. -/
def State.traceEv (s : State) (kind tenant job : Nat) (data : List Nat) : State :=
  let ctl := s.reg rTraceCtl
  let cls := if kind = 1 then 0 else kind - 2
  if bit ctl 0 && bit ctl (16 + cls) && bit (s.reg rTraceMask) tenant && !s.trace.copying then
    let s := s.traceFlush
    { s with trace := { s.trace with wait := some { gc := s.gc, kind := kind, tenant := tenant, lost := false, job := job, data := data } } }
  else s

/-! ### Packets -/

/-- The owner tag of a cell under a configuration fence (R294). -/
def fenceTag : Nat := 0x1F


/-- The share class of a tenant's traffic; 16 is the system class (R235, R245). -/
def State.shareOf (s : State) (t : Nat) : Nat := if t = 0 then 16 else Tab.get 0 s.shareClass t

/-- A node that exists (R232): a good cell, a slice or a hub. -/
def State.goodNode (s : State) (n : Nat) : Bool :=
  s.goodCell n || (decide (0x900 ≤ n) && decide (n ≤ 0x907)) || n == hubN || n == hubS

/-- The response a request that is not injected, or not performed, gets (R244). -/
def nackOf (p : Packet) (st : MStatus) : Packet :=
  { p with src := p.dst, dst := p.src,
           body := match p.body with
             | .rd .. => .rdData st []
             | .wr .. | .cfg .. => .wrAck st
             | _ => .opDone st }

/-- A packet enters the mesh: its source router chooses lane and route (R240), and the flits it sends are counted at every output
port of the route (R249). -/
def State.enter (s : State) (p : Packet) : State :=
  let lane := s.laneOf p.src p.dst
  let way := s.routeOf p.src p.dst
  let s := match way with
    | a :: _ => if lane = 1 then s.setCell a ((s.cell a).count .meshEvtLane1 1) else s
    | [] => s
  { s with flits := (outPorts p.dst way).foldl (fun t e => Tab.put 0 t (8 * e.1 + e.2) ((Tab.get 0 t (8 * e.1 + e.2) + 1 + p.body.nflits) % 2 ^ 48)) s.flits
           flight := s.flight ++ [{ p with lane := lane }] }

/-- A packet injected at its source router: to a bad or reserved node it is not injected, the source of a request is
answered NODE, and MESH_BAD_NODE is written (R244); to a cell of a GATED domain it is answered NODE alone (R595). -/
def State.route (s : State) (p : Packet) : State :=
  if s.goodCell p.dst ∧ s.cellGated p.dst then (if p.body.vc = .req then { s with flight := s.flight ++ [nackOf p .node] } else s)
  else if s.goodNode p.dst then s.enter p
  else
    let s := s.record .meshBadNode { noRec with node := p.src, unit := 4, tenant := p.tenant, idx0 := p.dst
                                                extra1 := p.cls.ctorIdx } false
    let s := if s.goodCell p.src then s.setCell p.src ((s.cell p.src).count .meshEvtBadnode 1) else s
    if p.body.vc = .req then { s with flight := s.flight ++ [nackOf p .node] } else s

/-- New routing tables wait to be loaded (R243). -/
def State.tablesDue (s : State) : Bool := s.routeBad != s.badCells

/-- The routers load the tables of the present cell map once the mesh holds no packet; the injections held meanwhile follow
(R243). -/
def State.loadTables (s : State) : State :=
  if !s.tablesDue || s.flight != [] then s
  else s.heldPkts.foldl State.route { s with routeBad := s.badCells, heldPkts := [] }

/-- A packet given to its source router: held while new tables wait (R243). -/
def State.send (s : State) (p : Packet) : State :=
  let s := s.loadTables
  if s.tablesDue then { s with heldPkts := s.heldPkts ++ [p] } else s.route p

/-- Packets injected in order. -/
def State.sendAll (s : State) (ps : List Packet) : State := ps.foldl State.send s

/-- The packets that must arrive in order with `p` (R248). -/
def samePath (p q : Packet) : Bool :=
  p.src == q.src && p.dst == q.dst && p.body.vc == q.body.vc && p.share == q.share

/-- `p` may arrive now: no packet of its path injected before it is still in flight (R248). A packet of no unit the
state models arrives when no packet of its path is in flight. -/
def State.mayArrive (s : State) (p : Packet) : Bool :=
  match s.flight.find? (samePath p) with
  | none => true
  | some q => decide (q = p)

/-- `p` taken out of flight. -/
def State.arrived (s : State) (p : Packet) : State := { s with flight := s.flight.erase p }

/-- The guard and the removal together: the state in which `p` has arrived, where it may. -/
def State.arrive (s : State) (p : Packet) (f : State → State) : State := if s.mayArrive p then (f (s.arrived p)).loadTables else s

/-- A packet of a cell's own units: tenant from the owner tag, class CELL (R237). -/
def State.cellPacket (s : State) (cell dst tag : Nat) (b : Body) : Packet :=
  let t := (s.cell cell).owner
  { src := cell, dst := dst, tenant := t, cls := .cell, share := s.shareOf t, tag := tag, body := b }

/-- A packet of Ferryman, the loader or another block of Hub N with tenant `t`. -/
def State.hubPacket (s : State) (cls : SrcClass) (t dst tag : Nat) (b : Body) : Packet :=
  { src := hubN, dst := dst, tenant := t, cls := cls, share := s.shareOf t, tag := tag, body := b }

/-- A response to a request (R234, R238), as the source router of the unit that answers marks it (R237): a cell answers with its
owner tag, a slice as CACHE for the tenant it serves (log 84). -/
def State.respTo (s : State) (p : Packet) (b : Body) : Packet :=
  if p.dst < cellSites then s.cellPacket p.dst p.src p.tag b
  else { p with src := p.dst, dst := p.src, cls := if p.dst = hubN ∨ p.dst = hubS then p.cls else .cache, body := b }

/-- A memory tile's power allows it to act: a good cell neither held in retention nor GATED (R200, R595). -/
def State.cellOpen (s : State) (i : Nat) : Bool := s.goodCell i && !s.arrayHeld && !s.cellGated i

/-- The units of a cell run: the cell is good, its domain is powered with clocks, and it is not halted (R653). -/
def State.cellRuns (s : State) (i : Nat) : Bool := s.cellOpen i && (!(s.cell i).halted || decide (0 < (s.cell i).stepLeft))

end Sys2Proof.Machine
end

