-- ==== Sys2Proof/Machine/FerOps.lean ====
section
/-!
DEFINITION. Sys2Proof/Machine/FerOps.lean: sending over the Ferier Link (ch. 16): messages, domains, credits, ports and
flits.
-/
namespace Sys2Proof.Machine
open Sys2Proof

/-! ### Messages (R443, R444) -/

/-- The message kinds. -/
def kPut : Nat := 0x01
def kGet : Nat := 0x02
def kGetResp : Nat := 0x03
def kAtomic : Nat := 0x04
def kAtomicResp : Nat := 0x05
def kSignal : Nat := 0x06
def kQmsg : Nat := 0x07
def kColl : Nat := 0x08
def kVote : Nat := 0x10
def kDecision : Nat := 0x11
def kReport : Nat := 0x12
def kTime : Nat := 0x18
def kHeartbeat : Nat := 0x19
def kMcast : Nat := 0x20
def kAck : Nat := 0x30
def kNak : Nat := 0x31

/-- The kinds that are sequenced and acknowledged. -/
def seqKind (k : Nat) : Bool := (decide (1 ≤ k) && decide (k ≤ 8)) || [0x10, 0x11, 0x12, 0x18].contains k

end Sys2Proof.Machine

namespace Sys2Proof
namespace FMsg
def w (m : FMsg) (i : Nat) : Nat := m.words.getD i 0
def kind (m : FMsg) : Nat := bits (m.w 0) 5 0
def tc (m : FMsg) : Nat := bits (m.w 0) 8 6
def mcast (m : FMsg) : Bool := bit (m.w 0) 9
def enc (m : FMsg) : Bool := bit (m.w 0) 10
def len (m : FMsg) : Nat := bits (m.w 0) 31 16
def dst (m : FMsg) : Nat := bits (m.w 1) 15 0
def src (m : FMsg) : Nat := bits (m.w 1) 27 16
def fdom (m : FMsg) : Nat := bits (m.w 2) 15 0
def epoch (m : FMsg) : Nat := bits (m.w 2) 31 16
def seq (m : FMsg) : Nat := m.w 3 + 2 ^ 32 * bits (m.w 4) 15 0
def stc (m : FMsg) : Nat := bits (m.w 4) 18 16
def addr (m : FMsg) : Nat := m.w 5 + 2 ^ 32 * bits (m.w 6) 15 0
/-- The message with its seq. -/
def withSeq (m : FMsg) (n : Nat) : FMsg := { m with words := (m.words.set 3 (n % 2 ^ 32)).set 4 (n / 2 ^ 32 % 2 ^ 16) }
/-- The bytes on the link. -/
def bytes (m : FMsg) : List Byte := m.words.flatMap (leBytes 4) ++ m.data ++ m.tag
end FMsg
end Sys2Proof

namespace Sys2Proof.Machine
open Sys2Proof

/-- A message's header words from its fields. -/
def ferMsg (kind tc dst src fdom epoch w5 w6 w7 : Nat) (data : List Byte) : FMsg :=
  { words := [kind + 2 ^ 6 * tc + 2 ^ 16 * data.length, dst + 2 ^ 16 * src, fdom + 2 ^ 16 * epoch, 0, 0, w5, w6, w7], data := data }

/-! ### Identity and domains (R440 to R442) -/

def State.updFer (s : State) (f : Ferier → Ferier) : State := { s with fer := f s.fer }

def State.port (s : State) (p : Nat) : Port := Tab.get {} s.fer.ports p
def State.setPort (s : State) (p : Nat) (q : Port) : State :=
  let old := (Tab.get {} s.fer.ports p).st
  let s := s.updFer (fun f => { f with ports := Tab.put {} f.ports p q })
  if old = q.st then s else s.traceEv 9 0 0 [p, old.ctorIdx, q.st.ctorIdx]

/-- A port's traffic stands still: it replays, retrains, or discards what it receives (R645). -/
def Port.stalled (q : Port) : Bool := q.st == .replay || q.st == .retrain || q.nak

/-- The domain of a tenant; the owner's is 0. -/
def State.domainOf (s : State) (t : Nat) : Option Nat :=
  if t = 0 then some 0 else let d := s.reg (rFdom t); if d = 0 then none else some d

/-- The tenant bound to a domain. -/
def State.tenantOf (s : State) (d : Nat) : Option Nat :=
  if d = 0 then some 0 else ((List.range 16).map (· + 1)).find? (fun t => s.reg (rFdom t) == d)

/-- The ID the module sends as, and its epoch. -/
def State.ferId (s : State) (al : Bool) : Nat := if al then s.fer.alias_.getD 0 else s.fer.devId
def State.ferEpoch (s : State) (al : Bool) : Nat := if al then s.fer.aliasEpoch else s.fer.epoch

/-- FERIER_ENCRYPT is committed (R455). -/
def State.ferEnc (s : State) : Bool := s.feature 15

/-- The keys of a tenant's domain: slot 0x80 + n for tenant n (R581). -/
def State.ferKey (s : State) (t : Nat) : FerKey := Tab.get {} s.ferKeys t

/-- The check before a message is sent: a domain, a class that is not 7 for a tenant command, length and alignment; a key
where messages are encrypted (R444, R449, R583). -/
def State.ferGood (s : State) (t tc len : Nat) : Bool :=
  (s.domainOf t).isSome && decide (tc < 7) && len % 16 == 0 && decide (len ≤ 16384)
    && (!s.ferEnc || (s.ferKey t).cur.isSome)

/-! ### Ports and flits (R434 to R438, R451, R452) -/

/-- A port that carries flits. -/
def PortSt.isUp (p : PortSt) : Bool := p == .up || p == .replay || p == .keepalive

/-- Ports 14 and 15 are dedicated to the tether. -/
def State.tetherPorts (s : State) : Bool := bit (s.reg rFerCtl) 0

/-- The port a message leaves on (R451, R452). -/
def State.pickPort (s : State) (dst tc : Nat) : Option Nat :=
  let up := fun p => (s.port p).st.isUp
  let fabric := (List.range 16).filter (fun p => up p && !(s.tetherPorts && decide (14 ≤ p)))
  let own := if s.tetherPorts && s.tether.st != .none && dst == s.tether.partner then [14, 15].filter up else []
  let set := if own = [] then fabric else own
  set[(dst + 3 * tc) % max 1 set.length]?

/-- Bytes for one flit taken from the messages waiting in a class: the bytes, the unit at which the first header begins
(15: none), and what is left. -/
def takeUnits : Nat → Nat → List (Bool × List Byte) → List Byte × Nat × List (Bool × List Byte)
  | 0, _, q => ([], 15, q)
  | _ + 1, _, [] => ([], 15, [])
  | k + 1, pos, (fresh, bs) :: rest =>
    let room := 240 - 16 * pos
    if room = 0 then ([], 15, (fresh, bs) :: rest)
    else if room < bs.length then (bs.take room, if fresh then pos else 15, (false, bs.drop room) :: rest)
    else
      let (more, first, q) := takeUnits k (pos + bs.length / 16) rest
      (bs ++ more, if fresh then pos else first, q)

/-- A port may send a DATA flit of a class. -/
def Port.sendable (q : Port) (c : Nat) : Bool :=
  Tab.get [] q.txq c != [] && decide (0 < Tab.get 0 q.credits c) && decide (q.buf.length < 512)
    && (q.st == .up || q.st == .replay || (q.st == .keepalive && c == 7))

/-- The class of the next flit: 7 first, else deficit round-robin among 0 to 6 (R438). -/
def Port.pick (q : Port) (weight : Nat → Nat) : Option (Nat × Port) :=
  if q.sendable 7 then some (7, q)
  else if 0 < q.left ∧ q.sendable q.drr then some (q.drr, { q with left := q.left - 1 })
  else (((List.range 7).map (fun i => (q.drr + 1 + i) % 7)).find? q.sendable).map (fun c =>
    (c, { q with drr := c, left := weight c - 1 }))

/-- One DATA flit formed and sent: it stays in the replay buffer, takes a link credit and carries credits back (R434,
R435, R437). -/
def Port.sendFlit (q : Port) (c : Nat) : Port :=
  let msgs := Tab.get [] q.txq c
  let (bs, first, rest) := takeUnits msgs.length 0 msgs
  let (crdTc, crd) := match q.owed with | (k, n) :: _ => (k, min n 1023) | [] => (0, 0)
  let f : Flit := { ftype := 1, fseq := q.nextTx, ack := q.rxSeq, nak := q.nak, tc := c, first := first, crdTc := crdTc, crdCount := crd
                    payload := bs ++ List.replicate (240 - bs.length) 0#8 }
  { q with txq := Tab.put [] q.txq c rest, credits := Tab.put 0 q.credits c (Tab.get 0 q.credits c - 1), buf := q.buf ++ [f]
           nextTx := (q.nextTx + 1) % 4096, owed := Tab.put 0 q.owed crdTc (Tab.get 0 q.owed crdTc - crd) }

/-- The flits a port can send now, at most `n`; answers how many it sent. -/
def Port.pump (weight : Nat → Nat) : Nat → Port → Nat × Port
  | 0, q => (0, q)
  | n + 1, q =>
    match q.pick weight with
    | none => (0, q)
    | some (c, q) => let (k, q) := Port.pump weight n (q.sendFlit c); (k + 1, q)

/-- A port sends what it can. -/
def State.pumpPort (s : State) (p : Nat) : State :=
  let (n, q) := Port.pump (fun c => s.reg (rTcWeight c)) 512 (s.port p)
  if n = 0 then s else (s.setPort p q).regAdd (rPortCtr p 0) n

/-- Every port sends what it can. -/
def State.pumpPorts (s : State) : State := (List.range 16).foldl State.pumpPort s

/-- The bytes of a message put behind its class on a port. -/
def State.emit (s : State) (p : Nat) (m : FMsg) : State :=
  let q := s.port p
  (s.setPort p { q with txq := Tab.put [] q.txq m.tc (Tab.get [] q.txq m.tc ++ [(true, m.bytes)]) }).pumpPort p

/-! ### Sending (R446, R447, R455) -/

/-- The IV of a message. -/
def ferIv (m : FMsg) : List Byte :=
  beBytes 12 (m.src * 2 ^ 84 + m.dst * 2 ^ 68 + m.tc * 2 ^ 65 + m.epoch * 2 ^ 48 + m.seq)

/-- A message as it travels: encrypted under its domain's current key where FERIER_ENCRYPT is committed. -/
def State.sealMsg (s : State) (t : Nat) (m : FMsg) : FMsg :=
  match (if s.ferEnc && seqKind m.kind then (s.ferKey t).cur else none) with
  | some key =>
    let m := { m with words := m.words.set 0 (setBit (m.w 0) 10 true) }
    let ct := gcmCrypt key (ferIv m) m.data
    { m with data := ct, tag := gcmTag key (ferIv m) (m.words.flatMap (leBytes 4)) ct }
  | none => m

/-- A message of the module's leaves, where some port is UP. -/
def State.transmit (s : State) (o : OutMsg) : State × OutMsg :=
  match s.pickPort o.m.dst o.m.tc with
  | some p => (s.emit p (s.sealMsg o.tenant o.m), { o with sentGc := s.gc, port := some p, due := none })
  | none => (s, { o with sentGc := s.gc, port := none, due := none })

/-- The key of a stream the module sends: as the alias, destination, class. -/
def streamKey (al : Bool) (dst tc : Nat) : Nat := 2 ^ 15 * al.toNat + 8 * (dst % 4096) + tc

/-- A message may leave: fewer than 256 outstanding to its destination, and no port resting in KEEPALIVE. -/
def State.ferRoom (s : State) (dst : Nat) : Bool :=
  decide ((s.fer.out.filter (fun o => o.m.dst == dst)).length < 256) && !s.lowPower

/-- A time stamp of this module: its wall time, or its GC while wall time is not valid (R562). -/
def State.stamp (s : State) : Int := if s.time.valid then (s.gc : Int) + s.time.base else (s.gc : Int)

/-- What time sync notes when one of its messages leaves, the first time or again (R562, R563). -/
def State.noteSent (s : State) (o : FerOwner) (again : Bool) : State :=
  match o with
  | .timeReq n =>
    let f := fun (x : SyncEx) => if x.n ≠ n then x else if again then { x with clean := false } else { x with t1 := s.stamp }
    { s with time := { s.time with req := s.time.req.map f, exch := if again then s.time.exch.map f else s.time.exch } }
  | .timeResp d =>
    let x := Tab.get {} s.time.peers d
    { s with time := { s.time with peers := Tab.put {} s.time.peers d (if again then { x with again := true } else { t3 := s.stamp, again := false }) } }
  | _ => s

/-- A message gets its seq, becomes outstanding, is charged to its domain's tenant (R545) and leaves. -/
def State.ferInject (s : State) (o : OutMsg) : State :=
  let k := streamKey o.alias_ o.m.dst o.m.tc
  let n := Tab.get 0 s.fer.nextSeq k
  let s := s.regAdd (rAcct o.tenant 0x60) (s.sealMsg o.tenant o.m).bytes.length
  let (s, o) := s.transmit { o with m := o.m.withSeq n }
  (s.updFer (fun f => { f with nextSeq := Tab.put 0 f.nextSeq k ((n + 1) % 2 ^ 48), out := f.out ++ [o] })).noteSent o.owner false

/-- The tether's pushes pause in supply-sag stage S3 (R476). -/
def State.pushHeld (s : State) (o : OutMsg) : Bool :=
  decide (3 ≤ s.sag) && (match o.owner with | .push _ => true | .copy => true | _ => false)

/-- Messages that wait for a credit leave in order as credits allow. -/
def State.ferPump (s : State) : State :=
  s.fer.wait.foldl (fun s o =>
    if s.ferRoom o.m.dst && !s.pushHeld o && !s.fer.wait.any (fun (x : OutMsg) => x.m.dst == o.m.dst && !s.pushHeld x) then s.ferInject o
    else s.updFer (fun f => { f with wait := f.wait ++ [o] })) (s.updFer (fun f => { f with wait := [] }))

/-- A sequenced message of a tenant's sent. -/
def State.ferSend (s : State) (al : Bool) (owner : FerOwner) (t kind tc dst w5 w6 w7 : Nat) (data : List Byte) : State :=
  let m := ferMsg kind tc dst (s.ferId al) ((s.domainOf t).getD 0) (s.ferEpoch al) w5 w6 w7 data
  (s.updFer (fun f => { f with wait := f.wait ++ [{ m := m, owner := owner, tenant := t, alias_ := al }] })).ferPump

/-- A message that is not sequenced sent once on the port of its class. -/
def State.ferPlain (s : State) (al : Bool) (kind tc dst d : Nat) (seq stc w5 w6 w7 : Nat) (data : List Byte) : State :=
  let m := (ferMsg kind tc dst (s.ferId al) d (s.ferEpoch al) w5 w6 w7 data).withSeq seq
  let m := { m with words := m.words.set 4 (m.w 4 + 2 ^ 16 * stc) }
  match s.pickPort dst tc with
  | some p => s.emit p m
  | none => s

/-- A PUT's words 5 and 6. -/
def putWords (tva : Nat) (sigEn : Bool) (sig : Nat) : Nat × Nat :=
  (tva % 2 ^ 32, tva / 2 ^ 32 % 2 ^ 16 + 2 ^ 16 * (sig % 2 ^ 14) + 2 ^ 30 * sigEn.toNat)

/-- A range of bytes cut into payloads of 16,384 B. -/
def putPieces (tva : Nat) (bs : List Byte) : List (Nat × List Byte) :=
  (List.range (ceilDiv bs.length 16384)).map (fun i => (tva + 16384 * i, (bs.drop (16384 * i)).take 16384))

/-- A range sent as PUTs in ascending address order; only the last carries the signal (R451). -/
def State.ferPut (s : State) (owner : FerOwner) (t tc dst tva : Nat) (sigEn : Bool) (sig : Nat) (bs : List Byte) : State :=
  let ps := putPieces tva (bs ++ List.replicate ((16 - bs.length % 16) % 16) 0#8)
  ps.zipIdx.foldl (fun s x =>
    let (w5, w6) := putWords x.1.1 (sigEn && x.2 + 1 == ps.length) sig
    s.ferSend false owner t kPut tc dst w5 w6 0 x.1.2) s

end Sys2Proof.Machine
end

