-- ==== Sys2Proof/Machine/Cache.lean ====
section
/-!
DEFINITION. Sys2Proof/Machine/Cache.lean: the way to external memory (ch. 14): physical addresses, the shared cache in front of
each stack, poison, and the token buckets. Every access of the device to HBM goes through these operations.
-/
namespace Sys2Proof.Machine
open Sys2Proof

/-! ### Physical addresses and stacks (R376 to R379) -/

def pageSize : Nat := 2 ^ 21
def stackOfPage (ppn : Nat) : Nat := ppn / 32768
def stackOf (pa : Nat) : Nat := pa / 2 ^ 36

/-- The pseudo-channel of a physical address, after hashing (R377). -/
def pseudoChannel (pa : Nat) : Nat := bits pa 13 8 ^^^ bits pa 25 20

/-- A device-reserved page (R379). -/
def reservedPage (ppn : Nat) : Bool := decide (32704 ≤ ppn % 32768)

/-- A stack's mode: 0 FULL, 1 REDUCED, 2 FAILED. -/
def State.stackMode (s : State) (n : Nat) : Nat := bits (s.reg (rStack n)) 1 0

/-- The stack of a line of 128 B. -/
def lineStack (l : Nat) : Nat := l / 2 ^ 29

/-- A physical range cut at lines: (line, offset in it, offset in the range, length). -/
def linePieces (pa n : Nat) : List (Nat × Nat × Nat × Nat) :=
  (List.range (if n = 0 then 0 else (pa + n - 1) / 128 - pa / 128 + 1)).map (fun k =>
    let l := pa / 128 + k
    let lo := max pa (128 * l)
    (l, lo - 128 * l, lo - pa, min (pa + n) (128 * l + 128) - lo))

/-! ### Merged reads (R321, R358) -/

/-- The transfers, as (source, length), that are merged: of 4,096 B or less with a source in one aligned 64 KiB window. -/
def mergeable (x : Nat × Nat) : Bool := decide (x.2 ≤ 4096) && x.1 / 65536 == (x.1 + x.2 - 1) / 65536

/-- The transfers of each window, at most 64 to a merged read. -/
def mergeGroups (xs : List (Nat × Nat)) : List (List (Nat × Nat)) :=
  let small := xs.filter mergeable
  ((small.map (fun x => x.1 / 65536)).eraseDups).flatMap (fun w => cutList 64 (small.filter (fun x => x.1 / 65536 == w)))

/-- The read that serves a group: the smallest 64-byte-aligned span, or the transfer by itself. -/
def mergeSpan (g : List (Nat × Nat)) : Nat × Nat :=
  match g with
  | [x] => x
  | _ =>
    let lo := g.foldl (fun m x => min m (x.1 / 64 * 64)) (2 ^ 64)
    (lo, roundUp (g.foldl (fun m x => max m (x.1 + x.2)) 0) 64 - lo)

/-- The reads that a list of transfers makes. -/
def mergedSpans (xs : List (Nat × Nat)) : List (Nat × Nat) := (mergeGroups xs).map mergeSpan ++ xs.filter (fun x => !mergeable x)

/-- How many of them merged reads serve. -/
def mergedCount (xs : List (Nat × Nat)) : Nat := (((mergeGroups xs).filter (fun g => decide (2 ≤ g.length))).map List.length).sum

/-! ### Token buckets (R398) -/

/-- The most a bucket holds, in 1/1,024 byte. -/
def tokenCap : Nat := 1024 * 16384

/-- A tenant's reservation on a stack, in GB/s, which is bytes in a GC tick. -/
def State.rsvOf (s : State) (t st : Nat) : Nat :=
  ((s.reserves.filter (fun r => r.tenant == t && bit r.mask st)).map Reserve.rate).sum

/-- In sealed tenancy a tenant is served on a stack only against its tokens, and without a reservation there not at all: `n` bytes
are, once the bucket holds a token for each, or is full (log 81). -/
def State.served (s : State) (t st n : Nat) : Bool :=
  !s.sealed || t == 0 || n == 0 || (decide (0 < s.rsvOf t st) && decide (min (1024 * n) tokenCap ≤ Tab.get 0 s.tokens (8 * t + st)))

/-- Bytes moved at a controller for a tenant: reserved where a token for each is there, and in sealed tenancy, where the
tenant's requests wait for their tokens (log 81). -/
def State.spend (s : State) (t st n : Nat) : State :=
  let have_ := Tab.get 0 s.tokens (8 * t + st)
  if t ≤ 16 ∧ (1024 * n ≤ have_ ∨ (s.sealed ∧ t ≠ 0)) then
    ({ s with tokens := Tab.put 0 s.tokens (8 * t + st) (have_ - 1024 * n) } : State).regAdd (rHbmCtr st 2) n
  else s

/-- Bytes moved at a controller for a tenant: counted for the stack and for the account of the page's key tag, tag 17 for the owner
(R399, R545). -/
def State.moved (s : State) (t l : Nat) (write : Bool) (n : Nat) : State :=
  let st := lineStack l
  let tag := Tab.get 0 s.pageTag (128 * l / pageSize)
  ((s.regAdd (rHbmCtr st (if write then 1 else 0)) n).regAdd (rAcct (if tag ≤ 16 then tag else 0) (if write then 0x58 else 0x50)) n).spend t st n

/-- One GC tick of every bucket: F × r accrues, up to 16 KiB. -/
def State.accrue (s : State) : State :=
  let f := s.reg rBwFactor
  let gains := s.reserves.flatMap (fun r => (List.range 8).filterMap (fun st =>
    if bit r.mask st then some (8 * r.tenant + st, f * r.rate) else none))
  { s with tokens := gains.foldl (fun (t : Tab Nat) (e : Nat × Nat) => Tab.put 0 t e.1 (min tokenCap (Tab.get 0 t e.1 + e.2))) s.tokens }

/-! ### Lines (R383, R384, R390 to R393) -/

/-- The set a line lies in, the sets of slice `n` numbered from 8,192 n on (R390). -/
def setOf (l : Nat) : Nat := 8192 * lineStack l + (bits l 12 0 ^^^ bits l 25 13)

/-- The line as its slice holds it. -/
def State.lineIn (s : State) (l : Nat) : Option CLine := (Tab.get [] s.cache (setOf l)).find? (fun c => c.line == l)

/-- Bytes of a line as a read returns them: the slice's where it holds the line, else HBM's (R392). -/
def State.lineBytes (s : State) (l off n : Nat) : List Byte :=
  match s.lineIn l with
  | some c => (c.data.drop off).take n
  | none => s.hbm.readBytes (128 * l + off) n

/-- A read of the line is answered POISON (R383, R384, R389). -/
def State.lineBad (s : State) (l : Nat) : Bool :=
  (match s.lineIn l with | some c => c.poison | none => Tab.get false s.hbmPoison l) || decide (s.stackMode (lineStack l) = 2)

/-- A line that any byte of a physical range lies in is poisoned. -/
def State.poisonAt (s : State) (pa n : Nat) : Option Nat := ((linePieces pa n).map (fun p => p.1)).find? s.lineBad

/-- The bytes of a physical range. -/
def State.paBytes (s : State) (pa n : Nat) : List Byte := (linePieces pa n).flatMap (fun p => s.lineBytes p.1 p.2.1 p.2.2.2)

/-- The ways a share class may allocate in (R391); 16 is the system class. -/
def State.waysOf (s : State) (cls : Nat) : List Nat :=
  if !s.sealed then List.range 16
  else
    let first := fun (c : Nat) => ((List.range c).map (fun k => s.shareW.getD k 0 / 4)).sum
    (List.range 16).filter (fun w => decide (first cls ≤ w) && (cls == 16 || decide (w < first (cls + 1))))

/-- A line leaves its slice: a dirty one is written back, with its poison (R384, R390). -/
def State.writeBack (s : State) (c : CLine) : State :=
  if !c.dirty then s
  else
    let st := lineStack c.line
    let t : State := { s with hbm := s.hbm.writeBytes (128 * c.line) c.data, hbmPoison := Tab.put false s.hbmPoison c.line c.poison }
    (t.regAdd (rSc st 2) 1).moved (Tab.get 0 s.pageTag (128 * c.line / pageSize)) c.line true 128

/-- A line placed in a way of its set. -/
def State.place (s : State) (set : List CLine) (l way : Nat) : State :=
  let c : CLine := { way := way, line := l, dirty := false, poison := Tab.get false s.hbmPoison l, data := s.hbm.readBytes (128 * l) 128 }
  { s with cache := Tab.put [] s.cache (setOf l) (c :: set) }

/-- A line accessed for a tenant: a hit makes it the most recently used; a miss fetches it, unless it is to be written whole,
and allocates it in a way of the tenant's class: one that is empty, else that of a line the pseudo-LRU order gives up, which
is not the last one used and is otherwise a free value (log 80). -/
def State.lineAccess (s : State) (t l : Nat) (fetch : Bool) : State :=
  let st := lineStack l
  let set := Tab.get [] s.cache (setOf l)
  match set.find? (fun c => c.line == l) with
  | some c => ({ s with cache := Tab.put [] s.cache (setOf l) (c :: set.erase c) } : State).regAdd (rSc st 0) 1
  | none =>
    let s := s.regAdd (rSc st 1) 1
    let s := if fetch then s.moved t l false 128 else s
    let mine := s.waysOf (s.shareOf t)
    match mine.find? (fun w => !set.any (fun c => c.way == w)) with
    | some w => s.place set l w
    | none =>
      let own := set.filter (fun c => mine.contains c.way)
      let own := if 1 < own.length then own.drop 1 else own
      let (n, d) := s.drawFree
      match own[Config.freePick n own.length]? with
      | some c => (d.writeBack c).place (set.erase c) l c.way
      | none => s

/-- A physical range read for a tenant through its slices. -/
def State.paTouch (s : State) (t pa n : Nat) : State := (linePieces pa n).foldl (fun s p => s.lineAccess t p.1 true) s

/-- Bytes written in one line: a write of the whole line needs no fetch and ends its poison (R383, R390). A class that owns no
way writes HBM directly. -/
def State.lineWrite (s : State) (t l off : Nat) (bs : List Byte) : State :=
  let whole := decide (128 ≤ bs.length)
  let s := s.lineAccess t l (!whole)
  match s.lineIn l with
  | some c =>
    let d : CLine := { c with dirty := true, poison := c.poison && !whole, data := c.data.take off ++ bs ++ c.data.drop (off + bs.length) }
    { s with cache := Tab.put [] s.cache (setOf l) ((Tab.get [] s.cache (setOf l)).map (fun e => if e.line = l then d else e)) }
  | none =>
    ({ s with hbm := s.hbm.writeBytes (128 * l + off) bs
              hbmPoison := if whole then Tab.put false s.hbmPoison l false else s.hbmPoison } : State).moved t l true bs.length

/-- Bytes written at a physical address for a tenant. -/
def State.paWrite (s : State) (t pa : Nat) (bs : List Byte) : State :=
  (linePieces pa bs.length).foldl (fun s p => s.lineWrite t p.1 p.2.1 ((bs.drop p.2.2.1).take p.2.2.2)) s

/-- Some lines written back and invalidated: those of a page whose key tag changes, or every line where the slices are powered
down (R393). -/
def State.flushLines (s : State) (p : CLine → Bool) : State :=
  let t := (s.cache.flatMap (fun e => e.2.filter p)).foldl State.writeBack s
  { t with cache := Tab.update [] t.cache (fun _ set => set.filter (fun c => !p c)) }

/-- The lines of a page written back and invalidated. -/
def State.flushPage (s : State) (ppn : Nat) : State := s.flushLines (fun c => 128 * c.line / pageSize == ppn)

/-- A line poisoned: in its slice, and in HBM where the error was found there (R383, R384, R390). -/
def State.poisonLine (s : State) (l : Nat) (array : Bool) : State :=
  { s with
      hbmPoison := if array then s.hbmPoison else Tab.put false s.hbmPoison l true
      cache := Tab.update [] s.cache (fun _ set => set.map (fun c => if c.line = l then { c with poison := true } else c)) }

end Sys2Proof.Machine
end

