-- ==== Sys2Proof/Machine/Links.lean ====
section
/-!
DEFINITION. Sys2Proof/Machine/Links.lean: the paths of the stream network (ch. 08): slot tables, forwarding, delivery, short
channels, the tracing of circuits, and the spill of an open Sump.
-/
namespace Sys2Proof.Machine
open Sys2Proof

/-! ### Links and slot tables (R202 to R205, R214) -/

/-- The slot entry of an output port (R204). -/
def Cell.slotEntry (c : Cell) (out slot : Nat) : Nat := Tab.get 0 c.slots (8 * out + slot)

/-- A valid entry that takes its word from `inPort`, and from channel `chan` where that is LOCAL. -/
def entryTakes (e inPort chan : Nat) : Bool :=
  bit e 0 && bits e 3 1 == inPort && (inPort != 4 || bits e 8 4 == chan)

/-- The output port whose entry for `slot` names an input (R203). -/
def Cell.outputFor (c : Cell) (inPort slot chan : Nat) : Option Nat :=
  [0, 1, 2, 3, 4].find? (fun o => entryTakes (c.slotEntry o slot) inPort chan)

/-- The counter of a switch's output port (R222). -/
def busyCtr : Nat → CellCtr
  | 0 => .swCycBusyN | 1 => .swCycBusyE | 2 => .swCycBusyS | 3 => .swCycBusyW | _ => .swCycBusyL

/-- A word with no valid output entry is lost; the job that produced it stops (R205). -/
def State.misroute (s : State) (cell port slot : Nat) (w : SWord) : State :=
  s.jobFault .streamMisroute w.job .overflowFault { noRec with node := cell, unit := 3, idx0 := port, idx1 := slot }

/-- The words an operand still waits for to stage its next k-step, its scale slice with it (R97, R103). -/
def OpSrc.lacks (o : OpSrc) (k : Nat) (raw : List Byte) : Nat := ceilDiv (o.need k - raw.length) 128

/-- The stream operands of a matrix context that is late: channel, next k-step to stage, bytes taken, staged k-steps. -/
def Cell.lateOps (c : Cell) (f : ArrFeat) (x : MtCtx) : List (OpSrc × Nat × List Byte × Nat) :=
  match (if x.st = .late then c.mtFetched f x else .bad) with
  | .cmd 1 w =>
    let m := Mma.ofWords w
    (match m.types f.mx16 with
     | some (fa, fb, la, lb) =>
       [(m.srcOfA fa la 0, x.kpos + x.headA.length, x.rawA, x.headA.length), (m.srcOfB fb lb 0, x.kpos + x.headB.length, x.rawB, x.headB.length)].filter
         (fun o => o.1.stream)
     | none => [])
  | _ => []

/-- The memory-tile ranges, as (address, bytes), that a LATE matrix context reads next: the accumulator its tile starts from, and each
operand's next k-step with its scale slice (R103, R104). -/
def Cell.lateRanges (c : Cell) (f : ArrFeat) (x : MtCtx) : List (Nat × Nat) :=
  match (if x.st = .late then c.mtFetched f x else .bad) with
  | .cmd 1 w =>
    let m := Mma.ofWords w
    (match m.types f.mx16 with
     | some (fa, fb, la, lb) =>
       let (u, v) := (visitOrder m.rCount m.cCount).getD x.visit (0, 0)
       let step := fun (o : OpSrc) (k : Nat) =>
         if o.stream then []
         else (o.panel + k * o.sliceLen, o.sliceLen) :: (if o.scaled k then [(o.spanel + k / o.lay.block * o.scaleLen, o.scaleLen)] else [])
       let t := u * m.cCount + v
       let load := if x.begun ∨ m.accInit ≠ 1 then []
         else (256 * m.accBase + 256 * t * m.accPitch, 32768) :: (if m.pair then [(256 * m.loBase + 256 * t * m.accPitch, 32768)] else [])
       load ++ step (m.srcOfA fa la u) (x.kpos + x.headA.length) ++ step (m.srcOfB fb lb v) (x.kpos + x.headB.length)
     | none => [])
  | _ => []

/-- A matrix context is LATE on a region of 64 KiB: what it reads next lies there, and the region's ready bit is clear (R103, R188). -/
def Cell.lateOn (c : Cell) (f : ArrFeat) (x : MtCtx) (region : Nat) : Bool :=
  !bit c.ready region && (c.lateRanges f x).any (fun r => overlaps r.1 r.2 (65536 * region) 65536)

/-- The channels and words that the contexts `k` of a cell wait for while they are late: a matrix operand's next k-step, or
what a VRECV removes at once (R212, R213). -/
def Cell.lateUnits (c : Cell) (f : ArrFeat) (k : Nat) : List (Nat × Nat × Option Nat) :=
  let v := c.vtx k
  ((c.lateOps f (c.mtx k)).map (fun o => (o.1.ch, o.1.lacks o.2.1 o.2.2.1, (c.mtx k).job)))
    ++ (match (if v.st = .late then c.vtFetched f v else .bad) with
        | .instr i => if i.op = 0x16 then [(i.imm % 32, 2, v.job)] else []
        | _ => [])

/-- The job of a consumer that waits for more words than a full FIFO holds (R213). -/
def Cell.shortFor (c : Cell) (f : ArrFeat) (ch : Nat) : Option (Option Nat) :=
  if (c.chan ch).fifo.length < c.chanDepth ch then none
  else (((List.range 4).flatMap (c.lateUnits f)).find? (fun u => u.1 == ch && decide (c.chanDepth ch < u.2.1))).map (fun u => u.2.2)

/-- A channel found short: STREAM_SHORT, and the consumer's job ends with OVERFLOW_FAULT (R213). -/
def State.shortCheck (s : State) (cell ch : Nat) : State :=
  match (s.cell cell).shortFor s.arrFeat ch with
  | some job =>
    if ((job.bind s.job?).bind Job.stop).isSome then s
    else s.jobFault .streamShort job .overflowFault { noRec with node := cell, unit := 3, idx0 := ch }
  | none => s

/-- Every inbound channel of a cell that one of its contexts is late for, checked: a FIFO may have filled before its consumer
came to wait. -/
def State.shortCell (s : State) (cell : Nat) : State :=
  ((List.range 4).flatMap ((s.cell cell).lateUnits s.arrFeat)).foldl (fun s u => s.shortCheck cell u.1) s

/-- A word placed in an inbound channel's FIFO (R203, R206). -/
def State.deliver (s : State) (cell ch : Nat) (w : SWord) : State :=
  let c := s.cell cell
  let x := c.chan ch
  let c := c.setChan ch { x with fifo := x.fifo ++ [w] }
  (s.setCell cell c).shortCheck cell ch

/-- The first A-cycle from `t` on that is slot `slot` of its die (R202). -/
def nextSlot (t slot : Nat) : Nat := t + (slot % 8 + 8 - t % 8) % 8

/-- A die's A-cycle count has reached `t` (log 83). -/
def State.reach (s : State) (die t : Nat) : State :=
  { s with pwr := { s.pwr with acyc := Tab.put 0 s.pwr.acyc die (max (Tab.get 0 s.pwr.acyc die) (5000 * t)) } }

/-- The words in the crossing FIFO of an input port (R214). -/
def State.crossing (s : State) (cell port : Nat) : List LinkWord :=
  s.links.filter (fun l => l.crossed && l.cell == cell && l.port == port)

/-- The A-cycle of the receiving die in which a word that crosses a boundary now is forwarded: 2 cycles of the sending die and 3
of the receiving one, the words before it in the FIFO, and the next slot whose entry names the port (R214). -/
def State.crossDue (s : State) (die cell port : Nat) : Nat :=
  let avail := s.acycles (cellDie cell) + ceilDiv (2 * s.aclkTick (cellDie cell)) (max 1 (s.aclkTick die)) + 3
  let t := (s.crossing cell port).foldl (fun t l => max t (l.due + 1)) avail
  (((List.range 8).map (t + ·)).find? (fun u => ((s.cell cell).outputFor port (u % 8) 0).isSome)).getD t

/-- A word forwarded by the switch of `cell` from an input in A-cycle `t` of its die (R203, R205, R214). -/
def State.forward (s : State) (cell inPort t chan : Nat) (w : SWord) : State :=
  let c := s.cell cell
  match c.outputFor inPort (t % 8) chan with
  | none => s.misroute cell inPort (t % 8) w
  | some o =>
    let s := s.setCell cell (c.count (busyCtr o) 1)
    if o = 4 then s.deliver cell (bits (c.slotEntry 4 (t % 8)) 13 9) w
    else match neighbour cell o with
      | none => s.misroute cell inPort (t % 8) w
      | some n =>
        let far := cellDie n != cellDie cell
        { s with links := s.links ++ [{ cell := n, port := oppPort o, crossed := far, word := w
                                        due := if far then s.crossDue (cellDie cell) n (oppPort o) else t + 1 }] }

/-- The output an input's word takes in A-cycle `t` leads over a boundary whose FIFO holds its 16 words (R214). -/
def State.crossFull (s : State) (cell inPort t chan : Nat) : Bool :=
  match ((s.cell cell).outputFor inPort (t % 8) chan).bind (fun o => (neighbour cell o).map (fun n => (n, oppPort o))) with
  | some (n, p) => cellDie n != cellDie cell && decide (16 ≤ (s.crossing n p).length)
  | none => false

/-- No word on a die's links is to be forwarded before A-cycle `t`: a switch forwards each in its cycle (R203). -/
def State.firstDue (s : State) (die t : Nat) : Bool :=
  s.links.all (fun l => cellDie l.cell != die || !s.cellOpen l.cell || decide (t ≤ l.due))

/-- The word at an input of a switch, in the slot in which it is forwarded there (R203, R214). -/
def State.linkHead (s : State) (cell port slot : Nat) : Option LinkWord :=
  match s.links.find? (fun l => l.cell == cell && l.port == port) with
  | some l => if l.due % 8 = slot && s.firstDue (cellDie cell) l.due then some l else none
  | none => none

/-! ### Tracing circuits -/

/-- The path of a word that is forwarded by `cell` from `inPort` in `slot`: its links as (cell, output port), and the inbound
channel it reaches. Across a die boundary the j-th slot a port's entries send on becomes the j-th slot whose entry names the input
(R203, R214). -/
def State.pathFrom (s : State) : Nat → Nat → Nat → Nat → Nat → Option (List (Nat × Nat) × Nat × Nat)
  | 0, _, _, _, _ => none
  | k + 1, cell, inPort, slot, chan =>
    let c := s.cell cell
    match c.outputFor inPort slot chan with
    | none => none
    | some 4 => some ([], cell, bits (c.slotEntry 4 slot) 13 9)
    | some o =>
      match neighbour cell o with
      | none => none
      | some n =>
        if cellDie n = cellDie cell then (s.pathFrom k n (oppPort o) ((slot + 1) % 8) 0).map (fun p => ((cell, o) :: p.1, p.2))
        else
          let j := ((List.range slot).filter (fun t => bit (c.slotEntry o t) 0)).length
          let ins := (List.range 8).filter (fun t => ((s.cell n).outputFor (oppPort o) t 0).isSome)
          match ins[j]? with
          | some t => (s.pathFrom k n (oppPort o) t 0).map (fun p => ((cell, o) :: p.1, p.2))
          | none => none

/-- The inbound channel such a word reaches. -/
def State.traceFrom (s : State) (k cell inPort slot chan : Nat) : Option (Nat × Nat) := (s.pathFrom k cell inPort slot chan).map Prod.snd

/-- The slots in which a switch sends an outbound channel's words. -/
def Cell.ownSlots (c : Cell) (ch : Nat) : List Nat := (List.range 8).filter (fun t => (c.outputFor 4 t ch).isSome)

/-- The inbound channel at the far end of an outbound channel. -/
def State.farEnd (s : State) (cell ch : Nat) : Option (Nat × Nat) :=
  match (s.cell cell).ownSlots ch with
  | t :: _ => s.traceFrom 8448 cell 4 t ch
  | [] => none

/-- A channel's role (R206): 1 inbound, 2 outbound. -/
def Cell.chanRole (c : Cell) (ch : Nat) : Nat := bits (Tab.get 0 c.chanCfg ch) 1 0

/-- The circuit that ends at an inbound channel. -/
def State.circuitInto (s : State) (cell ch : Nat) : Option Nat :=
  (s.cells.flatMap (fun c => (List.range 32).filterMap (fun k =>
    if c.2.chanRole k = 2 ∧ s.farEnd c.1 k = some (cell, ch) then some (32 * c.1 + k) else none))).head?

/-- A circuit's words lie on a link, or in a crossing. -/
def State.onLinks (s : State) (circuit : Nat) : Bool := s.links.any (fun l => l.word.circuit == circuit)

/-! ### The Sump's spill (R226, R228) -/

/-- The physical address of a place in a gallery's spill region: its 64 KiB chunk, and the byte in it. -/
def Gallery.spillAddr (g : Gallery) (chunk off : Nat) : Nat :=
  pageSize * g.spillPages.getD (chunk / 32) 0 + 65536 * (chunk % 32) + off

/-- The words of a Sump that the spill region does not hold yet are written there, each in the Sump's newest chunk, or the first
of a new one: the lowest-numbered chunk that no open Sump of the gallery holds. -/
def State.spillOut (s : State) (cell ch : Nat) : Nat → State
  | 0 => s
  | k + 1 =>
    let c := s.cell cell
    let x := c.chan ch
    match x.sump, (s.galleryOf cell).bind s.gallery? with
    | some u, some g =>
      if u.spilled ≤ u.stored then s
      else
        let used := (s.openSumps (s.galleryOf cell)).flatMap (fun e => e.2.places)
        let fresh := u.stored % 512 == 0
        match (if fresh then (List.range (g.spill / 65536)).find? (fun n => !used.contains n) else u.places.getLast?) with
        | none => s
        | some n =>
          let i := u.stored - (u.spilled - u.spill.length)
          let w := u.spill.getD i { data := [], eor := false, circuit := 0, job := none }
          let u := { u with stored := u.stored + 1, places := if fresh then u.places ++ [n] else u.places
                            spill := u.spill.set i { w with data := [] } }
          ((s.setCell cell (c.setChan ch { x with sump := some u })).paWrite c.owner (g.spillAddr n (128 * ((u.stored - 1) % 512))) w.data).spillOut cell ch k
    | _, _ => s

/-- The bytes of the oldest spilled word, read from the region. A poisoned line leaves them open (log 82). -/
def State.spillHead (s : State) (cell : Nat) (u : Sump) : List Byte × State :=
  let f := u.spilled - u.spill.length
  match (s.galleryOf cell).bind s.gallery?, u.places with
  | some g, n :: _ =>
    let pa := g.spillAddr n (128 * (f % 512))
    let t := s.paTouch (s.cell cell).owner pa 128
    if s.lineBad (pa / 128) then
      let (k, t) := t.drawFree
      (Config.freeBytes k 128, t)
    else (s.paBytes pa 128, t)
  | _, _ => (List.replicate 128 0#8, s)

/-- Spilled words fetched back, in order, while credits are free and no word of the circuit is on its way (R226); a fence that
withholds the credits withholds them from the Sump too (R293). A chunk is returned once its words are fetched. -/
def State.refill (s : State) : Nat → Nat → State
  | 0, _ => s
  | k + 1, circuit =>
    let cell := circuit / 32
    let ch := circuit % 32
    let x := (s.cell cell).chan ch
    match x.sump, s.farEnd cell ch with
    | some u, some (fc, fch) =>
      (match u.spill with
       | w :: ws =>
         if x.credits = 0 || x.withheld || s.onLinks circuit || u.stored ≤ u.spilled - u.spill.length then s
         else
           let (bs, s) := s.spillHead cell u
           let f := u.spilled - ws.length
           let u := { u with spill := ws, places := if f % 512 = 0 ∨ ws = [] ∧ u.spilled % 512 = 0 then u.places.drop 1 else u.places }
           let s := s.setCell cell ((s.cell cell).setChan ch { x with credits := x.credits - 1, sump := some u })
           (s.deliver fc fch { w with data := bs }).refill k circuit
       | [] => s)
    | _, _ => s

/-- The open Sumps of a cell brought up to date after words were staged: what they took is written to the spill region, and
fetched back as far as credits are free. -/
def State.settleSumps (s : State) (cell : Nat) : State :=
  (s.cell cell).chans.foldl (fun s e => if e.2.sump.isSome then (s.spillOut cell e.1 160).refill 160 (32 * cell + e.1) else s) s

end Sys2Proof.Machine
end

