-- ==== Sys2Proof/Machine/Matrix.lean ====
section
/-!
DEFINITION. Sys2Proof/Machine/Matrix.lean: the matrix tile's commands and events (ch. 04): fetching, running an MMA to
its next tile boundary, waits, posts, loops, ends, staging, switching, handover and retirement.
-/
namespace Sys2Proof.Machine
open Sys2Proof

/-- A read of a memory tile met poisoned granules (none: nothing happens): it is counted, a record is written for each the
first time it is found poisoned, and the reading job ends with MEM_UNCORRECTABLE (R196, R201). -/
def State.memtPoison (s : State) (cell : Nat) (granules : List Nat) (job : Option Nat) : State :=
  match granules with
  | [] => s
  | _ =>
    let c := s.cell cell
    let s := s.setCell cell ({ c with seen := granules.foldl (fun t g => Tab.put false t g true) c.seen }.count .memtEccUncorr 1)
    match granules.filter (fun g => !Tab.get false c.seen g) with
    | [] => s.stopJob job .memUncorrectable 0
    | new => new.foldl (fun s g => s.jobFault .memtUncorrectable job .memUncorrectable
        { noRec with node := cell, unit := 2, addr := 8 * g }) s

/-- The finished tiles of a matrix context that no EPILOGUE has taken are discarded (R153). -/
def Cell.discardTiles (c : Cell) (k : Nat) : Cell :=
  { c with ftq := c.ftq.filter (fun q => q.mctx != k || q.taken) }

/-- A matrix context released: IDLE, with its partner (R85, R87). What it held goes with it, the sticky flags of a context
that a cancellation or a fault stops included: only a context that ends its task gives them to the job (R108, log 71). -/
def Cell.mtRelease (c : Cell) (k : Nat) : Cell :=
  let p := (c.mtx k).pair
  let c := c.setMtx k {}
  if p then c.setMtx (k + 1) {} else c

/-- A matrix context of a stopped job: it stops at its next tile boundary, at once where it is LATE, WAIT or HELD or
stands at a boundary; its tiles are discarded (R107, R153). -/
def Cell.mtStop (c : Cell) (k : Nat) : Cell :=
  let x := c.mtx k
  let c := c.discardTiles k
  if x.begun && !x.finished && !c.halted && (x.st == .active || x.st == .ready) then c.setMtx k { x with stopping := true, wait := none }
  else if x.st = .partner then c
  else c.mtRelease k

/-- The staged operands and the block in progress put away. -/
def MtCtx.unstage (x : MtCtx) : MtCtx :=
  { x with headA := [], headB := [], rawA := [], rawB := [], blkA := [], blkB := [], sclA := [], sclB := [] }

/-- A matrix context stopped by a fault: FAULTED, its accumulator and its waiting tiles discarded (R110). -/
def State.mtFault (s : State) (cell k : Nat) : State :=
  let c := s.cell cell
  let x := c.mtx k
  s.setCell cell ((c.discardTiles k).setMtx k { x.unstage with st := .faulted, acc := [], lo := [], holds := false
                                                               finished := false, begun := false, cmd := none, raced := [] })

/-- The next command, at its beginning. -/
def MtCtx.advance (x : MtCtx) : MtCtx :=
  { x.unstage with ptr := x.ptr + 1, visit := 0, kpos := 0, begun := false, finished := false, cmd := none, raced := [] }

/-- A fetched command taken into the context's hand: an MMA stays there to its end, and one that hands over tiles opens its
record (R86, R87). -/
def MtCtx.take (x : MtCtx) (o : Nat) (w : List Nat) : MtCtx :=
  if o ≠ 1 ∨ x.cmd.isSome then x
  else
    let m := Mma.ofWords w
    let x := { x with cmd := some w }
    if m.epi = 0xFF then x
    else { x with mmas := x.mmas ++ [{ id := x.mmaCount, cmd := x.ptr, toHand := m.rCount * m.cCount, inEpi := 0, acks := 0 }]
                  mmaCount := x.mmaCount + 1 }

/-- The command at a context's pointer read through the narrow port, where it has none in hand (R86, R195). -/
def Cell.mtSense (c : Cell) (x : MtCtx) : Cell :=
  if x.cmd.isSome ∨ c.cmdCount ≤ x.ptr then c else c.sense (c.cmdBase + 64 * x.ptr) 64

/-- The opcode a context stands at, none where the fetch meets no well-formed command. -/
def Cell.mtOpAt (c : Cell) (f : ArrFeat) (x : MtCtx) : Option Nat :=
  match c.mtFetched f x with
  | .cmd o _ => some o
  | _ => none

/-- The state of a context that goes on: ACTIVE when it is selected, else READY where its next command needs no
operands and LATE where it does (R84, R104). -/
def Cell.mtSettle (c : Cell) (f : ArrFeat) (k : Nat) (x : MtCtx) : Cell :=
  let st := if c.mtSel = k then .active else if c.mtOpAt f x = some 1 then .late else .ready
  c.setMtx k { x with st := st }

/-- A command that is not executed: the context becomes FAULTED, MT_BAD_CMD names it, and the job ends with BAD_COMMAND
(R92). -/
def State.mtIllFormed (s : State) (cell k : Nat) : State :=
  let x := (s.cell cell).mtx k
  (s.mtFault cell k).jobFault .mtBadCmd x.job .badCommand { noRec with node := cell, unit := 0, idx0 := k, idx1 := x.ptr }

/-- A command of the selected context `k`: fetched and checked (R86, R92), then run where it has opcode `op`. From
supply-sag stage S3 on a context holds at its boundary (R603). -/
def State.mtCommand (s : State) (cell k op : Nat) (run : Cell → MtCtx → List Nat → State) : State :=
  let c := s.cell cell
  let x := c.mtx k
  if !s.cellRuns cell || (decide (3 ≤ s.sag) && !x.begun) || c.mtSel ≠ k || x.finished || !(x.st = .active ∨ x.st = .ready ∨ x.st = .late) then s
  else
    let c := c.mtSense x
    match c.mtFetched s.arrFeat x with
    | .bad => (s.setCell cell c).mtIllFormed cell k
    | .poisoned gs => ((s.setCell cell c).mtFault cell k).memtPoison cell gs x.job
    | .cmd o w => if o = op then run c (x.take o w) w else s

/-- A signal packet from a unit of a cell: straight to the home its route table lists, else to Hub N (R261). -/
def State.cellSignal (s : State) (cell unit : Nat) (op : SigOp) (sig value tag : Nat) : State :=
  let c := s.cell cell
  let r := Tab.get 0 c.route sig
  let dst := if r = 0 then hubN else r - 1
  s.send (s.cellPacket cell dst 0 (.sig op sig value { node := cell, unit := unit, tag := tag }))

/-- Credits owed to circuits put on their way back (R209). -/
def State.owe (s : State) (cs : List Nat) : State := { s with creditFlight := s.creditFlight ++ cs }

/-- An MMA that may not run although its words are well formed: pair without a partner (R85), KEEP without a held
accumulator (R94). -/
def MtCtx.cannotRun (x : MtCtx) (m : Mma) : Bool := (m.pair && !x.pair) || (m.accInit == 2 && !x.holds && !x.begun)

/-- The free value of a run that reads bytes written during its MMA (R111, log 69). -/
def State.raceDraw (s : State) (x : MtCtx) : Nat × State := if x.raced = [] then (0, s) else s.drawFree

/-- A matrix context whose fetch overflows or meets poison: FAULTED, with its record; the record's address is the first
byte of the access that was not issued (R110, R196, log 68). -/
def State.mmaFault (s : State) (cell k : Nat) (job : Option Nat) (ptr : Nat) (e : TileEnd) : State :=
  match e with
  | .overflow a => (s.mtFault cell k).jobFault .mtOverflow job .overflowFault
      { noRec with node := cell, unit := 0, idx0 := k, idx1 := ptr, addr := a }
  | .poisoned gs => (s.mtFault cell k).memtPoison cell gs job
  | _ => s

/-- Cycles of a tile charged to the tenant of the job they were spent for: ACCT_MT_CYC or ACCT_VT_CYC, by its offset (R545). -/
def State.acctCyc (s : State) (off : Nat) (job : Option Nat) (n : Nat) : State :=
  match job with
  | some j => s.regAdd (rAcct (s.jobTenant j) off) n
  | none => s

/-- The cycles that MT_CYC_ISSUE, MT_CYC_PAIR and MT_CYC_LOAD count between two states of a cell. -/
def mtSpent (c d : Cell) : Nat :=
  ([CellCtr.mtCycIssue, .mtCycPair, .mtCycLoad].map (fun k => (d.counter k + 2 ^ 48 - c.counter k) % 2 ^ 48)).sum

/-- The MMA of the selected context run to its next tile boundary, or until late, or until a fault (R82 to R110). -/
def State.runMma (s : State) (cell k : Nat) (c : Cell) (x : MtCtx) (w : List Nat) : State :=
  let m := Mma.ofWords w
  match m.types s.arrFeat.mx16 with
  | none => s
  | some (fa, fb, la, lb) =>
    if x.cannotRun m then (s.setCell cell c).mtIllFormed cell k
    else
      let (draw, s) := s.raceDraw x
      let before := c
      let (c, x, e, cr) := c.mmaTile m fa fb la lb { x with st := .active } draw
      let s := (s.owe cr).acctCyc 0 x.job (mtSpent before c)
      match e with
      | .late =>
        if x.stopping then s.setCell cell ((c.setMtx k x).mtRelease k)
        else (s.setCell cell (c.setMtx k { x with st := .late })).shortCell cell
      | .done =>
        if x.stopping then s.setCell cell (((c.setMtx k x).discardTiles k).mtRelease k)
        else if m.epi = 0xFF then
          let x := { x with holds := true, sticky := x.sticky ||| x.tag }
          s.setCell cell (c.mtSettle s.arrFeat k { x.advance with holds := true })
        else s.setCell cell (c.setMtx k { x with finished := true })
      | e => (s.setCell cell (c.setMtx k x)).mmaFault cell k x.job x.ptr e

/-- MMA. `arrayErr` is the array offset of an uncorrectable error the tile's arrays show on this run (R636). -/
def execMma (cell ctx : Nat) (arrayErr : Option Nat) (s : State) : Out :=
  .next (if s.fatal then s else s.mtCommand cell ctx 1 (fun c x w =>
    match arrayErr with
    | some a =>
      (s.mtFault cell ctx).jobFault .cellUncorrectable x.job .memUncorrectable
        { noRec with node := cell, unit := 0, idx0 := ctx, addr := a }
    | none => s.runMma cell ctx c x w))

/-- MT_WAIT: the WAIT goes to the signal's home and the context waits (R87, R89). -/
def execMtWait (cell ctx : Nat) (s : State) : Out :=
  .next (if s.fatal then s else s.mtCommand cell ctx 2 (fun c x w =>
    let sig := bits (w.getD 0 0) 21 8
    let v := w.getD 1 0
    (s.setCell cell (c.setMtx ctx { x with st := .wait, wait := some { sig := sig, value := v } })).cellSignal
      cell ctx .wait sig v x.bindTag))

/-- MT_POST: an ADD once every earlier MMA of the context has retired; until then the context is in WAIT (R87). -/
def execMtPost (cell ctx : Nat) (s : State) : Out :=
  .next (if s.fatal then s else s.mtCommand cell ctx 3 (fun c x w =>
    if x.mmas = [] then
      (s.setCell cell (c.mtSettle s.arrFeat ctx x.advance)).cellSignal cell ctx .add (bits (w.getD 0 0) 21 8) (w.getD 1 0) x.bindTag
    else s.setCell cell (c.setMtx ctx { x with st := .wait })))

/-- MT_LOOP (R90). -/
def execMtLoop (cell ctx : Nat) (s : State) : Out :=
  .next (if s.fatal then s else s.mtCommand cell ctx 4 (fun c x w =>
    let n := (if x.loopCtr = 0 then w.getD 1 0 else x.loopCtr) - 1
    let y := { x.advance with loopCtr := n }
    s.setCell cell (c.mtSettle s.arrFeat ctx (if n ≠ 0 then { y with ptr := bits (w.getD 0 0) 19 8 } else y))))

/-- MT_END: once every earlier MMA has retired the task's share ends here: the sticky flags join the job's condition
summary and the context becomes IDLE (R87, R108). -/
def execMtEnd (cell ctx : Nat) (s : State) : Out :=
  .next (if s.fatal then s else s.mtCommand cell ctx 0 (fun c x _ =>
    if x.mmas = [] then
      let s := s.setCell cell (c.mtRelease ctx)
      match x.job with
      | some j => s.updJob j (fun b => { b with cond := b.cond ||| x.sticky })
      | none => s
    else s.setCell cell (c.setMtx ctx { x with st := .wait })))

/-- The operands of a context's next k-steps staged, up to four of them: the cell, the context, the outcome, and credits to
return (R104). A command that is no MMA, or has no k-step left, needs none. -/
def Cell.mtStage (c : Cell) (f : ArrFeat) (x : MtCtx) (draw : Nat) : Cell × MtCtx × TileEnd × List Nat :=
  match c.mtFetched f x with
  | .cmd 1 w =>
    let m := Mma.ofWords w
    let x := x.take 1 w
    match m.types f.mx16 with
    | none => (c, x, .done, [])
    | some (fa, fb, la, lb) =>
      if x.cannotRun m then (c, x, .done, [])
      else
        let (u, v) := (visitOrder m.rCount m.cCount).getD x.visit (0, 0)
        c.stageSteps (m.srcOfA fa la u) (m.srcOfB fb lb v) x draw (min 4 (m.kLen - x.kpos))
  | _ => (c, x, .done, [])

/-- MT_CONTEXT_READY: a LATE context's next operands are fetched as far as they can be; once they are staged it becomes
READY, or ACTIVE where it is the selected one (R104, R105). A fetch that overflows or meets poison faults it (R110, R196).
When the prompt comes is when the fetches are granted: the device chooses those cycles (R103, log 72). -/
def execMtContextReady (cell ctx : Nat) (s : State) : Out :=
  .next (
    if s.fatal then s else
    let c := s.cell cell
    let x := c.mtx ctx
    if !s.cellRuns cell || x.st ≠ .late then s
    else
      let (draw, s) := s.raceDraw x
      let (c, x, e, cr) := (c.mtSense x).mtStage s.arrFeat x draw
      let x := if e = .done then { x with st := if c.mtSel = ctx then .active else .ready } else x
      (((s.owe cr).setCell cell (c.setMtx ctx x)).mmaFault cell ctx x.job x.ptr e).shortCell cell)

/-- A context that cannot issue (R105). -/
def MtSt.cannotIssue : MtSt → Bool
  | .ready | .active => false
  | _ => true

/-- The first of the contexts after `sel`, in cyclic order, that `p` accepts. -/
def nextCtx (sel : Nat) (p : Nat → Bool) : Option Nat := [sel + 1, sel + 2, sel + 3].map (· % 4) |>.find? p

/-- MT_CONTEXT_SWITCH (R105): counted as 2 A-cycles and one switch (R112). -/
def execMtContextSwitch (cell : Nat) (s : State) : Out :=
  .next (
    if s.fatal then s else
    let c := s.cell cell
    if !s.cellRuns cell || !(c.mtx c.mtSel).st.cannotIssue then s
    else match nextCtx c.mtSel (fun k => (c.mtx k).st == .ready) with
      | none => s
      | some k =>
        let c := { c.setMtx k { c.mtx k with st := .active } with mtSel := k }
        s.setCell cell ((c.count .mtCycSwitch 2).count .mtEvtSwitches 1))

/-- Entries of the finished-tile queue in use: a pair tile takes both (R106, R146). -/
def Cell.ftqUsed (c : Cell) : Nat := (c.ftq.map (fun q => if q.lo.isSome then 2 else 1)).sum

/-- An MMA's record with one tile more handed over; `kept`: to an epilogue. -/
def handOne (kept : Bool) (l : List MmaRec) : List MmaRec :=
  match l.reverse with
  | [] => []
  | r :: rs => (({ r with toHand := r.toHand - 1, inEpi := if kept then r.inEpi + 1 else r.inEpi } : MmaRec) :: rs).reverse

/-- TILE_HANDOVER: the finished tile enters the queue when it has room, and the context stands at a tile boundary; else
the context is HELD (R106, R146). A tile whose vector context is FAULTED or is being stopped is discarded as it is handed
over (R153). A stream operand's bytes left of its panel's last word go with the tile (R97, log 70). -/
def execTileHandover (cell ctx : Nat) (s : State) : Out :=
  .next (
    if s.fatal then s else
    let c := s.cell cell
    let x := c.mtx ctx
    match x.cmd with
    | some w =>
      if !s.cellRuns cell || !x.finished then s
      else
        let m := Mma.ofWords w
        let lost := (c.vtx ctx).st = .faulted ∨ (c.vtx ctx).stopping
        let takesPair := m.pair && epiPairBit m.epi
        if 2 < c.ftqUsed + (if takesPair then 2 else 1) ∧ ¬ lost then s.setCell cell (c.setMtx ctx { x with st := .held })
        else
          let (u, v) := (visitOrder m.rCount m.cCount).getD x.visit (0, 0)
          let q : FtqEntry := { id := c.ftqCount, mctx := ctx, tile := x.acc, lo := if takesPair then some x.lo else none
                                tag := x.tag, epi := m.epi, rowBlk := m.rFirst + u * m.rStep, colBlk := m.cFirst + v
                                cmd := w, mma := (x.mmas.getLast?.map MmaRec.id).getD 0, job := x.job
                                buf := if c.ftq.any (fun q => q.buf == 0) then 1 else 0 }
          let c := { c with ftq := if lost then c.ftq else c.ftq ++ [q], ftqCount := c.ftqCount + 1 }.count .mtEvtTiles 1
          let x := { x.unstage with sticky := x.sticky ||| x.tag, mmas := handOne (!lost) x.mmas, finished := false, begun := false
                                    holds := false, kpos := 0, acc := [], lo := [] }
          let x := if x.visit + 1 < m.rCount * m.cCount then { x with visit := x.visit + 1 } else x.advance
          s.setCell cell (c.mtSettle s.arrFeat ctx x)
    | none => s)
where
  /-- Bit [6] of an entry number: the entry takes the pair (R156). -/
  epiPairBit (epi : Nat) : Bool := bit epi 6

/-- An MMA that has retired: every tile handed over, every epilogue ended, every write acknowledged (R87). -/
def MmaRec.retired (r : MmaRec) : Bool := r.toHand == 0 && r.inEpi == 0 && r.acks == 0

/-- MMA_RETIRE: the oldest MMA leaves once it has retired; a POST or END that waited for it can go on (R87). -/
def execMmaRetire (cell ctx : Nat) (s : State) : Out :=
  .next (
    if s.fatal then s else
    let c := s.cell cell
    let x := c.mtx ctx
    match x.mmas with
    | r :: rs =>
      if !r.retired then s
      else
        let x := { x with mmas := rs }
        if rs = [] ∧ x.st = .wait ∧ x.wait = none then s.setCell cell (c.mtSettle s.arrFeat ctx x)
        else s.setCell cell (c.setMtx ctx x)
    | [] => s)

end Sys2Proof.Machine
end

