-- ==== Sys2Proof/Machine/Vector.lean ====
section
/-!
DEFINITION. Sys2Proof/Machine/Vector.lean: the vector tile's instructions and events (ch. 05, 06): fetching and running
an instruction of the selected context, its asynchronous moves, the epilogue, context switches.
-/
namespace Sys2Proof.Machine
open Sys2Proof

/-- A vector context released: IDLE (R130, R153). -/
def Cell.vtRelease (c : Cell) (k : Nat) : Cell := c.setVtx k {}

/-- A vector context stopped by a fault: FAULTED, and the waiting tiles of its matrix context discarded (R152, R153). An
EPILOGUE in progress completes. -/
def State.vtFault (s : State) (cell k : Nat) : State :=
  let c := s.cell cell
  let x := c.vtx k
  s.setCell cell ((c.discardTiles k).setVtx k { x with st := .faulted, tx := if x.epi.isSome then x.tx else [], rx := [], sending := false
                                                       wait := none, instr := none })

/-- A vector context's earlier instructions have all retired (R130): no pending XFER, no unsent word, no EPILOGUE whose writes
are not all acknowledged. -/
def VtCtx.retired (x : VtCtx) : Bool := x.xfers.isEmpty && x.tx.isEmpty && x.epis.isEmpty

/-- The state of a vector context that can go on; a FAULTED one stays so (R117). -/
def Cell.vtSettle (c : Cell) (k : Nat) (x : VtCtx) : Cell :=
  c.setVtx k { x with st := if x.st = .faulted then .faulted else if c.vtSel = k then .active else .ready }

/-- A vector context of a stopped job: IDLE once an EPILOGUE in progress and its pending XFERs have completed; the waiting
tiles of its matrix context are discarded (R153). -/
def Cell.vtStop (c : Cell) (k : Nat) : Cell :=
  let x := c.vtx k
  let c := c.discardTiles k
  if x.epi.isSome || !x.xfers.isEmpty then
    c.setVtx k { x with stopping := true, tx := if x.epi.isSome then x.tx else [], rx := [], sending := false, wait := none, instr := none }
  else c.vtRelease k

/-- A context with instruction `i` in hand, in a state. -/
def VtCtx.holding (x : VtCtx) (i : VInstr) (st : VtSt) : VtCtx := { x with st := st, instr := some (i.lo, i.imm) }

/-- What instruction `i` of the selected context `k` did, put into the state: the context goes on, is LATE, or is
FAULTED with the record of R152 or R636. A job being stopped stops it at this boundary (R153). An XFER retires, and counts, when it
completes (R130, R154). -/
def State.vtFinish (s : State) (cell k : Nat) (i : VInstr) (o : VOut) : State :=
  let s := s.owe o.credits
  match o.fin with
  | .done =>
    let s := s.acctCyc 8 o.x.job o.occ
    let c := (o.c.count .vtCycIssue o.occ).count .vtEvtInstr (if i.op = 0x18 then 0 else 1)
    if o.x.stopping then s.setCell cell ((c.setVtx k o.x).vtRelease k)
    else s.setCell cell (c.setVtx k { o.x with st := .active, instr := none })
  | .late =>
    if o.x.stopping then s.setCell cell ((o.c.setVtx k o.x).vtRelease k)
    else s.setCell cell (o.c.setVtx k (o.x.holding i .late))
  | .overflow a =>
    ((s.setCell cell (o.c.setVtx k o.x)).vtFault cell k).jobFault .vtOverflow o.x.job .overflowFault
      { noRec with node := cell, unit := 1, idx0 := k, idx1 := o.x.idx, addr := a }
  | .arrayBad a =>
    ((s.setCell cell (o.c.setVtx k o.x)).vtFault cell k).jobFault .cellUncorrectable o.x.job .memUncorrectable
      { noRec with node := cell, unit := 1, idx0 := k, addr := a }

/-- The next instruction of the selected context `k`, fetched and checked (R121, R125), then `run` where it has opcode
`op`. One whose packing its VL does not fit, which only the run shows, faults as R152 states (R127, log 77). From supply-sag stage
S3 on a context holds at its boundary (R603). -/
def State.vtFetchRun (s : State) (cell k op : Nat) (run : VEnv → State) : State :=
  let c := s.cell cell
  let x := c.vtx k
  if !s.cellRuns cell || (decide (3 ≤ s.sag) && x.rx == [] && x.tx == [] && !x.sending) || c.vtSel ≠ k || x.epi.isSome || x.stopping || !(x.st = .active ∨ x.st = .ready ∨ x.st = .late) then s
  else
    let c := c.vtSense x
    match c.vtFetched s.arrFeat x with
    | .bad =>
      ((s.setCell cell c).vtFault cell k).jobFault .vtBadInstr x.job .badCommand
        { noRec with node := cell, unit := 1, idx0 := k, idx1 := x.idx }
    | .poisoned gs => ((s.setCell cell c).vtFault cell k).memtPoison cell gs x.job
    | .instr i =>
      let e : VEnv := { c := c, x := x, i := i, fp32Native := s.feature 0 }
      if i.op ≠ op then s
      else if !vlOk x.vl i then s.vtFinish cell k i (e.stop (.overflow e.ea))
      else run e

/-- An instruction that acts inside its cell. -/
def State.vtOp (s : State) (cell k op : Nat) (run : VEnv → VOut) : State :=
  s.vtFetchRun cell k op (fun e => s.vtFinish cell k e.i (run e))

/-- An uncorrectable error that has arisen at a local address: later reads of its granule fail until it is written
whole (R636). -/
def State.localErr (s : State) (cell : Nat) (err : Option Nat) : State :=
  match err with
  | some a => if s.goodCell cell then
      s.setCell cell { s.cell cell with locBad := Tab.put false (s.cell cell).locBad (a / 8) true } else s
  | none => s

/-! ### Control instructions (R130) -/

/-- VT_END. -/
def execVtEnd (cell ctx : Nat) (s : State) : Out :=
  .next (if s.fatal then s else s.vtFetchRun cell ctx 0x00 (fun e =>
    if e.x.retired then
      let s := s.setCell cell ((e.c.vtRelease ctx).count .vtEvtInstr 1)
      match e.x.job with
      | some j => s.updJob j (fun b => { b with cond := b.cond ||| e.x.flags })
      | none => s
    else s.setCell cell (e.c.setVtx ctx (e.x.holding e.i .wait))))

/-- VT_WAIT: the WAIT goes to the signal's home and the context waits. -/
def execVtWait (cell ctx : Nat) (s : State) : Out :=
  .next (if s.fatal then s else s.vtFetchRun cell ctx 0x01 (fun e =>
    let sig := bits e.i.lo 21 8
    (s.setCell cell (e.c.setVtx ctx { e.x.holding e.i .wait with wait := some { sig := sig, value := e.i.imm } })).cellSignal
      cell (4 + ctx) .wait sig e.i.imm e.x.bindTag))

/-- VT_POST: an ADD once every earlier instruction has retired. -/
def execVtPost (cell ctx : Nat) (s : State) : Out :=
  .next (if s.fatal then s else s.vtFetchRun cell ctx 0x02 (fun e =>
    if e.x.retired then
      (s.vtFinish cell ctx e.i { c := e.c, x := e.advance 0 }).cellSignal cell (4 + ctx) .add (bits e.i.lo 21 8) e.i.imm e.x.bindTag
    else s.setCell cell (e.c.setVtx ctx (e.x.holding e.i .wait))))

/-- XFENCE: the context waits until its earlier XFERs have completed. -/
def execXfence (cell ctx : Nat) (s : State) : Out :=
  .next (if s.fatal then s else s.vtFetchRun cell ctx 0x0A (fun e =>
    if e.x.xfers = [] then s.vtFinish cell ctx e.i { c := e.c, x := e.advance 0 }
    else s.setCell cell (e.c.setVtx ctx (e.x.holding e.i .wait))))

/-- LOOP (R90). -/
def execVtLoop (cell ctx : Nat) (s : State) : Out :=
  .next (if s.fatal then s else s.vtOp cell ctx 0x03 (vCtl vLoop))

/-- SETVL (R126). -/
def execSetvl (cell ctx : Nat) (s : State) : Out :=
  .next (if s.fatal then s else s.vtOp cell ctx 0x04 (vCtl (fun e => { e.advance 0 with vl := e.i.imm })))

/-- ASET. -/
def execAset (cell ctx : Nat) (s : State) : Out :=
  .next (if s.fatal then s else s.vtOp cell ctx 0x05 (vCtl (fun e => (e.advance 0).setA (bits e.i.lo 9 8) (e.i.imm % 2 ^ 20))))

/-- AADD: a signed immediate modulo 2^20. -/
def execAadd (cell ctx : Nat) (s : State) : Out :=
  .next (if s.fatal then s else s.vtOp cell ctx 0x06
    (vCtl (fun e => (e.advance 0).setA (bits e.i.lo 9 8) ((e.areg (bits e.i.lo 9 8) + e.i.imm) % 2 ^ 20))))

/-- SRSEED (R143). -/
def execSrseed (cell ctx : Nat) (s : State) : Out :=
  .next (if s.fatal then s else s.vtOp cell ctx 0x07
    (vCtl (fun e => { e.advance 0 with srCtr := 0, srSeed := if bit e.i.lo 8 then e.x.srSeed % 2 ^ 32 + 2 ^ 32 * e.i.imm else e.x.srSeed / 2 ^ 32 * 2 ^ 32 + e.i.imm })))

/-- FLCLR (R145). -/
def execFlclr (cell ctx : Nat) (s : State) : Out :=
  .next (if s.fatal then s else s.vtOp cell ctx 0x08 (vCtl (fun e => { e.advance 0 with flags := 0 })))

/-- VLD (R132). `arrayErr` is a local address at which an uncorrectable error has arisen (R636). -/
def execVld (cell ctx : Nat) (arrayErr : Option Nat) (s : State) : Out :=
  .next (if s.fatal then s else (s.localErr cell arrayErr).vtOp cell ctx 0x10 vLoad)

/-- VST (R132). -/
def execVst (cell ctx : Nat) (s : State) : Out :=
  .next (if s.fatal then s else s.vtOp cell ctx 0x11 vStore)

/-- VLDB (R131). `arrayErr` is a local address at which an uncorrectable error has arisen (R636). -/
def execVldb (cell ctx : Nat) (arrayErr : Option Nat) (s : State) : Out :=
  .next (if s.fatal then s else (s.localErr cell arrayErr).vtOp cell ctx 0x12 vLoadB)

/-- VSTQ (R131). -/
def execVstq (cell ctx : Nat) (s : State) : Out :=
  .next (if s.fatal then s else s.vtOp cell ctx 0x13 vStoreQ)

/-- MLD (R131). `arrayErr` is a local address at which an uncorrectable error has arisen (R636). -/
def execMld (cell ctx : Nat) (arrayErr : Option Nat) (s : State) : Out :=
  .next (if s.fatal then s else (s.localErr cell arrayErr).vtOp cell ctx 0x14 vMaskLoad)

/-- MST (R131). -/
def execMst (cell ctx : Nat) (s : State) : Out :=
  .next (if s.fatal then s else s.vtOp cell ctx 0x15 vMaskStore)

/-- VRECV (R133). -/
def execVrecv (cell ctx : Nat) (s : State) : Out :=
  .next (if s.fatal then s else (s.vtOp cell ctx 0x16 vRecv).shortCell cell)

/-- VSEND (R133). -/
def execVsend (cell ctx : Nat) (s : State) : Out :=
  .next (if s.fatal then s else ((s.roomCell cell).vtOp cell ctx 0x17 (vSend cell)).settleSumps cell)

/-- XFER (R134). -/
def execXfer (cell ctx : Nat) (s : State) : Out :=
  .next (if s.fatal then s else s.vtOp cell ctx 0x18 vXfer)

/-- FADD (R136). -/
def execFadd (cell ctx : Nat) (s : State) : Out :=
  .next (if s.fatal then s else s.vtOp cell ctx 0x20 (vBin 1 fadd32))

/-- FSUB (R136). -/
def execFsub (cell ctx : Nat) (s : State) : Out :=
  .next (if s.fatal then s else s.vtOp cell ctx 0x21 (vBin 1 fsub32))

/-- FMUL (R136). -/
def execFmul (cell ctx : Nat) (s : State) : Out :=
  .next (if s.fatal then s else s.vtOp cell ctx 0x22 (vBin 1 fmul32))

/-- FFMA (R136). -/
def execFfma (cell ctx : Nat) (s : State) : Out :=
  .next (if s.fatal then s else s.vtOp cell ctx 0x23 (vElem 1 (fun e j => ffma32 e.i.mode e.i.sat (e.r16 j) (e.s1 j) (e.s2 j) (e.s3 j))))

/-- FDIV (R136). -/
def execFdiv (cell ctx : Nat) (s : State) : Out :=
  .next (if s.fatal then s else s.vtOp cell ctx 0x24 (vElem 4 (fun e j => fdiv32 e.i.mode e.i.sat (e.s1 j) (e.s2 j))))

/-- FSQRT (R136). -/
def execFsqrt (cell ctx : Nat) (s : State) : Out :=
  .next (if s.fatal then s else s.vtOp cell ctx 0x25 (vElem 4 (fun e j => fsqrt32 e.i.mode e.i.sat (e.s1 j))))

/-- FMIN (R39). -/
def execFmin (cell ctx : Nat) (s : State) : Out :=
  .next (if s.fatal then s else s.vtOp cell ctx 0x26 (vMinMax fmin32))

/-- FMAX (R39). -/
def execFmax (cell ctx : Nat) (s : State) : Out :=
  .next (if s.fatal then s else s.vtOp cell ctx 0x27 (vMinMax fmax32))

/-- FMINNUM (R40). -/
def execFminnum (cell ctx : Nat) (s : State) : Out :=
  .next (if s.fatal then s else s.vtOp cell ctx 0x28 (vMinMax (fun _ => fminNum32)))

/-- FMAXNUM (R40). -/
def execFmaxnum (cell ctx : Nat) (s : State) : Out :=
  .next (if s.fatal then s else s.vtOp cell ctx 0x29 (vMinMax (fun _ => fmaxNum32)))

/-- FABS (R136). -/
def execFabs (cell ctx : Nat) (s : State) : Out :=
  .next (if s.fatal then s else s.vtOp cell ctx 0x2A (vUn 1 fabs32))

/-- FNEG (R136). -/
def execFneg (cell ctx : Nat) (s : State) : Out :=
  .next (if s.fatal then s else s.vtOp cell ctx 0x2B (vUn 1 fneg32))

/-- FRND (R136). -/
def execFrnd (cell ctx : Nat) (s : State) : Out :=
  .next (if s.fatal then s else s.vtOp cell ctx 0x2C (vElem 1 (fun e j => frnd32 e.i.mode (e.r16 j) (e.s1 j))))

/-- FEXP2 (R137, R138). -/
def execFexp2 (cell ctx : Nat) (s : State) : Out :=
  .next (if s.fatal then s else s.vtOp cell ctx 0x30 (vUn 4 fexp2))

/-- FLOG2 (R137, R138). -/
def execFlog2 (cell ctx : Nat) (s : State) : Out :=
  .next (if s.fatal then s else s.vtOp cell ctx 0x31 (vUn 4 flog2))

/-- FRSQRT (R137, R138). -/
def execFrsqrt (cell ctx : Nat) (s : State) : Out :=
  .next (if s.fatal then s else s.vtOp cell ctx 0x32 (vUn 4 frsqrt))

/-- FTANH (R137, R138). -/
def execFtanh (cell ctx : Nat) (s : State) : Out :=
  .next (if s.fatal then s else s.vtOp cell ctx 0x33 (vUn 4 ftanh))

/-- FSIGM (R137, R138). -/
def execFsigm (cell ctx : Nat) (s : State) : Out :=
  .next (if s.fatal then s else s.vtOp cell ctx 0x34 (vUn 4 fsigm))

/-- FERF (R137, R138). -/
def execFerf (cell ctx : Nat) (s : State) : Out :=
  .next (if s.fatal then s else s.vtOp cell ctx 0x35 (vUn 4 ferf))

/-- FCMPEQ (R38, R139). -/
def execFcmpeq (cell ctx : Nat) (s : State) : Out :=
  .next (if s.fatal then s else s.vtOp cell ctx 0x38 (vFcmp .eq))

/-- FCMPNE (R38, R139). -/
def execFcmpne (cell ctx : Nat) (s : State) : Out :=
  .next (if s.fatal then s else s.vtOp cell ctx 0x39 (vFcmp .ne))

/-- FCMPLT (R38, R139). -/
def execFcmplt (cell ctx : Nat) (s : State) : Out :=
  .next (if s.fatal then s else s.vtOp cell ctx 0x3A (vFcmp .lt))

/-- FCMPLE (R38, R139). -/
def execFcmple (cell ctx : Nat) (s : State) : Out :=
  .next (if s.fatal then s else s.vtOp cell ctx 0x3B (vFcmp .le))

/-- FCMPGT (R38, R139). -/
def execFcmpgt (cell ctx : Nat) (s : State) : Out :=
  .next (if s.fatal then s else s.vtOp cell ctx 0x3C (vFcmp .gt))

/-- FCMPGE (R38, R139). -/
def execFcmpge (cell ctx : Nat) (s : State) : Out :=
  .next (if s.fatal then s else s.vtOp cell ctx 0x3D (vFcmp .ge))

/-- FSEL (R139). -/
def execFsel (cell ctx : Nat) (s : State) : Out :=
  .next (if s.fatal then s else s.vtOp cell ctx 0x3E (vElem 1 (fun e j => (if e.maskBit e.i.mreg j then e.s1 j else e.s2 j, 0))))

/-- FQNT (R139). -/
def execFqnt (cell ctx : Nat) (s : State) : Out :=
  .next (if s.fatal then s else s.vtOp cell ctx 0x40 (vElem 1 (fun e j => fqnt e.f e.i.mode e.i.sat (e.r16 j) (e.s1 j))))

/-- F2I (R139). -/
def execF2i (cell ctx : Nat) (s : State) : Out :=
  .next (if s.fatal then s else s.vtOp cell ctx 0x41
    (vElem 1 (fun e j => let (w, c) := Fmt.fp32.convert .int32 e.i.mode false (e.r16 j) (e.s1 j); (w, c.toBits))))

/-- I2F (R139). -/
def execI2f (cell ctx : Nat) (s : State) : Out :=
  .next (if s.fatal then s else s.vtOp cell ctx 0x42
    (vElem 1 (fun e j => let (w, c) := Fmt.int32.convert .fp32 e.i.mode false (e.r16 j) (e.s1 j); (w, c.toBits))))

/-- IADD (R140). -/
def execIadd (cell ctx : Nat) (s : State) : Out :=
  .next (if s.fatal then s else s.vtOp cell ctx 0x48 (vInt (fun a b => a + b)))

/-- ISUB (R140). -/
def execIsub (cell ctx : Nat) (s : State) : Out :=
  .next (if s.fatal then s else s.vtOp cell ctx 0x49 (vInt (fun a b => a - b)))

/-- IMUL (R140). -/
def execImul (cell ctx : Nat) (s : State) : Out :=
  .next (if s.fatal then s else s.vtOp cell ctx 0x4A (vInt (fun a b => a * b)))

/-- IMIN (R140). -/
def execImin (cell ctx : Nat) (s : State) : Out :=
  .next (if s.fatal then s else s.vtOp cell ctx 0x4B (vInt (fun a b => if a.slt b then a else b)))

/-- IMAX (R140). -/
def execImax (cell ctx : Nat) (s : State) : Out :=
  .next (if s.fatal then s else s.vtOp cell ctx 0x4C (vInt (fun a b => if a.slt b then b else a)))

/-- IAND (R140). -/
def execIand (cell ctx : Nat) (s : State) : Out :=
  .next (if s.fatal then s else s.vtOp cell ctx 0x4D (vInt (fun a b => a &&& b)))

/-- IOR (R140). -/
def execIor (cell ctx : Nat) (s : State) : Out :=
  .next (if s.fatal then s else s.vtOp cell ctx 0x4E (vInt (fun a b => a ||| b)))

/-- IXOR (R140). -/
def execIxor (cell ctx : Nat) (s : State) : Out :=
  .next (if s.fatal then s else s.vtOp cell ctx 0x4F (vInt (fun a b => a ^^^ b)))

/-- ISHL (R140). -/
def execIshl (cell ctx : Nat) (s : State) : Out :=
  .next (if s.fatal then s else s.vtOp cell ctx 0x50 (vInt (fun a b => a <<< (b.toNat % 32))))

/-- ISRA (R140). -/
def execIsra (cell ctx : Nat) (s : State) : Out :=
  .next (if s.fatal then s else s.vtOp cell ctx 0x51 (vInt (fun a b => a.sshiftRight (b.toNat % 32))))

/-- ISRL (R140). -/
def execIsrl (cell ctx : Nat) (s : State) : Out :=
  .next (if s.fatal then s else s.vtOp cell ctx 0x52 (vInt (fun a b => a >>> (b.toNat % 32))))

/-- ICMPEQ (R140). -/
def execIcmpeq (cell ctx : Nat) (s : State) : Out :=
  .next (if s.fatal then s else s.vtOp cell ctx 0x53 (vIcmp (fun a b => a == b)))

/-- ICMPLT (R140). -/
def execIcmplt (cell ctx : Nat) (s : State) : Out :=
  .next (if s.fatal then s else s.vtOp cell ctx 0x54 (vIcmp (fun a b => a.slt b)))

/-- FRSUM (R141). -/
def execFrsum (cell ctx : Nat) (s : State) : Out :=
  .next (if s.fatal then s else s.vtOp cell ctx 0x58
    (vReduce (fun a b => let (w, c) := accAdd a (v32 b); (w, c.toBits ||| (snanCond (v32 a) (v32 b)).toBits))))

/-- FRMAX (R141). -/
def execFrmax (cell ctx : Nat) (s : State) : Out :=
  .next (if s.fatal then s else s.vtOp cell ctx 0x59
    (fun e => vReduce (fun a b => (fmax32 e.fp32Native a b, (snanCond (v32 a) (v32 b)).toBits)) e))

/-- FRMIN (R141). -/
def execFrmin (cell ctx : Nat) (s : State) : Out :=
  .next (if s.fatal then s else s.vtOp cell ctx 0x5A
    (fun e => vReduce (fun a b => (fmin32 e.fp32Native a b, (snanCond (v32 a) (v32 b)).toBits)) e))

/-- IRSUM (R141). -/
def execIrsum (cell ctx : Nat) (s : State) : Out :=
  .next (if s.fatal then s else s.vtOp cell ctx 0x5B (vReduce (fun a b => ((a + b) % 2 ^ 32, 0))))

/-- VMOV (R142). -/
def execVmov (cell ctx : Nat) (s : State) : Out :=
  .next (if s.fatal then s else s.vtOp cell ctx 0x60 (vElem 1 (fun e j => (e.s1 j, 0))))

/-- VBCAST (R142). -/
def execVbcast (cell ctx : Nat) (s : State) : Out :=
  .next (if s.fatal then s else s.vtOp cell ctx 0x61 (vElem 1 (fun e _ => (e.i.imm, 0))))

/-- VIOTA (R142). -/
def execViota (cell ctx : Nat) (s : State) : Out :=
  .next (if s.fatal then s else s.vtOp cell ctx 0x62 (vElem 1 (fun _ j => (j, 0))))

/-- VPERM (R142). -/
def execVperm (cell ctx : Nat) (s : State) : Out :=
  .next (if s.fatal then s else s.vtOp cell ctx 0x63 vPerm)

/-- MAND (R142). -/
def execMand (cell ctx : Nat) (s : State) : Out :=
  .next (if s.fatal then s else s.vtOp cell ctx 0x68 (vMask (fun a b => a && b)))

/-- MOR (R142). -/
def execMor (cell ctx : Nat) (s : State) : Out :=
  .next (if s.fatal then s else s.vtOp cell ctx 0x69 (vMask (fun a b => a || b)))

/-- MXOR (R142). -/
def execMxor (cell ctx : Nat) (s : State) : Out :=
  .next (if s.fatal then s else s.vtOp cell ctx 0x6A (vMask (fun a b => a != b)))

/-- MNOT (R142). -/
def execMnot (cell ctx : Nat) (s : State) : Out :=
  .next (if s.fatal then s else s.vtOp cell ctx 0x6B (vMask (fun a _ => !a)))

/-- MCNT (R129, R142). -/
def execMcnt (cell ctx : Nat) (s : State) : Out :=
  .next (if s.fatal then s else s.vtOp cell ctx 0x6C vMaskCount)

/-! ### Asynchronous moves, the epilogue, context switches -/

/-- What a vector context in WAIT without a signal waits for has come about: an XFENCE's XFERs have completed, or every earlier
instruction of a POST or END has retired (R117, R130). -/
def VtCtx.waitOver (x : VtCtx) : Bool :=
  match x.instr with
  | some w => if (⟨w.1, w.2⟩ : VInstr).op = 0x0A then x.xfers.isEmpty else x.retired
  | none => x.retired

/-- A vector context that waited for its earlier instructions and now can go on (R130). -/
def Cell.vtUnblock (c : Cell) (k : Nat) : Cell :=
  let x := c.vtx k
  if x.stopping then c.vtStop k else if x.st = .wait ∧ x.wait = none ∧ x.waitOver then c.vtSettle k x else c

/-- XFER_COMPLETE: the oldest pending XFER moves its bytes and retires (R134, R154); a poisoned source faults the context, whose
local space it does not write (R196). A wide read returns whole 256-byte blocks, and the code checks all of them (R178, R195). -/
def execXferComplete (cell ctx : Nat) (s : State) : Out :=
  .next (
    if s.fatal then s else
    let c := s.cell cell
    let x := c.vtx ctx
    match x.xfers with
    | [] => s
    | t :: ts =>
      if !s.cellOpen cell then s
      else
        let c := c.setVtx ctx { x with xfers := ts }
        if t.toMem then
          match c.localBad t.local_ t.len with
          | some g =>
            let s := s.setCell cell c
            (if x.stopping then s.setCell cell (c.vtStop ctx) else s.vtFault cell ctx).jobFault .cellUncorrectable x.job .memUncorrectable
              { noRec with node := cell, unit := 1, idx0 := ctx, addr := 8 * g }
          | none => s.setCell cell (((c.memWrite t.memt (c.loc.readBytes t.local_ t.len)).count .vtEvtInstr 1).vtUnblock ctx)
        else
          let (b, l) := wideSpan t.memt t.len
          let c := c.sense b l
          match c.poisoned b l with
          | [] => s.setCell cell (((c.putLocal t.local_ (c.mem.readBytes t.memt t.len)).count .vtEvtInstr 1).vtUnblock ctx)
          | gs =>
            let s := s.setCell cell c
            (if x.stopping then s.setCell cell (c.vtStop ctx) else s.vtFault cell ctx).memtPoison cell gs x.job)

/-- The naturally aligned pieces of at most 64 B a mesh write of [a, a+n) travels in (R185): fuel bounds their number. -/
def meshPieces : Nat → Nat → Nat → List (Nat × Nat)
  | 0, _, _ => []
  | k + 1, a, n =>
    if n = 0 then []
    else
      let ok := fun (z : Nat) => decide (a % z = 0) && decide (z ≤ n)
      let z := if ok 64 then 64 else if ok 32 then 32 else if ok 16 then 16 else if ok 8 then 8 else if ok 4 then 4
        else if ok 2 then 2 else 1
      (a, z) :: meshPieces k (a + z) (n - z)

/-- The mesh writes of a CELL destination: one WR for each piece, tagged with the context and the tile (R168, R236). -/
def State.cellWrites (s : State) (cell tag : Nat) (ws : List CellWrite) : List Packet :=
  ws.flatMap (fun w => (meshPieces w.data.length w.addr w.data.length).map (fun p =>
    s.cellPacket cell w.cell tag (.wr p.1 ((w.data.drop (p.1 - w.addr)).take p.2))))

/-- The record of an MMA changed. -/
def Cell.updMma (c : Cell) (k id : Nat) (f : MmaRec → MmaRec) : Cell :=
  let x := c.mtx k
  c.setMtx k { x with mmas := x.mmas.map (fun r => if r.id = id then f r else r) }

/-- A CELL destination's cell where it is a good cell of the source's gallery (R171). -/
def State.epiTarget (s : State) (cell tgt : Nat) : Option Cell :=
  if s.goodCell tgt ∧ (s.galleryOf cell).isSome ∧ s.galleryOf tgt = s.galleryOf cell then some (s.cell tgt) else none

/-- An epilogue's writes to its own memory tile that cover granules in part: poison they meet is recorded; how many of them the write
buffers join before they are read, modified and written is timing, so MEMT_EVT_RMW advances by an open number of them at most (R182,
R196, R201, log 79). -/
def State.epiPartial (s : State) (cell : Nat) (own : List CellWrite) : State :=
  let gs := (own.flatMap (fun w => rmwGrans w.addr w.data.length)).eraseDups
  match gs with
  | [] => s
  | _ =>
    let (n, s) := s.drawFree
    let s := s.setCell cell ((s.cell cell).count .memtEvtRmw (Config.freePick n (gs.length + 1)))
    s.memtPoison cell (gs.filter (fun g => Tab.get false (s.cell cell).poison g)) none

/-- What a run of the menu did, put into the state (R160 to R172). -/
def State.epiFinish (s : State) (cell k : Nat) (i : VInstr) (q : FtqEntry) (o : EpiOut) : State :=
  let fault := fun (kd : Kind) (st : Status) (r : FaultRec) =>
    ((s.setCell cell (o.c.setVtx k o.x)).vtFault cell k).jobFault kd o.x.job st
      { r with node := cell, unit := 1, idx0 := k, idx1 := o.x.idx }
  match o.fin with
  | .late => s.setCell cell (o.c.setVtx k (o.x.holding i .late))
  | .blockOverflow a => fault .vtOverflow .overflowFault { noRec with addr := a }
  | .overflow a => fault .epiOverflow .overflowFault { noRec with addr := a }
  | .badParam => fault .epiBadParam .badCommand { noRec with addr := i.imm % 65536 }
  | .arrayBad a => fault .cellUncorrectable .memUncorrectable { noRec with addr := a }
  | .done =>
    match o.peers.find? (fun r => !s.ferGood (s.cell cell).owner r.tc (if r.data.length % 16 = 0 ∧ r.tva % 16 = 0 then 0 else 1)) with
    | some r => fault .epiOverflow .overflowFault { noRec with addr := r.tva }
    | none =>
      let ps := s.cellWrites cell (k + 4 * (q.id % 2 ^ 14)) o.cells
      let n := ps.length + (o.peers.map (fun r => (putPieces r.tva r.data).length)).sum
      let c := { o.c with ftq := o.c.ftq.map (fun (r : FtqEntry) => if r.id = q.id then { r with taken := true } else r) }
      let c := (c.count .vtCycEpi (epiCost q.epi)).updMma k q.mma (fun r => { r with acks := r.acks + n })
      let c := c.setVtx k { o.x with st := .active, instr := none, epi := some q.id
                                     epis := o.x.epis ++ [{ tile := q.id, mma := q.mma, acks := n }] }
      let s := (((s.setCell cell c).acctCyc 8 o.x.job (epiCost q.epi)).epiPartial cell o.own).sendAll ps
      o.peers.foldl (fun s r =>
        s.ferPut (.epilogue cell k q.id o.x.job) (s.cell cell).owner r.tc r.dev r.tva r.sigEn r.sig r.data) s

/-- EPILOGUE: the oldest finished tile of the context runs through its entry; with none the context is LATE (R147). -/
def execEpilogue (cell ctx : Nat) (arrayErr : Option Nat) (s : State) : Out :=
  .next (
    if s.fatal then s else
    let s := s.localErr cell arrayErr
    s.vtFetchRun cell ctx 0x09 (fun e =>
      match e.c.ftq.find? (fun q => q.mctx == ctx && !q.taken) with
      | none => s.vtFinish cell ctx e.i (e.stop .late)
      | some q => s.epiFinish cell ctx e.i q (epilogueRun cell s.arrFeat (s.epiTarget cell) q e.c e.x (e.i.imm % 65536))))

/-- An EPILOGUE's record changed; one that has ended and whose writes are all acknowledged retires, and is counted (R130, R154). -/
def Cell.updEpi (c : Cell) (k tile : Nat) (f : EpiRec → EpiRec) : Cell :=
  let x := c.vtx k
  let l := x.epis.map (fun r => if r.tile = tile then f r else r)
  let left := l.filter (fun r => !(r.ended && r.acks == 0))
  (c.setVtx k { x with epis := left }).count .vtEvtInstr (l.length - left.length)

/-- EPILOGUE_END: once its last byte is accepted the queue entry is free and the context goes on (R148, R172). -/
def execEpilogueEnd (cell ctx : Nat) (s : State) : Out :=
  .next (
    if s.fatal then s else
    let s := s.roomCell cell
    let c := s.cell cell
    let x := c.vtx ctx
    match x.epi with
    | none => s
    | some id =>
      if !s.cellOpen cell then s
      else
        let (c, tx) := stageWords x.tx.length c x.tx
        if tx ≠ [] then (s.setCell cell (c.setVtx ctx { x with tx := tx })).settleSumps cell
        else
          let mma := match c.ftq.find? (fun q => q.id == id) with | some q => q.mma | none => 0
          let c := { c with ftq := c.ftq.filter (fun q => q.id != id) }.updMma ctx mma (fun r => { r with inEpi := r.inEpi - 1 })
          let c := (c.setVtx ctx { x with epi := none, tx := [], idx := x.idx + 1 }).count .vtEvtTiles 1
          let c := c.updEpi ctx id (fun r => { r with ended := true })
          (s.setCell cell (if x.stopping then c.vtStop ctx else c.vtSettle ctx (c.vtx ctx))).settleSumps cell)

/-- The local ranges an EPILOGUE of tile `q` would read: its block and, where the block can be read, its operands (R120, R167). -/
def VEnv.epiRanges (e : VEnv) (f : ArrFeat) (q : FtqEntry) : List (Nat × Nat) :=
  let pblk := e.i.imm % 65536
  let p : PBlk := { w := (List.range 16).map (fun i => e.c.loc.readLe (pblk + 4 * i) 4) }
  let m := Mma.ofWords q.cmd
  (pblk, 64) :: (if p.ok f q.epi then
    epiReads p (entryStages (bits q.epi 4 0)) ((q.rowBlk - m.rFirst) / max 1 m.rStep) (q.colBlk - m.cFirst) else [])

/-- The instruction in hand of a context still waits for a stream channel, a pending XFER or a finished tile (R117). -/
def VEnv.stillLate (e : VEnv) (f : ArrFeat) (k : Nat) : Bool :=
  match e.i.op with
  | 0x09 =>
    (match e.c.ftq.find? (fun q => q.mctx == k && !q.taken) with
     | none => true
     | some q => (e.epiRanges f q).any (fun r => e.x.xferOverlaps r.1 r.2))
  | 0x10 | 0x11 => e.x.xferOverlaps e.ea (e.span e.f.width)
  | 0x12 | 0x13 => e.x.xferOverlaps e.ea (e.span e.f.width) || e.x.xferOverlaps e.sa (e.x.vl / e.blk)
  | 0x14 | 0x15 => e.x.xferOverlaps e.ea (e.span 1)
  | 0x16 => (e.c.chan (e.i.imm % 32)).fifo.isEmpty
  | 0x17 =>
    (match e.x.tx with
     | (ch, _) :: _ => decide (2 ≤ (e.c.chan ch).staging.length) && (e.c.chan ch).sump.isNone
     | [] => false)
  | 0x18 => decide (4 ≤ e.x.xfers.length)
  | _ => false

/-- The state of a vector context now: a LATE one whose instruction can resume is READY, or ACTIVE where it is selected (R117). -/
def Cell.vtState (c : Cell) (f : ArrFeat) (k : Nat) : VtSt :=
  let x := c.vtx k
  if x.st ≠ .late then x.st
  else
    let late := match c.vtFetched f x with
      | .instr i => VEnv.stillLate { c := c, x := x, i := i, fp32Native := false } f k
      | _ => false
    if late then .late else if c.vtSel = k then .active else .ready

/-- VT_CONTEXT_SWITCH (R151): a context that cannot issue yields to the next READY one; an EPILOGUE in progress is never
switched out. -/
def execVtContextSwitch (cell : Nat) (s : State) : Out :=
  .next (
    if s.fatal then s else
    let c := s.cell cell
    let st := c.vtState s.arrFeat c.vtSel
    if !s.cellRuns cell || (c.vtx c.vtSel).epi.isSome || st == .ready || st == .active then s
    else match nextCtx c.vtSel (fun k => c.vtState s.arrFeat k == .ready) with
      | none => s
      | some k =>
        let c := { c.setVtx k { c.vtx k with st := .active } with vtSel := k }
        s.setCell cell ((c.count .vtCycSwitch 2).count .vtEvtSwitches 1))

end Sys2Proof.Machine
end

