-- ==== Sys2Proof/Machine/CellClock.lean ====
section
/-!
DEFINITION. Sys2Proof/Machine/CellClock.lean: the cycle counters of a cell's matrix and vector tile, as time and reads bring them up to date
(R112, R113, R154, R155).
-/
namespace Sys2Proof.Machine
open Sys2Proof

/-! ### The cycle counters of a cell (R112, R113, R154, R155, R274) -/

/-- The A-cycles a unit's counters, whose sum is `sum`, do not hold yet; none where a command has counted cycles ahead of the clock
(log 92). -/
def owedCycles (elapsed sum : Nat) : Nat :=
  let d := (elapsed % 2 ^ 48 + 2 ^ 48 - sum % 2 ^ 48) % 2 ^ 48
  if d < 2 ^ 47 then d else 0

/-- The sum of some counters. -/
def Cell.sumOf (c : Cell) (ks : List CellCtr) : Nat := (ks.map c.counter).sum

/-- The cycles owed to a unit's counters: the last `n` to the counter `k` of its state now, those before to its idle counter. -/
def Cell.owe (c : Cell) (elapsed n : Nat) (all : List CellCtr) (k idle : CellCtr) : Cell :=
  let owed := owedCycles elapsed (c.sumOf all)
  (c.count k (min owed n)).count idle (owed - min owed n)

/-- The counters that share out a matrix tile's A-cycles, and a vector tile's (VT_CYC_DEP aside: log 92). -/
def mtCycs : List CellCtr := [.mtCycIssue, .mtCycPair, .mtCycLoad, .mtCycSwitch, .mtCycHeld, .mtCycLate, .mtCycWait, .mtCycIdle]
def vtCycs : List CellCtr := [.vtCycIssue, .vtCycEpi, .vtCycSwitch, .vtCycLate, .vtCycWait, .vtCycIdle]

/-- Where a matrix tile's A-cycles go in which its array does nothing: HELD over LATE over WAIT over IDLE (R113). -/
def Cell.mtStall (c : Cell) : CellCtr :=
  let some_ := fun (x : MtSt) => (List.range 4).any (fun k => (c.mtx k).st == x)
  if some_ .held then .mtCycHeld else if some_ .late then .mtCycLate else if some_ .wait then .mtCycWait else .mtCycIdle

/-- Where a vector tile's A-cycles go in which its datapath does nothing: LATE over WAIT over IDLE (R155). -/
def Cell.vtStall (c : Cell) (f : ArrFeat) : CellCtr :=
  let some_ := fun (x : VtSt) => (List.range 4).any (fun k => c.vtState f k == x)
  if some_ .late then .vtCycLate else if some_ .wait then .vtCycWait else .vtCycIdle

/-- The cycle counters of a cell's tiles brought up to `elapsed` A-cycles since they were cleared, the last `n` in its state now. -/
def Cell.clockUnits (c : Cell) (f : ArrFeat) (elapsed n : Nat) : Cell :=
  let d := (c.owe elapsed n mtCycs c.mtStall .mtCycIdle).owe elapsed n vtCycs (c.vtStall f) .vtCycIdle
  d.count .vtCycFtqFull (if 2 ≤ c.ftqUsed then n else 0)

end Sys2Proof.Machine
end

