-- ==== Sys2Proof/Machine/Streams.lean ====
section
/-!
DEFINITION. Sys2Proof/Machine/Streams.lean: the stream network (ch. 08): words and credits, steering units, the wait
graph, probes and the Sump.
-/
namespace Sys2Proof.Machine
open Sys2Proof

/-! ### Words and credits (R203, R209) -/

/-- A word leaves an outbound channel in a slot it owns: it holds a credit, its Sump is closed and no fence withholds
its credits (R209, R294). The A-cycle is the die's next with that slot in which the channel has not sent. -/
def State.inject (s : State) (cell slot ch : Nat) : State :=
  let c := s.cell cell
  let x := c.chan ch
  let t := nextSlot (max (s.acycles (cellDie cell)) x.sentAt) slot
  match x.staging with
  | [] => s
  | w :: ws =>
    if x.credits = 0 || x.withheld || x.sump.isSome || (c.outputFor 4 slot ch).isNone || !s.firstDue (cellDie cell) t
      || s.crossFull cell 4 t ch then s
    else
      let s := s.setCell cell (c.setChan ch { x with staging := ws, credits := x.credits - 1, waitRun := 0, cycRec := false
                                                     sentAt := t + 1, evtWords := (x.evtWords + 1) % 2 ^ 48 })
      (s.reach (cellDie cell) t).forward cell 4 t ch w

/-- STREAM_WORD_ARRIVE: the switch of a cell forwards, in `slot`, the word at its input `port`; at LOCAL (4) the word
staged for channel `chan`, or, with its Sump open, spilled words are fetched back. -/
def execStreamWordArrive (cell port slot chan : Nat) (s : State) : Out :=
  .next (
    if s.fatal then s else
    let slot := slot % 8
    if !s.cellOpen cell then s
    else if port = 4 then
      (if ((s.cell cell).chan (chan % 32)).sump.isSome then s.refill 160 (32 * cell + chan % 32) else s.inject cell slot (chan % 32))
    else match s.linkHead cell port slot with
      | none => s
      | some l =>
        if s.crossFull cell port l.due 0 then s
        else
          ((({ s with links := s.links.erase l } : State).reach (cellDie cell) l.due).forward cell port l.due 0 l.word).refill 160
            l.word.circuit)

/-- STREAM_CREDIT_RETURN: a credit on its way back along a circuit reaches its outbound channel (R209). -/
def execStreamCreditReturn (circuit : Nat) (s : State) : Out :=
  .next (
    if s.fatal then s else
    if s.creditFlight.contains circuit then
      let s := { s with creditFlight := s.creditFlight.erase circuit }
      let c := s.cell (circuit / 32)
      let x := c.chan (circuit % 32)
      (s.setCell (circuit / 32) (c.setChan (circuit % 32) { x with credits := x.credits + 1 })).refill 160 circuit
    else s)

/-! ### Steering units (R216 to R220) -/

namespace Steer
def kind (u : Steer) : Nat := bits u.w0 1 0
def cond (u : Steer) : Nat := bits u.w0 4 2
def n0 (u : Steer) : Nat := bits u.w1 15 0
def n1 (u : Steer) : Nat := bits u.w1 31 16
end Steer

/-- The channel attached to a port of a steering unit (R206): `role` 1 inbound, 2 outbound. -/
def Cell.suChan (c : Cell) (su role port : Nat) : Option Nat :=
  (List.range 32).find? (fun k =>
    let e := Tab.get 0 c.chanCfg k
    bits e 1 0 == role && bits e 3 2 == su + 1 && bits e 5 4 == port)

/-- A steering unit's state in a cell. -/
def Cell.steer (c : Cell) (su : Nat) : Steer := if su = 0 then c.su0 else c.su1
def Cell.setSteer (c : Cell) (su : Nat) (u : Steer) : Cell := if su = 0 then { c with su0 := u } else { c with su1 := u }

/-- The first word of an inbound channel removed by a steering unit, and the circuit a credit goes back to. -/
def Cell.popWord (c : Cell) (ch : Nat) : Option (Cell × SWord) :=
  match (c.chan ch).fifo with
  | [] => none
  | w :: ws => some (c.setChan ch { c.chan ch with fifo := ws, waitRun := 0
                                                   evtWords := ((c.chan ch).evtWords + 1) % 2 ^ 48 }, w)

/-- A producer is stopped at an outbound channel whose open Sump has no room: its wait run restarts (R229). -/
def Cell.stall (c : Cell) (ch : Nat) : Cell :=
  match (c.chan ch).sump with
  | some u => if u.room = 0 ∧ !u.stalled then c.setChan ch { c.chan ch with waitRun := 0, sump := some { u with stalled := true } } else c
  | none => c

/-- An outbound channel can take a word: its staging register has room, or its open Sump has. -/
def Cell.canStage (c : Cell) (ch : Nat) : Bool :=
  match (c.chan ch).sump with
  | some u => decide (0 < u.room)
  | none => decide ((c.chan ch).staging.length < 2)

/-- A word given to an outbound channel, as a word of its circuit. -/
def Cell.stageOne (c : Cell) (cell ch : Nat) (w : SWord) : Cell :=
  (stageWords 1 c [(ch, { w with circuit := 32 * cell + ch })]).1

/-- The control record at a unit's ctl input is read as far as it has arrived: its selector, once whole (R218, R219). -/
def takeControl : Nat → Cell → Nat → Nat → List Nat → Cell × Option (Nat × SWord) × List Nat
  | 0, c, _, _, cr => (c, none, cr)
  | k + 1, c, su, ch, cr =>
    match c.popWord ch with
    | none => (c, none, cr)
    | some (c, w) =>
      let u := c.steer su
      let sel := match u.sel with | some v => v | none => leAt w.data 0 4 % 4
      let cr := cr ++ [w.circuit]
      if w.eor then (c.setSteer su { u with sel := none }, some (sel, w), cr)
      else takeControl k (c.setSteer su { u with sel := some sel }) su ch cr

/-- One record of a unit moved as far as its FIFOs and its outputs allow: `outs` are the channels each word goes to. -/
def moveRecord : Nat → Nat → Cell → Nat → Nat → List Nat → List Nat → Cell × List Nat
  | 0, _, c, _, _, _, cr => (c, cr)
  | k + 1, cell, c, su, inCh, outs, cr =>
    if !outs.all c.canStage then (if (c.chan inCh).fifo = [] then c else outs.foldl Cell.stall c, cr)
    else match c.popWord inCh with
      | none => (c, cr)
      | some (c, w) =>
        let c := outs.foldl (fun c o => c.stageOne cell o w) c
        let cr := cr ++ [w.circuit]
        if w.eor then (c.setSteer su { c.steer su with cur := none }, cr) else moveRecord k cell c su inCh outs cr

/-- The counters of the records on a unit's two sides (R222). -/
def recCtr : Nat → Nat → CellCtr
  | 0, 0 => .suEvtRec00 | 0, _ => .suEvtRec01 | _, 0 => .suEvtRec10 | _, _ => .suEvtRec11

/-- A record begins: its choice stands until its last word. -/
def Cell.beginRecord (c : Cell) (su choice : Nat) (sides : List Nat) : Cell :=
  let u := c.steer su
  let c := c.setSteer su { u with cur := some choice, recNo := u.recNo + 1, lastIn := choice }
  sides.foldl (fun c k => c.count (recCtr su k) 1) c

/-- The side COUNT gives a record (R218). -/
def Steer.countSide (u : Steer) : Nat := if u.recNo % (u.n0 + u.n1) < u.n0 then 0 else 1

/-- The sides of a SPLIT's choice. -/
def splitSides : Nat → List Nat
  | 0 => [0] | 1 => [1] | 2 => [] | _ => [0, 1]

/-- A control record taken for a unit of `cell`: the state, its cell after it, and the selector once whole. -/
def State.control (s : State) (cell su : Nat) : State × Option (Nat × SWord) :=
  let c := s.cell cell
  match c.suChan su 1 2 with
  | none => (s, none)
  | some ch =>
    let (c, r, cr) := takeControl 128 c su ch []
    ((s.owe cr).setCell cell c, r)

/-- SPLIT_RECORD: a SPLIT forwards its record, as far as words and room allow (R218, R219). -/
def execSplitRecord (cell su : Nat) (s : State) : Out :=
  .next (
    if s.fatal then s else
    let su := su % 2
    let c := s.cell cell
    let u := c.steer su
    if !s.cellRuns cell || u.kind ≠ 1 then s
    else match c.suChan su 1 0 with
      | none => s
      | some inCh =>
        let s :=
          if u.cur.isSome then s
          else if u.cond = 1 then
            let (s, r) := s.control cell su
            match r with
            | some (sel, _) => s.setCell cell ((s.cell cell).beginRecord su sel (splitSides sel))
            | none => s
          else if (c.chan inCh).fifo = [] then s
          else
            let side := if u.cond = 2 then 3 else u.countSide
            s.setCell cell (c.beginRecord su side (splitSides side))
        let s := s.roomCell cell
        let c := s.cell cell
        match (c.steer su).cur with
        | none => s
        | some k =>
          let (c, cr) := moveRecord 128 cell c su inCh ((splitSides k).filterMap (c.suChan su 2)) []
          ((s.owe cr).setCell cell c).settleSumps cell)

/-- MERGE_RECORD: a MERGE forwards a record from the input its condition chooses; a selector of 2 or 3 is a fault
(R218 to R220). With both inputs holding words before any record, ARRIVAL's choice is a free value. -/
def execMergeRecord (cell su : Nat) (s : State) : Out :=
  .next (
    if s.fatal then s else
    let su := su % 2
    let c := s.cell cell
    let u := c.steer su
    if !s.cellRuns cell || u.kind ≠ 2 then s
    else match c.suChan su 1 0, c.suChan su 1 1, c.suChan su 2 0 with
      | some in0, some in1, some out =>
        let has := fun ch => decide ((c.chan ch).fifo ≠ [])
        let start := fun (s : State) (k : Nat) => s.setCell cell ((s.cell cell).beginRecord su k [k])
        let s :=
          if u.cur.isSome then s
          else if u.cond = 1 then
            let (s, r) := s.control cell su
            match r with
            | some (sel, w) =>
              if 2 ≤ sel then
                s.jobFault .steerCtrl w.job .badCommand { noRec with node := cell, unit := 3, idx0 := su, code := sel }
              else start s sel
            | none => s
          else if u.cond = 3 then
            if has in0 && has in1 then
              (if u.lastIn = 2 then
                let (n, s) := s.drawFree
                start s (Config.freePick n 2)
              else start s (1 - u.lastIn))
            else if has in0 then start s 0
            else if has in1 then start s 1
            else s
          else if has (if u.countSide = 0 then in0 else in1) then start s u.countSide
          else s
        let s := s.roomCell cell
        let c := s.cell cell
        (match (c.steer su).cur with
         | none => s
         | some k =>
           let (c, cr) := moveRecord 128 cell c su (if k = 0 then in0 else in1) [out] []
           ((s.owe cr).setCell cell c).settleSumps cell)
      | _, _, _ => s)

/-! ### The wait graph (R223) -/

/-- An edge of the wait graph at a node: the channel of the node's cell, and whether it is a credit edge. -/
structure WaitEdge where
  chan : Nat
  credit : Bool
  deriving DecidableEq, Repr

/-- An outbound channel on which a producer waits for a credit. -/
def Cell.creditWait (c : Cell) (ch : Nat) : Bool :=
  let x := c.chan ch
  x.sump.isNone && x.credits == 0 && decide (2 ≤ x.staging.length)

/-- The streams an MMA that is late lacks words of: for its next k-step where the context is the active one, else for the
k-steps it needs to become READY (R103, R104). -/
def Cell.mtLacks (c : Cell) (f : ArrFeat) (k : Nat) : List Nat :=
  let x := c.mtx k
  let n := if c.mtSel = k then 1 else match x.cmd with
    | some w => min 4 ((Mma.ofWords w).kLen - x.kpos)
    | none => 1
  (c.lateOps f x).filterMap (fun o =>
    if o.2.2.2 < n && decide ((c.chan o.1.ch).fifo.length < o.1.lacks o.2.1 o.2.2.1) then some o.1.ch else none)

/-- The inputs a steering unit with no record in progress waits for. -/
def Cell.suLacks (c : Cell) (su : Nat) : List Nat :=
  let u := c.steer su
  let empty := fun (p : Nat) => match c.suChan su 1 p with
    | some ch => if (c.chan ch).fifo = [] then [ch] else []
    | none => []
  match u.cur with
  | some k => if u.kind = 1 then empty 0 else empty k
  | none =>
    if u.kind = 0 then []
    else if u.cond = 1 then empty 2
    else if u.kind = 1 then empty 0
    else if u.cond = 3 then (if empty 0 ≠ [] ∧ empty 1 ≠ [] then empty 0 ++ empty 1 else [])
    else empty u.countSide

/-- The edges of a node of a cell: 0 to 3 its matrix contexts, 4 to 7 its vector contexts, 8 and 9 its steering units
(R223). -/
def Cell.nodeEdges (c : Cell) (f : ArrFeat) (node : Nat) : List WaitEdge :=
  let data := fun (l : List Nat) => l.map (fun ch => { chan := ch, credit := false : WaitEdge })
  let cred := fun (l : List Nat) => (l.filter c.creditWait).map (fun ch => { chan := ch, credit := true : WaitEdge })
  if node < 4 then (if (c.mtx node).st = .late then data (c.mtLacks f node) else [])
  else if node < 8 then
    let x := c.vtx (node - 4)
    match x.tx with
    | (ch, _) :: _ => cred [ch]
    | [] =>
      if x.st ≠ .late then []
      else match c.vtFetched f x with
        | .instr i =>
          let ch := i.imm % 32
          if i.op = 0x16 ∧ (c.chan ch).fifo = [] then data [ch] else []
        | _ => []
  else
    let su := node - 8
    let u := c.steer su
    let outs := match u.cur with
      | some k => if u.kind = 1 then (splitSides k).filterMap (c.suChan su 2) else (c.suChan su 2 0).toList
      | none => []
    match c.suLacks su with
    | [] => cred outs
    | l => data l

/-- An index in the same run of commands as `ptr`, between two ends, satisfies `names`. -/
def sameRun (n ptr : Nat) (isEnd names : Nat → Bool) : Bool :=
  (List.range n).any (fun i => names i &&
    !(List.range n).any (fun j => isEnd j && ((decide (i ≤ j) && decide (j < ptr)) || (decide (ptr ≤ j) && decide (j < i)))))

/-- A node of a cell that names a channel in its work, or is attached to it (R206, R211): the consumers of an inbound
channel, the producers into an outbound one. -/
def Cell.nodesOf (c : Cell) (ch : Nat) : List Nat :=
  let e := Tab.get 0 c.chanCfg ch
  match bits e 3 2 with
  | 1 => [8]
  | 2 => [9]
  | _ =>
    let mts := if bits e 1 0 = 1 then (List.range 4).filter (fun k =>
        let x := c.mtx k
        x.job.isSome && sameRun c.cmdCount x.ptr (fun i => (c.mtCmd i).getD 0 0 % 256 == 0) (fun i =>
          let w := c.mtCmd i
          let m := Mma.ofWords w
          w.getD 0 0 % 256 == 1 && ((m.srcA && m.aChan == ch) || (m.srcB && m.bChan == ch)))) else []
    let vts := (List.range 4).filter (fun k =>
        let x := c.vtx k
        x.job.isSome && sameRun c.progCount x.idx (fun i => (c.vtInstr i).op == 0) (fun i =>
          let v := c.vtInstr i
          if bits e 1 0 = 1 then v.op == 0x16 && v.imm % 32 == ch
          else (v.op == 0x17 && v.imm % 32 == ch) || (v.op == 0x09 &&
            (let p : PBlk := { w := (List.range 16).map (fun j => c.loc.readLe (v.imm % 65536 + 4 * j) 4) }
             (p.dest 0 == 2 && bits (p.desc 0 0) 4 0 == ch) || (p.dest 1 == 2 && bits (p.desc 1 0) 4 0 == ch)))))
    mts ++ vts.map (· + 4)

/-- The job of a context node. -/
def Cell.nodeJob (c : Cell) (node : Nat) : Option Nat :=
  if node < 4 then (c.mtx node).job else if node < 8 then (c.vtx (node - 4)).job else none

/-! ### The stall counters (R222) -/

/-- A producer of the cell stands before an open Sump that has no room. -/
def Cell.spillWait (c : Cell) (ch : Nat) : Bool :=
  match (c.chan ch).sump with
  | some u => u.stalled && u.room == 0
  | none => false

/-- `n` A-cycles from cycle `t` on of a channel's counters; `waits` says that a node waits on it (R222), `frozen` that its wait
run stands still (R224). -/
def Cell.clockChan (c : Cell) (t n ch : Nat) (waits frozen : Bool) (x : Chan) : Chan :=
  let up := fun (v k : Nat) => (v + k) % 2 ^ 48
  let run := fun (b : Bool) => if b && !frozen then x.waitRun + n else x.waitRun
  if bits (Tab.get 0 c.chanCfg ch) 1 0 = 2 then
    let staged := decide (x.staging ≠ [])
    let lost := ((List.range n).filter (fun i => (c.outputFor 4 ((t + i) % 8) ch).isNone)).length
    { x with cycCredit := up x.cycCredit (if staged && x.credits == 0 then n else 0)
             cycSlot := up x.cycSlot (if staged && x.credits != 0 then lost else 0)
             waitRun := run ((staged && x.credits == 0) || c.spillWait ch) }
  else { x with cycEmpty := up x.cycEmpty (if waits then n else 0), waitRun := run waits }

/-- `n` A-cycles of a cell's channels and steering units. -/
def Cell.clockStreams (c : Cell) (f : ArrFeat) (t n : Nat) (frozen : Nat → Bool) : Cell :=
  if c.chans = [] then c
  else
    let waits := (List.range 10).flatMap (fun k => (c.nodeEdges f k).filterMap (fun e => if e.credit then none else some e.chan))
    let ctl := fun (su : Nat) => if (c.steer su).kind ≠ 0 ∧ (c.steer su).cond = 1 ∧ (c.steer su).cur.isNone ∧ c.suLacks su ≠ [] then n else 0
    (({ c with chans := Tab.update {} c.chans (fun ch x => c.clockChan t n ch (waits.contains ch) (frozen ch) x) }).count .suCycCtl0 (ctl 0)).count
      .suCycCtl1 (ctl 1)

/-! ### Probes (R224 to R226, R231) -/

/-- The circuit number of no circuit: a probe that has crossed no credit edge carries it. -/
def noCircuit : Nat := 0x1FFFF

/-- The circuit of an edge at a cell. -/
def State.edgeCircuit (s : State) (cell : Nat) (e : WaitEdge) : Option Nat :=
  if e.credit then some (32 * cell + e.chan) else s.circuitInto cell e.chan

/-- Where an edge leads: the far channel of a credit edge's circuit, the source channel of a data edge's. -/
def State.edgeTarget (s : State) (cell : Nat) (e : WaitEdge) : Option (Nat × Nat) :=
  if e.credit then s.farEnd cell e.chan else (s.circuitInto cell e.chan).map (fun n => (n / 32, n % 32))

/-- A probe sent along an edge: its tag names the channel it arrives at. -/
def State.sendProbe (s : State) (cell : Nat) (e : WaitEdge) (origin lowest edges : Nat) : State :=
  match s.edgeTarget cell e, s.edgeCircuit cell e with
  | some (tc, tch), some n =>
    s.send (s.cellPacket cell tc tch (.probe origin (if e.credit then min lowest n else lowest) edges false))
  | _, _ => s

/-- CH_WAIT_RUN does not advance here (R224). -/
def State.runFrozen (s : State) (cell ch : Nat) : Bool :=
  ((s.cell cell).chan ch).withheld || (s.cell cell).halted || s.arrayHeld || decide (3 ≤ s.sag) ||
    (match (s.galleryOf cell).bind s.gallery? with | some g => g.busy | none => false)

/-- SUMP_PROBE_SEND: the wait run of a channel on an edge reaches its next multiple of 8,192 and its node sends a probe
along that edge (R225). -/
def execSumpProbeSend (cell chan : Nat) (s : State) : Out :=
  .next (
    if s.fatal then s else
    let ch := chan % 32
    let c := s.cell cell
    let es := (List.range 10).flatMap (fun n => (c.nodeEdges s.arrFeat n).filter (fun e => e.chan == ch))
    match es with
    | e :: _ =>
      if !s.cellOpen cell || s.runFrozen cell ch then s
      else
        let x := c.chan ch
        let s := s.setCell cell (c.setChan ch { x with waitRun := (x.waitRun / 8192 + 1) * 8192 })
        match s.edgeCircuit cell e with
        | some n => s.sendProbe cell e n noCircuit 1
        | none => s
    | [] => s)

/-- The jobs of the contexts of the cycle through a circuit: every context reached along waiting edges from its
producer. -/
def State.cycleJobs (s : State) : Nat → List (Nat × Nat) → List (Nat × Nat) → List Nat
  | 0, _, seen => seen.filterMap (fun n => (s.cell n.1).nodeJob n.2)
  | _, [], seen => seen.filterMap (fun n => (s.cell n.1).nodeJob n.2)
  | k + 1, n :: rest, seen =>
    if seen.contains n then s.cycleJobs k rest seen
    else
      let next := ((s.cell n.1).nodeEdges s.arrFeat n.2).flatMap (fun e => match s.edgeTarget n.1 e with
        | some (c, ch) => ((s.cell c).nodesOf ch).map (fun m => (c, m))
        | none => [])
      s.cycleJobs k (rest ++ next) (seen ++ [n])

/-- Jobs that will complete with SUMP_OPENED where they would with OK (R227). -/
def State.markSump (s : State) (jobs : List Nat) : State :=
  jobs.foldl (fun s j => s.updJob j (fun b => { b with sumpSeen := true })) s

/-- The jobs of the contexts that produce or consume a circuit. -/
def State.circuitJobs (s : State) (circuit : Nat) : List Nat :=
  let here := fun (cell ch : Nat) => ((s.cell cell).nodesOf ch).filterMap (s.cell cell).nodeJob
  here (circuit / 32) (circuit % 32) ++ (match s.farEnd (circuit / 32) (circuit % 32) with
    | some (c, ch) => here c ch
    | none => [])

/-- The Sump opens on a circuit whose producer still waits for a credit, with at most eight open in the gallery: the
staged words are spilled (R225 to R228). -/
def State.openSump (s : State) (circuit edges : Nat) : State :=
  let cell := circuit / 32
  let ch := circuit % 32
  let c := s.cell cell
  let g := s.galleryOf cell
  if !c.creditWait ch || decide (8 ≤ (s.openSumps g).length) then s
  else
    let x := c.chan ch
    let jobs := s.cycleJobs 4096 ((c.nodesOf ch).map (fun n => (cell, n))) []
    let u : Sump := { spill := [], edges := edges, spilled := 0, stored := 0, places := [], room := 0, jobs := jobs.eraseDups }
    let s := (s.setCell cell (c.setChan ch { x with sump := some u, staging := [], evtSump := (x.evtSump + 1) % 2 ^ 48 })).roomCell cell
    let s := s.setCell cell (stageWords x.staging.length (s.cell cell) (x.staging.map (fun w => (ch, w)))).1
    let s := s.markSump (s.circuitJobs circuit)
    let s := s.traceEv 8 c.owner 0 [circuit, 0]
    (s.record .sumpOpened { noRec with node := cell, unit := 3, gallery := g, idx0 := ch, code := edges
                                       tenant := c.owner }).settleSumps cell

/-- A cycle completed at its origin node (R225, R231). -/
def State.cycleFound (s : State) (cell : Nat) (e : WaitEdge) (origin lowest edges : Nat) : State :=
  if lowest = noCircuit then s
  else if s.feature 7 then
    if e.credit ∧ lowest = origin then s.openSump lowest edges
    else s.send (s.cellPacket cell (lowest / 32) (lowest % 32) (.probe origin lowest edges true))
  else
    let c := s.cell (lowest / 32)
    let x := c.chan (lowest % 32)
    if x.cycRec then s
    else
      (s.setCell (lowest / 32) (c.setChan (lowest % 32) { x with cycRec := true })).record .streamCycle
        { noRec with node := lowest / 32, unit := 3, gallery := s.galleryOf cell, idx0 := lowest % 32, code := edges
                     tenant := c.owner }

/-- PROBE arrives at a node: on return to its origin the cycle is complete; else it goes on along every edge whose
channel has waited 8,192 A-cycles (R225, R236). -/
def execProbe (p : Packet) (s : State) : Out :=
  .next (
    if s.fatal then s else
    match p.body with
    | .probe origin lowest edges false =>
      if !s.cellOpen p.dst then s
      else s.arrive p (fun s =>
        let c := s.cell p.dst
        let es := ((c.nodesOf (p.tag % 32)).flatMap (c.nodeEdges s.arrFeat)).filter
          (fun e => decide (8192 ≤ (c.chan e.chan).waitRun))
        match es.find? (fun e => s.edgeCircuit p.dst e == some origin) with
        | some e => s.cycleFound p.dst e origin lowest edges
        | none => if 255 ≤ edges then s else es.foldl (fun s e => s.sendProbe p.dst e origin lowest (edges + 1)) s)
    | _ => s)

/-- PROBE_OPEN_REQUEST reaches the producer of the lowest circuit (R225). -/
def execProbeOpenRequest (p : Packet) (s : State) : Out :=
  .next (
    if s.fatal then s else
    match p.body with
    | .probe _ lowest edges true =>
      if !s.cellOpen p.dst then s
      else s.arrive p (fun s => if s.feature 7 ∧ lowest / 32 = p.dst then s.openSump lowest edges else s)
    | _ => s)

/-- An open Sump closed with its record (R226, R227). -/
def State.closeSump (s : State) (cell ch : Nat) : State :=
  let c := s.cell cell
  let x := c.chan ch
  match x.sump with
  | none => s
  | some u =>
    let s := s.markSump (s.circuitJobs (32 * cell + ch))
    ((s.setCell cell (c.setChan ch { x with sump := none })).traceEv 8 c.owner 0 [32 * cell + ch, u.spilled]).record .sumpClosed
      { noRec with node := cell, unit := 3, gallery := s.galleryOf cell, idx0 := ch, code := u.spilled, tenant := c.owner }

/-- SUMP_CLOSE: the spill holds no word and the producer holds a credit (R226). -/
def execSumpClose (cell chan : Nat) (s : State) : Out :=
  .next (
    if s.fatal then s else
    let x := (s.cell cell).chan (chan % 32)
    match x.sump with
    | some u => if u.spill = [] ∧ 0 < x.credits ∧ s.cellOpen cell then s.closeSump cell (chan % 32) else s
    | none => s)

/-- Jobs bound while Sumps of a cell's gallery are open are marked too (R227). -/
def State.markOpen (s : State) (cell : Nat) : State :=
  (s.openSumps (s.galleryOf cell)).foldl (fun s u => s.markSump (s.circuitJobs u.1)) s

/-- SUMP_EXHAUSTED: a producer has stood before a full region for a run of 8,192 A-cycles; the cycle's jobs end (R229). -/
def execSumpExhausted (cell chan : Nat) (s : State) : Out :=
  .next (
    if s.fatal then s else
    let s := s.roomCell cell
    let ch := chan % 32
    match ((s.cell cell).chan ch).sump with
    | some u =>
      if u.room ≠ 0 || !u.stalled || decide (((s.cell cell).chan ch).waitRun < 8192) || s.runFrozen cell ch then s
      else
        let seq := s.nextSeq
        let s := s.record .sumpExhausted { noRec with node := cell, unit := 3, gallery := s.galleryOf cell, idx0 := ch
                                                      job := u.jobs.head?, tenant := (s.cell cell).owner
                                                      status := Status.overflowFault.code } (!u.jobs.isEmpty)
        u.jobs.foldl (fun s j => s.stopJob (some j) .overflowFault seq) s
    | none => s)

end Sys2Proof.Machine
end

