-- ==== Sys2Proof/Machine/Signals.lean ====
section
/-!
DEFINITION. Sys2Proof/Machine/Signals.lean: signals and message queues (ch. 10): the operations at a home, waits and
wakes of contexts, claiming and abandoning, the message logic and the receive queue.
-/
namespace Sys2Proof.Machine
open Sys2Proof

/-! ### The signal at its home (R250 to R258) -/

/-- A signal. -/
def State.signal (s : State) (n : Nat) : Signal := Tab.get {} s.sigs n
def State.setSignal (s : State) (n : Nat) (g : Signal) : State := { s with sigs := Tab.put {} s.sigs n g }

/-- The tenant whose range contains a signal, 0 where none does (R250, R251). -/
def State.sigTenant (s : State) (n : Nat) : Nat :=
  ((List.range 17).find? (fun t =>
    let r := s.reg (rTenSig t)
    decide (bits r 13 0 ≤ n) && decide (n < bits r 13 0 + bits r 30 16))).getD 0

/-- The counters of a home (R274), by place: 0 operations, 1 wakes, 2 retries, 3 abandoned. -/
def sigCtr : Nat → CellCtr
  | 0 => .sigEvtOps | 1 => .sigEvtWakes | 2 => .sigEvtRetry | _ => .sigEvtAbandon

/-- A counter of a signal's home advanced; `home` is 0 for Hub N and n + 1 for cell n. -/
def State.countHome (s : State) (home k n : Nat) : State :=
  if home = 0 then s.regAdd (rHubSig k) n
  else s.setCell (home - 1) ((s.cell (home - 1)).count (sigCtr k) n)

/-- A wake sent from a signal's home to an issuer (R264). -/
def State.wake (s : State) (home sig count : Nat) (iss : Issuer) (o : WakeOutcome) : State :=
  let b := Body.wake o sig count iss
  s.send (if home = 0 then s.hubPacket .ferryman 0 iss.node iss.tag b else s.cellPacket (home - 1) iss.node iss.tag b)

/-- The queued waiters whose condition holds are released, in the order they were queued (R255). -/
def State.testWaiters (s : State) (sig : Nat) : State :=
  let g := s.signal sig
  let (ok, rest) := g.waiters.partition (fun w => decide (w.value ≤ g.counter))
  let s := s.setSignal sig { g with waiters := rest }
  let s := if ok = [] then s else s.countHome g.home 1 ok.length
  ok.foldl (fun s w => s.wake g.home sig g.counter w.iss .satisfied) s

/-- A counter given a value, its saturation record re-armed, waiters tested. -/
def State.giveSignal (s : State) (sig value owner : Nat) (st : SigSt) : State :=
  (s.setSignal sig { s.signal sig with counter := value, owner := owner, st := st, satRec := false }).testWaiters sig

/-- An ADD applied to a signal that is not ABANDONED (R255). -/
def State.addSignal (s : State) (sig v : Nat) : State :=
  let g := s.signal sig
  let sum := g.counter + v
  let sat := decide (0xFFFFFFFF < sum)
  let s := s.setSignal sig { g with counter := min sum 0xFFFFFFFF, satRec := g.satRec || sat }
  let s := if sat && !g.satRec then s.record .sigSaturated
    { noRec with node := if g.home = 0 then hubN else g.home - 1, unit := 5, tenant := s.sigTenant sig, idx0 := sig } else s
  s.testWaiters sig

/-- A job claims a signal (R253). -/
def State.claimSignal (s : State) (slot sig : Nat) : State := s.giveSignal sig 0 slot .live

/-- A signal abandoned: every waiter is released with ABANDONED (R256). -/
def State.abandonSignal (s : State) (sig : Nat) : State :=
  let g := s.signal sig
  let s := s.setSignal sig { g with st := .abandoned, waiters := [] }
  let s := if g.waiters = [] then s else (s.countHome g.home 1 g.waiters.length).countHome g.home 3 g.waiters.length
  g.waiters.foldl (fun s w => s.wake g.home sig g.counter w.iss .abandoned) s

/-- A signal made FREE, its counter and waiters kept (R253, R254). -/
def State.freeSignal (s : State) (sig : Nat) : State :=
  s.setSignal sig { s.signal sig with st := .free, owner := 0 }

/-- The waits a home holds. -/
def State.waitersAt (s : State) (home : Nat) : List Waiter :=
  (s.sigs.filter (fun g => g.2.home == home)).flatMap (fun g => g.2.waiters)

/-- A home's waiter pool has no entry left for a tenant: 32 at a cell, 4,096 at Hub N, there 240 for each tenant and 256
for the owner in sealed tenancy (R262, R540). -/
def State.poolFull (s : State) (home tenant : Nat) : Bool :=
  let ws := s.waitersAt home
  if home ≠ 0 then decide (32 ≤ ws.length)
  else if s.sealed then
    decide ((if tenant = 0 then 256 else 240) ≤ (ws.filter (fun (w : Waiter) => w.tenant == tenant)).length)
  else decide (4096 ≤ ws.length)

/-- The signals homed in a cell moved to the Hub N store; state, counters and waiters stay (R263). -/
def State.homeToHub (s : State) (cell : Nat) : State :=
  let c := s.cell cell
  let s := c.homed.foldl (fun s n => s.setSignal n { s.signal n with home := 0 }) s
  s.setCell cell { s.cell cell with homed := [] }

/-! ### The message logic's and the Slipway port's part in an operation (R267, R270, R304) -/

/-- A cell's message logic changed. -/
def State.updMsg (s : State) (cell : Nat) (f : MsgLogic → MsgLogic) : State :=
  let c := s.cell cell
  s.setCell cell { c with msg := c.msg.map f }

/-- Entries freed by an increase of sig_release: each that came credited returns a credit (R270). -/
def State.releaseEntries (s : State) (cell d : Nat) : State :=
  match (s.cell cell).msg with
  | none => s
  | some m =>
    let n := min d (m.nA - m.nR)
    let s := s.updMsg cell (fun m => { m with nR := m.nR + n, inbox := m.inbox.drop n })
    (m.inbox.take n).foldl (fun s e =>
      if e.2.2 then s.send (s.cellPacket cell e.1 0 (.sig .add e.2.1 1 { node := cell, unit := 8, tag := 0 })) else s) s

/-- The next `d` records of a gallery's request table queued (R304). -/
def Slipway.enqueue (p : Slipway) (d : Nat) : Slipway :=
  { p with nG := p.nG + d, queue := p.queue ++ (List.range d).map (fun i => (p.nG + i) % max 1 p.len) }

/-- What an increase of a signal's counter starts: messages due, entries freed (by ADD only), Slipway records queued. The message
logic of a parked gallery takes its part when it is restored (R267, R270, R273). -/
def State.sigEffects (s : State) (sig old : Nat) (add : Bool) : State :=
  let g := s.signal sig
  let d := g.counter - old
  if d = 0 then s
  else
    let s :=
      if g.home = 0 then
        { s with gals := Tab.update none s.gals (fun _ g => g.map (fun x =>
            { x with saved := x.saved.map (fun c => (c.1, { c.2 with msg := c.2.msg.map (fun m =>
                { m with due := if m.sigSend = sig then m.due + d else m.due
                         freed := if m.sigRelease = sig ∧ add then m.freed + d else m.freed }) })) })) }
      else match (s.cell (g.home - 1)).msg with
        | some m =>
          let s := if m.sigSend = sig then s.updMsg (g.home - 1) (fun m => { m with due := m.due + d }) else s
          if m.sigRelease = sig ∧ add then s.releaseEntries (g.home - 1) d else s
        | none => s
    { s with gals := Tab.update none s.gals (fun _ g => g.map (fun x =>
        { x with slip := x.slip.map (fun p => if p.sigGo = sig then p.enqueue d else p) })) }

/-- The job of a context that issued an operation, while it is still bound to it (R259). -/
def State.issuerJob (s : State) (iss : Issuer) : Option Nat :=
  let c := s.cell iss.node
  if iss.unit < 4 then (if (c.mtx iss.unit).bindTag = iss.tag then (c.mtx iss.unit).job else none)
  else if iss.unit < 8 then (if (c.vtx (iss.unit - 4)).bindTag = iss.tag then (c.vtx (iss.unit - 4)).job else none)
  else none

/-- An operation applied at its signal's home (R255, R259, R262). A SET by the host or by hand frees an ABANDONED signal
(R256). -/
def State.sigOp (s : State) (op : SigOp) (sig v : Nat) (iss : Issuer) (tenant src : Nat) (cls : SrcClass) : State :=
  let g := s.signal sig
  if tenant ≠ 0 ∧ tenant ≠ s.sigTenant sig then
    let s := s.record .sigAccess
      { noRec with node := src, unit := 5, tenant := tenant, idx0 := sig, extra1 := cls.ctorIdx, job := s.issuerJob iss
                   status := if (s.issuerJob iss).isSome then Status.badCommand.code else 0 } (s.issuerJob iss).isSome
    s.wake g.home sig g.counter iss .refused
  else
    let s := s.countHome g.home 0 1
    match op with
    | .set =>
      if g.st ≠ .abandoned then (s.giveSignal sig v g.owner g.st).sigEffects sig g.counter false
      else if cls = .host then (s.giveSignal sig v 0 .free).sigEffects sig g.counter false
      else s
    | .add => if g.st ≠ .abandoned then (s.addSignal sig v).sigEffects sig g.counter true else s
    | .wait =>
      if g.st = .abandoned then ((s.countHome g.home 1 1).countHome g.home 3 1).wake g.home sig g.counter iss .abandoned
      else if v ≤ g.counter then (s.countHome g.home 1 1).wake g.home sig g.counter iss .satisfied
      else if s.poolFull g.home tenant then (s.countHome g.home 2 1).wake g.home sig g.counter iss .retry
      else s.setSignal sig { g with waiters := g.waiters ++ [{ value := v, tenant := tenant, iss := iss }] }

/-- An operation of a block of Hub N, or of an engine of Hub S, applied at once at its home through the directory (R258,
R261). -/
def State.hubSignal (s : State) (op : SigOp) (sig v tenant : Nat) (cls : SrcClass) (iss : Issuer) : State :=
  s.sigOp op (sig % 16384) (v % 2 ^ 32) iss tenant (if iss.unit = 0xE then hubS else hubN) cls

/-- A SIG packet arrives: at its signal's home it is applied; at Hub N and at a cell that is no longer the home it goes on
by the directory (R261, R263). -/
def State.sigArrive (s : State) (p : Packet) (want : SigOp) : State :=
  match p.body with
  | .sig op sig v iss =>
    let sig := sig % 16384
    let home := (s.signal sig).home
    if op ≠ want ∨ !(s.goodNode p.dst) ∨ (s.goodCell p.dst ∧ !s.cellOpen p.dst) then s
    else s.arrive p (fun s =>
      if (p.dst = hubN ∧ home = 0) ∨ p.dst + 1 = home then s.sigOp op sig v iss p.tenant p.src p.cls
      else if p.dst = hubN then s.send { p with dst := home - 1 }
      else s.send { p with dst := hubN })
  | _ => s

/-- SIG_SET (R255). -/
def execSigSet (p : Packet) (s : State) : Out := .next (if s.fatal then s else s.sigArrive p .set)

/-- SIG_ADD (R255). -/
def execSigAdd (p : Packet) (s : State) : Out := .next (if s.fatal then s else s.sigArrive p .add)

/-- SIG_WAIT (R255). -/
def execSigWait (p : Packet) (s : State) : Out := .next (if s.fatal then s else s.sigArrive p .wait)

/-! ### Wakes of contexts (R256, R259, R262) -/

/-- A context stopped by a wake: its job stops with a status. -/
def State.wakeStop (s : State) (cell unit : Nat) (st : Status) : State :=
  let c := s.cell cell
  if unit < 4 then (s.setCell cell (c.mtStop unit)).stopJob (c.mtx unit).job st 0
  else (s.setCell cell (c.vtStop (unit - 4))).stopJob (c.vtx (unit - 4)).job st 0

/-- A wake reaches a context. A wake whose issuer no longer waits, or waits under a later binding, is discarded (R239, R264). -/
def State.ctxWake (s : State) (cell unit sig tag : Nat) (o : WakeOutcome) : State :=
  let c := s.cell cell
  let w := if unit < 4 then (c.mtx unit).wait else (c.vtx (unit - 4)).wait
  let mine := tag == (if unit < 4 then (c.mtx unit).bindTag else (c.vtx (unit - 4)).bindTag)
  let waits := match w with | some w => mine && w.sig == sig | none => false
  match o with
  | .satisfied =>
    if !waits then s
    else if unit < 4 then
      s.setCell cell (c.mtSettle s.arrFeat unit { (c.mtx unit).advance with wait := none })
    else
      let x := c.vtx (unit - 4)
      s.setCell cell ((c.vtSettle (unit - 4) { x with wait := none, instr := none, idx := x.idx + 1 }).count .vtEvtInstr 1)
  | .abandoned => if waits then s.wakeStop cell unit .abandoned else s
  | .retry =>
    let again := fun (w : CtxWait) => { w with retry := true }
    if !waits then s
    else if unit < 4 then s.setCell cell (c.setMtx unit { c.mtx unit with wait := (c.mtx unit).wait.map again })
    else s.setCell cell (c.setVtx (unit - 4) { c.vtx (unit - 4) with wait := (c.vtx (unit - 4)).wait.map again })
  | .refused =>
    if (s.issuerJob { node := cell, unit := unit, tag := tag }).isSome then s.wakeStop cell unit .badCommand else s

/-- A context's WAIT that was answered RETRY sent again (R262); `ctx` 0 to 3 is a matrix, 4 to 7 a vector context. -/
def State.ctxRetry (s : State) (cell ctx : Nat) : State :=
  let c := s.cell cell
  let w := if ctx < 4 then (c.mtx ctx).wait else (c.vtx (ctx - 4)).wait
  match w with
  | some w =>
    if !w.retry || !s.cellOpen cell || decide (8 ≤ ctx) then s
    else
      let w' : CtxWait := { w with retry := false }
      let c := if ctx < 4 then c.setMtx ctx { c.mtx ctx with wait := some w' }
        else c.setVtx (ctx - 4) { c.vtx (ctx - 4) with wait := some w' }
      (s.setCell cell c).cellSignal cell ctx .wait w.sig w.value
        (if ctx < 4 then (c.mtx ctx).bindTag else (c.vtx (ctx - 4)).bindTag)
  | none => s

/-! ### Messages (R265 to R273) -/

/-- The credits all senders of a cell's gallery hold for its queue (R265, R269). -/
def State.reserved (s : State) (cell : Nat) : Nat :=
  let g := s.galleryOf cell
  (s.cells.flatMap (fun c => match c.2.msg with
    | some m => if s.galleryOf c.1 = g then (m.credits.filter (fun e => e.dst == cell)).map (fun (e : Credit) => e.count) else []
    | none => [])).sum

/-- The word 0 and body of an inbox entry (R266). -/
def inboxEntry (p : Packet) (peerDev : Nat) (peer : Bool) (body : List Byte) : List Byte :=
  leBytes 4 (p.src % 4096 + 2 ^ 12 * p.cls.ctorIdx + 2 ^ 16 * (peerDev % 4096) + 2 ^ 28 * peer.toNat)
    ++ (body ++ List.replicate 28 0#8).take 28

/-- The answer of a queue that does not take a message. -/
def State.msgNak (s : State) (p : Packet) (st : MStatus) : State :=
  (s.setCell p.dst ((s.cell p.dst).count .msgEvtNak 1)).send (s.respTo p (.msgNak st))

/-- A sender cell's message has been taken: after an uncredited one it goes on with the next entry (R267); an
engine's MSG command has done its work (R359). -/
def State.msgTaken (s : State) (p : Packet) : State :=
  if s.goodCell p.src then
    s.updMsg p.src (fun m => { m with held := m.held.filter (fun h => h.1.tag != p.tag || h.1.dst != p.dst) })
  else if p.cls = .engine then
    { s with engines := s.engines.map (fun e => (e.1, e.2.map (fun c =>
        if c.id % 65536 = p.tag ∧ c.sent then { c with fin := some (0, 0), again := false } else c))) }
  else s

/-- A message put into a cell's inbox: readable once sig_arrive has advanced (R270). -/
def State.msgAccept (s : State) (cell : Nat) (m : MsgLogic) (p : Packet) (csig : Nat) (credited : Bool) (peerDev : Nat)
    (peer : Bool) (body : List Byte) : State :=
  let c := (s.cell cell).putLocal (m.inboxBase + 32 * (m.nA % 16)) (inboxEntry p peerDev peer body)
  let s := s.setCell cell (c.count .msgEvtRx 1)
  let s := s.updMsg cell (fun m => { m with nA := m.nA + 1, inbox := m.inbox ++ [(p.src, csig, credited)] })
  s.sigOp .add m.sigArrive 1 { node := cell, unit := 8, tag := 0 } c.owner cell .cell

/-- MSG reaches a cell's queue (R269 to R271). -/
def execMsg (p : Packet) (s : State) : Out :=
  .next (
    if s.fatal then s else
    match p.body with
    | .msg csig credited peerDev peer body =>
      if !s.cellOpen p.dst then s
      else s.arrive p (fun s =>
        let c := s.cell p.dst
        if c.owner = 0 ∨ c.owner = fenceTag then s.msgNak p .queueFull
        else match (if p.tenant = 0 ∨ p.tenant = c.owner then c.msg else none) with
          | none =>
            (s.record .msgRefused { noRec with node := p.dst, unit := 5, tenant := p.tenant, idx0 := p.src
                                               extra1 := p.cls.ctorIdx }).msgNak p .access
          | some m =>
            let un := (m.inbox.filter (fun e => !e.2.2)).length
            if credited then (s.msgAccept p.dst m p csig true peerDev peer body).msgTaken p
            else if un + s.reserved p.dst < 16 then (s.msgAccept p.dst m p csig false peerDev peer body).msgTaken p
            else s.msgNak p .queueFull)
    | _ => s)

/-- A refused message at the sending cell's logic: held for resending, or dropped after its retries (R269). -/
def State.msgRefusedAt (s : State) (cell : Nat) (p : Packet) : State :=
  match (s.cell cell).msg with
  | some m =>
    let mine := fun (h : Packet × Nat × Bool) => h.1.tag == p.tag && h.1.dst == p.src
    (match m.held.find? mine with
     | some (_, n, _) =>
       if n < 4 then s.updMsg cell (fun m => { m with held := m.held.map (fun h => if mine h then (h.1, h.2.1, true) else h) })
       else
         let s := s.updMsg cell (fun m => { m with held := m.held.filter (fun h => !mine h) })
         let s := s.setCell cell ((s.cell cell).count .msgEvtDrop 1)
         if m.nakEn then s.cellSignal cell 8 .add m.sigNak 1 0 else s
     | none => s)
  | none => s

/-- A cell's first refused message sent again (R269). -/
def State.cellResend (s : State) (cell : Nat) : State :=
  match (s.cell cell).msg with
  | some m =>
    (match m.held.find? (fun h => h.2.2) with
     | some h =>
       if s.cellOpen cell then
         (s.updMsg cell (fun m => { m with held := m.held.map (fun k => if k = h then (h.1, h.2.1 + 1, false) else k) })).send h.1
       else s
     | none => s)
  | none => s

/-- The credit entry of a message logic for a queue. -/
def MsgLogic.creditFor (m : MsgLogic) (dst : Nat) : Option Credit := m.credits.find? (fun e => e.dst == dst)

/-- Sending stands while an uncredited message is not yet taken, or a refused one waits for its resending (R267, R269). -/
def MsgLogic.stands (m : MsgLogic) : Bool :=
  m.held.any (fun h => h.2.2 || (match h.1.body with | .msg _ credited _ _ _ => !credited | _ => true))

/-- MSG_ENTRY_SEND: the next due outbox entry leaves once its credit allows (R267, R268). -/
def execMsgEntrySend (cell : Nat) (s : State) : Out :=
  .next (
    if s.fatal then s else
    match (s.cell cell).msg with
    | none => s
    | some m =>
      if m.due = 0 || m.stands || !s.cellOpen cell then s
      else
        let c := s.cell cell
        let a := m.outboxBase + 32 * (m.nS % 16)
        let w := c.mem.readLe a 4
        let dst := bits w 11 0
        let credited := bit w 12
        let next := fun (m : MsgLogic) => { m with nS := m.nS + 1, due := m.due - 1 }
        let cr := m.creditFor dst
        let badDst := !s.goodCell dst || (s.cell dst).owner != c.owner
        if badDst || (credited && cr.isNone) then
          (s.updMsg cell next).record .msgBadEntry
            { noRec with node := cell, unit := 5, tenant := c.owner, idx0 := m.nS % 16 }
        else
          let free := match cr with | some e => !credited || decide (e.sent < e.count + (s.signal e.sig).counter) | none => true
          if !free then s
          else
            let c := c.sense a 32
            let s := (s.setCell cell c).memtPoison cell (c.poisoned a 32) none
            let p := s.cellPacket cell dst (m.nS % 2 ^ 16)
              (.msg (match cr with | some e => if credited then e.sig else 0 | none => 0) credited 0 false
                (c.mem.readBytes (a + 4) 28))
            let s := s.updMsg cell (fun m =>
              let m := next m
              { m with held := m.held ++ [(p, 0, false)]
                       credits := if credited then m.credits.map (fun e => if e.dst = dst then { e with sent := e.sent + 1 } else e) else m.credits })
            (s.setCell cell ((s.cell cell).count .msgEvtTx 1)).send p)

end Sys2Proof.Machine
end

