-- ==== Sys2Proof/Machine/Mesh.lean ====
section
/-!
DEFINITION. Sys2Proof/Machine/Mesh.lean: the arbitration wheel of the packet mesh (ch. 09); its routes stand in Routes.lean,
its injection and arrival in Ops.lean.
-/
namespace Sys2Proof.Machine
open Sys2Proof

/-! ### Shares (R245) -/

/-- The class with the largest accumulator, the lowest on ties; `wf` is the free class's, last. -/
def wheelPick (acc : List Int) : Nat :=
  let m := acc.foldl max (acc.getD 0 0)
  (acc.findIdx? (fun x => x == m)).getD 0

/-- The 64 positions of the wheel: 0 to 15 a class, 16 free, 17 system. -/
def wheelGo (w : List Nat) : Nat → Nat → List Int → List Nat
  | 0, _, _ => []
  | k + 1, p, acc =>
    if p % 16 = 15 then 17 :: wheelGo w k (p + 1) acc
    else
      let acc := List.zipWith (fun a (x : Nat) => a + (x : Int)) acc w
      let c := wheelPick acc
      c :: wheelGo w k (p + 1) (acc.set c (acc.getD c 0 - 60))

/-- build_wheel(w): `w` lists the 16 weights (R245). -/
def buildWheel (w : List Nat) : List Nat := wheelGo (w ++ [60 - w.sum]) 64 0 (List.replicate 17 0)

/-- The class a position goes to when its owner has no eligible flit, outside sealed tenancy: the first eligible one
after the owner in cyclic order 0 to 15 and then system (16 here); in sealed tenancy none but a free position's to the
system class (R246). -/
def wheelNext (sealed : Bool) (owner : Nat) (eligible : List Nat) : Option Nat :=
  if owner < 16 ∨ owner = 17 then
    let o := if owner = 17 then 16 else owner
    if eligible.contains o then some o
    else if sealed then none
    else ((List.range 17).map (fun k => (o + 1 + k) % 17)).find? eligible.contains
  else if sealed then (if eligible.contains 16 then some 16 else none)
  else (List.range 17).find? eligible.contains

end Sys2Proof.Machine
end

