-- ==== Sys2Proof/Machine/Hbm.lean ====
section
/-!
DEFINITION. Sys2Proof/Machine/Hbm.lean: external memory (ch. 14) and translation (ch. 12): physical addresses, slices,
poison, page tables, allocation of pages, bandwidth factors.
-/
namespace Sys2Proof.Machine
open Sys2Proof

/-! ### Slices (R377, R384) -/

/-- A mesh read at a slice (R238, R377, R384). -/
def State.sliceRead (s : State) (p : Packet) (a n : Nat) : MStatus × List Byte × State :=
  if p.dst < 0x900 ∨ 0x907 < p.dst ∨ 2 ^ 39 ≤ a ∨ 0x900 + stackOf a ≠ p.dst ∨ n = 0 ∨ 256 < n then (.range, [], s)
  else (if (s.poisonAt a n).isSome then .poison else .ok, s.paBytes a n, s.paTouch p.tenant a n)

/-- A mesh write at a slice. -/
def State.sliceWrite (s : State) (p : Packet) (a : Nat) (bs : List Byte) : MStatus × State :=
  if p.dst < 0x900 ∨ 0x907 < p.dst ∨ 2 ^ 39 ≤ a ∨ 0x900 + stackOf a ≠ p.dst ∨ bs = [] ∨ 256 < bs.length then (.range, s)
  else if s.stackMode (stackOf a) = 2 then (.poison, s)
  else (.ok, s.paWrite p.tenant a bs)

/-- The bytes of a physical range that its slice does not hold. -/
def State.missing (s : State) (pa n : Nat) : Nat := 128 * ((linePieces pa n).filter (fun p => (s.lineIn p.1).isNone)).length

/-- The slice serves a mesh access of `n` bytes now: in sealed tenancy it waits for the tenant's tokens (R398). -/
def State.sliceServes (s : State) (p : Packet) (a n : Nat) : Bool :=
  decide (p.dst ≠ 0x900 + stackOf a) || s.served p.tenant (stackOf a) (s.missing a n)

/-! ### Translation (R316, R317) -/

/-- The level-2 entry of a tenant's page. -/
def State.ptEntry (s : State) (t tva : Nat) : Nat := Tab.get 0 s.pt (2 ^ 27 * t + tva % 2 ^ 48 / pageSize)

/-- How an access to a range of TVAs ends: it may go on, or a page is not mapped or read-only, or a line is poisoned. -/
inductive TvaEnd where
  | ok
  | unmapped (tva : Nat)
  | readOnly (tva : Nat)
  | poison (pa : Nat)
  deriving DecidableEq, Repr

/-- A range cut at page boundaries: (address, length). -/
def pagePieces : Nat → Nat → Nat → List (Nat × Nat)
  | 0, _, _ => []
  | k + 1, a, n =>
    if n = 0 then []
    else
      let m := min n (pageSize - a % pageSize)
      (a, m) :: pagePieces k (a + m) (n - m)

/-- The pieces of a range of at most 2^48 bytes. -/
def tvaPieces (a n : Nat) : List (Nat × Nat) := pagePieces (n / pageSize + 2) a n

/-- The physical address of a mapped TVA. -/
def State.tvaPa (s : State) (t tva : Nat) : Nat := pageSize * bits (s.ptEntry t tva) 25 8 + tva % pageSize

/-- The check of one piece. -/
def State.pieceEnd (s : State) (t : Nat) (write : Bool) (p : Nat × Nat) : TvaEnd :=
  let e := s.ptEntry t p.1
  if !bit e 0 then .unmapped p.1
  else if write then (if bit e 1 then .ok else .readOnly p.1)
  else match s.poisonAt (s.tvaPa t p.1) p.2 with
    | some l => .poison (128 * l)
    | none => .ok

/-- The first piece of a range that fails. -/
def State.tvaCheck (s : State) (t a n : Nat) (write : Bool) : TvaEnd :=
  if 2 ^ 48 < a + n then .unmapped a
  else ((tvaPieces a n).map (s.pieceEnd t write)).find? (fun e => e != .ok) |>.getD .ok

/-- The bytes of a mapped range. -/
def State.tvaBytes (s : State) (t a n : Nat) : List Byte :=
  (tvaPieces a n).flatMap (fun p => s.paBytes (s.tvaPa t p.1) p.2)

/-- The most translations a tenant may hold: 8,192 shared; in sealed tenancy 480 each, 512 for the owner (R317, R540). -/
def State.tlbRoom (s : State) (t : Nat) : Nat := if !s.sealed then 8192 else if t = 0 then 512 else 480

/-- A page's translation used: it is held, the newest first; which one a full cache gives up nothing shows (log 88). -/
def State.translate (s : State) (t tva : Nat) : State :=
  let x := (t, tva % 2 ^ 48 / pageSize)
  let rest := s.tlb.filter (fun y => y != x)
  let mine := rest.filter (fun y => !s.sealed || y.1 == t)
  let kept := if s.tlbRoom t ≤ mine.length then (match mine.getLast? with | some y => rest.erase y | none => rest) else rest
  { s with tlb := x :: kept }

/-- Bytes written to a mapped range. -/
def State.tvaStore (s : State) (t a : Nat) (bs : List Byte) : State :=
  (tvaPieces a bs.length).foldl (fun s p => (s.translate t p.1).paWrite t (s.tvaPa t p.1) ((bs.drop (p.1 - a)).take p.2)) s

/-- A mapped range read through its slices: what the read does to them. -/
def State.tvaTouch (s : State) (t a n : Nat) : State :=
  (tvaPieces a n).foldl (fun s p => (s.translate t p.1).paTouch t (s.tvaPa t p.1) p.2) s

/-- The controllers serve a tenant now on every stack that a mapped range reaches (R398). -/
def State.tvaServed (s : State) (t a n : Nat) : Bool :=
  (tvaPieces a n).all (fun p => s.served t (stackOf (s.tvaPa t p.1)) (s.missing (s.tvaPa t p.1) p.2))

/-- A little-endian number at a TVA. -/
def State.tvaLe (s : State) (t a n : Nat) : Nat := leNat (s.tvaBytes t a n)

/-- A mapped range read; the stacks a job's access reaches are remembered (R647). -/
def State.touch (s : State) (job : Option Nat) (t a n : Nat) : State :=
  (fun (s : State) => s.tvaTouch t a n) <| match job with
  | some k => s.updJob k (fun j => { j with hbmStacks := (tvaPieces a n).foldl (fun l p =>
      if l.contains (stackOf (s.tvaPa t p.1)) then l else l ++ [stackOf (s.tvaPa t p.1)]) j.hbmStacks })
  | none => s

/-- A failed access of a job's work recorded, and the job stopped (R317, R384). -/
def State.tvaFault (s : State) (job : Option Nat) (t : Nat) (req : Nat) (e : TvaEnd) : State :=
  match e with
  | .ok => s
  | .unmapped a => s.jobFault .fmUnmapped job .badCommand { noRec with node := hubN, unit := 0xB, tenant := t, addr := a, idx0 := req }
  | .readOnly a => s.jobFault .fmRoWrite job .badCommand { noRec with node := hubN, unit := 0xB, tenant := t, addr := a, idx0 := req }
  | .poison _ => s.stopJob job .memUncorrectable 0

/-! ### Allocation (R315, R378, R380, R393) -/

def State.pageSt (s : State) (ppn : Nat) : PageSt := Tab.get .clean s.pages ppn
def State.setPage (s : State) (ppn : Nat) (p : PageSt) : State := { s with pages := Tab.put .clean s.pages ppn p }

/-- The page a stack gives: its lowest-numbered free zeroed page, else its lowest-numbered free page. -/
def State.freeIn (s : State) (st : Nat) : Option Nat :=
  if s.stackMode st = 2 then none
  else
    let ps := (List.range 32704).map (fun k => 32768 * st + k)
    match ps.find? (fun p => s.pageSt p = .clean) with
    | some p => some p
    | none => ps.find? (fun p => s.pageSt p = .dirty)

/-- The order of dies a die class goes through (R378). -/
def dieOrder (d : Nat) : List Nat :=
  match d with | 0 => [0, 1, 2, 3] | 1 => [1, 0, 3, 2] | 2 => [2, 0, 3, 1] | _ => [3, 1, 2, 0]

/-- A page from a die's two stacks by its alternation. -/
def State.takeDie (s : State) (d : Nat) : Option (Nat × State) :=
  let k := Tab.get 0 s.dieAlt d
  ([2 * d + k, 2 * d + (1 - k)].findSome? s.freeIn).map (fun p =>
    (p, { s with dieAlt := Tab.put 0 s.dieAlt d (1 - stackOfPage p % 2) }))

/-- A page from all stacks in turn. -/
def State.takeSpread (s : State) : Option (Nat × State) :=
  (((List.range 8).map (fun k => (s.spreadPtr + k) % 8)).findSome? s.freeIn).map (fun p =>
    (p, { s with spreadPtr := (stackOfPage p + 1) % 8 }))

/-- A page by placement class: 1 SPREAD, 4 to 7 a die. -/
def State.takePage (s : State) (place : Nat) : Option (Nat × State) :=
  if 4 ≤ place then (dieOrder (place - 4)).findSome? s.takeDie else s.takeSpread

/-- A page given to an owner: marked used, with its key tag, once its lines have left the slice; answers whether it still awaits
zeroing (R315, R393). -/
def State.givePage (s : State) (ppn tag : Nat) : Bool × State :=
  (decide (s.pageSt ppn = .dirty), { (s.flushPage ppn).setPage ppn .used with pageTag := Tab.put 0 s.pageTag ppn tag })

/-- Level-2 tables in use, of the pool of 4,096 (R379, R380). -/
def l2Pool : Nat := 4096

/-- The level-1 index of a TVA as a key. -/
def l1Key (t tva : Nat) : Nat := 16384 * t + tva % 2 ^ 48 / 2 ^ 34

/-- The places of 64 KiB that the device may take for a level-2 table: in its reserved pages, none where a spare page serves or
another table lies (R379). -/
def State.l2Places (s : State) : List Nat :=
  let taken := s.l2.map (fun e => e.2 / 65536)
  ((List.range 8).flatMap (fun st => (List.range 64).flatMap (fun k =>
    let p := 32768 * st + 32704 + k
    if s.stackMode st ≠ 2 ∧ s.pageSt p = .clean then (List.range 32).map (fun i => 32 * p + i) else []))).filter (fun x => !taken.contains x)

/-- The address of a page's level-2 entry. -/
def State.l2Entry (s : State) (t tva : Nat) : Nat := Tab.get 0 s.l2 (l1Key t tva) / 65536 * 65536 + 8 * (tva % 2 ^ 34 / pageSize)

/-- A page's level-2 entry set, also in the table as it lies in HBM (R316). -/
def State.setPt (s : State) (t tva e : Nat) : State :=
  ({ s with pt := Tab.put 0 s.pt (2 ^ 27 * t + tva % 2 ^ 48 / pageSize) e } : State).paWrite 0 (s.l2Entry t tva) (leBytes 8 e)

/-- A page mapped; a level-2 table not yet there is taken from the pool, its place the device's choice. -/
def State.mapPage (s : State) (t tva ppn : Nat) (ro : Bool) (place : Nat) : State :=
  let e := 1 + 2 * (!ro).toNat + 2 ^ 8 * ppn + 2 ^ 26 * place
  if Tab.get 0 s.l2 (l1Key t tva) ≠ 0 then s.setPt t tva e
  else
    let (n, s) := s.drawFree
    let place := s.l2Places.getD (Config.freePick n s.l2Places.length) 0
    (({ s with l2 := Tab.put 0 s.l2 (l1Key t tva) (1 + 65536 * place) } : State).paWrite 0 (65536 * place) (List.replicate 65536 0#8)).setPt t tva e

/-- An access to a page is in flight: a request of a physical address on its way to the slice (R317). -/
def State.pageInFlight (s : State) (ppn : Nat) : Bool :=
  s.flight.any (fun p => decide (0x900 ≤ p.dst) && decide (p.dst ≤ 0x907) && (match p.body with
    | .rd a n => a / pageSize == ppn && decide (0 < n)
    | .wr a _ => a / pageSize == ppn
    | _ => false))

/-- A page retired: never used again, its number programmed into both banks' lists, or, with the list full, recorded for
this power session (R387). -/
def State.retirePage (s : State) (ppn : Nat) : State :=
  let st := stackOfPage ppn
  let s := (s.setPage ppn .retired).regAdd (rHbmCtr st 5) 1
  if s.nv.banks.any (fun b => b.pages.contains ppn) then s
  else if s.nv.banks.all (fun b => decide (4096 ≤ b.pages.length)) then
    s.record .hbmRetireListFull { noRec with node := sliceNode st, unit := 8, idx0 := st, addr := ppn }
  else
    let add := fun (b : NvBank) => if 4096 ≤ b.pages.length then b else { b with pages := b.pages ++ [ppn] }
    { s with nv := { s.nv with banks := s.nv.banks.map add } }

/-- A page returned to the pool, to be zeroed; a marked one is retired (R315, R387). -/
def State.freePage (s : State) (ppn : Nat) : State :=
  match s.pageSt ppn with
  | .marked | .deferred => s.retirePage ppn
  | .retired => s
  | _ => s.setPage ppn .dirty

/-- A page unmapped, its translation invalidated; its level-2 table goes back with its last valid entry (R380). -/
def State.unmapPage (s : State) (t tva : Nat) : State :=
  let e := s.ptEntry t tva
  if !bit e 0 then s
  else
    let s := ((s.freePage (bits e 25 8)).setPt t tva 0)
    let s : State := { s with tlb := s.tlb.filter (fun x => x != (t, tva % 2 ^ 48 / pageSize)) }
    let base := 2 ^ 27 * t + 8192 * (tva % 2 ^ 48 / 2 ^ 34)
    if s.pt.any (fun e => decide (base ≤ e.1) && decide (e.1 < base + 8192)) then s
    else { s with l2 := Tab.put 0 s.l2 (l1Key t tva) 0 }

/-- The pages a tenant's quota counts: mapped pages, level-2 tables, save areas and spill regions (R532). -/
def State.pagesUsed (s : State) (t : Nat) : Nat :=
  (s.pt.filter (fun e => e.1 / 2 ^ 27 == t)).length + (s.l2.filter (fun e => e.1 / 16384 == t)).length
    + ((s.gals.filterMap (fun g => g.2)).map (fun (g : Gallery) =>
        if g.tenant = t then g.savePages.length + g.spillPages.length else 0)).sum

/-- `n` pages taken for the device's own use in a tenant's name (spill regions, save areas): none where the pool has too
few. -/
def State.takePages (s : State) (tag place : Nat) : Nat → Option (List Nat × State)
  | 0 => some ([], s)
  | n + 1 =>
    match s.takePage place with
    | none => none
    | some (p, s) =>
      match ((s.givePage p tag).2).takePages tag place n with
      | some (l, s) => some (p :: l, s)
      | none => none

/-- A physical page zeroed by whole-line writes, all of which have left the slice again (R315, R393, log 80). -/
def State.zeroPage (s : State) (ppn : Nat) : State :=
  { s with cache := Tab.update [] s.cache (fun _ set => set.filter (fun c => 128 * c.line / pageSize != ppn))
           hbm := s.hbm.filter (fun e => e.1 / pageSize != ppn)
           hbmPoison := s.hbmPoison.filter (fun e => 128 * e.1 / pageSize != ppn) }

/-! ### Bandwidth (R396, R397) -/

/-- R_s: the sum of the reservations on a stack. -/
def State.rsvSum (s : State) (st : Nat) : Nat := ((s.reserves.filter (fun r => bit r.mask st)).map Reserve.rate).sum

/-- c_s in units of 1/8 GB/s. -/
def State.stackCap (s : State) (st : Nat) : Nat :=
  let m := match s.stackMode st with | 0 => 2 | 1 => 1 | _ => 0
  1750 * m * (4 - bits (s.reg (rStack st)) 9 8)

/-- The factor of one stack in units of 1/1,024. -/
def State.stackFactor (s : State) (st : Nat) : Nat :=
  if s.rsvSum st = 0 then 1024 else min 1024 (1024 * s.stackCap st / (8 * s.rsvSum st))

/-- Causes of a change of BW_FACTOR (R397), in the rule's order. -/
inductive BwCause where
  | reduced | failed | throttle | recovered | release
  deriving DecidableEq, Repr

/-- BW_FACTOR recomputed, with the record of a change; the PF's event vector is raised (R397, R525). -/
def State.bwRecompute (s : State) (cause : BwCause) (causeSeq : Nat := 0) : State :=
  let fs := (List.range 8).map s.stackFactor
  let f := fs.foldl min 1024
  let old := s.reg rBwFactor
  if f = old then s
  else
    let st := if f = 1024 then 0xFFFF else (fs.findIdx? (fun x => x == f)).getD 0
    (s.setReg rBwFactor f).record .bwShortfall
      { noRec with node := hubN, unit := 8, idx0 := st, code := cause.ctorIdx, extra0 := old + 2 ^ 32 * f, causeSeq := causeSeq }

/-! ### Errors and retirement (R383 to R389) -/

/-- A free page for a migration: a spare of the same stack (which reserved page, the device chooses, R379), else a free page of the stack, its die, the dies after. -/
def State.sparePage (s : State) (ppn : Nat) : Option (Nat × State) :=
  let st := stackOfPage ppn
  let spares := bits (s.reg (rStack st)) 21 16
  if 0 < spares then
    let ps := ((List.range 64).map (fun k => 32768 * st + 32704 + k)).filter (fun p => s.pageSt p = .clean && !s.l2.any (fun e => e.2 / pageSize == p))
    let (n, s) := s.drawFree
    (ps[Config.freePick n ps.length]?).map (fun p => (p, s.setField (rStack st) 21 16 (spares - 1)))
  else match s.freeIn st with
    | some p => some (p, s)
    | none => (dieOrder (st / 2)).findSome? s.takeDie

/-- A page whose errors mark it for retirement: out of the pool at once, or to be migrated, a device-reserved page too
(R386). -/
def State.markPage (s : State) (ppn : Nat) : State :=
  match s.pageSt ppn with
  | .clean => if reservedPage ppn then s.setPage ppn .marked else s.retirePage ppn
  | .dirty => s.retirePage ppn
  | .used => s.setPage ppn .marked
  | _ => s

/-- A line found uncorrectable in HBM, or in the slice's array: poisoned, counted and recorded, and its page marked (R383,
R386, R390). -/
def State.hbmUncorrectable (s : State) (pa : Nat) (job : Option Nat) (array : Bool := false) : State :=
  let l := pa / 128
  let st := stackOf pa
  let s := s.poisonLine l array
  let s := s.regAdd (rHbmCtr st 4) 1
  (s.record .hbmUncorrectable { noRec with node := sliceNode st, unit := 8, idx0 := st, addr := 128 * l, job := job
                                           code := Tab.get 0 s.pageTag (pa / pageSize) } job.isSome).markPage (pa / pageSize)

/-- A stack's patrol. -/
def State.patrolOf (s : State) (st : Nat) : PatrolSt := Tab.get {} s.patrol st
def State.setPatrol (s : State) (st : Nat) (p : PatrolSt) : State := { s with patrol := Tab.put {} s.patrol st p }

/-- A 32-byte unit found correctable at a physical address, by the patrol or by another read: its page is marked at the
eighth distinct unit of the period, or where the patrol pass before corrected the unit too (R383, R386). -/
def State.hbmCorrected (s : State) (pa : Nat) (byPatrol : Bool) : State :=
  let st := stackOf pa
  let u := pa / 32
  let ppn := pa / pageSize
  let s := s.regAdd (rHbmCtr st 3) 1
  let p := s.patrolOf st
  let again := byPatrol && p.prev.contains u
  let p := if byPatrol then { p with cur := if p.cur.contains u then p.cur else p.cur ++ [u] }
    else { p with other := if p.other.contains u then p.other else p.other ++ [u] }
  let n := (p.cur ++ p.other.filter (fun x => !p.cur.contains x)).countP (fun x => x * 32 / pageSize == ppn)
  let s := s.setPatrol st p
  if again ∨ 8 ≤ n then s.markPage ppn else s

/-- What a read finds in units of 32 bytes from an address: each correctable, or uncorrectable (`true`). -/
def State.hbmFound (s : State) (pa : Nat) (found : List (Nat × Bool)) (byPatrol : Bool) : State :=
  found.foldl (fun s (f : Nat × Bool) =>
    let a := pa / 32 * 32 + 32 * f.1
    if f.2 then s.hbmUncorrectable a none else s.hbmCorrected a byPatrol) s

/-- What a request finds at a slice: in a line the slice holds the errors are its array's, which its code corrects or which
poison the line; in any other they are HBM's (R383, R390). -/
def State.sliceFound (s : State) (pa : Nat) (found : List (Nat × Bool)) : State :=
  found.foldl (fun s (f : Nat × Bool) =>
    let a := pa / 32 * 32 + 32 * f.1
    if (s.lineIn (a / 128)).isSome then (if f.2 then s.hbmUncorrectable a none true else s) else s.hbmFound pa [f] false) s

end Sys2Proof.Machine
end

