-- ==== Sys2Proof/Machine/HostOps.lean ====
section
/-!
DEFINITION. Sys2Proof/Machine/HostOps.lean: rings, consumed entries, payloads and completions (ch. 18), as operations.
-/
namespace Sys2Proof.Machine
open Sys2Proof

/-! ### Rings -/

def State.ring (s : State) (fn k : Nat) : Ring := Tab.get {} s.rings (8 * fn + k % 8)
def State.setRing (s : State) (fn k : Nat) (r : Ring) : State := { s with rings := Tab.put {} s.rings (8 * fn + k % 8) r }

def Ring.sqLog2 (r : Ring) : Nat := bits r.size 4 0
def Ring.cqLog2 (r : Ring) : Nat := bits r.size 12 8
def Ring.mode (r : Ring) : Nat := bits r.ctl 2 1
def Ring.irqEn (r : Ring) : Bool := bit r.ctl 3

/-- The difference of two free-running 32-bit counts. -/
def diff32 (a b : Nat) : Nat := (a % 2 ^ 32 + 2 ^ 32 - b % 2 ^ 32) % 2 ^ 32

/-- A tenant is PRESENT; the owner always is (R529). -/
def State.present (s : State) (t : Nat) : Bool := t == 0 || bits (s.reg (rTenStatus t)) 1 0 == 1

/-- A function exists: the PF, or a VF while SR-IOV's VF Enable is set. -/
def State.fnExists (s : State) (fn : Nat) : Bool := fn == 0 || (s.vfEn && decide (1 ≤ fn) && decide (fn ≤ 16))

/-- Error codes of a ring (R500). -/
def errSqOverrun : Nat := 1
def errCqOverrun : Nat := 2
def errReadFail : Nat := 3
def errConfig : Nat := 4

/-- A ring enters ERROR with its record (R500). -/
def State.ringError (s : State) (fn k code : Nat) : State :=
  (s.setRing fn k { s.ring fn k with st := .error, err := code }).record .hostRingError
    { noRec with node := hubN, unit := 0xC, tenant := fn, idx0 := fn, idx1 := k, code := code }

/-- The host's stores by the time of a command, in its function's memory. -/
def State.hostStores (s : State) (fn : Nat) (h : HostIn) : State :=
  h.stores.foldl (fun s e => s.hostWrite fn e.1 e.2) s

/-! ### Completions (R507, R508, R516, R518, R519) -/

/-- The 32 bytes of a completion. -/
def Compl.bytes (c : Compl) (phase dup : Bool) (sqHead : Nat) : List Byte :=
  leBytes 4 c.tag ++ leBytes 4 (c.status + 2 ^ 8 * c.opcode + 2 ^ 16 * phase.toNat + 2 ^ 17 * dup.toNat
      + 2 ^ 18 * c.late.toNat + 2 ^ 19 * (c.cond % 32))
    ++ leBytes 4 (c.slow % 65536 + 2 ^ 16 * (sqHead % 65536)) ++ leBytes 4 c.detail ++ leBytes 8 c.start ++ leBytes 8 c.fin

/-- The lines of the cache a kind and address name. -/
def State.line? (s : State) (fn ring : Nat) (k : LineKind) (a : Nat) : Option HostLine :=
  s.lines.find? (fun l => l.fn == fn && l.ring == ring && l.kind == k && l.addr == a)

def State.dropLine (s : State) (l : HostLine) : State := { s with lines := s.lines.erase l }

/-- A line taken into the cache of 4,096 lines; pinned doorbell lines stay, the oldest of the others goes (R490). -/
def State.addLine (s : State) (l : HostLine) : State :=
  let ls := s.lines ++ [l]
  if ls.length ≤ 4096 then { s with lines := ls }
  else match ls.find? (fun x => x.kind != .db && !x.evict) with
    | some x =>
      let s := { s with lines := ls.erase x }
      if x.kind = .cq then s.hostWrite x.fn x.addr x.data else s
    | none => { s with lines := ls }

/-- An interrupt counted for a ring's completion (R526). -/
def State.ringIrq (s : State) (fn k : Nat) : State :=
  let r := s.ring fn k
  if !r.irqEn then s
  else
    let n := r.irqN + 1
    if bits r.irq 25 16 = 0 ∨ max 1 (bits r.irq 8 0) ≤ n then (s.setRing fn k { r with irqN := 0 }).raise fn k
    else s.setRing fn k { r with irqN := n, irqGc := if r.irqN = 0 then s.gc else r.irqGc }

/-- One completion written into its ring's CQ: by a posted write, or in SNOOP mode into the line the device holds, unless
that line's eviction is outstanding, when it waits (R508, R516); a DRAINING ring has released its lines (R499). -/
def State.writeCompl (s : State) (fn k : Nat) (c : Compl) (dup : Bool) : State :=
  let r := s.ring fn k
  let i := r.cqTail % 2 ^ r.cqLog2
  let a := r.cqBase + 32 * i
  let bs := c.bytes (r.cqTail / 2 ^ r.cqLog2 % 2 == 0) dup r.sqHead
  let done := fun (s : State) =>
    let r := s.ring fn k
    ((s.setRing fn k { r with cqTail := (r.cqTail + 1) % 2 ^ 32, owed := r.owed - 1 }).acctHost fn 32).ringIrq fn k
  if r.mode = 2 ∧ r.st ≠ .draining then
    let la := a / 64 * 64
    match s.line? fn k .cq la with
    | some l =>
      if l.evict then s.setRing fn k { r with cqWait := r.cqWait ++ [(c, dup)] }
      else done ((s.dropLine l).addLine
        { l with data := (l.data.take (a - la)) ++ bs ++ l.data.drop (a - la + 32) })
    | none =>
      let old := s.hostRead fn la 64
      done (s.addLine { fn := fn, ring := k, addr := la, kind := .cq, data := old.take (a - la) ++ bs ++ old.drop (a - la + 32) })
  else done (s.hostWrite fn a bs)

/-- A completion of a ring: behind those that wait for a line, in order. -/
def State.postCompl (s : State) (fn k : Nat) (c : Compl) (dup : Bool) : State :=
  let r := s.ring fn k
  if r.st = .disabled then s
  else if r.cqWait ≠ [] then s.setRing fn k { r with cqWait := r.cqWait ++ [(c, dup)] }
  else s.writeCompl fn k c dup

/-- The completion of an entry: written, kept in the window, and copied to the duplicates that wait for it; the entry is done with. -/
def State.answer (s : State) (c : Cmd) (e : Compl) : State :=
  let r := s.ring c.fn c.ring
  let dups := match s.cmds.find? (fun x => x.id == c.id) with | some x => x.dups | none => c.dups
  let s := { s.setRing c.fn c.ring { r with window := r.window.map (fun w => if w.id = c.id then { w with done := some e } else w) } with
               cmds := s.cmds.filter (fun x => x.id != c.id) }
  (List.range dups).foldl (fun s _ => s.postCompl c.fn c.ring e true) (s.postCompl c.fn c.ring e false)

/-- Word `i` of an entry. -/
def Cmd.w (c : Cmd) (i : Nat) : Nat := c.words.getD i 0
def Cmd.deadline (c : Cmd) : Nat := c.w 2 + 2 ^ 32 * c.w 3
def Cmd.payPtr (c : Cmd) : Nat := c.w 6 + 2 ^ 32 * c.w 7
def Cmd.payTva (c : Cmd) : Bool := bit (c.w 0) 8

/-- The codes of a BAD_COMMAND's detail (R511) (log 98). -/
def detReserved : Nat := 1
def detFunction : Nat := 2
def detHostRead : Nat := 3
def detMalformed : Nat := 4
def detFeature : Nat := 5
def detTranslate : Nat := 6
/-- Not a detail: the payload holds poison, and the status is MEM_UNCORRECTABLE (R509). -/
def detPoison : Nat := 256

/-- An entry completes with a status and a detail; `start` is its consumption, the end the GC now (R507, R510). -/
def State.finish (s : State) (c : Cmd) (st : Status) (detail : Nat) : State :=
  let s := if st = .timeout then s.regAdd (rRingCtr c.fn c.ring 2) 1 else s
  s.answer c { tag := c.tag, status := st.code, opcode := c.op, late := decide (c.deadline ≠ 0 ∧ c.deadline < s.gc)
               cond := 0, slow := 0, detail := detail, start := c.gcIn, fin := s.gc }

/-- An entry refused as BAD_COMMAND; one whose payload is poisoned ends with MEM_UNCORRECTABLE. -/
def State.bad (s : State) (c : Cmd) (detail : Nat) : State :=
  if detail = detPoison then s.finish c .memUncorrectable 0 else s.finish c .badCommand detail

/-- An entry kept as executed and not complete. -/
def State.running (s : State) (c : Cmd) : State :=
  { s with cmds := s.cmds.map (fun x => if x.id = c.id then { x with st := .running } else x) }

/-- The first consumed entry of a ring that has not begun execution, where it has an opcode (R505). -/
def State.nextCmd (s : State) (fn ring op : Nat) : Option Cmd :=
  match s.cmds.find? (fun c => c.fn == fn && c.ring == ring && c.st == .fresh) with
  | some c => if c.op = op then some c else none
  | none => none

/-! ### Checks of an entry and its payload (R491, R501, R503) -/

/-- Opcodes with an inline payload (R502). -/
def inlineOp (op : Nat) : Bool := [2, 4, 6, 7, 8, 9, 0xC].contains op

/-- Opcodes that Ferryman admits as jobs. -/
def jobOp (op : Nat) : Bool := [1, 5, 0xA, 0xB].contains op

/-- What an entry breaks before its payload is looked at: a detail code (R491, R501, R502, R520). -/
def Cmd.breaks (c : Cmd) : Option Nat :=
  if c.op = 0 ∨ 0xF < c.op then some detReserved
  else if (bits (c.w 0) 31 9 ≠ 0) ∨ (c.op ≠ 5 ∧ c.w 5 ≠ 0) ∨ bits (c.w 5) 31 7 ≠ 0 then some detReserved
  else if inlineOp c.op ∧ (c.payPtr ≠ 0 ∨ c.payTva) then some detReserved
  else if !inlineOp c.op ∧ ((List.range 8).any (fun i => c.w (8 + i) != 0)) then some detReserved
  else if !inlineOp c.op ∧ c.payPtr % 64 ≠ 0 then some detMalformed
  else if c.fn ≠ 0 ∧ (c.op = 0xE ∨ c.op = 0xF ∨ c.w 4 = 0xFFFFFFFF) then some detFunction
  else none

/-- The number of words of inline payload an opcode uses; the rest are reserved. -/
def inlineWords : Nat → Nat
  | 2 | 6 | 7 | 8 => 2
  | 4 | 9 => 1
  | _ => 2

/-- Inline fields outside their bits. -/
def Cmd.inlineBad (c : Cmd) : Bool :=
  ((List.range 8).any (fun i => decide (inlineWords c.op ≤ i) && c.w (8 + i) != 0)) ||
    (match c.op with
     | 2 => decide (8 ≤ c.w 8)
     | 4 => decide (32 ≤ c.w 8)
     | 6 | 7 | 8 => decide (16384 ≤ c.w 8)
     | 9 => decide (2 ≤ c.w 8)
     | _ => false)

/-- Bytes of a structure an entry points to: at a bus address, or at a TVA of its function. -/
def State.payload (s : State) (c : Cmd) (h : HostIn) (a n : Nat) : Except Nat (List Byte) :=
  if c.payTva then
    match s.tvaCheck c.fn a n false with
    | .ok => .ok (s.tvaBytes c.fn a n)
    | .poison _ => .error detPoison
    | _ => .error detTranslate
  else if h.fail then .error detHostRead
  else .ok (s.hostRead c.fn a n)

/-- What a payload read does: through its slices, or to the function's account. -/
def State.acctPay (s : State) (c : Cmd) (a n : Nat) : State := if c.payTva then s.tvaTouch c.fn a n else s.acctHost c.fn n

/-- The execution of a ring's next entry, where it has the opcode: an entry that breaks a rule completes with
BAD_COMMAND. -/
def State.execute (s : State) (fn ring op : Nat) (h : HostIn) (run : Cmd → State → State) : State :=
  match s.nextCmd fn ring op with
  | none => s
  | some c =>
    let s := s.hostStores fn h
    match c.breaks with
    | some d => s.bad c d
    | none => if inlineOp op && op != 0xC && c.inlineBad then s.bad c detReserved else run c s

/-- The same for an opcode with a pointer payload of `n` bytes. -/
def State.executePay (s : State) (fn ring op n : Nat) (h : HostIn) (run : Cmd → List Byte → State → State) : State :=
  s.execute fn ring op h (fun c s =>
    match s.payload c h c.payPtr n with
    | .ok bs => run c bs (s.acctPay c c.payPtr n)
    | .error d => s.bad c d)

/-- 32-bit words of a structure. -/
def words (bs : List Byte) : List Nat := (List.range (bs.length / 4)).map (fun i => leAt bs (4 * i) 4)

end Sys2Proof.Machine
end

