-- ==== Sys2Proof/Machine/Measure.lean ====
section
/-!
DEFINITION. Sys2Proof/Machine/Measure.lean: the settings record (R626), the fingerprint (R571) and the measurements of the
security block (R577).
-/
namespace Sys2Proof.Machine
open Sys2Proof

/-! ### The settings record (R626) -/

/-- The bytes of a settings record before its digest. -/
def Settings.body (x : Settings) (seq : Nat) : List Byte :=
  leBytes 4 0x5A395354 ++ leBytes 2 1 ++ leBytes 2 1024 ++ leBytes 8 seq ++ List.replicate 48 0#8
    ++ leBytes 4 x.flags ++ leBytes 4 x.plainCfg ++ leBytes 2 x.portEn ++ leBytes 2 x.delayNs ++ leBytes 4 x.apGate ++ leBytes 2 x.capW
    ++ List.replicate 2 0#8 ++ leBytes 4 x.billS ++ x.tcBuf.flatMap (leBytes 2) ++ List.replicate 24 0#8
    ++ x.ownerKey ++ List.replicate 16 0#8
    ++ x.roots.flatMap (fun r => r.1 ++ leBytes 4 r.2 ++ List.replicate 12 0#8) ++ List.replicate 272 0#8

/-- The 1,024 bytes of a settings record. -/
def Settings.bytes (x : Settings) (seq : Nat) : List Byte := x.body seq ++ sha384 (x.body seq)

/-- The fields at their places in an image. -/
def settingsAt (bs : List Byte) : Settings :=
  { flags := leAt bs 64 4, plainCfg := leAt bs 68 4, portEn := leAt bs 72 2, delayNs := leAt bs 74 2, apGate := leAt bs 76 4
    capW := leAt bs 80 2, billS := leAt bs 84 4, tcBuf := (List.range 8).map (fun c => leAt bs (88 + 2 * c) 2)
    ownerKey := (bs.drop 128).take 48
    roots := (List.range 8).map (fun r => ((bs.drop (192 + 64 * r)).take 48, leAt bs (240 + 64 * r) 4)) }

/-- The ranges of the fields. -/
def Settings.inRange (x : Settings) : Bool :=
  decide (x.flags < 64) && decide (x.plainCfg < 2 ^ 17) && decide (1000 ≤ x.capW) && decide (x.capW ≤ 3600)
    && decide (60 ≤ x.billS) && decide (x.billS ≤ 86400) && x.tcBuf.all (fun n => decide (16 ≤ n) && decide (n ≤ 1024))
    && decide (x.tcBuf.sum ≤ 1024) && x.roots.all (fun r => bits r.2 30 17 == 0)

/-- An image of 1,024 bytes in the form of R626, its seq and digest ignored. -/
def settingsOf (bs : List Byte) : Option Settings :=
  let x := settingsAt bs
  if bs.length = 1024 ∧ x.inRange ∧ (x.body 0).take 8 = bs.take 8 ∧ (x.body 0).drop 16 = (bs.drop 16).take 960 then some x else none

/-- The security subset, as measurement 7 takes it. -/
def Settings.secBytes (x : Settings) : List Byte :=
  [BitVec.ofNat 8 (bits x.flags 0 0)] ++ ((x.body 0).drop 68).take 4 ++ ((x.body 0).drop 128).take 48 ++ ((x.body 0).drop 192).take 512

/-! ### The fingerprint (R571) -/

/-- The good cells of the module (CELL_COUNT). -/
def State.cellCount (s : State) : Nat := ((List.range cellSites).filter s.goodCell).length

/-- REPRO_FPRINT. -/
def State.fingerprint (s : State) : Nat :=
  let n := s.cellCount
  bits (s.reg rDevIdent) 23 16 + 2 ^ 16 + 2 ^ 32 * (if 2048 ≤ n then 0 else if 1920 ≤ n then 1 else 2)
    + 2 ^ 40 * ((s.feature 0).toNat + 2 * (s.feature 2).toNat + 4 * (s.feature 3).toNat + 8 * (s.feature 4).toNat + 16 * (s.feature 5).toNat)

/-! ### Measurements (R577) -/

def State.updSec (s : State) (f : SecSt → SecSt) : State := { s with sec := f s.sec }

/-- A measurement's 48 bytes: zero after a start. -/
def State.meas (s : State) (i : Nat) : List Byte := Tab.get (List.replicate 48 0#8) s.sec.meas i

/-- A measurement extended. -/
def State.extend (s : State) (i : Nat) (input : List Byte) : State :=
  let v := sha384 (s.meas i ++ input)
  s.updSec (fun x => { x with meas := Tab.put (List.replicate 48 0#8) x.meas i v })

/-- Measurement 10 extended with the 64-byte record of a security event, whose contents the spec does not give. -/
def State.secEvent (s : State) : State :=
  let (n, s) := s.drawFree
  s.extend 10 (Config.freeBytes n 64)

end Sys2Proof.Machine
end

