-- ==== Sys2Proof/Machine/Host.lean ====
section
/-!
DEFINITION. Sys2Proof/Machine/Host.lean: the host interface's commands and events (ch. 18): consuming entries, doorbells,
completion lines, rings, interrupts, features, and the entries that are complete in themselves.
-/
namespace Sys2Proof.Machine
open Sys2Proof

/-! ### Consuming entries (R504, R518) -/

/-- The slots that launches have taken at consumption, and those whose job's completion waits to be written (R310, R311), with
their functions. -/
def State.slotsHeld (s : State) : List (Nat × Nat) :=
  s.cmds.filterMap (fun c => if c.st = .fresh then c.slot.map (fun k => (c.fn, k)) else none)
    ++ s.rings.flatMap (fun r => r.2.cqWait.filterMap (fun e => if e.2 then none else e.1.slot.map (fun k => (r.1 / 8, k))))

/-- The slots a tenant holds. -/
def State.jobsOf (s : State) (t : Nat) : Nat :=
  (s.jobs.filter (fun j => match j.2 with | some b => b.tenant == t | none => false)).length
    + (s.slotsHeld.filter (fun e => e.1 == t)).length

/-- A free job slot (R310 step 1): none where a quota, the module's bound, a supply-sag stage or a pending seal holds the
launch back, or in sealed tenancy another's decision slot (R311, R532, R539, R540, R603). -/
def State.slotFor (s : State) (t : Nat) : Option Nat :=
  if s.sag ≠ 0 ∨ bit (s.reg rSealStatus) 1 ∨ s.myTurn t = false ∨ bits (s.reg (rTen t 0x08)) 12 0 ≤ s.jobsOf t then none
  else (List.range 4096).find? (fun k => (s.job? k).isNone && !s.slotsHeld.any (fun e => e.2 == k))

/-- The 64 bytes of the next entry: from a cached line of a ring in SNOOP mode, else from host memory (R490, R515). -/
def State.entryBytes (s : State) (fn k : Nat) : List Byte :=
  let r := s.ring fn k
  let a := r.sqBase + 64 * (r.sqHead % 2 ^ r.sqLog2)
  match s.line? fn k .sq a with
  | some l => l.data
  | none => s.hostRead fn a 64

/-- The conditions of R504 for an opcode: CQ room, a job slot, fewer than 64 waits, no FENCE outstanding, fewer than 64
loads waiting. -/
def State.mayConsume (s : State) (fn k op : Nat) : Bool :=
  let r := s.ring fn k
  let mine := fun (p : Cmd → Bool) => (s.cmds.filter (fun c => c.fn == fn && p c)).length
  decide (r.owed + diff32 r.cqTail r.dbHead < 2 ^ r.cqLog2)
    && (!jobOp op || (s.slotFor fn).isSome)
    && (op != 8 || decide (mine (fun c => c.ring == k && c.op == 8) < 64))
    && mine (fun c => c.ring == k && c.op == 9) == 0
    && (op != 3 || decide (mine (fun c => (c.op == 3 || c.op == 4) && !s.loads.any (fun l => l.cmd == some c.id && l.started)) < 64))

/-- A tag put into the window of the last 1,024 consumed entries. -/
def Ring.remember (r : Ring) (w : WinEntry) : Ring :=
  { r with window := (r.window ++ [w]).drop ((r.window ++ [w]).length - 1024) }

/-- An entry consumed: answered where its tag is in the window, kept for execution else; a job entry takes its slot (R310). -/
def State.consume (s : State) (fn k : Nat) (bs : List Byte) : State :=
  let r := s.ring fn k
  let w := words bs
  let tag := w.getD 1 0
  let op := w.getD 0 0 % 256
  let seen := r.window.reverse.find? (fun e => e.tag == tag)
  let r := { r with sqHead := (r.sqHead + 1) % 2 ^ 32, owed := r.owed + 1 }
  let s := (s.regAdd (rRingCtr fn k 0) 1).acctHost fn 64
  match seen with
  | some e =>
    let s := (s.setRing fn k (r.remember { e with dup := true })).regAdd (rRingCtr fn k 1) 1
    match e.done with
    | some c => s.postCompl fn k c true
    | none => { s with cmds := s.cmds.map (fun x => if x.id = e.id then { x with dups := x.dups + 1 } else x) }
  | none =>
    let tmo := if w.getD 4 0 = 0 then r.tmoDef else w.getD 4 0
    let c : Cmd := { id := s.cmdCtr, fn := fn, ring := k, tag := tag, op := op, words := w, gcIn := s.gc
                     expires := if tmo = 0xFFFFFFFF then none else some (s.gc + 1000000 * max 1 tmo)
                     slot := if jobOp op then s.slotFor fn else none }
    let s := { s.setRing fn k (r.remember { tag := tag, id := c.id, job := jobOp op, dup := false, done := none }) with
                 cmds := s.cmds ++ [c], cmdCtr := s.cmdCtr + 1 }
    if op = 0 ∨ 0xF < op then s.bad c detReserved else s

/-- A page the function's translation cache takes, of 4,096 entries (R485, R487). -/
def State.atsTouch (s : State) (fn a : Nat) : State :=
  let c := s.fnCfg fn
  if c.ats && !c.atc.contains (a / 4096) then
    s.setFnCfg fn { c with atc := (c.atc ++ [a / 4096]).drop (c.atc.length + 1 - 4096) }
  else s

/-- CONSUME_ENTRY (R504): `h` is what the host has stored by the time the entry is read; a failed read is R488. -/
def execConsumeEntry (fn ring : Nat) (h : HostIn) (s : State) : Out :=
  .next (
    if s.fatal then s else
    let k := ring % 8
    let r := s.ring fn k
    if !s.fnExists fn || r.st ≠ .active || r.sqHead == r.dbTail then s
    else
      let s := s.hostStores fn h
      let a := r.sqBase + 64 * (r.sqHead % 2 ^ r.sqLog2)
      if h.fail && (s.line? fn k .sq a).isNone then s.ringError fn k errReadFail
      else
        let bs := s.entryBytes fn k
        if !s.mayConsume fn k (byteAt bs 0) then s
        else
          let s := if r.mode = 2 ∧ (s.line? fn k .sq a).isNone then
            s.addLine { fn := fn, ring := k, addr := a, kind := .sq, data := bs } else s
          (s.atsTouch fn a).consume fn k bs)

/-! ### Doorbells (R512 to R515) -/

/-- A count is not older than the one held (R512). -/
def newer (new old : Nat) : Bool := decide (diff32 new old < 2 ^ 31)

/-- Counts taken by a ring: an overrun puts it in ERROR (R500, R512). -/
def State.takeCounts (s : State) (fn k : Nat) (tail head : Option Nat) : State :=
  let r := s.ring fn k
  let t := match tail with | some x => if newer x r.dbTail then x % 2 ^ 32 else r.dbTail | none => r.dbTail
  let hd := match head with | some x => if newer x r.dbHead then x % 2 ^ 32 else r.dbHead | none => r.dbHead
  if 2 ^ r.sqLog2 < diff32 t r.sqHead then s.ringError fn k errSqOverrun
  else if 2 ^ r.cqLog2 < diff32 r.cqTail hd then (s.setRing fn k { r with dbTail := t }).ringError fn k errCqOverrun
  else s.setRing fn k { r with dbTail := t, dbHead := hd }

/-- The counts that a BAR2 write of `size` bytes at an offset gives: 64 bits both, 32 bits at 0 sq_tail, at 4 cq_head (R513). -/
def dbCounts (off size v : Nat) : Option Nat × Option Nat :=
  if size = 8 then (some (v % 2 ^ 32), some (v / 2 ^ 32 % 2 ^ 32))
  else if off % 8 = 0 then (some (v % 2 ^ 32), none) else (none, some (v % 2 ^ 32))

/-- DOORBELL_WRITE: a write of BAR2, whose page k is ring k's; the rest of a page, and any write that is not of 4 or 8 bytes
naturally aligned, is discarded (R9, R492, R513). -/
def execDoorbellWrite (fn off size value : Nat) (s : State) : Out :=
  .next (
    if s.fatal then s else
    let k := off / 0x1000
    if s.fnExists fn ∧ (size = 4 ∨ size = 8) ∧ off % size = 0 ∧ off % 0x1000 < 8 ∧ k < 8 ∧ (s.ring fn k).st = .active then
      s.takeCounts fn k (dbCounts off size value).1 (dbCounts off size value).2
    else s)

/-- The doorbell word read in POLL or SNOOP mode; a failed read puts the ring in ERROR (R488). -/
def State.readDoorbell (s : State) (fn k : Nat) (h : HostIn) : State :=
  let s := s.hostStores fn h
  if h.fail then s.ringError fn k errReadFail
  else
    let a := (s.ring fn k).dbAddr
    let bs := s.hostRead fn a 8
    ((s.acctHost fn 8).atsTouch fn a).takeCounts fn k (some (leAt bs 0 4)) (some (leAt bs 4 4))

/-- DOORBELL_POLL: the ring is in POLL mode and its interval has passed (R514). -/
def execDoorbellPoll (fn ring : Nat) (h : HostIn) (s : State) : Out :=
  .next (
    if s.fatal then s else
    let k := ring % 8
    let r := s.ring fn k
    if !s.fnExists fn || r.st ≠ .active || r.mode ≠ 1 || decide (s.gc < r.pollGc) then s
    else ((s.setRing fn k { r with pollGc := s.gc + 100 * r.poll }).regAdd (rHif fn 1) 1).readDoorbell fn k h)

/-- DOORBELL_SNOOP: a host write takes the pinned line; the device reads it again (R515). -/
def execDoorbellSnoop (fn ring : Nat) (h : HostIn) (s : State) : Out :=
  .next (
    if s.fatal then s else
    let k := ring % 8
    let r := s.ring fn k
    if !s.fnExists fn || r.st ≠ .active || r.mode ≠ 2 then s
    else (s.regAdd (rHif fn 0) 1).readDoorbell fn k h)

/-! ### Completion lines (R516, R517) -/

/-- CQ_LINE_EVICT: a completion line is written back with DirtyEvict; its bytes lie in the write-back buffer. -/
def execCqLineEvict (fn ring addr : Nat) (s : State) : Out :=
  .next (if s.fatal then s else match s.line? fn (ring % 8) .cq addr with
    | some l => if l.evict then s else { s with lines := (s.lines.erase l) ++ [{ l with evict := true }] }
    | none => s)

/-- CQ_LINE_SNOOP: the host gets the line's bytes, from the line, which the device then gives up, or from the write-back
buffer, a crossing. -/
def execCqLineSnoop (fn ring addr : Nat) (inv : Bool) (s : State) : Out :=
  .next (if s.fatal then s else match s.line? fn (ring % 8) .cq addr with
    | some l =>
      let t := s.hostWrite fn l.addr l.data
      if l.evict then
        ({ t with lines := (t.lines.erase l) ++ [{ l with given := true }] } : State).regAdd (rHif fn 2) 1
      else if inv then t.dropLine l else t.dropLine l
    | none => s)

/-- Completions that waited for a line written in order. -/
def State.flushWait (s : State) (fn k : Nat) : State :=
  let r := s.ring fn k
  r.cqWait.foldl (fun s e => s.postCompl fn k e.1 e.2) (s.setRing fn k { r with cqWait := [] })

/-- EVICT_RESPONSE: GO_WritePull sends the buffered bytes, GO_WritePull_Drop (`drop`) ends the eviction without data; the
host never receives two differing versions. -/
def execEvictResponse (fn ring addr : Nat) (drop : Bool) (s : State) : Out :=
  .next (if s.fatal then s else match s.line? fn (ring % 8) .cq addr with
    | some l =>
      if !l.evict then s
      else
        let s := s.dropLine l
        (if drop then s else s.hostWrite fn l.addr l.data).flushWait fn (ring % 8)
    | none => s)

/-- SQ_LINE_SNOOP: a stale copy of a submission line is invalidated (R515). -/
def execSqLineSnoop (fn ring addr : Nat) (s : State) : Out :=
  .next (if s.fatal then s else match s.line? fn (ring % 8) .sq addr with | some l => s.dropLine l | none => s)

/-! ### Enabling and disabling rings (R498, R499) -/

/-- Every host line of a ring released; completion lines are written back (R490). -/
def State.releaseLines (s : State) (fn k : Nat) : State :=
  let mine := s.lines.filter (fun l => l.fn == fn && l.ring == k)
  let s := mine.foldl (fun s l => if l.kind = .cq then s.hostWrite fn l.addr l.data else s) s
  { s with lines := s.lines.filter (fun l => !(l.fn == fn && l.ring == k)) }

/-- The conditions of R498 on a ring's registers and the module. -/
def State.mayEnable (s : State) (fn : Nat) (r : Ring) : Bool :=
  s.bar 3 && s.stage == 3 && bit (s.reg rFeatStatus) 0 && s.present fn && (r.sqBase % 4096 == 0) && (r.cqBase % 4096 == 0)
    && decide (6 ≤ r.sqLog2) && decide (r.sqLog2 ≤ 16) && decide (6 ≤ r.cqLog2) && decide (r.cqLog2 ≤ 16)
    && r.mode != 3 && (r.mode != 2 || (s.feature 1 && (s.fnCfg fn).ats)) && (r.mode == 0 || r.dbAddr % 64 == 0)

/-- RING_ENABLE: a write of RING_CTL with enable 1 (R498). -/
def execRingEnable (fn ring ctl : Nat) (s : State) : Out :=
  .next (
    let k := ring % 8
    let r := s.ring fn k
    if !s.fnExists fn || !s.bar 3 || !bit ctl 0 then s
    else if r.st ≠ .disabled then s.setRing fn k { r with ctl := setBit r.ctl 3 (bit ctl 3) }
    else
      let r := { r with ctl := ctl % 16 }
      if s.mayEnable fn r then
        let s := s.setRing fn k { r with st := .active, err := 0, sqHead := 0, cqTail := 0, dbTail := 0, dbHead := 0
                                         window := [], irqN := 0, pollGc := s.gc + 100 * r.poll }
        if r.mode = 2 then s.addLine { fn := fn, ring := k, addr := r.dbAddr, kind := .db, data := [] } else s
      else (s.setRing fn k r).ringError fn k errConfig)

/-- RING_DISABLE: a write of enable 0 makes an ACTIVE or ERROR ring DRAINING (R499). -/
def execRingDisable (fn ring : Nat) (s : State) : Out :=
  .next (
    let k := ring % 8
    let r := s.ring fn k
    if !s.fnExists fn || !s.bar 3 || !(r.st = .active ∨ r.st = .error) then s
    else ((s.setRing fn k { r with ctl := setBit r.ctl 0 false, st := .draining }).releaseLines fn k).flushWait fn k)

/-- RING_DRAIN_END: every consumed entry has its completion written (R499). -/
def execRingDrainEnd (fn ring : Nat) (s : State) : Out :=
  .next (
    if s.fatal then s else
    let k := ring % 8
    let r := s.ring fn k
    if r.st = .draining ∧ r.owed = 0 then (s.setRing fn k { r with st := .disabled }).releaseLines fn k else s)

/-! ### Interrupts (R526) -/

/-- IRQ_DELAY_EXPIRE: irq_time_us has passed since the first uncovered completion. -/
def execIrqDelayExpire (fn ring : Nat) (s : State) : Out :=
  .next (
    if s.fatal then s else
    let k := ring % 8
    let r := s.ring fn k
    if r.irqEn && decide (0 < r.irqN) && decide (r.irqGc + 1000 * bits r.irq 25 16 ≤ s.gc) then
      (s.setRing fn k { r with irqN := 0 }).raise fn k
    else s)

/-- MSIX_UNMASK: the vector's mask bit is cleared; a pending vector sends its message (R526). -/
def execMsixUnmask (fn vec : Nat) (s : State) : Out :=
  .next (
    if 9 ≤ vec || !s.fnExists fn || !s.bar 3 then s
    else
      let s := s.setReg (rMsix fn vec + 12) (setBit (s.reg (rMsix fn vec + 12)) 0 false)
      if bit (s.reg (rPba fn)) vec && (s.fnCfg fn).msix then
        (s.setReg (rPba fn) (setBit (s.reg (rPba fn)) vec false)).msiSend fn vec
      else s)

/-! ### Functions and the link (R485, R486, R527) -/

/-- What a reset of a function does to its rings, entries, jobs and reservations (R527). -/
def State.resetFn (s : State) (fn : Nat) : State :=
  let s := (List.range 8).foldl (fun s k => (s.releaseLines fn k).setRing fn k {}) s
  let s := { s with cmds := s.cmds.filter (fun c => c.fn != fn), staged := s.staged.filter (fun e => e.1 / 0x400000 != fn)
                    reserves := s.reserves.filter (fun r => r.tenant != fn) }
  let s := s.jobs.foldl (fun s j => match j.2 with
    | some b => if b.ref.fn = fn then s.stopJob (some j.1) .cancelled 0 else s
    | none => s) s
  let s := (List.range 8).foldl (fun s k => (List.range 5).foldl (fun s i => s.setReg (rRingCtr fn k i) 0) s) s
  let s := (List.range 3).foldl (fun s i => s.setReg (rHif fn i) 0) s
  let s := (List.range 9).foldl (fun s v => ((((s.setReg (rMsix fn v) 0).setReg (rMsix fn v + 8) 0).setReg (rMsix fn v + 12) 1))) s
  ((s.setReg (rPba fn) 0).setFnCfg fn {}).bwRecompute .release

/-- VF_FLR (R527). -/
def execVfFlr (fn : Nat) (s : State) : Out :=
  .next (if 1 ≤ fn ∧ s.fnExists fn then s.resetFn fn else s)

/-- VF_ENABLE: the VFs appear, or vanish with what a reset of each does. -/
def execVfEnable (on : Bool) (s : State) : Out :=
  .next (
    if on then (if s.pfOnly || decide (s.stage = 0) then s else { s with vfEn := true })
    else { (List.range 17).tail.foldl State.resetFn s with vfEn := false })

/-- D3HOT_TRANSITION: entered only with every ring DISABLED; `d3` false returns to D0. -/
def execD3hotTransition (fn : Nat) (d3 : Bool) (s : State) : Out :=
  .next (
    if !s.fnExists fn then s
    else if d3 && (List.range 8).any (fun k => (s.ring fn k).st != .disabled) then s
    else s.setFnCfg fn { s.fnCfg fn with d3 := d3 })

/-- ATS_INVALIDATE: the named pages leave the function's translation cache (R485). -/
def execAtsInvalidate (fn : Nat) (pages : List Nat) (s : State) : Out :=
  .next (s.setFnCfg fn { s.fnCfg fn with atc := (s.fnCfg fn).atc.filter (fun p => !pages.contains p) })

/-- The link leaves IDE and its keys are discarded (R587). -/
def State.ideOff (s : State) : State := (s.setField rLinkInfo 10 10 0).updSec (fun x => { x with ideSets := [], ideOn := none })

/-- PCIE_LINK_RETRAIN: `rate` 1 to 3 as LINK_INFO codes it, 0 down. Below 64 GT/s only the PF runs; a return to 64 GT/s
restores full function after a PF function-level reset (R486, R489). -/
def execPcieLinkRetrain (rate width : Nat) (cxl : Bool) (s : State) : Out :=
  .next (
    if 3 < rate || !([4, 8, 16].contains width) then s
    else
      let full := decide (rate = 3)
      let v := rate + 2 ^ 4 * (if rate = 0 then 0 else width) + 2 ^ 9 * (cxl && full && bit s.nv.active.2.flags 1).toNat
        + 2 ^ 10 * (bit (s.reg rLinkInfo) 10 && full).toNat
      let s := s.setReg rLinkInfo v
      if rate = 0 then s.ideOff
      else if full then s
      else { (List.range 17).tail.foldl State.resetFn s with vfEn := false, pfOnly := true })

/-! ### Features (R495, R496) -/

/-- The dependencies of R496. -/
def featDeps (f : Nat) : Bool := (!bit f 6 || bit f 9) && (!bit f 8 || bit f 13)

/-- FEAT_COMMIT: a write of `value` to FEAT_COMMIT; measurement 9 is extended (R577). -/
def execFeatCommit (value : Nat) (s : State) : Out :=
  .next (
    if !bit value 0 || !s.bar 0 || bit (s.reg rFeatStatus) 0 then s
    else
      let a := s.reg rFeatAccept
      let ok := s.bar 3 && s.stage == 3 && (a &&& s.reg rFeatOffered) == a && featDeps a
      if ok then
        let s : State := { s.setReg rFeatStatus (setBit (s.reg rFeatStatus) 0 true) with feat := a }
        s.extend 9 (leBytes 16 a ++ leBytes 8 s.fingerprint)
      else s.setReg rFeatStatus (setBit (s.reg rFeatStatus) 1 true))

/-! ### Entries complete in themselves -/

/-- The issuer of a host entry's signal operation. -/
def Cmd.issuer (c : Cmd) : Issuer := { node := hubN, unit := 0xF, tag := c.id % 65536 }

/-- A function may name a signal (R491, R522). -/
def State.fnSignal (s : State) (fn sig : Nat) : Bool := fn == 0 || s.sigTenant sig == fn

/-- SIGNAL_SET and SIGNAL_ADD: applied at the home, then complete; out of range, the home records and the entry is
refused (R522). -/
def State.hostSignal (s : State) (c : Cmd) (op : SigOp) : State :=
  let t := s.hubSignal op (c.w 8) (c.w 9) c.fn .host c.issuer
  if s.fnSignal c.fn (c.w 8) then t.finish c .ok 0 else t.bad c detFunction

/-- SIGNAL_SET. -/
def execSignalSet (fn ring : Nat) (s : State) : Out :=
  .next (if s.fatal then s else s.execute fn (ring % 8) 6 ⟨[], false⟩ (fun c s => s.hostSignal c .set))

/-- SIGNAL_ADD. -/
def execSignalAdd (fn ring : Nat) (s : State) : Out :=
  .next (if s.fatal then s else s.execute fn (ring % 8) 7 ⟨[], false⟩ (fun c s => s.hostSignal c .add))

/-- SIGNAL_WAIT: the WAIT goes to the home; the wake completes the entry (R522). -/
def execSignalWait (fn ring : Nat) (s : State) : Out :=
  .next (if s.fatal then s else s.execute fn (ring % 8) 8 ⟨[], false⟩ (fun c s =>
    let t := (s.running c).hubSignal .wait (c.w 8) (c.w 9) c.fn .host c.issuer
    if s.fnSignal c.fn (c.w 8) then t else t.bad c detFunction))

/-- The wait of a host entry ends as its wake says (R510, R511). -/
def State.hostWake (s : State) (tag count : Nat) (o : WakeOutcome) : State :=
  match s.cmds.find? (fun c => c.op == 8 && c.st == .running && c.id % 65536 == tag) with
  | none => s
  | some c =>
    match o with
    | .satisfied => s.finish c .ok count
    | .abandoned => s.finish c .abandoned count
    | .refused => s.bad c detFunction
    | .retry => { s with cmds := s.cmds.map (fun x => if x.id = c.id then { x with retry := true } else x) }

/-- FENCE: complete once every entry before it has its completion written: on its ring (scope 0) or its function (1)
(R523). -/
def execFence (fn ring : Nat) (s : State) : Out :=
  .next (
    if s.fatal then s else
    let k := ring % 8
    let s := s.execute fn k 9 ⟨[], false⟩ (fun c s => s.running c)
    match s.cmds.find? (fun c => c.fn == fn && c.ring == k && c.op == 9 && c.st == .running) with
    | none => s
    | some c =>
      let mine := decide ((s.ring fn k).owed = 1)
      let others := s.cmds.all (fun x => x.fn != fn || decide (c.id ≤ x.id))
      if mine && (!bit (c.w 8) 0 || others) then s.finish c .ok 0 else s)

/-- The fields of a RESERVE_BW payload (R395) are well formed. -/
def Cmd.reserveOk (c : Cmd) : Bool :=
  bits (c.w 8) 7 5 == 0 && bits (c.w 8) 31 16 == 0 && bits (c.w 9) 31 11 == 0
    && (List.range 6).all (fun i => c.w (10 + i) == 0)
    && (bit (c.w 8) 4 || (bits (c.w 8) 15 8 != 0 && decide (1 ≤ c.w 9) && decide (c.w 9 ≤ 1750)))

/-- The reservations with one set in place of any of its number. -/
def State.withReserve (s : State) (r : Reserve) : State :=
  { s with reserves := s.reserves.filter (fun x => !(x.tenant == r.tenant && x.id == r.id)) ++ [r] }

/-- RESERVE_BW with op 0 (R396, R532): admitted within bw_max, 14.0 TB/s in all, and on every stack it raises 1,750 GB/s
and what degradation has left. -/
def execReserveBwSet (fn ring : Nat) (s : State) : Out :=
  .next (
    if s.fatal then s else
    match s.nextCmd fn (ring % 8) 0xC with
    | none => s
    | some c =>
      if bit (c.w 8) 4 then s
      else if c.breaks.isSome || !c.reserveOk then s.bad c detReserved
      else if !s.feature 13 then s.bad c detFeature
      else
        let t := s.withReserve { tenant := fn, id := bits (c.w 8) 3 0, mask := bits (c.w 8) 15 8, rate := c.w 9 }
        let all := List.range 8
        let mine := ((t.reserves.filter (fun r => r.tenant == fn)).map
          (fun (r : Reserve) => r.rate * (all.filter (bit r.mask)).length)).sum
        let ok := decide ((all.map t.rsvSum).sum ≤ 14000) && decide (mine ≤ bits (s.reg (rTen fn 0x1C)) 13 0)
          && all.all (fun st => decide (t.rsvSum st ≤ s.rsvSum st) ||
              (decide (t.rsvSum st ≤ 1750) && decide (8 * t.rsvSum st ≤ t.stackCap st)))
        if ok then t.finish c .ok 0 else s.finish c .refusedQuota 3)

/-- RESERVE_BW with op 1 (R395, R397). -/
def execReserveBwRelease (fn ring : Nat) (s : State) : Out :=
  .next (
    if s.fatal then s else
    match s.nextCmd fn (ring % 8) 0xC with
    | none => s
    | some c =>
      if !bit (c.w 8) 4 then s
      else if c.breaks.isSome || !c.reserveOk then s.bad c detReserved
      else if !s.feature 13 then s.bad c detFeature
      else
        let t := { s with reserves := s.reserves.filter (fun r => !(r.tenant == fn && r.id == bits (c.w 8) 3 0)) }
        (t.bwRecompute .release).finish c .ok 0)

end Sys2Proof.Machine
end

