-- ==== Sys2Proof/Machine/MemTile.lean ====
section
/-!
DEFINITION. Sys2Proof/Machine/MemTile.lean: the memory tile as the mesh reaches it (ch. 07): owner, range and alignment
checks, FILL and COPY, ready bits, scrub, and the control requests that reach a cell's contexts.
-/
namespace Sys2Proof.Machine
open Sys2Proof

/-- The debug lock state is not LOCKED (R588): the debug cell window reaches memory tiles. -/
def State.dbgOpen (s : State) : Bool := s.sec.dbg != 0

/-- Supply-sag stages and deep idle stop the scrub (R598, R603). -/
def State.scrubStopped (s : State) : Bool := s.sag != 0 || s.arrayHeld

/-- The owner check of R189: which accesses of which source class a memory tile performs. A Slipway port's packets carry its
gallery's number as their tag (log 74). -/
def State.ownerAdmits (s : State) (cell : Nat) (p : Packet) : Bool :=
  let tag := (s.cell cell).owner
  match p.cls with
  | .ferryman | .loader | .mgmt => true
  | .engine => tag != 0 && tag == p.tenant
  | .slipway => (s.galleryOf cell).isSome && s.galleryOf cell == some p.tag && (s.gallery? p.tag).any (fun g => g.tenant == p.tenant)
  | .cell => tag == p.tenant && s.goodCell p.src && (s.galleryOf cell).isSome && s.galleryOf p.src == s.galleryOf cell
  | .host => s.dbgOpen && !(s.cell cell).fenced
  | .cache => false

/-- A mesh access of 1 to 64 B, naturally aligned and inside the tile (R185, R190). -/
def meshRangeOk (a n : Nat) : Bool := [1, 2, 4, 8, 16, 32, 64].contains n && a % n == 0 && decide (a + n ≤ memtSize)

/-- The check a memory-tile access meets: ACCESS first, then RANGE (R189, R190), with its record. -/
def State.memtCheck (s : State) (cell : Nat) (p : Packet) (a : Nat) (rangeOk : Bool) : MStatus × State :=
  let r := { noRec with node := cell, unit := 2, tenant := p.tenant, addr := a, idx0 := p.src, extra1 := p.cls.ctorIdx }
  if !s.ownerAdmits cell p then (.access, s.record .memtAccess r)
  else if !rangeOk then (.range, s.record .memtRange r)
  else (.ok, s)

/-- Errors arise in granules of a memory tile, counted from the one that holds offset `a`: whether the code can only detect
one, or corrects it. A read meets them later (R195). -/
def Cell.arise (c : Cell) (a : Nat) (found : List (Nat × Bool)) : Cell :=
  let here := found.filter (fun f => decide (a / 8 + f.1 < memtSize / 8))
  { c with memErr := here.foldl (fun t (f : Nat × Bool) => Tab.put 0 t (a / 8 + f.1) (if f.2 then 2 else 1)) c.memErr }

/-- A read of [a, a+n) of a memory tile by a reader that belongs to no context: the code checks its granules; poison is
recorded the first time it is found (R195, R196). -/
def State.memtSense (s : State) (cell a n : Nat) : State :=
  let s := s.setCell cell ((s.cell cell).sense a n)
  s.memtPoison cell ((s.cell cell).poisoned a n) none

/-- A read of a memory tile: its status and data; a poisoned granule answers POISON (R189, R195, R196). -/
def State.memtRead (s : State) (cell : Nat) (p : Packet) (a n : Nat) (rangeOk : Bool) : MStatus × List Byte × State :=
  match s.memtCheck cell p a rangeOk with
  | (.ok, s) =>
    let t := s.memtSense cell a n
    (if (t.cell cell).poisoned a n = [] then .ok else .poison, (t.cell cell).mem.readBytes a n, t)
  | (st, s) => (st, List.replicate n 0#8, s)

/-- Bytes written into a memory tile through the narrow port: a granule covered in part is read, modified and written, and stays
poisoned where it was (R182, R196, R201). -/
def State.memtStore (s : State) (cell a : Nat) (bs : List Byte) : State :=
  let part := rmwGrans a bs.length
  let s := part.foldl (fun s g => s.memtSense cell (8 * g) 8) s
  s.setCell cell (((s.cell cell).memWrite a bs).count .memtEvtRmw (if part = [] then 0 else 1))

/-- A write of a memory tile: its status (R189). -/
def State.memtWrite (s : State) (cell : Nat) (p : Packet) (a : Nat) (bs : List Byte) (rangeOk : Bool) : MStatus × State :=
  match s.memtCheck cell p a rangeOk with
  | (.ok, s) => (.ok, s.memtStore cell a bs)
  | (st, s) => (st, s)

/-- A cell accepts mesh accesses now: it is good, not in retention (R200); accesses that arrive else are held back. -/
def State.cellTakes (s : State) (p : Packet) : Bool := s.cellOpen p.dst

/-- RD at a memory tile (R189). -/
def State.memtRd (s : State) (p : Packet) (a n : Nat) : State :=
  s.arrive p (fun s =>
    let (st, d, s) := s.memtRead p.dst p a n (meshRangeOk a n)
    s.send (s.respTo p (.rdData st d)))

/-- WR at a memory tile (R189). -/
def State.memtWr (s : State) (p : Packet) (a : Nat) (bs : List Byte) : State :=
  s.arrive p (fun s =>
    let (st, s) := s.memtWrite p.dst p a bs (meshRangeOk a bs.length)
    s.send (s.respTo p (.wrAck st)))

/-- RD at a memory tile (R189); at a slice, `sliceRead` answers (R390). `found` lists the granules of the tile, counted from the
one addressed, or at a slice the 32-byte units of the range, in which an error has arisen and whether the code can only detect
it (R195, R383). -/
def execRd (p : Packet) (found : List (Nat × Bool)) (s : State) : Out :=
  .next (
    if s.fatal then s else
    match p.body with
    | .rd a n =>
      if s.goodCell p.dst then
        (if s.cellTakes p then (s.setCell p.dst ((s.cell p.dst).arise a found)).memtRd p a n else s)
      else if s.goodNode p.dst then if !s.sliceServes p a n then s else s.arrive p (fun s =>
        let s := if 0x900 ≤ p.dst ∧ p.dst = 0x900 + stackOf a ∧ a < 2 ^ 39 ∧ 0 < n ∧ n ≤ 256 then
            s.sliceFound a (found.filter (fun f => 32 * f.1 < a % 32 + n)) else s
        let (st, d, s) := s.sliceRead p a n
        s.send (s.respTo p (.rdData st d)))
      else s.send p
    | _ => s)

/-- WR at a memory tile or a slice (R189). -/
def execWr (p : Packet) (s : State) : Out :=
  .next (
    if s.fatal then s else
    match p.body with
    | .wr a bs =>
      if s.goodCell p.dst then (if s.cellTakes p then s.memtWr p a bs else s)
      else if s.goodNode p.dst then if !s.sliceServes p a bs.length then s else s.arrive p (fun s =>
        let (st, s) := s.sliceWrite p a bs
        s.send (s.respTo p (.wrAck st)))
      else s.send p
    | _ => s)

/-- A mesh read or write waits at a cell's narrow port (R180). -/
def State.narrowHead (s : State) (cell : Nat) : Option Packet :=
  s.flight.find? (fun p => p.dst == cell && (match p.body with | .rd .. | .wr .. => true | _ => false))

/-! ### FILL and COPY -/

/-- The fields of the payload of R191. -/
structure FillCopy where
  op : Nat
  dst : Nat
  src : Nat
  len : Nat
  pat : Nat
  sig : Nat
  sigEn : Bool
  sigVal : Nat
  deriving DecidableEq, Repr

def FillCopy.ofBytes (b : List Byte) : FillCopy :=
  { op := leAt b 0 4 % 4, dst := bits (leAt b 4 4) 19 0, src := bits (leAt b 8 4) 19 0, len := bits (leAt b 12 4) 20 0
    pat := leAt b 16 8, sig := bits (leAt b 24 4) 13 0, sigEn := bit (leAt b 24 4) 14, sigVal := leAt b 28 4 }

/-- The field, alignment and range checks of R191 and R194; `copy` is the operation of the row. -/
def fillCopyOk (b : List Byte) : Bool :=
  let f := FillCopy.ofBytes b
  let w := fun i => leAt b (4 * i) 4
  (f.op == 1 || f.op == 2) && w 0 == f.op && w 1 == f.dst && w 2 == f.src && w 3 == f.len && bits (w 6) 31 15 == 0
    && f.dst % 64 == 0 && f.src % 64 == 0 && f.len % 64 == 0 && decide (64 ≤ f.len)
    && decide (f.dst + f.len ≤ memtSize)
    && (if f.op = 1 then f.src == 0 else f.pat == 0 && decide (f.src + f.len ≤ memtSize))

/-- FILL (R192). -/
def Cell.fill (c : Cell) (dst len pat : Nat) : Cell :=
  let p := leBytes 8 pat
  c.memWrite dst ((List.range len).map (fun k => p.getD ((dst + k) % 8) 0#8))

/-- COPY (R192, R194): poison travels granule by granule. -/
def Cell.copy (c : Cell) (dst src len : Nat) : Cell :=
  let bad := (List.range (len / 8)).filter (fun g => Tab.get false c.poison (src / 8 + g))
  let c' := c.memWrite dst (c.mem.readBytes src len)
  { c' with poison := bad.foldl (fun t g => Tab.put false t (dst / 8 + g) true) c'.poison
            seen := bad.foldl (fun t g => Tab.put false t (dst / 8 + g) false) c'.seen }

/-- A FILL or COPY request reaches a memory tile: checked, then queued behind the one in progress; a full queue holds it back on
the mesh (R193, R194). A request with a reserved operation is refused under either row. -/
def State.mtOpArrive (s : State) (p : Packet) (op : Nat) : State :=
  match p.body with
  | .mtOp b =>
    let o := (FillCopy.ofBytes b).op
    if s.goodCell p.dst ∧ s.cellTakes p ∧ (o = op ∨ o = 0 ∨ o = 3) ∧ (s.cell p.dst).mtOps.length < 5 then
      s.arrive p (fun s =>
        match s.memtCheck p.dst p (FillCopy.ofBytes b).dst (fillCopyOk b) with
        | (.ok, s) => s.setCell p.dst { s.cell p.dst with mtOps := (s.cell p.dst).mtOps ++ [p] }
        | (st, s) => s.send (s.respTo p (.opDone st)))
    else s
  | _ => s

/-- MT_OP_FILL arrives (R191 to R193). -/
def execMtOpFill (p : Packet) (s : State) : Out := .next (if s.fatal then s else s.mtOpArrive p 1)

/-- MT_OP_COPY arrives. -/
def execMtOpCopy (p : Packet) (s : State) : Out := .next (if s.fatal then s else s.mtOpArrive p 2)

/-- FILL_COPY_COMPLETE: the operation at the head is performed and complete; its completion goes back and, where it is
OK and sig_en is set, its signal is added to afterwards (R194). -/
def execFillCopyComplete (cell : Nat) (s : State) : Out :=
  .next (
    if s.fatal then s else
    let c := s.cell cell
    match c.mtOps with
    | [] => s
    | p :: rest =>
      if !s.cellOpen cell then s
      else match p.body with
      | .mtOp b =>
        let f := FillCopy.ofBytes b
        let s := if f.op = 2 then s.memtSense cell f.src f.len else s
        let bad := if f.op = 2 then (s.cell cell).poisoned f.src f.len else []
        let c := s.cell cell
        let c := { (if f.op = 1 then c.fill f.dst f.len f.pat else c.copy f.dst f.src f.len) with mtOps := rest }
        let s := (s.setCell cell c).send (s.respTo p (.opDone (if bad = [] then .ok else .poison)))
        if f.sigEn ∧ bad = [] then
          let r := Tab.get 0 c.route f.sig
          s.send { src := cell, dst := if r = 0 then hubN else r - 1, tenant := p.tenant, cls := p.cls, share := p.share, tag := 0
                   body := .sig .add f.sig f.sigVal { node := cell, unit := 0xF, tag := 0 } }
        else s
      | _ => s)

/-! ### Ready bits and control requests -/

/-- The source classes CTRL is accepted from (R237). -/
def ctrlClass : SrcClass → Bool
  | .ferryman | .loader | .slipway | .mgmt => true
  | _ => false

/-- A control request that reaches a cell: refused with ACCESS from any other class, performed by `run` else, and
answered (R236, R237). -/
def State.ctrlArrive (s : State) (p : Packet) (run : CtrlReq → State → Option State) : State :=
  match p.body with
  | .ctrl q =>
    if s.goodCell p.dst ∧ s.cellTakes p ∧ (run q s).isSome then
      s.arrive p (fun s =>
        if ctrlClass p.cls then ((run q s).getD s).send (s.respTo p (.opDone .ok))
        else s.send (s.respTo p (.opDone .access)))
    else s
  | _ => s

/-- READY_BIT_SET (R188). -/
def execReadyBitSet (p : Packet) (s : State) : Out :=
  .next (if s.fatal then s else s.ctrlArrive p (fun q s => match q with
    | .readySet r => some (s.setCell p.dst { s.cell p.dst with ready := setBit (s.cell p.dst).ready (r % 16) true })
    | _ => none))

/-- READY_BIT_CLEAR (R188): acknowledged after earlier grants have delivered, which a command that runs whole has. -/
def execReadyBitClear (p : Packet) (s : State) : Out :=
  .next (if s.fatal then s else s.ctrlArrive p (fun q s => match q with
    | .readyClear r => some (s.setCell p.dst { s.cell p.dst with ready := setBit (s.cell p.dst).ready (r % 16) false })
    | _ => none))

/-- REGION_FENCE (R293, R294): the cell's owner tag becomes the fence value and its contexts take no new task. A CTRL that halts
the cell or lets it go on is taken here too (R236, R653). -/
def execRegionFence (p : Packet) (s : State) : Out :=
  .next (if s.fatal then s else s.ctrlArrive p (fun q s =>
    let c := s.cell p.dst
    match q with
    | .fence =>
      some (s.setCell p.dst { c with fenced := true, owner := fenceTag
                                     ownerSaved := if c.fenced then c.ownerSaved else c.owner })
    | .unfence o => some (s.setCell p.dst { c with fenced := false, owner := o })
    | .halt on => some (s.setCell p.dst { c with halted := on, stepLeft := 0, stepEnd := 0 })
    | _ => none))

/-- A matrix context bound to a task (R83, R104): READY where its first command needs no operands, LATE else. -/
def Cell.bindMt (c : Cell) (f : ArrFeat) (k job task start : Nat) (pair : Bool) : Cell :=
  let x : MtCtx := { job := some job, task := task, bindTag := c.bindCtr, ptr := start, pair := pair }
  let c := { c with bindCtr := (c.bindCtr + 1) % 2 ^ 16 }
  let c := c.setMtx k { x with st := if c.mtOpAt f x = some 1 then .late else .ready }
  if pair then c.setMtx (k + 1) { st := .partner, job := some job, task := task } else c

/-- A vector context bound to a task (R118). -/
def Cell.bindVt (c : Cell) (k job task start : Nat) : Cell :=
  let part := Tab.get {} c.parts k
  let c' := { c with bindCtr := (c.bindCtr + 1) % 2 ^ 16 }
  c'.setVtx k { st := .ready, job := some job, task := task, bindTag := c.bindCtr, idx := start, part := part, vl := part.vrCap }

/-- CONTEXT_BIND: the contexts the request names are bound where they are enabled and IDLE (R118, R324). -/
def execContextBind (p : Packet) (s : State) : Out :=
  .next (if s.fatal then s else s.ctrlArrive p (fun q s => match q with
    | .bind k mt vt pair ms vs job task =>
      let c := s.cell p.dst
      let c := if mt ∧ c.cmdCount ≠ 0 ∧ (c.mtx k).st = .idle then c.bindMt s.arrFeat k job task ms pair else c
      let c := if vt ∧ (Tab.get {} c.parts k).vrCap ≠ 0 ∧ (c.vtx k).st = .idle then c.bindVt k job task vs else c
      some ((s.setCell p.dst c).markOpen p.dst)
    | _ => none))

/-! ### Scrub and port rule -/

/-- MEMT_SCRUB: the next 64-byte word is read; `found` lists the granules of the tile, counted from that word's first, in which an
error has arisen and whether the code can only detect it (R195 to R198). -/
def execMemtScrub (cell : Nat) (found : List (Nat × Bool)) (s : State) : Out :=
  .next (
    if !s.cellOpen cell || s.scrubStopped then s
    else
      let c := s.cell cell
      let a := 64 * c.scrubPos
      let c := c.arise a found
      let fixed := ((c.memErr.filter (fun g => granIn a 64 g.1 && g.2 == 1)).map Prod.fst)
      let again := fixed.any (fun g => c.scrubPrev.contains g)
      let cur := c.scrubCur ++ fixed
      let degraded := again || (decide (c.scrubCur.length ≤ 8) && decide (8 < cur.length))
      let wrapEnd := decide (c.scrubPos + 1 = 16384)
      let s := (s.setCell cell { c with scrubPos := if wrapEnd then 0 else c.scrubPos + 1, scrubCur := if wrapEnd then [] else cur
                                        scrubPrev := if wrapEnd then cur else c.scrubPrev }).memtSense cell a 64
      if degraded then s.record .memtDegraded { noRec with node := cell, unit := 2, idx0 := cur.length } else s)

/-- WIDE_PORT_YIELD (R183): once the narrow port's head request has been refused for 64 A-cycles, the wide port withholds one
A-cycle and the request is performed. -/
def execWidePortYield (cell : Nat) (s : State) : Out :=
  .next (
    if s.fatal || !s.cellOpen cell || decide ((s.cell cell).narrowRefused < 64) then s
    else
      let s := s.setCell cell ({ s.cell cell with narrowRefused := 0 }.count .memtCycStarve 1)
      match s.narrowHead cell with
      | some p => (match p.body with
        | .rd a n => s.memtRd p a n
        | .wr a bs => s.memtWr p a bs
        | _ => s)
      | none => s)

/-! ### Responses that reach a cell -/

/-- A write of the EPILOGUE of a tile is acknowledged: one fewer is awaited by it and by the tile's MMA (R87, R130). -/
def State.epiAck (s : State) (cell ctx tile : Nat) : State :=
  let c := s.cell cell
  match (c.vtx ctx).epis.find? (fun r => r.tile % 2 ^ 14 == tile % 2 ^ 14 && r.acks != 0) with
  | none => s
  | some r =>
    let c := (c.updEpi ctx r.tile (fun r => { r with acks := r.acks - 1 })).updMma ctx r.mma (fun m => { m with acks := m.acks - 1 })
    s.setCell cell (c.vtUnblock ctx)

end Sys2Proof.Machine
end

