-- ==== Sys2Proof/Machine/Ferryman.lean ====
section
/-!
DEFINITION. Sys2Proof/Machine/Ferryman.lean: the resource manager (ch. 12): admission, binding, paging, completion,
stopping, parking.
-/
namespace Sys2Proof.Machine
open Sys2Proof

/-! ### Admission (R308 to R315) -/

namespace Task
def w (t : Task) (i : Nat) : Nat := t.words.getD i 0
def isEngine (t : Task) : Bool := bits (t.w 0) 1 0 == 1
def ctx (t : Task) : Nat := bits (t.w 0) 3 2
def mtEn (t : Task) : Bool := bit (t.w 0) 4
def vtEn (t : Task) : Bool := bit (t.w 0) 5
def pair (t : Task) : Bool := bit (t.w 0) 6 && t.mtEn
def preds (t : Task) : List Nat :=
  (if bit (t.w 0) 24 then [bits (t.w 0) 15 8] else []) ++ (if bit (t.w 0) 25 then [bits (t.w 0) 23 16] else [])
def mtStart (t : Task) : Nat := bits (t.w 1) 11 0
def vtStart (t : Task) : Nat := bits (t.w 1) 24 12
def x0 (t : Task) : Nat := bits (t.w 2) 5 0
def y0 (t : Task) : Nat := bits (t.w 2) 11 6
def x1 (t : Task) : Nat := bits (t.w 2) 17 12
def y1 (t : Task) : Nat := bits (t.w 2) 23 18
def phases (t : Task) : Nat := bits (t.w 3) 7 0
def halfStride (t : Task) : Nat := bits (t.w 3) 11 8
def phasePtr (t : Task) : Nat := t.w 4 + 2 ^ 32 * t.w 5
def engine (t : Task) : Nat := bits (t.w 10) 5 0
def anyClass (t : Task) : Bool := bit (t.w 10) 6
def cmdPtr (t : Task) : Nat := t.w 11 + 2 ^ 32 * t.w 12
end Task

/-- A granule range word in use (R313): first, count, class 1 SCRATCH, 2 PRESERVE, 3 PAGED. -/
def granRange (w : Nat) : Option (Nat × Nat × Nat) :=
  if bits w 18 17 = 0 then none else some (bits w 7 0, bits w 16 8, bits w 18 17)

/-- The granule ranges of a task. -/
def Task.ranges (t : Task) : List (Nat × Nat × Nat) := ([6, 7, 8, 9].map t.w).filterMap granRange

/-- The bits of a task record that no field takes are 0 (R11, R309, R313). -/
def Task.reservedOk (t : Task) : Bool :=
  bits (t.w 0) 31 26 == 0 && bits (t.w 0) 7 7 == 0 && bits (t.w 1) 31 25 == 0 && bits (t.w 2) 31 24 == 0 && bits (t.w 3) 31 12 == 0
    && decide (t.w 5 < 2 ^ 16) && [6, 7, 8, 9].all (fun k => bits (t.w k) 31 19 == 0) && bits (t.w 10) 31 7 == 0
    && decide (t.w 12 < 2 ^ 16) && t.w 13 == 0 && t.w 14 == 0 && t.w 15 == 0

/-- A task record is well formed for task index `i` of a gallery (R309, R313). The fields of the other kind, and those of what a
task does not use, may hold anything (DEDUCED, log 87). -/
def Task.ok (t : Task) (i : Nat) (g : Option Gallery) : Bool :=
  t.reservedOk && t.preds.all (fun p => decide (p < i))
  && if t.isEngine then decide (t.engine < 36)
  else
    bits (t.w 0) 1 0 == 0 && (!t.pair || t.ctx == 0 || t.ctx == 2)
      && t.ranges.all (fun r => decide (1 ≤ r.2.1) && decide (r.1 + r.2.1 ≤ 256))
      && (t.phases == 0 || (t.phasePtr % 64 == 0 && decide (1 ≤ t.halfStride) && decide (t.halfStride ≤ 8)))
      && decide (t.x0 ≤ t.x1) && decide (t.y0 ≤ t.y1)
      && (match g with
          | some g => decide (g.x0 ≤ t.x0) && decide (t.x1 ≤ g.x1) && decide (g.y0 ≤ t.y0) && decide (t.y1 ≤ g.y1)
          | none => false)

/-- The good cells of a task's rectangle in which a context it names is enabled (R309, R282). -/
def State.taskCells (s : State) (t : Task) : List Nat :=
  ((List.range (t.y1 + 1 - t.y0)).flatMap (fun dy => (List.range (t.x1 + 1 - t.x0)).map (fun dx =>
    cellIndex (t.x0 + dx) (t.y0 + dy)))).filter (fun n =>
      s.goodCell n && ((t.mtEn && (s.cell n).cmdCount != 0) || (t.vtEn && (Tab.get {} (s.cell n).parts t.ctx).vrCap != 0)))

/-- A cell as a gallery has it: what was saved of it while the gallery is parked (R332). -/
def State.cellOf (s : State) (g : Option Gallery) (n : Nat) : Cell :=
  match g with
  | some p => if p.resident then s.cell n else ((p.saved.find? (fun e => e.1 == n)).map Prod.snd).getD Cell.reset
  | none => s.cell n

/-- A range of a task overlaps the command or program region of no cell of its rectangle that has a context it names enabled
(R313). -/
def State.rangesClear (s : State) (g : Option Gallery) (t : Task) : Bool :=
  let cells := ((List.range (t.y1 + 1 - t.y0)).flatMap (fun dy => (List.range (t.x1 + 1 - t.x0)).map (fun dx =>
    cellIndex (t.x0 + dx) (t.y0 + dy)))).filter (fun n =>
      s.goodCell n && ((t.mtEn && (s.cellOf g n).cmdCount != 0) || (t.vtEn && (Tab.get {} (s.cellOf g n).parts t.ctx).vrCap != 0)))
  cells.all (fun n => t.ranges.all (fun r =>
    let c := s.cellOf g n
    !c.inCmd (4096 * r.1) (4096 * r.2.1) && !c.inProg (4096 * r.1) (4096 * r.2.1)))

/-- A map entry's fields (R315). -/
def mapTva (m : List Nat) : Nat := m.getD 0 0 + 2 ^ 32 * m.getD 1 0
def mapPages (m : List Nat) : Nat := m.getD 2 0
def mapAlloc (m : List Nat) : Bool := bits (m.getD 3 0) 1 0 == 1
def mapPlace (m : List Nat) : Nat := bits (m.getD 3 0) 6 4
def mapRo (m : List Nat) : Bool := bit (m.getD 3 0) 2

/-- A map entry is well formed; read_only and place mean nothing to a FREE (DEDUCED, log 87). -/
def mapOk (m : List Nat) : Bool :=
  mapTva m % pageSize == 0 && decide (mapTva m + pageSize * mapPages m ≤ 2 ^ 48) && decide (1 ≤ mapPages m)
    && decide (mapPages m ≤ 262144) && bits (m.getD 3 0) 31 7 == 0 && bits (m.getD 3 0) 3 3 == 0
    && (bits (m.getD 3 0) 1 0 == 2 || bits (m.getD 3 0) 1 0 == 1 && [0, 1, 4, 5, 6, 7].contains (mapPlace m))

/-- The addresses of a map entry's pages. -/
def mapAddrs (m : List Nat) : List Nat := (List.range (mapPages m)).map (fun k => mapTva m + pageSize * k)

/-- The level-2 tables an ALLOC would add. -/
def State.newL2 (s : State) (t : Nat) (maps : List (List Nat)) : Nat :=
  (((maps.filter mapAlloc).flatMap mapAddrs).map (l1Key t)).eraseDups.filter (fun k => Tab.get 0 s.l2 k == 0) |>.length

/-- One page of an ALLOC mapped; the pages that still await zeroing are listed: the job waits for them, and nothing reads what such
a page held before (R315). -/
def State.allocOne (s : State) (t place : Nat) (ro : Bool) (a : Nat) : Option (List Nat × State) :=
  (s.takePage place).map (fun (p, s) =>
    let (d, s) := s.givePage p t
    if d then ([p], (s.zeroPage p).mapPage t a p ro place) else ([], s.mapPage t a p ro place))

/-- The ALLOC entries of a launch performed. -/
def State.allocAll (s : State) (t : Nat) : List (Nat × Bool × Nat) → Option (List Nat × State)
  | [] => some ([], s)
  | (place, ro, a) :: rest =>
    match s.allocOne t place ro a with
    | none => none
    | some (d, s) => match s.allocAll t rest with
      | none => none
      | some (ds, s) => some (d ++ ds, s)

/-- The ALLOC pages of a launch as (placement class, read-only, TVA). -/
def State.allocList (s : State) (t : Nat) (maps : List (List Nat)) : List (Nat × Bool × Nat) :=
  (maps.filter mapAlloc).flatMap (fun m =>
    let p := if mapPlace m = 0 then s.reg (rFmPlace t) else mapPlace m
    (mapAddrs m).map (fun a => (p, mapRo m, a)))

/-- Steps 3 to 5 of R310 and the job's entry into its slot. -/
def State.admitJob (s : State) (c : Cmd) (slot : Nat) (j : Job) : State :=
  let t := j.tenant
  let distinct := j.sigs.eraseDups.length == j.sigs.length
  if s.tablesLost.contains t then s.finish c .memUncorrectable 0
  else if !distinct || j.sigs.any (fun n => (s.signal n).st = .live) then s.bad c detMalformed
  else
    let s1 := j.sigs.foldl (fun s n => s.claimSignal slot n) s
    let allocs := s.allocList t j.maps
    let mapsOk := j.maps.all (fun m => (mapAddrs m).all (fun a => bit (s.ptEntry t a) 0 != mapAlloc m))
      && (allocs.map (fun a => a.2.2)).eraseDups.length == allocs.length
    if !mapsOk then s.bad c detMalformed
    else
      let l2 := s.newL2 t j.maps
      if s.reg (rTen t 0x0C) % 2 ^ 18 < s.pagesUsed t + allocs.length + l2 then s.finish c .refusedQuota 1
      else if l2Pool < s.l2.length + l2 then s.finish c .refusedQuota 5
      else match s1.allocAll t allocs with
        | none => s.finish c .refusedQuota 1
        | some (dirty, s) =>
          let s := { s with cmds := s.cmds.map (fun (x : Cmd) => if x.id = c.id then { x with st := .running, job := some slot } else x) }
          let s := (s.setJob slot (some { j with dirty := dirty })).regAdd (rFmEvt 0) 1
          let s := { s with jobCause := Tab.put 0 s.jobCause slot 0, jobLast := Tab.put 0 s.jobLast slot t }
          s.traceEv 1 t slot [c.ring, c.tag, j.deadline % 2 ^ 32, j.deadline / 2 ^ 32]

/-- The deadline of an entry that is a job (R310). -/
def State.deadlineOf (s : State) (c : Cmd) : Nat :=
  if c.deadline ≠ 0 then c.deadline else s.gc + 1000 * s.reg (rFmDl c.fn)

/-- The job an entry starts, with nothing of its descriptor yet. -/
def State.newJob (s : State) (c : Cmd) : Job :=
  { tenant := c.fn, ref := { fn := c.fn, ring := c.ring, tag := c.tag }, cmdId := some c.id, opcode := c.op, gallery := none
    deadline := s.deadlineOf c, admitGc := s.gc }

/-- JOB_LAUNCH (R308 to R310): the descriptor, its task records and its map entries are read and checked. A BROKEN gallery
admits a job only to stop it (R639). -/
def execJobLaunch (fn ring : Nat) (h : HostIn) (s : State) : Out :=
  .next (
    if s.fatal then s else
      s.executePay fn (ring % 8) 1 128 h (fun c bs s =>
        let slot := c.slot.getD 0
        let d := words bs
        let w := fun i => d.getD i 0
        let galEn := bit (w 0) 5
        let tc := bits (w 0) 24 16
        let sc := bits (w 1) 5 0
        let mc := bits (w 1) 13 8
        let taskPtr := w 2 + 2 ^ 32 * w 3
        let mapPtr := w 4 + 2 ^ 32 * w 5
        let halves := (List.range 32).map (fun i => bits (w (16 + i / 2)) (16 * (i % 2) + 15) (16 * (i % 2)))
        let sigs := halves.take sc
        let shape := bits (w 0) 15 7 == 0 && bits (w 0) 31 25 == 0 && bits (w 1) 7 6 == 0 && bits (w 1) 31 14 == 0
          && (List.range 10).all (fun i => w (6 + i) == 0) && decide (1 ≤ tc) && decide (tc ≤ 256) && decide (sc ≤ 32)
          && decide (mc ≤ 32) && taskPtr % 64 == 0 && mapPtr % 64 == 0 && halves.all (fun n => decide (n < 16384))
        if fn = 0 ∧ galEn then s.bad c detFunction
        else if !shape then s.bad c detMalformed
        else match s.payload c h taskPtr (64 * tc), s.payload c h mapPtr (16 * mc) with
          | .error e, _ => s.bad c e
          | _, .error e => s.bad c e
          | .ok tb, .ok mb =>
            let s := (s.acctPay c taskPtr (64 * tc)).acctPay c mapPtr (16 * mc)
            let tasks := (List.range tc).map (fun i => ({ words := words ((tb.drop (64 * i)).take 64), readyGc := s.gc } : Task))
            let maps := (List.range mc).map (fun i => words ((mb.drop (16 * i)).take 16))
            let gal := bits (w 0) 4 0
            let g := if galEn then s.gallery? gal else none
            let galOk := match g with | some g => g.tenant == fn | none => !galEn
            let broken := match g with | some g => g.broken | none => false
            let tasksOk := tasks.zipIdx.all (fun (t, i) => t.ok i g && s.rangesClear g t)
            let sigOk := sigs.all (fun n => s.fnSignal fn n)
            if !galOk || !tasksOk || !sigOk || !maps.all mapOk then s.bad c detMalformed
            else if tasks.any (fun t => t.phases != 0) && !s.feature 10 then s.bad c detFeature
            else
              let s := s.admitJob c slot { s.newJob c with gallery := if galEn then some gal else none, noSuspend := bit (w 0) 6
                                                           sigs := sigs, tasks := tasks, maps := maps }
              if broken then s.stopJob (some slot) .memUncorrectable 0 else s))

/-- ENGINE_CMD: a job of one ENGINE task whose command is the payload (R502). -/
def execEngineCmd (fn ring : Nat) (h : HostIn) (s : State) : Out :=
  .next (
    if s.fatal then s else
      s.executePay fn (ring % 8) 5 64 h (fun c bs s =>
        let slot := c.slot.getD 0
        let e := bits (c.w 5) 5 0
        if 36 ≤ e then s.bad c detMalformed
        else
          let t : Task := { words := [1, 0, 0, 0, 0, 0, 0, 0, 0, 0, e + 64 * (bit (c.w 5) 6).toNat], readyGc := s.gc }
          s.admitJob c slot { s.newJob c with tasks := [t], shard := bs.map BitVec.toNat }))

/-! ### Readiness and binding (R323, R324) -/

/-- A job's gallery is resident and neither loading nor moving (R296, R310). -/
def State.galReady (s : State) (j : Job) : Bool :=
  match j.gallery with
  | none => true
  | some n => match s.gallery? n with
    | some g => g.resident && !g.loading && !g.busy && !g.broken
    | none => false

/-- A task is ready: its predecessors have completed and its job is neither suspended nor stopping. -/
def Job.taskReady (j : Job) (i : Nat) (t : Task) : Bool :=
  i < j.tasks.length && t.st == .waiting && !j.suspended && j.stop.isNone && j.dirty.isEmpty
    && t.preds.all (fun p => match j.tasks[p]? with | some q => q.st == .done | none => false)

/-- A granule is held in a cell by another job (R314); a suspended job's cells are not its gallery's any more (R331). -/
def State.granHeld (s : State) (slot cell g : Nat) : Bool :=
  s.jobs.any (fun e => match e.2 with
    | some j => e.1 != slot && !j.suspended && j.gran.any (fun r => r.1 == cell && r.2.1 == g)
    | none => false)

/-- A context of a cell is promised to a bound task whose bind request has not arrived. -/
def State.bindInFlight (s : State) (cell k : Nat) (mt : Bool) : Bool :=
  s.flight.any (fun p => p.dst == cell && (match p.body with
    | .ctrl (.bind k' m v pr _ _ _ _) =>
      if mt then m && (k' == k || (pr && k' + 1 == k)) else v && k' == k
    | _ => false))

/-- A cell lies in the region of an admitted PARTIAL load: no task is bound there (R292). -/
def State.underLoad (s : State) (cell : Nat) : Bool :=
  s.loads.any (fun l => l.started && !l.full && !l.txOnly && l.result.isNone && decide (leAt l.header 24 1 ≤ cellX cell)
    && decide (cellX cell ≤ leAt l.header 26 1) && decide (leAt l.header 25 1 ≤ cellY cell)
    && decide (cellY cell ≤ leAt l.header 27 1))

/-- The contexts a task names are IDLE in a cell, wherever they are enabled, and its granules free (R324). -/
def State.cellFree (s : State) (slot : Nat) (t : Task) (n : Nat) : Bool :=
  let c := s.cell n
  let k := t.ctx
  !c.fenced && !s.underLoad n && !c.halted
    && (!t.mtEn || c.cmdCount == 0 || ((c.mtx k).st == .idle && !s.bindInFlight n k true))
    && (!t.pair || c.cmdCount == 0 || ((c.mtx (k + 1)).st == .idle && !s.bindInFlight n (k + 1) true))
    && (!t.vtEn || (Tab.get {} c.parts k).vrCap == 0 || ((c.vtx k).st == .idle && !s.bindInFlight n k false))
    && t.ranges.all (fun r => (List.range r.2.1).all (fun i => !s.granHeld slot n (r.1 + i)))

/-- The engines of the class of an engine (R309). -/
def engineClass (e : Nat) : Nat :=
  if e < 16 then 0 else if e < 20 then 1 else if e < 24 then 2 else if e < 26 then 3 else if e < 28 then 4
  else if e < 30 then 5 else if e < 32 then 6 else 7
def classEngines (k : Nat) : List Nat := (List.range 36).filter (fun e => engineClass e == k)

/-- An engine is in service (R613). -/
def State.engineUp (s : State) (e : Nat) : Bool := bit (s.reg rFeatStatus) (28 + e)

/-- The commands an engine's queue holds, those on their way to it among them. -/
def State.engineQueue (s : State) (e : Nat) : Nat :=
  (Tab.get [] s.engines e).length + (s.flight.filter (fun p => match p.body with
    | .engCmd e' _ _ _ => e' == e
    | _ => false)).length

/-- An engine's queue has a free entry for a tenant: 256 shared, in sealed tenancy 16 for each share class (R324, R540). -/
def State.engineRoom (s : State) (e tenant : Nat) : Bool :=
  if s.sealed then
    let mine := fun (t : Nat) => s.shareOf t == s.shareOf tenant
    decide (((Tab.get [] s.engines e).filter (fun c => mine (match c.mirror with | some m => m.1 | none => s.jobTenant c.job))).length
        + (s.flight.filter (fun p => match p.body with | .engCmd e' j _ _ => e' == e && mine (s.jobTenant j) | _ => false)).length < 16)
      && decide (s.engineQueue e < 256)
  else decide (s.engineQueue e < 256)

/-- The engine a task's command goes to: its own, or the one of its class with the fewest entries; in ordered mode its own (R324,
R569). -/
def State.pickEngine (s : State) (t : Task) (tenant : Nat) : Option Nat :=
  let es := (if t.anyClass && !s.feature 5 then classEngines (engineClass t.engine) else [t.engine]).filter (fun e =>
    s.engineUp e && s.engineRoom e tenant)
  leastBy s.engineQueue es

/-- A task's resources are free. -/
def State.taskFree (s : State) (slot : Nat) (j : Job) (t : Task) : Bool :=
  if t.isEngine then (s.pickEngine t j.tenant).isSome
  else s.galReady j && (s.taskCells t).all (s.cellFree slot t)

/-- The ready tasks of all jobs in order: earliest deadline, earlier admission, lower slot and task index (R323). -/
def readyBefore (a b : Nat × Nat × Nat × Nat) : Bool :=
  decide (a.1 < b.1) || (a.1 == b.1 && (decide (a.2.1 < b.2.1) || (a.2.1 == b.2.1 &&
    (decide (a.2.2.1 < b.2.2.1) || (a.2.2.1 == b.2.2.1 && decide (a.2.2.2 < b.2.2.2))))))

def insertReady (x : Nat × Nat × Nat × Nat) : List (Nat × Nat × Nat × Nat) → List (Nat × Nat × Nat × Nat)
  | [] => [x]
  | y :: ys => if readyBefore x y then x :: y :: ys else y :: insertReady x ys

def State.readyTasks (s : State) : List (Nat × Nat) :=
  let all := s.jobs.flatMap (fun e => match e.2 with
    | some j => (j.tasks.zipIdx.filter (fun (t, i) => j.taskReady i t && s.galReady j)).map (fun x =>
        (j.deadline, j.admitGc, e.1, x.2))
    | none => [])
  ((all.foldl (fun l x => insertReady x l) []).map (fun x => (x.2.2.1, x.2.2.2)))

/-- A task of a job changed. -/
def Job.updTask (j : Job) (i : Nat) (f : Task → Task) : Job :=
  { j with tasks := j.tasks.zipIdx.map (fun (t, k) => if k = i then f t else t) }

/-- A CONTEXT task bound: its granules are held and each cell is sent a bind request (R314, R324). -/
def State.bindContexts (s : State) (slot i : Nat) (j : Job) (t : Task) : State :=
  let cells := s.taskCells t
  let gran := cells.flatMap (fun n => t.ranges.flatMap (fun r => (List.range r.2.1).map (fun k => (n, r.1 + k, r.2.2, i))))
  let s := s.updJob slot (fun j => { j with gran := j.gran ++ gran })
  s.sendAll (cells.map (fun n =>
    let c := s.cell n
    s.hubPacket .ferryman j.tenant n 0 (.ctrl (.bind t.ctx (t.mtEn && c.cmdCount != 0)
      (t.vtEn && (Tab.get {} c.parts t.ctx).vrCap != 0) t.pair t.mtStart t.vtStart slot i))))

/-- An ENGINE task placed: its command is read and sent to Hub S (R324). -/
def State.placeEngine (s : State) (slot i : Nat) (j : Job) (t : Task) : State :=
  match s.pickEngine t j.tenant with
  | none => s
  | some e =>
    let put := fun (s : State) (bs : List Byte) =>
      (s.updJob slot (fun j => j.updTask i (fun t => { t with eng := some e }))).send
        (s.hubPacket .ferryman j.tenant hubS i (.engCmd e slot i bs))
    if j.opcode = 5 ∧ j.shard ≠ [] then put s (j.shard.map (BitVec.ofNat 8))
    else match s.tvaCheck j.tenant t.cmdPtr 64 false with
      | .ok => put (s.touch (some slot) j.tenant t.cmdPtr 64) (s.tvaBytes j.tenant t.cmdPtr 64)
      | e => s.tvaFault (some slot) j.tenant 0xB e

/-- A job's task may be bound after those before it: in ordered mode a CONTEXT task waits for every lower-indexed CONTEXT task of
its job to have been bound (R569). -/
def State.inTurn (s : State) (j : Job) (i : Nat) (t : Task) : Bool :=
  !s.feature 5 || t.isEngine || (j.tasks.take i).all (fun p => p.isEngine || p.st == .bound || p.st == .done)

/-- It is a job's task's turn, and its resources are free (R323, R540). -/
def State.bindable (s : State) (slot i : Nat) : Bool :=
  match s.job? slot with
  | some j => (match j.tasks[i]? with | some t => s.myTurn j.tenant && s.inTurn j i t && s.taskFree slot j t | none => false)
  | none => false

/-- TASK_BIND: the first ready task in order whose resources are free is bound (R323). -/
def execTaskBind (s : State) : Out :=
  .next (
    if s.fatal then s else
    match s.readyTasks.find? (fun x => s.bindable x.1 x.2) with
    | none => s
    | some (slot, i) =>
      match s.job? slot with
      | none => s
      | some j =>
        match j.tasks[i]? with
        | none => s
        | some t =>
          let s := s.updJob slot (fun j => j.updTask i (fun t => { t with st := .bound }))
          let s := (s.regAdd (rFmEvt 2) 1).regAdd (rFmEvt 3) (s.gc - t.readyGc)
          let e := (s.pickEngine t j.tenant).getD 0
          let s := if t.isEngine then s.placeEngine slot i j t else s.bindContexts slot i j t
          s.traceEv 3 j.tenant slot (if t.isEngine then [i, e] else [i, t.w 2 % 2 ^ 24, t.w 0 % 2 ^ 7]))

/-- A context of a cell is bound to a task. -/
def Cell.boundTo (c : Cell) (slot i : Nat) : Bool :=
  (List.range 4).any (fun k => ((c.mtx k).job == some slot && (c.mtx k).task == i) ||
    ((c.vtx k).job == some slot && (c.vtx k).task == i))

/-- A task still has a context bound, or a bind request on its way. -/
def State.taskLive (s : State) (slot i : Nat) : Bool :=
  s.cells.any (fun c => c.2.boundTo slot i) || s.flight.any (fun p => match p.body with
    | .ctrl (.bind _ _ _ _ _ _ j t) => j == slot && t == i
    | _ => false)

/-- An engine holds a task's command, or it is on its way. -/
def State.engineHolds (s : State) (slot i : Nat) : Bool :=
  s.engines.any (fun e => e.2.any (fun c => c.job == slot && c.task == i && c.mirror.isNone)) || s.flight.any (fun p => match p.body with
    | .engCmd _ j t _ => j == slot && t == i
    | _ => false)

/-- A task done: SCRATCH and PAGED granules go back, paging stops, its followers become ready now (R325). -/
def State.taskDone (s : State) (slot i : Nat) : State :=
  (s.traceEv 4 (s.jobTenant slot) slot [i]).updJob slot (fun j =>
    let j := j.updTask i (fun t => { t with st := .done, phase := { t.phase with current := none, held := none, placed := false } })
    let j := { j with gran := j.gran.filter (fun g => !(g.2.2.2 == i && g.2.2.1 != 2)) }
    let j := { j with tasks := j.tasks.map (fun (t : Task) => if t.preds.contains i then { t with readyGc := s.gc } else t) }
    if j.tasks.all (fun (t : Task) => t.st == .done) then { j with endGc := s.gc } else j)

/-- TASK_COMPLETE: every context of the task has ended, or its engine command has completed (R325). -/
def execTaskComplete (job task : Nat) (s : State) : Out :=
  .next (
    if s.fatal then s else
    match s.job? job with
    | none => s
    | some j =>
      match j.tasks[task]? with
      | none => s
      | some t =>
        if t.st ≠ .bound || j.stop.isSome || j.suspended then s
        else if t.isEngine then (if t.eng.isSome && !s.engineHolds job task then s.taskDone job task else s)
        else if s.taskLive job task || t.phase.current.isSome then s else s.taskDone job task)

/-! ### Paging (R318 to R322) -/

def xferSrc (x : List Nat) : Nat := x.getD 0 0 + 2 ^ 32 * x.getD 1 0
def xferCell (x : List Nat) : Nat := bits (x.getD 2 0) 11 0
def xferLen (x : List Nat) : Nat := bits (x.getD 3 0) 16 0
def xferOff (t : Task) (n : Nat) (x : List Nat) : Nat := bits (x.getD 2 0) 31 12 + (if n % 2 = 1 then 65536 * t.halfStride else 0)

/-- Phase n of a task as it stands in the tenant's HBM, or how reading it fails. The transfers of a record whose own fields are
wrong are not read. -/
def State.readPhase (s : State) (tenant : Nat) (t : Task) (n : Nat) : Except TvaEnd Phase :=
  let a := t.phasePtr + 32 * n
  match s.tvaCheck tenant a 32 false with
  | .ok =>
    let w := words (s.tvaBytes tenant a 32)
    let p := fun i => w.getD i 0
    let cnt := bits (p 0) 15 0
    let xp := p 4 + 2 ^ 32 * p 5
    let shape := bits (p 0) 31 30 == 0 && decide (1 ≤ cnt) && bits (p 2) 31 15 == 0 && p 3 == 0 && decide (p 5 < 2 ^ 16)
      && xp % 64 == 0 && p 6 == 0 && p 7 == 0
    let rec_ : Phase := { relSig := bits (p 0) 29 16, relVal := p 1, rdySig := bits (p 2) 13 0, rdyEn := bit (p 2) 14, xfers := [], ok := shape }
    if !shape then .ok rec_
    else (match s.tvaCheck tenant xp (16 * cnt) false with
     | .ok => .ok { rec_ with xfers := (List.range cnt).map (fun i => words (s.tvaBytes tenant (xp + 16 * i) 16)) }
     | e => .error e)
  | e => .error e

/-- The reading of phase n: the record's and its transfers' lines pass through the shared cache. -/
def State.phaseTouch (s : State) (slot tenant : Nat) (t : Task) (n cnt : Nat) : State :=
  let a := t.phasePtr + 32 * n
  (s.touch (some slot) tenant a 32).touch (some slot) tenant (leNat (s.tvaBytes tenant (a + 16) 8)) (16 * cnt)

/-- The regions a phase's transfers touch, as (cell, region). -/
def phaseRegions (t : Task) (n : Nat) (xs : List (List Nat)) : List (Nat × Nat) :=
  (xs.flatMap (fun x =>
    let a := xferOff t n x
    (List.range ((a + xferLen x - 1) / 65536 - a / 65536 + 1)).map (fun k => (xferCell x, a / 65536 + k)))).eraseDups

/-- The regions that the phases of the other half than phase n's touch, as far as they have been read. -/
def PhaseProg.others (p : PhaseProg) (n : Nat) : List (Nat × Nat) := if n % 2 = 0 then p.half1 else p.half0

/-- The checks of R319. -/
def State.phaseOk (s : State) (j : Job) (t : Task) (n : Nat) (p : Phase) : Bool :=
  let cells := s.taskCells t
  let inPaged := fun (a len : Nat) => t.ranges.any (fun r => r.2.2 == 3 && decide (4096 * r.1 ≤ a)
    && decide (a + len ≤ 4096 * (r.1 + r.2.1)))
  let own := phaseRegions t n p.xfers
  let other := t.phase.others n
  p.ok && p.xfers.all (fun x => xferSrc x % 64 == 0 && decide (x.getD 1 0 < 2 ^ 16) && xferOff t n x % 64 == 0
      && xferLen x % 64 == 0 && decide (64 ≤ xferLen x) && decide (xferLen x ≤ 65536) && bits (x.getD 3 0) 31 17 == 0
      && cells.contains (xferCell x) && inPaged (xferOff t n x) (xferLen x))
    && own.all (fun r => !other.contains r)
    && s.fnSignal j.tenant p.relSig && (!p.rdyEn || s.fnSignal j.tenant p.rdySig)

/-- Staging pages in steps 2 to 4: 256 in the module, in sealed tenancy 16 for each tenant (R322, R540) (log 103). -/
def State.stagingRoom (s : State) (tenant need : Nat) : Bool :=
  let inUse := fun (f : Job → Bool) => (s.jobs.map (fun e => match e.2 with
    | some j => if f j then (j.tasks.map (fun t => t.phase.regions.length)).sum else 0
    | none => 0)).sum
  decide (inUse (fun _ => true) = 0 ∨ inUse (fun _ => true) + need ≤ 256)
    && (!s.sealed || decide (inUse (fun j => j.tenant == tenant) = 0 ∨ inUse (fun j => j.tenant == tenant) + need ≤ 16))

/-- Phase n's half is released: phases 0 and 1 need no release (R320 step 1). -/
def State.released (s : State) (t : Task) (n : Nat) : Bool :=
  n < 2 || (match t.phase.rels[n - 2]? with
    | some r => decide (r.2 ≤ (s.signal r.1).counter)
    | none => false)

/-- A task's next phase may begin: the task is bound, or ready and the phase 0 or 1 (R320, R540). -/
def State.mayPage (s : State) (slot : Nat) (j : Job) (i : Nat) (t : Task) : Bool :=
  s.myTurn j.tenant && s.galReady j && j.stop.isNone && !j.suspended && decide (t.phase.next < t.phases) && t.phase.current.isNone && !t.isEngine
    && (t.st == .bound || (j.taskReady i t && decide (t.phase.next < 2))) && (s.job? slot).isSome

/-- Phase n begun: read, checked, its regions' ready bits about to be cleared. -/
def PhaseProg.begin (x : PhaseProg) (n : Nat) (p : Phase) (rs : List (Nat × Nat)) : PhaseProg :=
  { x with current := some n, held := some p, regions := rs, rels := x.rels.take n ++ [(p.relSig, p.relVal)]
           half0 := if n % 2 = 0 then (x.half0 ++ rs).eraseDups else x.half0
           half1 := if n % 2 = 0 then x.half1 else (x.half1 ++ rs).eraseDups }

/-- A phase failed its check: not paged, the job stops (R319). -/
def State.badPhase (s : State) (slot i n : Nat) : State :=
  s.jobFault .fmBadPhase (some slot) .badCommand { noRec with node := hubN, unit := 0xB, idx0 := i, idx1 := n }

/-- PHASE_BEGIN: the next phase is read and checked, and once its half is released the ready bits of its regions are
cleared (R319, R320 steps 1 and 2). -/
def execPhaseBegin (job task : Nat) (s : State) : Out :=
  .next (
    if s.fatal then s else
    match s.job? job with
    | none => s
    | some j =>
      match j.tasks[task]? with
      | none => s
      | some t =>
        let n := t.phase.next
        if !s.mayPage job j task t || !s.released t n || decide (4 ≤ s.sag) then s
        else match s.readPhase j.tenant t n with
          | .error e => s.tvaFault (some job) j.tenant 0xB e
          | .ok p =>
            if !s.phaseOk j t n p then s.badPhase job task n
            else
              let rs := phaseRegions t n p.xfers
              if !s.stagingRoom j.tenant rs.length then s
              else
                let s := (s.phaseTouch job j.tenant t n p.xfers.length).updJob job (fun j => j.updTask task (fun t =>
                  { t with phase := t.phase.begin n p rs }))
                let s := s.traceEv 5 j.tenant job [task, n, (p.xfers.map xferLen).sum]
                s.sendAll (rs.map (fun r => s.hubPacket .ferryman j.tenant r.1 n (.ctrl (.readyClear r.2)))))

/-- A control request of Ferryman's is still on its way to a region, or an answer of the cell's on its way back (R188, R236). -/
def State.readyPending (s : State) (cell region : Nat) : Bool :=
  s.flight.any (fun p => match p.body with
    | .ctrl (.readyClear r) => p.dst == cell && p.cls == .ferryman && r == region
    | .ctrl (.readySet r) => p.dst == cell && p.cls == .ferryman && r == region
    | .opDone _ => p.src == cell && p.dst == hubN
    | _ => false)

/-- One transfer's bytes written by the slice that owns its source, as Ferryman's agent: source class FERRYMAN, the job's tenant
(R237, R320 step 3). -/
def State.pageOne (s : State) (tenant : Nat) (t : Task) (n : Nat) (x : List Nat) : State :=
  let p : Packet := { src := sliceNode (stackOf (s.tvaPa tenant (xferSrc x))), dst := xferCell x, tenant := tenant, cls := .ferryman
                      share := s.shareOf tenant, tag := n, body := .wr (xferOff t n x) [] }
  (s.memtWrite (xferCell x) p (xferOff t n x) (s.tvaBytes tenant (xferSrc x) (xferLen x)) true).2

/-- The sources of a phase's transfers. -/
def Phase.sources (p : Phase) : List (Nat × Nat) := p.xfers.map (fun x => (xferSrc x, xferLen x))

/-- A matrix context of a task is LATE on a region the phase has cleared: the phase is in demand (R322). -/
def State.inDemand (s : State) (slot i : Nat) (rs : List (Nat × Nat)) : Bool :=
  rs.any (fun r => (List.range 4).any (fun k =>
    let x := (s.cell r.1).mtx k
    x.job == some slot && x.task == i && (s.cell r.1).lateOn s.arrFeat x r.2))

/-- The sources of a phase pass through their slices and its transfers are written; what it moved is counted (R320 step 3, R321,
R336). -/
def State.pagePhase (s : State) (slot tenant : Nat) (t : Task) (n : Nat) (p : Phase) : State :=
  let s := (mergedSpans p.sources).foldl (fun s r => s.touch (some slot) tenant r.1 r.2) s
  let s := p.xfers.foldl (fun s x => s.pageOne tenant t n x) s
  (s.regAdd (rFmEvt 4) (phaseRegions t n p.xfers).length).regAdd (rFmEvt 6) (mergedCount p.sources)

/-- How reading a phase's sources ends. -/
def State.sourcesEnd (s : State) (tenant : Nat) (p : Phase) : TvaEnd :=
  ((p.sources.map (fun r => s.tvaCheck tenant r.1 r.2 false)).find? (fun e => e != .ok)).getD .ok

/-- A phase with every clear acknowledged, that can be served. -/
def State.servable (s : State) (j : Job) (t : Task) : Bool :=
  decide (s.sag < 4) && t.phase.current.isSome && !t.phase.regions.any (fun r => s.readyPending r.1 r.2) && !j.suspended && j.stop.isNone
    && s.galReady j && (match t.phase.held with
      | some p => t.phase.placed || p.sources.all (fun r => s.tvaServed j.tenant r.1 r.2)
      | none => false)

/-- No servable phase stands before this one: demand is served before prefetch, and in each queue the earliest deadline first
(R322). -/
def State.servedFirst (s : State) (slot i : Nat) (j : Job) (t : Task) : Bool :=
  let mine := s.inDemand slot i t.phase.regions
  s.jobs.all (fun e => match e.2 with
    | some k => k.tasks.zipIdx.all (fun (u, n) =>
        let d := s.inDemand e.1 n u.phase.regions
        u.phase.placed || !s.servable k u || (mine && !d) || (mine == d && decide (j.deadline ≤ k.deadline)))
    | none => true)

/-- PHASE_IN_PLACE: with every clear acknowledged the sources are read and written and the ready bits are set again (R320 steps 3
and 4); with every set acknowledged too the phase is in place, and rdy_sig is added to (step 5). -/
def execPhaseInPlace (job task : Nat) (s : State) : Out :=
  .next (
    if s.fatal then s else
    match s.job? job with
    | none => s
    | some j =>
      match j.tasks[task]? with
      | none => s
      | some t =>
        match t.phase.current with
        | none => s
        | some n =>
          match t.phase.held with
          | none => s
          | some p =>
            if !s.servable j t then s
            else if t.phase.placed then
              let s := s.updJob job (fun j => j.updTask task (fun t =>
                { t with phase := { t.phase with current := none, held := none, regions := [], placed := false, next := n + 1 } }))
              let s := s.traceEv 5 j.tenant job [task, n, (p.xfers.map xferLen).sum]
              if p.rdyEn then s.hubSignal .add p.rdySig 1 j.tenant .ferryman { node := hubN, unit := 0xF, tag := 0 } else s
            else if !s.servedFirst job task j t then s
            else match s.sourcesEnd j.tenant p with
              | .ok =>
                let s := if s.inDemand job task t.phase.regions then s.regAdd (rFmEvt 5) 1 else s
                let s := (s.pagePhase job j.tenant t n p).updJob job (fun j => j.updTask task (fun t => { t with phase := { t.phase with placed := true } }))
                s.sendAll (t.phase.regions.map (fun r => s.hubPacket .ferryman j.tenant r.1 n (.ctrl (.readySet r.2))))
              | e => s.tvaFault (some job) j.tenant 0xB e)

/-- CACHE_WARM: with warm_en set, while phase n + 1 waits for its release, phase n + 2's sources are read into the shared
cache: no memory tile and no ready bit changes (R322). Off in supply-sag stages, in sealed tenancy and in ordered mode (R540, R569). -/
def execCacheWarm (job task : Nat) (s : State) : Out :=
  .next (
    if s.fatal then s else
    match s.job? job with
    | none => s
    | some j =>
      match j.tasks[task]? with
      | none => s
      | some t =>
        let n := t.phase.next
        if !bit (s.reg rFmCtl) 0 || s.sag ≠ 0 || s.sealed || s.feature 5 || !s.mayPage job j task t || s.released t n
          || decide (t.phases ≤ n + 1) then s
        else
          let s := match s.readPhase j.tenant t (n + 1) with
            | .ok p =>
              let s := s.phaseTouch job j.tenant t (n + 1) p.xfers.length
              p.sources.foldl (fun (s : State) (r : Nat × Nat) => if s.tvaCheck j.tenant r.1 r.2 false = TvaEnd.ok then s.touch (some job) j.tenant r.1 r.2 else s) s
            | .error _ => s
          s.updJob job (fun j => j.updTask task (fun t =>
          { t with phase := { t.phase with warmed := (t.phase.warmed.filter (fun k => k != n + 1)) ++ [n + 1] } })))

/-- PAGE_ZEROING_DONE: a freed page is zeroed, once no access to it is in flight (R317); admissions that waited for it go on (R315). -/
def execPageZeroingDone (page : Nat) (s : State) : Out :=
  .next (
    if s.fatal then s else
    let waits := s.jobs.any (fun e => match e.2 with | some j => j.dirty.contains page | none => false)
    if s.pageSt page = .dirty then (if s.pageInFlight page then s else (s.zeroPage page).setPage page .clean)
    else if waits then s.mapJobs (fun _ j => { j with dirty := j.dirty.filter (fun p => p != page) })
    else s)

/-! ### Stopping and completing (R325 to R329) -/

/-- The contexts of a job in one cell told to stop (R107, R153). -/
def Cell.stopOf (c : Cell) (slot : Nat) : Cell :=
  (List.range 4).foldl (fun c k =>
    let c := if (c.mtx k).job = some slot ∧ (c.mtx k).st ≠ .partner then c.mtStop k else c
    if (c.vtx k).job = some slot then c.vtStop k else c) c

/-- The inbound and outbound channels a job's contexts use in a cell. -/
def Cell.jobChans (c : Cell) (slot : Nat) : List Nat :=
  (List.range 32).filter (fun ch => (c.nodesOf ch).any (fun n => c.nodeJob n == some slot))

/-- R230: Sumps whose cycle holds a context of the job close and lose their words, FIFOs its contexts consume are emptied,
channels they feed get their credits back. -/
def State.stopStreams (s : State) (slot : Nat) : State :=
  let chans := s.cells.flatMap (fun c => (c.2.jobChans slot).map (fun ch => (c.1, ch)))
  let s := s.cells.foldl (fun s c => c.2.chans.foldl (fun s x => match x.2.sump with
    | some u => if u.jobs.contains slot then s.closeSump c.1 x.1 else s
    | none => s) s) s
  chans.foldl (fun s e =>
    let c := s.cell e.1
    let x := c.chan e.2
    if c.chanRole e.2 = 1 then
      (s.owe (x.fifo.map SWord.circuit)).setCell e.1 (c.setChan e.2 { x with fifo := [] })
    else
      match s.farEnd e.1 e.2 with
      | some (fc, fch) =>
        let n := 32 * e.1 + e.2
        let s := { s with links := s.links.filter (fun l => l.word.circuit != n), creditFlight := s.creditFlight.filter (fun k => k != n) }
        let fc' := s.cell fc
        s.setCell e.1 ((s.cell e.1).setChan e.2
          { x with staging := [], credits := fc'.chanDepth fch - (fc'.chan fch).fifo.length })
      | none => s) s

/-- The contents of a region of a memory tile are undefined from here on: each byte is free (R327). -/
def State.openRegion (s : State) (r : Nat × Nat) : State :=
  let (k, s) := s.drawFree
  s.setCell r.1 ((s.cell r.1).memWrite (65536 * r.2) (Config.freeBytes k 65536))

/-- Paging of a stopped job ends: the ready bits it cleared are set again, the contents of regions whose phase was not in place
undefined (R327). -/
def State.stopPaging (s : State) (slot : Nat) (j : Job) : State :=
  let rs := j.tasks.flatMap (fun t => t.phase.regions)
  let s := (j.tasks.flatMap (fun (t : Task) => if t.phase.placed then [] else t.phase.regions)).foldl State.openRegion s
  let s := s.updJob slot (fun j => { j with tasks := j.tasks.map (fun t =>
    { t with phase := { t.phase with current := none, held := none, regions := [], placed := false } }) })
  s.sendAll (rs.map (fun r => s.hubPacket .ferryman j.tenant r.1 0 (.ctrl (.readySet r.2))))

/-- Engine commands of a stopped job that have not started leave their queues; started ones are left to stop. -/
def State.stopEngines (s : State) (slot : Nat) : State :=
  { s with engines := s.engines.filterMap (fun e =>
             let q := e.2.filter (fun c => !(c.job == slot && c.mirror.isNone && !c.active))
             if q = [] then none else some (e.1, q))
           flight := s.flight.filter (fun p => match p.body with
             | .engCmd _ j _ _ => j != slot
             | .ctrl (.bind _ _ _ _ _ _ j _) => j != slot
             | _ => true) }

/-- A saved cell without the contexts of a job, and the tiles they handed over (R329). -/
def Cell.dropJob (c : Cell) (slot : Nat) : Cell :=
  (List.range 4).foldl (fun c k =>
    let c := if (c.mtx k).job = some slot then { c.setMtx k {} with ftq := c.ftq.filter (fun q => q.mctx != k) } else c
    if (c.vtx k).job = some slot then c.setVtx k {} else c) c

/-- What parked galleries have saved of a stopped job's contexts is discarded (R329). -/
def State.dropSaved (s : State) (slot : Nat) : State :=
  { s with gals := s.gals.map (fun e => (e.1, e.2.map (fun g => { g with saved := g.saved.map (fun c => (c.1, c.2.dropJob slot)) }))) }

/-- Nothing of a job is still bound, active or paging. -/
def State.jobQuiet (s : State) (slot : Nat) (j : Job) : Bool :=
  j.tasks.zipIdx.all (fun (t, i) => !s.taskLive slot i && !s.engineHolds slot i && t.phase.current.isNone)

/-- JOB_STOP (R327): a stopping job's contexts stop, its queued commands and its paging end; once all has ended its signals
are abandoned. -/
def execJobStop (job : Nat) (s : State) : Out :=
  .next (
    if s.fatal then s else
    match s.job? job with
    | none => s
    | some j =>
      if j.stop.isNone || j.abandoned then s
      else
        let s :=
          if j.stopped then s
          else
            let s := s.stopStreams job
            let s := s.mapCells (fun _ c => c.stopOf job)
            let s := ((s.stopPaging job j).stopEngines job).dropSaved job
            s.updJob job (fun j => { j with stopped := true, suspended := false
                                            tasks := j.tasks.map (fun (t : Task) => if t.st = .waiting then { t with st := .done } else t) })
        match s.job? job with
        | none => s
        | some j =>
          if !s.jobQuiet job j then s
          else
            let own := j.sigs.filter (fun n => (s.signal n).owner == job && (s.signal n).st == .live)
            let s := own.foldl State.abandonSignal s
            s.updJob job (fun j => { j with abandoned := true, endGc := s.gc }))

/-- A job that could complete OK: its status is SUMP_OPENED where a Sump was open on its circuits (R227, R326). -/
def Job.endStatus (j : Job) : Status :=
  match j.stop with
  | some c => c.status
  | none => if j.sumpSeen then .sumpOpened else .ok

/-- The slowdown figure of W held ticks in D (R543). -/
def slowdown (w d : Nat) : Nat :=
  if w = 0 then 0 else if d ≤ w then 65535 else min 65535 (1000 * w / (d - w))

/-- JOB_COMPLETE (R326, R543): of the job in a slot whose entry has the tag. -/
def execJobComplete (job tag : Nat) (s : State) : Out :=
  .next (
    if s.fatal then s else
    match s.job? job with
    | none => s
    | some j =>
      let ready := j.ref.tag == tag && if j.stop.isSome then j.abandoned else j.tasks.all (fun (t : Task) => t.st == .done) && j.dirty.isEmpty
      if !ready then s
      else
        let st := j.endStatus
        let s := (j.sigs.filter (fun n => (s.signal n).owner == job && (s.signal n).st == .live)).foldl State.freeSignal s
        let s := (j.maps.filter (fun m => !mapAlloc m)).foldl (fun s m => (mapAddrs m).foldl (fun s a => s.unmapPage j.tenant a) s) s
        let late := decide (j.deadline < j.endGc)
        let d := j.endGc - j.admitGc
        let held := j.heldTicks
        let s := if late then s.regAdd (rFmEvt 10) 1 else s
        let s := ((s.regAdd (rAcct j.tenant 0x80) 1).regAdd (rAcct j.tenant 0x88) held).regAdd (rAcct j.tenant 0x90) d
        let s := (s.setJob job none).traceEv 2 j.tenant job [st.code, slowdown held d]
        let s := match j.cmdId.bind (fun n => s.cmds.find? (fun c => c.id == n)) with
          | some c =>
            let s := if st = .timeout then s.regAdd (rRingCtr c.fn c.ring 2) 1 else s
            s.answer c
              { tag := c.tag, status := st.code, opcode := c.op, late := late, cond := j.cond
                slow := slowdown held d, detail := (j.detail.getD job), start := j.admitGc, fin := j.endGc, slot := some job }
          | none => s
        j.cancelledBy.foldl (fun s n => match s.cmds.find? (fun c => c.id == n) with
          | some c => s.finish c .ok 0
          | none => s) s)

/-- An unconsumed entry of a ring has a tag and a job opcode (R329). -/
def State.unconsumed (s : State) (fn k tag : Nat) : Bool :=
  let r := s.ring fn k
  (List.range (min (diff32 r.dbTail r.sqHead) 65536)).any (fun i =>
    let a := r.sqBase + 64 * ((r.sqHead + i) % 2 ^ r.sqLog2)
    leNat (s.hostRead fn (a + 4) 4) == tag && jobOp (leNat (s.hostRead fn a 1)))

/-- The slot of a ring's job with a tag. -/
def State.slotOf (s : State) (fn k tag : Nat) : Option Nat :=
  (s.jobs.find? (fun e => match e.2 with
    | some j => j.ref.fn == fn && j.ref.ring == k && j.ref.tag == tag
    | none => false)).map Prod.fst

/-- JOB_CANCEL (R329, R524). -/
def execJobCancel (fn ring : Nat) (s : State) : Out :=
  .next (if s.fatal then s else s.execute fn (ring % 8) 2 ⟨[], false⟩ (fun c t =>
    let k := c.w 8
    let tag := c.w 9
    let win := ((s.ring fn k).window.reverse.find? (fun e => e.tag == tag && !e.dup))
    let isJob := match win with | some e => e.job | none => false
    match (if isJob then s.slotOf fn k tag else none) with
    | some slot =>
      ((t.running c).stopJob (some slot) .cancelled 0).updJob slot (fun j => { j with cancelledBy := j.cancelledBy ++ [c.id] })
    | none =>
      if s.cmds.any (fun x => x.fn == fn && x.ring == k && x.tag == tag && x.st == .fresh && x.id != c.id)
        || (k != ring % 8 && s.unconsumed fn k tag) then s
      else t.finish c .ok 0))

/-! ### Parking and restoring (R330 to R334) -/

/-- The cells of a gallery's rectangle that are good. -/
def State.galCells (s : State) (g : Gallery) : List Nat := (List.range cellSites).filter (fun n => s.goodCell n && g.holds n)

def Gallery.overlaps (a b : Gallery) : Bool :=
  decide (a.x0 ≤ b.x1) && decide (b.x0 ≤ a.x1) && decide (a.y0 ≤ b.y1) && decide (b.y0 ≤ a.y1)

def State.setGallery (s : State) (n : Nat) (g : Option Gallery) : State := { s with gals := Tab.put none s.gals n g }

/-- A load, unload or Slipway load of a gallery is in progress (R287, R330). -/
def State.loadOf (s : State) (n : Nat) : Bool := s.loads.any (fun l => l.gallery == n && (l.started || l.unload) && !l.txOnly && l.result.isNone)

/-- A job has a CONTEXT task bound, or one whose predecessors have completed (R334). -/
def Job.wantsCells (j : Job) : Bool :=
  j.tasks.any (fun (t : Task) => !t.isEngine && (t.st == .bound || (t.st == .waiting && j.dirty.isEmpty &&
    t.preds.all (fun p => match j.tasks[p]? with | some q => q.st == .done | none => false))))

/-- The deadlines of the work that wants a parked gallery resident: its ready jobs and its waiting loads. -/
def State.wants (s : State) (n : Nat) : List Nat :=
  (s.jobs.filterMap (fun e => match e.2 with
    | some j => if j.gallery = some n ∧ j.stop = none ∧ j.wantsCells then some j.deadline else none
    | none => none)) ++ (s.loads.filterMap (fun l =>
      if l.gallery = n ∧ !l.full ∧ !l.unload ∧ !l.txOnly ∧ l.started ∧ l.result = none then (l.cmd.bind (fun i => (s.cmds.find? (fun c => c.id == i)).map (fun c =>
        if c.deadline ≠ 0 then c.deadline else c.gcIn + 1000 * s.reg (rFmDl c.fn))))
      else none))

/-- Ferryman may park a resident gallery (R330, R540). -/
def State.mayPark (s : State) (n : Nat) (g : Gallery) : Bool :=
  let ctl := s.reg (rGalCtl n)
  let loadWants := s.loads.any (fun l => l.full && !l.started && !l.unload && (!s.sealed || l.tenant == g.tenant)
    && decide (leAt l.header 24 1 ≤ g.x1) && decide (g.x0 ≤ leAt l.header 26 1)
    && decide (leAt l.header 25 1 ≤ g.y1) && decide (g.y0 ≤ leAt l.header 27 1) && l.header != [])
  let mine := s.jobs.filterMap (fun e => match e.2 with | some j => if j.gallery = some n then some j.deadline else none | none => none)
  let restoreWants := s.gals.any (fun e => match e.2 with
    | some p => !p.resident && p.overlaps g && (!s.sealed || p.tenant == g.tenant)
        && (s.wants e.1).any (fun d => mine.all (fun m => decide (d < m)))
    | none => false) && decide (g.residentGc + 1000 * bits ctl 27 8 ≤ s.gc)
  bit ctl 0 && g.resident && !g.loading && !g.broken && !s.loadOf n && (loadWants || restoreWants)

/-- Every context of a cell stands where it may be saved: a matrix context at a tile boundary, a vector context between
instructions, with no EPILOGUE in progress and no XFER pending (R107, R153). A stream instruction that waits with no word moved
stands at such a boundary. -/
def Cell.savable (c : Cell) : Bool :=
  (List.range 4).all (fun k =>
    let v := c.vtx k
    let m := c.mtx k
    v.epi.isNone && v.xfers.isEmpty && v.rx.isEmpty && !v.sending && v.tx.isEmpty && !m.begun && !m.finished)

/-- Words and credits of a gallery's circuits still on their way. -/
def State.inTransit (s : State) (g : Gallery) : Bool :=
  s.links.any (fun l => g.holds l.cell) || s.creditFlight.any (fun k => g.holds (k / 32))

/-- A matrix or vector wait to be issued again at restore (R257): the context's unit, the wait, the binding's tag. -/
def Cell.waitsOf (c : Cell) : List (Nat × CtxWait × Nat) :=
  (List.range 4).flatMap (fun k =>
    (match (c.mtx k).wait with | some w => [(k, w, (c.mtx k).bindTag)] | none => [])
      ++ (match (c.vtx k).wait with | some w => [(4 + k, w, (c.vtx k).bindTag)] | none => []))

/-- The waits issued again: no RETRY is outstanding for them (R262). -/
def Cell.waitAgain (c : Cell) : Cell :=
  let again := fun (w : Option CtxWait) => w.map (fun w => { w with retry := false })
  { c with mt := Tab.update {} c.mt (fun _ x => { x with wait := again x.wait }), vt := Tab.update {} c.vt (fun _ x => { x with wait := again x.wait }) }

/-- The waits of a cell's contexts leave the signals' queues: they are issued again at restore (R257). -/
def State.dropWaits (s : State) (cell : Nat) : State :=
  s.dropWaiters (fun i => i.node == cell && decide (i.unit < 8))

/-- The memory a park saves of a cell: configured granules and those held as SCRATCH or PRESERVE; what is in PAGED
granules comes back by repeating phases (R332). Its counters are saved with the A-cycles they stand for. -/
def State.savedCell (s : State) (g : Gallery) (n : Nat) : Cell :=
  let c := s.cell n
  let keep := fun (a : Nat) =>
    let k := a / 4096
    g.config.contains (n, k) || s.jobs.any (fun e => match e.2 with
      | some j => j.gran.any (fun r => r.1 == n && r.2.1 == k && r.2.2.1 != 3)
      | none => false)
  { c with mem := c.mem.filter (fun e => keep e.1), since := s.acycles (cellDie n) - c.since }

/-- A cell that leaves its gallery: its memory tile and local space FILLed with zeros, its owner tag 0, its units at reset;
counters, scrub position, snapshot and halt stay (R298, R331). -/
def Cell.cleared (c : Cell) : Cell :=
  { Cell.reset with ctr := c.ctr, snap := c.snap, snapCh := c.snapCh, scrubPos := c.scrubPos, scrubCur := c.scrubCur, scrubPrev := c.scrubPrev
                    halted := c.halted, stepLeft := c.stepLeft, stepEnd := c.stepEnd, bindCtr := c.bindCtr, since := c.since }

/-- A task's paging stops for a park: a phase that was not in place is begun anew after the restore (R331). -/
def Task.rewind (t : Task) : Task :=
  { t with phase := { t.phase with current := none, held := none, regions := [], placed := false, next := t.phase.current.getD t.phase.next } }

/-- The phases in place in a bound task's two halves, whose bytes a park does not save (R332). -/
def Task.inPlace (t : Task) (paged : Option Nat) : List Nat :=
  if t.isEngine ∨ t.st = .done ∨ t.phases = 0 then []
  else match paged with
    | some n => if n = 0 then [] else [n - 1]
    | none => (List.range t.phase.next).drop (t.phase.next - 2)

/-- GALLERY_PARK (R330, R331): jobs with no_suspend stop with PREEMPTED first; once the contexts stand at their boundary
the state is saved and the cells are cleared. -/
def execGalleryPark (gallery : Nat) (s : State) : Out :=
  .next (
    if s.fatal then s else
    match s.gallery? gallery with
    | none => s
    | some g =>
      if !g.busy && !(s.mayPark gallery g && s.myTurn g.tenant) then s
      else if !g.resident ∨ 4 ≤ s.sag then s
      else
        let cells := s.galCells g
        let need := ceilDiv (3 * cells.length) 4
        match (if g.savePages = [] then
            (if s.pagesUsed g.tenant + need ≤ bits (s.reg (rTen g.tenant 0x0C)) 17 0 then s.takePages g.tenant (4 + cellDie (cellIndex g.x0 g.y0)) need
             else none)
          else some (g.savePages, s)) with
        | none => s
        | some (pages, s) =>
          let mine := fun (j : Job) => j.gallery == some gallery
          let s := s.jobs.foldl (fun s e => match e.2 with
            | some j => if mine j && j.noSuspend then s.stopJob (some e.1) .preempted 0 else s
            | none => s) s
          let s := s.setGallery gallery (some { g with busy := true, savePages := pages })
          let stopping := s.jobs.any (fun e => match e.2 with | some j => mine j && j.stop.isSome | none => false)
          let paging := s.jobs.any (fun e => match e.2 with
            | some j => mine j && j.tasks.any (fun t => t.phase.regions.any (fun r => s.readyPending r.1 r.2))
            | none => false)
          if stopping || paging || s.inTransit g || !cells.all (fun n => (s.cell n).savable)
            || s.flight.any (fun p => g.holds p.dst && decide (p.dst < cellSites)) then s
          else
            let saved := cells.map (fun n => (n, s.savedCell g n))
            let s := cells.foldl (fun s n => ((s.homeToHub n).dropWaits n)) s
            let s := s.mapJobs (fun _ j => if mine j then
              { j with suspended := true, susGc := s.gc
                       tasks := j.tasks.map (fun (t : Task) => { t.rewind with phase := { t.rewind.phase with again := t.inPlace t.phase.current } }) } else j)
            let s := cells.foldl (fun s n => s.setCell n (s.cell n).cleared) s
            let s := (s.setGallery gallery (some { g with resident := false, busy := false, savePages := pages, saved := saved })).regAdd (rFmEvt 7) 1
            s.traceEv 7 g.tenant 0 [gallery, pageSize * need % 2 ^ 32, pageSize * need / 2 ^ 32])


/-- A cell's saved state in place in A-cycle `now`; halts, snapshots and scrub stay the cell's own. -/
def Cell.restored (c saved : Cell) (owner now : Nat) : Cell :=
  { saved with owner := owner, since := now - saved.since, snap := c.snap, snapCh := c.snapCh, halted := c.halted, stepLeft := c.stepLeft, stepEnd := c.stepEnd
               scrubPos := c.scrubPos, scrubCur := c.scrubCur, scrubPrev := c.scrubPrev, bindCtr := max c.bindCtr saved.bindCtr
               msg := saved.msg.map (fun m => { m with freed := 0 }) }

/-- A resident gallery lies in another's rectangle. -/
def State.siteTaken (s : State) (n : Nat) (g : Gallery) : Bool :=
  s.gals.any (fun e => match e.2 with | some p => e.1 != n && p.resident && p.overlaps g | none => false)

/-- One phase in place before a park repeated at the restore: read, checked and written again through the shared cache; its ready bits,
saved with the cell, stand, and rdy_sig has had its addition (R332, R334, log 89). -/
def State.repeatPhase (s : State) (slot i n : Nat) : State :=
  match s.job? slot with
  | none => s
  | some j =>
    match j.tasks[i]? with
    | none => s
    | some t =>
      match s.readPhase j.tenant t n with
      | .error e => s.tvaFault (some slot) j.tenant 0xB e
      | .ok p =>
        if !s.phaseOk j t n p then s.badPhase slot i n
        else match s.sourcesEnd j.tenant p with
          | .ok => (s.phaseTouch slot j.tenant t n p.xfers.length).pagePhase slot j.tenant t n p
          | e => s.tvaFault (some slot) j.tenant 0xB e

/-- The recorded phases of a restored gallery's jobs repeated. -/
def State.repeatPhases (s : State) (gallery : Nat) : State :=
  s.jobs.foldl (fun s e => match e.2 with
    | some j => if j.gallery = some gallery ∧ j.stop = none then
        let t := (j.tasks.zipIdx.flatMap (fun (x : Task × Nat) => x.1.phase.again.map (fun n => (x.2, n)))).foldl (fun s x => s.repeatPhase e.1 x.1 x.2) s
        t.updJob e.1 (fun j => { j with tasks := j.tasks.map (fun t => { t with phase := { t.phase with again := [] } }) })
      else s
    | none => s) s

/-- GALLERY_RESTORE (R334): where its rectangle holds no resident gallery, the saved state comes back, the waits are
issued again; a retired cell in the rectangle stops its jobs instead. -/
def execGalleryRestore (gallery : Nat) (s : State) : Out :=
  .next (
    if s.fatal then s else
    match s.gallery? gallery with
    | none => s
    | some g =>
      let cellsUsed := ((s.gals.filterMap (fun e => e.2)).map (fun (p : Gallery) =>
        if p.resident && p.tenant == g.tenant then (s.galCells p).length else 0)).sum
      if g.resident || !s.myTurn g.tenant || decide (4 ≤ s.sag) || s.siteTaken gallery g || s.wants gallery = [] || decide (bits (s.reg (rTen g.tenant 0x10)) 11 0 < cellsUsed + g.saved.length) then s
      else if g.saved.any (fun c => !s.goodCell c.1) then
        s.jobs.foldl (fun s e => match e.2 with
          | some j => if j.gallery = some gallery then s.stopJob (some e.1) .memUncorrectable 0 else s
          | none => s) s
      else
        let s := s.ungate g.x0 g.y0 g.x1 g.y1
        let s := g.saved.foldl (fun s c => s.setCell c.1 ((s.cell c.1).restored c.2 (if c.2.fenced then fenceTag else g.tenant) (s.acycles (cellDie c.1)))) s
        let s := g.saved.foldl (fun s c => c.2.homed.foldl (fun s n => s.setSignal n { s.signal n with home := c.1 + 1 }) s) s
        let s := s.mapJobs (fun _ j =>
          if j.gallery = some gallery then { j with suspended := false } else j)
        let s : State := { s with cmds := s.cmds.map (fun (c : Cmd) => match c.job.bind s.job? with
          | some j => if j.gallery = some gallery then { c with expires := c.expires.map (fun e => e + (s.gc - j.susGc)) } else c
          | none => c) }
        let s := s.setGallery gallery (some { g with resident := true, saved := [], residentGc := s.gc })
        let s := g.saved.foldl (fun s c => s.setCell c.1 ((s.cell c.1).waitAgain)) s
        let s := g.saved.foldl (fun s c => c.2.waitsOf.foldl (fun s w => s.cellSignal c.1 w.1 .wait w.2.1.sig w.2.1.value w.2.2) s) s
        let s := g.saved.foldl (fun s c => s.releaseEntries c.1 ((c.2.msg.map MsgLogic.freed).getD 0)) s
        let s := s.repeatPhases gallery
        (s.regAdd (rFmEvt 8) 1).traceEv 7 g.tenant 0 [gallery, pageSize * g.savePages.length % 2 ^ 32, pageSize * g.savePages.length / 2 ^ 32])

end Sys2Proof.Machine
end

