-- ==== Sys2Proof/Machine/LoaderChecks.lean ====
section
/-!
DEFINITION. Sys2Proof/Machine/LoaderChecks.lean: the configuration stream (ch. 11): header and section fields, what a
section does to a cell, and the checks over the whole configuration (R281 to R289).
-/
namespace Sys2Proof.Machine
open Sys2Proof

/-! ### The stream header (R276) -/

def hKind (h : List Byte) : Nat := leAt h 6 1
def hEnc (h : List Byte) : Nat := leAt h 7 1
def hId (h : List Byte) : List Byte := (h.drop 8).take 16
def hX0 (h : List Byte) : Nat := leAt h 24 1
def hY0 (h : List Byte) : Nat := leAt h 25 1
def hX1 (h : List Byte) : Nat := leAt h 26 1
def hY1 (h : List Byte) : Nat := leAt h 27 1
def hSegs (h : List Byte) : Nat := leAt h 28 4
def hSecs (h : List Byte) : Nat := leAt h 32 4
def hLen (h : List Byte) : Nat := leAt h 36 4
def hSpill (h : List Byte) : Nat := leAt h 40 2

/-- A run of bytes is zero (R11). -/
def zeros (bs : List Byte) : Bool := bs.all (fun b => b == 0#8)

/-- The format of the header (R276, R289 reason FORMAT). -/
def headerOk (h : List Byte) : Bool :=
  decide (h.length = 64) && leAt h 0 4 == 0x5A394346 && leAt h 4 2 == 1 && (hKind h == 1 || hKind h == 2)
    && decide (hEnc h ≤ 1) && decide (1 ≤ hSegs h) && zeros (h.drop 42)
    && (if hKind h = 2 then hSpill h == 0 else hSpill h % 2 == 0 && decide (hSpill h ≤ 4096))

/-- The header's rectangle lies within the grid (R289 reason GALLERY). -/
def rectOk (h : List Byte) : Bool :=
  decide (hX1 h ≤ 43) && decide (hY1 h ≤ 47) && decide (hX0 h ≤ hX1 h) && decide (hY0 h ≤ hY1 h)

/-- A cell index lies in the header's rectangle. -/
def hHolds (h : List Byte) (cell : Nat) : Bool :=
  decide (cell < cellSites) && decide (hX0 h ≤ cellX cell) && decide (cellX cell ≤ hX1 h) && decide (hY0 h ≤ cellY cell)
    && decide (cellY cell ≤ hY1 h)

/-! ### What a section does to a cell (R282 to R284) -/

/-- The message entry a CELL_CTRL body gives (R265, R283). -/
def ctrlMsg (w : List Nat) : Option MsgLogic :=
  let g := fun i hi lo => bits (w.getD i 0) hi lo
  if g 11 0 0 = 0 then none
  else some { inboxCtx := g 11 2 1, inboxBase := 512 * g 11 10 4, sigArrive := g 12 13 0, sigRelease := g 12 29 16
              outboxBase := 512 * g 11 21 11, sigSend := g 13 13 0, nakEn := g 11 3 3 == 1, sigNak := g 13 29 16
              credits := ((List.range 8).map (fun i => ({ dst := g (14 + i) 11 0, count := g (14 + i) 16 12
                                                          sig := g (14 + i) 31 18 } : Credit))).filter (fun e => e.count != 0) }

/-- The signals a CELL_CTRL body homes in its cell. -/
def ctrlHomes (w : List Nat) : List Nat :=
  (List.range 8).filterMap (fun i => if bit (w.getD (22 + i) 0) 15 then some (bits (w.getD (22 + i) 0) 13 0) else none)

/-- The route table of a CELL_CTRL body, as home + 1 by signal. -/
def ctrlRoute (w : List Nat) : Tab Nat :=
  (List.range 32).foldl (fun t i =>
    let v := w.getD (30 + i) 0
    if bit v 15 then Tab.put 0 t (bits v 13 0) (bits v 27 16 + 1) else t) []

/-- Vector context c's partition words (R283). -/
def ctrlPart (w : List Nat) (c : Nat) : Part :=
  let a := w.getD (3 + 2 * c) 0
  let b := w.getD (4 + 2 * c) 0
  { vrBase := bits a 11 0, vrCap := bits a 24 12, ocBase := bits b 5 0, ocSize := bits b 12 6, tbOwn := bits b 14 13 }

/-- The unit state of a cell at its reset value; memory tile, local space and configuration stay (R293). -/
def Cell.unitReset (c : Cell) : Cell :=
  { c with mtSel := 0, mt := [], vtSel := 0, vt := [], vr := [], vm := [], ftq := [], ftqCount := 0, chans := []
           su0 := { w0 := c.su0.w0, w1 := c.su0.w1 }, su1 := { w0 := c.su1.w0, w1 := c.su1.w1 }, narrowRefused := 0
           msg := c.msg.map (fun m => { m with nS := 0, due := 0, nA := 0, nR := 0, inbox := [], held := [], freed := 0
                                               credits := m.credits.map (fun e => { e with sent := 0 }) }) }

/-- The counters a COMMIT leaves: the router's, cleared at Stage 2 (R249), and the corrections of R636. -/
def Cell.keptCtr (k : Nat) : Bool :=
  (decide (CellCtr.meshEvtFlits.ctorIdx ≤ k) && decide (k ≤ CellCtr.meshEvtBadnode.ctorIdx)) || decide (CellCtr.cellEccCorr.ctorIdx ≤ k)

/-- A cell's CELL_CTRL and SWITCH state written, its units at reset, counters cleared, ready bits set (R296 1 to 3). A
cell without the section has no regions, no contexts, no channels (R282). -/
def Cell.configured (c : Cell) (w : List Nat) (sw : List Byte) : Cell :=
  let g := fun i hi lo => bits (w.getD i 0) hi lo
  let c := c.unitReset
  { c with cmdBase := 4096 * g 0 7 0, cmdCount := g 0 20 8, progBase := g 1 9 0, progCount := g 1 23 10
           ready := if g 2 16 16 = 1 then g 2 15 0 else 0xFFFF
           parts := (List.range 4).foldl (fun t k => Tab.put {} t k (ctrlPart w k)) []
           msg := ctrlMsg w, route := ctrlRoute w, homed := ctrlHomes w
           slots := (List.range 40).foldl (fun t i => Tab.put 0 t i (leAt sw (2 * i) 2)) []
           chanCfg := (List.range 32).foldl (fun t i => Tab.put 0 t i (leAt sw (80 + 4 * i) 4)) []
           su0 := { w0 := leAt sw 208 4, w1 := leAt sw 212 4 }, su1 := { w0 := leAt sw 216 4, w1 := leAt sw 220 4 }
           ctr := c.ctr.filter (fun e => Cell.keptCtr e.1), ctrlWords := w }

/-! ### Sections -/

/-- A section: type, cell, offset and body. -/
structure Section where
  type : Nat
  cell : Nat
  offset : Nat
  body : List Byte
  deriving DecidableEq, Repr

/-- The section at the head of some plaintext, with its length with padding; none where its header, counts or padding
break R281. -/
def Section.parse (bs : List Byte) : Option (Section × Nat) :=
  let len := leAt bs 12 4
  let total := roundUp (32 + len) 64
  if bs.length < 32 ∨ bs.length < total then none
  else if !(zeros ((bs.drop 1).take 3) && zeros ((bs.drop 6).take 2) && zeros ((bs.drop 16).take 16)
      && zeros ((bs.take total).drop (32 + len))) then none
  else some ({ type := leAt bs 0 1, cell := leAt bs 4 2, offset := leAt bs 8 4, body := (bs.drop 32).take len }, total)

/-- The ranges of a CELL_CTRL body (R115, R283), reason PARTITION: the first context whose partition breaks them, 0 where it is a
region of the cell that does. -/
def ctrlRanges (w : List Nat) : Option Nat :=
  let g := fun i hi lo => bits (w.getD i 0) hi lo
  let ps := (List.range 4).map (ctrlPart w)
  let on := ps.filter (fun p => p != {})
  let partOk := fun (p : Part) => p.vrBase % 64 == 0 && decide (p.vrBase ≤ 4032) && p.vrCap % 64 == 0 && decide (64 ≤ p.vrCap)
    && decide (p.vrBase + p.vrCap ≤ 4096) && decide (p.ocBase + p.ocSize ≤ 64)
  let apart := fun (p q : Part) => !overlaps p.vrBase p.vrCap q.vrBase q.vrCap && !overlaps p.ocBase p.ocSize q.ocBase q.ocSize
    && (p.tbOwn &&& q.tbOwn) == 0
  let cb := 4096 * g 0 7 0
  let cl := 64 * g 0 20 8
  let pb := 1024 * g 1 9 0
  let pl := 8 * g 1 23 10
  match (List.range 4).find? (fun i => ps.getD i {} != {} && !(partOk (ps.getD i {}) && (List.range i).all (fun j =>
      ps.getD j {} == {} || apart (ps.getD i {}) (ps.getD j {})))) with
  | some i => some i
  | none =>
    if decide ((on.map Part.vrCap).sum ≤ 4096)
      && decide (g 0 20 8 ≤ 4096) && decide (g 1 23 10 ≤ 8192)
      && (cl == 0 || decide (cb + cl ≤ memtSize)) && (pl == 0 || decide (pb + pl ≤ memtSize)) && !overlaps cb cl pb pl
    then none else some 0

/-- The reserved bits of a CELL_CTRL body (R283). -/
def ctrlReserved (w : List Nat) : Bool :=
  let z := fun i m => (w.getD i 0) &&& m == 0
  z 0 0xFFE00000 && z 1 0xFF000000 && z 2 0xFFFE0000
    && (List.range 4).all (fun c => bits (w.getD (3 + 2 * c) 0) 31 25 == 0 && bits (w.getD (4 + 2 * c) 0) 31 15 == 0)
    && z 11 0xFFC00000 && z 12 0xC000C000 && z 13 0xC000C000
    && (List.range 8).all (fun i => z (14 + i) 0x00020000)
    && (List.range 8).all (fun i => z (22 + i) 0xFFFF4000)
    && (List.range 32).all (fun i => z (30 + i) 0xF0004000)
    && z 62 0xFFFFFFFF && z 63 0xFFFFFFFF

/-- The credit entries' counts (R265). -/
def ctrlCredits (w : List Nat) : Bool := (List.range 8).all (fun i => decide (bits (w.getD (14 + i) 0) 16 12 ≤ 16))

/-- The reserved fields and codes of a SWITCH body (R204, R206, R217), reason STREAM: the first slot entry, channel or steering
unit that breaks them. -/
def switchCodes (b : List Byte) : Option Nat :=
  (List.range 40).find? (fun i =>
      let e := leAt b (2 * i) 2
      !(bits e 15 14 == 0 && decide (bits e 3 1 ≤ 4)))
    <|> (List.range 32).find? (fun i =>
      let e := leAt b (80 + 4 * i) 4
      let role := bits e 1 0
      !(bits e 31 18 == 0 && role != 3 && bits e 3 2 != 3
        && (role == 0 && e == 0
            || role == 1 && decide (2 ≤ bits e 13 6) && decide (bits e 13 6 ≤ 128) && bits e 17 14 == 0 && bits e 5 4 != 3
            || role == 2 && bits e 13 6 == 0 && decide (1 ≤ bits e 17 14) && decide (bits e 17 14 ≤ 8) && decide (bits e 5 4 ≤ 1))
        && (bits e 3 2 != 0 || bits e 5 4 == 0)))
    <|> [0, 1].find? (fun u =>
      let w0 := leAt b (208 + 8 * u) 4
      let kind := bits w0 1 0
      let cond := bits w0 4 2
      !(bits w0 31 5 == 0 && kind != 3 && decide (cond ≤ 3) && !(kind == 2 && cond == 2) && !(kind == 1 && cond == 3)))

/-- How a section fails: its reason, and the channel, context, command or instruction it concerns. -/
abbrev SecFail := Nat × Nat

/-- The reason codes of R289. -/
def rFormat : Nat := 1
def rSequence : Nat := 2
def rAuth : Nat := 3
def rKey : Nat := 4
def rGallery : Nat := 5
def rBadSite : Nat := 6
def rFeature : Nat := 7
def rCommand : Nat := 8
def rProgram : Nat := 9
def rPartition : Nat := 10
def rStream : Nat := 11
def rOrdered : Nat := 12
def rSignal : Nat := 13
def rMessage : Nat := 14
def rCircuit : Nat := 15
def rDepth : Nat := 16
def rRange : Nat := 17
def rBoundary : Nat := 18

/-- The checks of one section as its segment is applied (R282 to R285, R288): the reason, and the context, channel, slot entry or
unit it concerns. -/
def State.sectionFails (s : State) (l : Load) (sec : Section) : Option SecFail :=
  let h := l.header
  let once := l.secs.contains (sec.type, sec.cell)
  let len := sec.body.length
  let w := words sec.body
  let target :=
    if !hHolds h sec.cell then some (rGallery, 0) else if !s.goodCell sec.cell then some (rBadSite, 0) else none
  let firstOf := fun (checks : List (Bool × Nat)) => (checks.find? (fun c => !c.1)).map (fun c => ((c.2, 0) : SecFail))
  let at_ := fun (reason : Nat) (i : Option Nat) => i.map (fun i => ((reason, i) : SecFail))
  if l.ended then some (rFormat, 0)
  else match sec.type with
  | 0x10 =>
    target <|> firstOf [(len == 256 && sec.offset == 0 && !once && ctrlReserved w, rFormat)] <|> at_ rPartition (ctrlRanges w)
      <|> firstOf [(ctrlCredits w, rMessage)]
  | 0x11 =>
    target <|> firstOf [(len == 256 && sec.offset == 0 && !once && zeros (sec.body.drop 224), rFormat)]
      <|> at_ rStream (switchCodes sec.body)
  | 0x12 =>
    target <|> firstOf [(len % 64 == 0 && decide (64 ≤ len) && sec.offset % 64 == 0 && decide (sec.offset + len ≤ memtSize), rFormat)]
  | 0x13 =>
    let n := leAt sec.body 8 4
    target <|> firstOf [(len == 16 && n % 64 == 0 && decide (64 ≤ n) && leAt sec.body 12 4 == 0 && sec.offset % 64 == 0
      && decide (sec.offset + n ≤ memtSize), rFormat)]
  | 0x14 =>
    target <|> firstOf [(len % 64 == 0 && decide (64 ≤ len) && decide (sec.offset + len ≤ 65536), rFormat)]
  | 0x20 =>
    let w4 := w.getD 4 0
    firstOf [(sec.cell == 0xFFFF && hKind h == 1 && !once && len == 64 && sec.offset == 0 && bits (w.getD 0 0) 31 15 == 0
        && w.getD 1 0 % 64 == 0 && bits (w.getD 2 0) 31 16 == 0 && bits (w.getD 3 0) 31 9 == 0 && bits w4 15 8 == 0
        && (List.range 11).all (fun i => w.getD (5 + i) 0 == 0)
        && (!bit (w.getD 0 0) 14 || (decide (1 ≤ w.getD 3 0) && decide (w.getD 3 0 ≤ 256) && decide (1 ≤ bits w4 31 16))), rFormat),
      (s.feature 12, rFeature)]
  | 0x7F =>
    firstOf [(sec.cell == 0xFFFF && len == 64 && sec.offset == 0 && w.getD 0 0 == 0x5A39434D && w.getD 1 0 == hSecs h
        && l.secs.length == hSecs h && (List.range 13).all (fun i => w.getD (3 + i) 0 == 0), rFormat),
      (w.getD 2 0 == 0xFFFFFFFF || w.getD 2 0 == l.gallery, rGallery)]
  | _ => some (rFormat, 0)

/-- A section that writes a cell applied to it (R282): MEMT_IMAGE, MEMT_FILL, OC_IMAGE. -/
def Cell.cfgWrite (c : Cell) (type offset : Nat) (body : List Byte) : Cell :=
  match type with
  | 0x12 => c.memWrite offset body
  | 0x13 =>
    let p := body.take 8
    c.memWrite offset ((List.range (leAt body 8 4)).map (fun k => p.getD ((offset + k) % 8) 0#8))
  | 0x14 => c.putLocal offset body
  | _ => c

/-- A section that has passed its checks applied: cells written, the rest staged for COMMIT. -/
def State.applySection (s : State) (l : Load) (sec : Section) : Load × State :=
  let l := if sec.type = 0x7F then { l with ended := true } else { l with secs := l.secs ++ [(sec.type, sec.cell)] }
  let write := fun (a n : Nat) =>
    ({ l with written := l.written ++ [(sec.cell, a, n)] },
     s.setCell sec.cell ((s.cell sec.cell).cfgWrite sec.type sec.offset sec.body))
  match sec.type with
  | 0x10 => ({ l with ctrl := Tab.put [] l.ctrl sec.cell (words sec.body) }, s)
  | 0x11 => ({ l with switch := Tab.put [] l.switch sec.cell sec.body }, s)
  | 0x12 => write sec.offset sec.body.length
  | 0x13 => write sec.offset (leAt sec.body 8 4)
  | 0x14 => write (2 ^ 20 + sec.offset) sec.body.length
  | 0x20 => ({ l with slipway := some (words sec.body) }, s)
  | _ => (l, s)

/-- The sections of a segment's plaintext, in order, until one fails: (reason, offset, cell, index). Where COMMIT stands is kept:
the checks after it name its segment and offset (R289). -/
def State.applySections (s : State) (base : Nat) : Nat → Nat → List Byte → Load → Load × State × Option (Nat × Nat × Nat × Nat)
  | 0, _, _, l => (l, s, none)
  | k + 1, at_, bs, l =>
    if bs = [] then (l, s, none)
    else match Section.parse bs with
      | none => (l, s, some (rFormat, base + at_, leAt bs 4 2, 0))
      | some (sec, n) =>
        match s.sectionFails l sec with
        | some r => (l, s, some (r.1, base + at_, sec.cell, r.2))
        | none =>
          let (l, s) := s.applySection l sec
          let l := if sec.type = 0x7F then { l with commitAt := (l.got, base + at_) } else l
          s.applySections base k (at_ + n) (bs.drop n) l

/-! ### The configuration as COMMIT would leave it (R296) -/

/-- The good cells of a load's rectangle. -/
def State.loadCells (s : State) (l : Load) : List Nat := (List.range cellSites).filter (fun n => s.goodCell n && hHolds l.header n)

/-- A configuration signal's owner: the gallery (R254). -/
def galOwner (gallery : Nat) : Nat := 4096 + gallery

/-- The configuration signals of a load as (signal, home): homed ones, and those its message entries and its SLIPWAY
section name (R254, R302). -/
def Load.sigs (l : Load) : List (Nat × Option Nat) :=
  l.ctrl.flatMap (fun c =>
    (ctrlHomes c.2).map (fun n => (n, some (c.1 + 1)))
      ++ (match ctrlMsg c.2 with
          | some m => [m.sigArrive, m.sigRelease, m.sigSend] ++ (if m.nakEn then [m.sigNak] else []) ++ m.credits.map (fun (e : Credit) => e.sig)
          | none => []).map (fun n => (n, none)))
    ++ (match l.slipway with
        | some w => if bit (w.getD 0 0) 14 then [(bits (w.getD 0 0) 13 0, none)] else []
        | none => [])

/-- The outbound channels of a gallery's good cells. -/
def State.outChans (s : State) (cells : List Nat) : List (Nat × Nat) :=
  cells.flatMap (fun n => ((List.range 32).filter (fun ch => (s.cell n).chanRole ch == 2)).map (fun ch => (n, ch)))

/-- The credits of a gallery's outbound channels after COMMIT (R296): all of the far end's depth for a circuit of the
region or into it, what an outside FIFO has free for one that leaves it. Where a circuit leads to no inbound channel, how
many words leave before it stalls is open (free). -/
def State.commitCredits (s : State) (region : List Nat) (cells : List Nat) : State :=
  (s.outChans cells).foldl (fun s e =>
    let c := s.cell e.1
    let inside := region.contains e.1
    match s.farEnd e.1 e.2 with
    | some (fc, fch) =>
      let far := s.cell fc
      if !inside && !region.contains fc then s
      else
        let n := if inside && !region.contains fc then far.chanDepth fch - (far.chan fch).fifo.length else far.chanDepth fch
        s.setCell e.1 (c.setChan e.2 { c.chan e.2 with credits := n })
    | none =>
      if !inside then s
      else
        let (k, s) := s.drawFree
        s.setCell e.1 (c.setChan e.2 { c.chan e.2 with credits := 1 + Config.freePick k 128 })) s

/-- COMMIT applied (R296 steps 1 to 4). -/
def State.applyConfig (s : State) (l : Load) : State :=
  let region := s.loadCells l
  let gcells := match s.gallery? l.gallery with | some g => s.galCells g | none => region
  let s := region.foldl (fun s n =>
    s.setCell n { (s.cell n).configured (Tab.get [] l.ctrl n) (Tab.get [] l.switch n) with owner := l.tenant, since := s.acycles (cellDie n) }) s
  let s := { s with creditFlight := s.creditFlight.filter (fun k =>
    !(region.contains (k / 32) || (match s.farEnd (k / 32) (k % 32) with | some f => region.contains f.1 | none => false))) }
  let s := s.commitCredits region gcells
  l.sigs.foldl (fun s e =>
    let g := s.signal e.1
    s.setSignal e.1 { g with counter := 0, st := .live, owner := galOwner l.gallery, satRec := false
                             home := match e.2 with | some h => h | none => g.home }) s

/-! ### Checks over the whole configuration (R288, R289) -/

/-- All features, to tell a missing feature from an ill-formed command. -/
def allFeatures : ArrFeat := { fp32Native := true, pairAccum := true, mx16 := true, sr := true }

/-- A failed check: reason, cell, index. -/
abbrev Fail := Nat × Nat × Nat

/-- R91 for a cell's commands. -/
def Cell.commandsFail (c : Cell) (f : ArrFeat) : Option (Nat × Nat) :=
  (List.range c.cmdCount).findSome? (fun i =>
    if c.mtCmdOk f i then none else some (if c.mtCmdOk allFeatures i then rFeature else rCommand, i))

/-- The largest vr_cap of a cell's enabled contexts. -/
def Cell.maxCap (c : Cell) : Nat :=
  let m := ((List.range 4).map (fun k => (Tab.get {} c.parts k).vrCap)).foldl max 0
  if m = 0 then 4096 else m

/-- R124 for a cell's instructions; SETVL's value is held against the largest vr_cap of the cell (log 30). -/
def Cell.programFail (c : Cell) (f : ArrFeat) : Option (Nat × Nat) :=
  (List.range c.progCount).findSome? (fun i =>
    let ok := fun f => vtWellFormed f c.maxCap i (fun j => (c.vtInstr j).op) (c.vtInstr i)
    if ok f then none else some (if ok allFeatures then rFeature else rProgram, i))

/-! #### The steps a program can take -/

/-- The parameter blocks a context's program can reach, with its address registers and VL at each step: the control
instructions run from an entry point; a step at an END, an ill-formed index or past the fuel ends the walk. -/
def walkProgram : Nat → VEnv → List VEnv
  | 0, _ => []
  | k + 1, e =>
    if e.c.progCount ≤ e.x.idx then []
    else
      let e := { e with i := e.c.vtInstr e.x.idx }
      let next : VtCtx := match e.i.op with
        | 0x03 => vLoop e
        | 0x04 => { e.x with vl := e.i.imm, idx := e.x.idx + 1 }
        | 0x05 => { e.x.setA (bits e.i.lo 9 8) (e.i.imm % 2 ^ 20) with idx := e.x.idx + 1 }
        | 0x06 => { e.x.setA (bits e.i.lo 9 8) ((e.areg (bits e.i.lo 9 8) + e.i.imm) % 2 ^ 20) with idx := e.x.idx + 1 }
        | _ => { e.x with idx := e.x.idx + 1 }
      if e.i.op = 0 then [e] else e :: walkProgram k { e with x := next }

/-- The places a program can be entered at: its first instruction and each that follows an END (log 30). -/
def Cell.entries (c : Cell) : List Nat :=
  (List.range c.progCount).filter (fun i => i == 0 || (c.vtInstr (i - 1)).op == 0)

/-- Every step a cell's enabled contexts can take. -/
def Cell.reachable (c : Cell) : List VEnv :=
  (List.range 4).flatMap (fun k =>
    let p := Tab.get {} c.parts k
    if p.vrCap = 0 then []
    else c.entries.flatMap (fun i =>
      walkProgram (2 ^ 48) { c := c, x := { part := p, idx := i, vl := p.vrCap }, i := ⟨0, 0⟩, fp32Native := false }))

/-- R127 where VL is known at load: an instruction that a step reaches with a VL its format does not take (log 77). -/
def Cell.vlFail (c : Cell) : Option (Nat × Nat) :=
  c.reachable.findSome? (fun e => if vlOk e.x.vl e.i then none else some (rProgram, e.x.idx))

/-- The parameter blocks at steps of a program that OC_IMAGE sections of a load placed whole. -/
def Load.blocks (l : Load) (c : Cell) (n : Nat) : List (VEnv × PBlk) :=
  (c.reachable.filter (fun e => e.i.op == 0x09 && l.written.any (fun w =>
      w.1 == n && decide (2 ^ 20 ≤ w.2.1) && decide (w.2.1 - 2 ^ 20 ≤ e.i.imm % 65536)
        && decide (e.i.imm % 65536 + 64 ≤ w.2.1 - 2 ^ 20 + w.2.2)))).map (fun e =>
    (e, { w := (List.range 16).map (fun i => c.loc.readLe (e.i.imm % 65536 + 4 * i) 4) }))

/-- The outbound channels that the epilogue descriptors of placed parameter blocks name (R211). -/
def blockChans (bs : List (VEnv × PBlk)) : List (Nat × Nat × Nat) :=
  bs.flatMap (fun b => [0, 1].filterMap (fun k => if b.2.dest k = 2 then some (bits (b.2.desc k 0) 4 0, 2, 0) else none))

/-- The channel uses of a cell's commands and instructions: (channel, role, minimum depth of an inbound one). -/
def Cell.chanUses (c : Cell) : List (Nat × Nat × Nat) :=
  (List.range c.cmdCount).flatMap (fun i =>
      let w := c.mtCmd i
      let m := Mma.ofWords w
      if bits (w.getD 0 0) 7 0 ≠ 1 then []
      else (if m.srcA then [(m.aChan, 1, 8)] else []) ++ (if m.srcB then [(m.bChan, 1, 8)] else []))
    ++ (List.range c.progCount).flatMap (fun i =>
      let v := c.vtInstr i
      if v.op = 0x16 then [(v.imm % 32, 1, 4)] else if v.op = 0x17 then [(v.imm % 32, 2, 0)] else [])

/-- The first port or channel of a steering unit that its kind and condition need and lack, or have and must not (R217). -/
def Cell.steerFail (c : Cell) (su : Nat) : Bool :=
  let u := c.steer su
  let need := fun (role port : Nat) =>
    match u.kind with
    | 1 => if role = 1 then port == 0 || (port == 2 && u.cond == 1) else port == 0 || port == 1
    | 2 => if role = 1 then port == 0 || port == 1 || (port == 2 && u.cond == 1) else port == 0
    | _ => false
  let has := fun (role port : Nat) => ((List.range 32).filter (fun k =>
    let e := Tab.get 0 c.chanCfg k
    bits e 1 0 == role && bits e 3 2 == su + 1 && bits e 5 4 == port)).length
  [(1, 0), (1, 1), (1, 2), (2, 0), (2, 1)].any (fun p => has p.1 p.2 != (need p.1 p.2).toNat)
    || (u.kind != 0 && u.cond == 0 && u.n0 == 0 && u.n1 == 0)

/-- R211 for one cell, with the parameter blocks a load placed there: (reason, channel or slot entry). -/
def State.switchFail (s : State) (g : Gallery) (l : Load) (n : Nat) : Option (Nat × Nat) :=
  let c := s.cell n
  let entries := (List.range 40).map (fun i => (i, Tab.get 0 c.slots i))
  let valid := entries.filter (fun e => bit e.2 0)
  let into := fun (port : Nat) => if port = 4 then some n else neighbour n port
  let siteFail := valid.findSome? (fun e =>
    let ends := [into (e.1 / 8), into (bits e.2 3 1)]
    if ends.any (fun x => match x with | some y => !s.goodCell y && g.holds y | none => false) then some (rBadSite, e.1)
    else if ends.any (fun x => match x with | some y => !g.holds y | none => true) then some (rStream, e.1)
    else none)
  let twice := valid.findSome? (fun e =>
    let same := valid.filter (fun d => d.1 % 8 == e.1 % 8 && bits d.2 3 1 == bits e.2 3 1)
    if 1 < same.length then some (rStream, e.1) else none)
  let roles := valid.findSome? (fun e =>
    if bits e.2 3 1 = 4 ∧ c.chanRole (bits e.2 8 4) ≠ 2 then some (rStream, bits e.2 8 4)
    else if e.1 / 8 = 4 ∧ c.chanRole (bits e.2 13 9) ≠ 1 then some (rStream, bits e.2 13 9) else none)
  let pool := if 128 < ((List.range 32).map (fun k => if c.chanRole k = 1 then c.chanDepth k else 0)).sum then some (rStream, 0) else none
  let uses := (c.chanUses ++ blockChans (l.blocks c n)).findSome? (fun u =>
    if c.chanRole u.1 = u.2.1 ∧ bits (Tab.get 0 c.chanCfg u.1) 3 2 = 0 then none else some (rStream, u.1))
  let steer := if c.steerFail 0 then some (rStream, 0) else if c.steerFail 1 then some (rStream, 1) else none
  let ordered := if s.feature 5 ∧ ((c.su0.kind = 2 ∧ c.su0.cond = 3) ∨ (c.su1.kind = 2 ∧ c.su1.cond = 3)) then some (rOrdered, 0) else none
  siteFail <|> twice <|> roles <|> pool <|> uses <|> steer <|> ordered

/-- R152 for one access. -/
def VEnv.rangeOk (e : VEnv) : Bool :=
  let win := fun a n al => a % al == 0 && e.x.inWindow a n
  match e.i.op with
  | 0x09 => win (e.i.imm % 65536) 64 1
  | 0x10 | 0x11 => win e.ea (e.span e.f.width) e.elAlign
  | 0x12 | 0x13 => win e.ea (e.span e.f.width) 64 && win e.sa (e.x.vl / e.blk) 64
  | 0x14 | 0x15 => win e.ea (e.span 1) 1
  | 0x18 => e.xferCheck { local_ := e.areg e.i.ar, memt := e.areg (e.i.ar ^^^ 1), len := 64 * (e.i.imm % 512 + 1), toMem := e.i.dir } == .done
  | _ => true

/-- The tiles of an MMA. -/
def Mma.tiles (m : Mma) : List (Nat × Nat) :=
  (List.range m.rCount).flatMap (fun u => (List.range m.cCount).map (fun v => (u, v)))

/-- R110 for one MMA. -/
def Cell.mmaRangeOk (c : Cell) (f : ArrFeat) (w : List Nat) : Bool :=
  let m := Mma.ofWords w
  match m.types f.mx16 with
  | none => true
  | some (fa, fb, la, lb) =>
    m.tiles.all (fun p =>
      let t := p.1 * m.cCount + p.2
      let scale := fun (l : Layout) (b n : Nat) => l == .unblocked || !c.mtOverflows b (m.kLen / l.block * n)
      (m.srcA || (!c.mtOverflows (256 * m.aBase + 256 * p.1 * m.aPitch) (m.kLen * (16 * fa.width))
          && scale la (64 * m.asBase + 64 * p.1 * m.asPitch) 128))
        && (m.srcB || (!c.mtOverflows (256 * m.bBase + 256 * p.2 * m.bPitch) (m.kLen * (8 * fb.width))
          && scale lb (64 * m.bsBase + 64 * p.2 * m.bsPitch) 64))
        && (m.accInit != 1 || (!c.mtOverflows (256 * m.accBase + 256 * t * m.accPitch) 32768
          && (!m.pair || !c.mtOverflows (256 * m.loBase + 256 * t * m.accPitch) 32768))))

/-- R171 for one placed block under one MMA of the cell. -/
def State.blockOk (s : State) (f : ArrFeat) (n : Nat) (e : VEnv) (p : PBlk) (m : Mma) : Bool :=
  let fm := (Fmt.ofCode p.outFmt).getD .fp32
  let lay := (Layout.ofCode f.mx16 p.outLay).getD .unblocked
  let q := epiQ m.epi
  let L := if q then lay.block else 1
  let t : EpiTile := { elems := List.replicate 8192 0, scales := if q then List.replicate (8192 / max 1 L) 0 else []
                       lo := if isPairStore m.epi p then List.replicate 8192 0 else [], w := fm.width, L := L }
  m.epi == 0xFF || m.tiles.all (fun uv =>
    (epiReads p (entryStages (bits m.epi 4 0)) uv.1 uv.2).all (fun r => e.x.inWindow r.1 r.2)
      && [0, 1].all (fun k =>
        let d := p.desc k
        let tgt := if p.dest k = 1 then some n else if p.dest k = 3 then some (p.target k) else none
        match tgt with
        | none => true
        | some tc =>
          s.goodCell tc && s.galleryOf tc == s.galleryOf n
            && (tileWrites t (p.outArr == 1) uv.1 uv.2 (bits (d 1) 19 0) (bits (d 0) 27 12) (bits (d 2) 19 0) (bits (d 3) 15 0)).all
              (fun w => (s.cell tc).epiWriteOk w.1 w.2.length)))

/-- R110, R152 and R171 for one cell of a multi-die gallery. -/
def State.rangeFail (s : State) (l : Load) (n : Nat) : Option (Nat × Nat) :=
  let c := s.cell n
  let f := s.arrFeat
  let mmas := ((List.range c.cmdCount).map (fun i => (i, c.mtCmd i))).filter (fun x => bits (x.2.getD 0 0) 7 0 == 1)
  (mmas.findSome? (fun x => if c.mmaRangeOk f x.2 then none else some (rRange, x.1)))
    <|> (c.reachable.findSome? (fun e => if e.rangeOk then none else some (rRange, e.x.idx)))
    <|> ((l.blocks c n).findSome? (fun b =>
      if mmas.all (fun x => s.blockOk f n b.1 b.2 (Mma.ofWords x.2)) then none else some (rRange, b.1.x.idx)))

/-- The signals a cell's commands, instructions, placed parameter blocks and message entry name (R251). -/
def State.namedSignals (s : State) (l : Load) (n : Nat) : List (Nat × Nat) :=
  let c := s.cell n
  ((List.range c.cmdCount).filterMap (fun i =>
      let w0 := (c.mtCmd i).getD 0 0
      if bits w0 7 0 = 2 ∨ bits w0 7 0 = 3 then some (bits w0 21 8, i) else none))
    ++ ((List.range c.progCount).filterMap (fun i =>
      let v := c.vtInstr i
      if v.op = 1 ∨ v.op = 2 then some (bits v.lo 21 8, i) else none))
    ++ ((l.blocks c n).flatMap (fun b => [0, 1].filterMap (fun k =>
      if b.2.dest k = 4 ∧ bit (b.2.desc k 0) 15 then some (bits (b.2.desc k 0) 29 16, b.1.x.idx) else none)))
    ++ (match c.msg with
        | some m => ([m.sigArrive, m.sigRelease, m.sigSend] ++ (if m.nakEn then [m.sigNak] else [])
            ++ m.credits.map (fun (e : Credit) => e.sig)).map (fun x => (x, 0))
        | none => [])
    ++ c.homed.map (fun x => (x, 0)) ++ c.route.map (fun x => (x.1, 0))

/-- R265 for one cell's message entry. -/
def State.messageOk (s : State) (g : Gallery) (n : Nat) : Bool :=
  let c := s.cell n
  match c.msg with
  | none => true
  | some m =>
    let p := Tab.get {} c.parts m.inboxCtx
    ({ part := p } : VtCtx).inWindow m.inboxBase 512 && decide (m.inboxBase ≤ 0xFE00) && decide (m.outboxBase + 512 ≤ memtSize)
      && !c.inCmd m.outboxBase 512 && !c.inProg m.outboxBase 512
      && ([m.sigArrive, m.sigRelease, m.sigSend] ++ m.credits.map (fun (e : Credit) => e.sig)).all c.homed.contains
      && m.credits.all (fun (e : Credit) => g.holds e.dst && s.goodCell e.dst)

/-- A circuit's trace and slot count (R212): every slot it owns takes the same links to the same inbound channel, so it owns as many
slots on each of them. -/
def State.circuitOk (s : State) (n ch : Nat) : Bool :=
  let c := s.cell n
  let own := c.ownSlots ch
  match own with
  | [] => false
  | t :: _ =>
    let e := s.pathFrom 8448 n 4 t ch
    own.length == bits (Tab.get 0 c.chanCfg ch) 17 14 && e.isSome && own.all (fun u => s.pathFrom 8448 n 4 u ch == e)

/-- The minimum depth of an inbound channel (R212). -/
def Cell.minDepth (c : Cell) (ch : Nat) : Nat :=
  if bits (Tab.get 0 c.chanCfg ch) 3 2 ≠ 0 then 2
  else (c.chanUses.filter (fun u => u.1 == ch && u.2.1 == 1)).foldl (fun m u => max m u.2.2) 0

/-- R295: the circuits that cross a PARTIAL region's edge, before (`s`) and after (`t`). -/
def State.boundaryFail (s t : State) (region cells : List Nat) : Option Fail :=
  (s.outChans cells).findSome? (fun e =>
    match s.farEnd e.1 e.2 with
    | none => none
    | some (fc, fch) =>
      let inside := region.contains e.1
      if inside = region.contains fc then none
      else if !inside then
        match t.farEnd e.1 e.2 with
        | some (nc, nch) =>
          if region.contains nc && decide ((s.cell fc).chanDepth fch ≤ (t.cell nc).chanDepth nch) then none else some (rBoundary, fc, fch)
        | none => some (rBoundary, fc, fch)
      else
        let slots := bits (Tab.get 0 (s.cell e.1).chanCfg e.2) 17 14
        if (t.outChans region).any (fun d => t.farEnd d.1 d.2 == some (fc, fch) && bits (Tab.get 0 (t.cell d.1).chanCfg d.2) 17 14 == slots)
        then none else some (rBoundary, e.1, e.2))

/-- A gallery crosses a die boundary (R16). -/
def Gallery.multiDie (g : Gallery) : Bool := cellDie (cellIndex g.x0 g.y0) != cellDie (cellIndex g.x1 g.y1)

/-- The checks over the whole configuration, in order of their reason codes: `s` as it stands, `t` as COMMIT would leave
it. DESIGN CHOICE (log 95): a parameter block that OC_IMAGE places is not read here; one that selects SR or MX16 without the feature
is refused when an EPILOGUE runs it (R51, R171). -/
def State.configFails (s t : State) (l : Load) (g : Gallery) : Option Fail :=
  let region := s.loadCells l
  let cells := s.galCells g
  let f := s.arrFeat
  let each := fun (chk : Nat → Option (Nat × Nat)) => region.findSome? (fun n => (chk n).map (fun r => ((r.1, n, r.2) : Fail)))
  let homes := l.ctrl.flatMap (fun c => (ctrlHomes c.2).map (fun x => (x, c.1)))
  let sigFail := each (fun n => (t.namedSignals l n).findSome? (fun x =>
    if s.sigTenant x.1 = l.tenant then none else some (rSignal, x.2)))
  let homeFail := homes.findSome? (fun x =>
    let h := (s.signal x.1).home
    let parked := s.gals.any (fun e => match e.2 with
      | some p => e.1 != l.gallery && p.saved.any (fun c => c.2.homed.contains x.1)
      | none => false)
    if (h ≠ 0 ∧ !region.contains (h - 1)) ∨ parked ∨ 1 < (homes.filter (fun y => y.1 == x.1)).length then some ((rSignal, x.2, 0) : Fail) else none)
  let liveFail := l.sigs.findSome? (fun x =>
    let g' := s.signal x.1
    if g'.st = .live ∧ g'.owner < 4096 then some ((rSignal, 0xFFF, x.1) : Fail) else none)
  let slipFail := match l.slipway with
    | some w => if bit (w.getD 0 0) 14 ∧ s.sigTenant (bits (w.getD 0 0) 13 0) ≠ l.tenant then some ((rSignal, 0xFFF, 0) : Fail) else none
    | none => none
  let credFail := cells.findSome? (fun n =>
    let total := (cells.flatMap (fun k => match (t.cell k).msg with
      | some m => (m.credits.filter (fun (e : Credit) => e.dst == n)).map (fun (e : Credit) => e.count)
      | none => [])).sum
    if 16 < total then some ((rMessage, n, 0) : Fail) else none)
  each (fun n => (t.cell n).commandsFail f) <|> each (fun n => (t.cell n).programFail f <|> (t.cell n).vlFail)
    <|> each (t.switchFail g l) <|> sigFail <|> slipFail <|> homeFail <|> liveFail
    <|> each (fun n => if t.messageOk g n then none else some (rMessage, 0)) <|> credFail
    <|> (if !g.multiDie then none
         else
           ((t.outChans cells).findSome? (fun e => if t.circuitOk e.1 e.2 then none else some ((rCircuit, e.1, e.2) : Fail)))
           <|> each (fun n => (List.range 32).findSome? (fun ch =>
             if (t.cell n).chanRole ch = 1 ∧ (t.cell n).chanDepth ch < (t.cell n).minDepth ch then some (rDepth, ch) else none))
           <|> each (t.rangeFail l)
           <|> (if l.full then none else s.boundaryFail t region cells))

end Sys2Proof.Machine
end

