-- ==== Sys2Proof/Machine/Loader.lean ====
section
/-!
DEFINITION. Sys2Proof/Machine/Loader.lean: the configuration loader (ch. 11): admission, fences, segments, COMMIT,
unloading, multicast and the Slipway port.
-/
namespace Sys2Proof.Machine
open Sys2Proof

/-! ### Loads in order of arrival -/

def State.load? (s : State) (i : Nat) : Option Load := s.loads[i]?
def State.setLoad (s : State) (i : Nat) (l : Load) : State := { s with loads := s.loads.set i l }
def State.dropLoad (s : State) (i : Nat) : State := { s with loads := dropAt s.loads i }

/-- SEC_POLICY.plain_cfg (R586, R593). -/
def rSecPolicy : Nat := 0x70068

/-- Another load or unload that arrived earlier names the same gallery (R287). -/
def State.behind (s : State) (i : Nat) (l : Load) : Bool :=
  !l.txOnly && (s.loads.take i).any (fun k => k.gallery == l.gallery && !k.txOnly && k.result.isNone)

/-- The load is one of those that may run: four, fewer once buffers are lost (R280, R642). -/
def State.loadSlot (s : State) : Bool := decide ((s.loads.filter (fun l => l.started && !l.unload && l.result.isNone)).length < s.pairs.length)

/-- The first pair of loader buffers no running load holds. -/
def State.freePair (s : State) : Nat :=
  (s.pairs.find? (fun p => !s.loads.any (fun l => l.started && !l.unload && l.result.isNone && l.pair == p))).getD 0

/-- The stream's bytes [off, off + n): read from host memory, from the tenant's pages, or held by a multicast receiver.
What fails: a status with its detail, and a CFG_REJECT reason (0 none). -/
inductive StreamRead where
  | ok (bs : List Byte)
  | missing
  | refused (reason : Nat)
  | bad (detail : Nat) (e : TvaEnd)
  deriving DecidableEq, Repr

def State.streamRead (s : State) (l : Load) (h : HostIn) (off n : Nat) : StreamRead :=
  if l.src = 2 then (if l.buf.length < off + n then .missing else .ok ((l.buf.drop off).take n))
  else if l.length < off + n then .refused (if l.length < 64 then rFormat else rSequence)
  else if l.src = 0 then
    (if h.fail then .bad detHostRead .ok else .ok (s.hostRead l.tenant (l.addr + off) n))
  else match s.tvaCheck l.tenant (l.addr + off) n false with
    | .ok => .ok (s.tvaBytes l.tenant (l.addr + off) n)
    | .poison _ => .refused rFormat
    | e => .bad detTranslate e

/-- What reading `n` bytes of the stream at its offset does: to the function's account, or to the slices. -/
def State.streamCost (s : State) (l : Load) (n : Nat) : State :=
  match l.src with
  | 0 => s.acctHost l.tenant n
  | 1 => s.tvaTouch l.tenant (l.addr + l.off) n
  | _ => s

/-! ### The end of a load (R289, R290, R296, R299, R304) -/

/-- The gallery a load worked on is no longer loading. -/
def State.unloading (s : State) (l : Load) : State :=
  match s.gallery? l.gallery with
  | some g => if l.started && !l.txOnly && !l.unload then s.setGallery l.gallery (some { g with loading := false }) else s
  | none => s

/-- Word 4 of a Slipway record written, and its done_sig added to after that (R304). -/
def State.slipDone (s : State) (l : Load) (rec st reason : Nat) : State :=
  let s := s.tvaTouch l.tenant (rec + 12) 4
  let w3 := s.tvaLe l.tenant (rec + 12) 4
  let readable := s.tvaCheck l.tenant rec 64 false = .ok
  let s := match s.tvaCheck l.tenant (rec + 16) 4 true with
    | .ok => s.tvaStore l.tenant (rec + 16) (leBytes 4 (st + 2 ^ 8 * reason + 2 ^ 16))
    | e => s.tvaFault none l.tenant 0xA e
  if readable ∧ bit w3 14 then
    s.hubSignal .add (bits w3 13 0) 1 l.tenant .slipway { node := hubN, unit := 0xF, tag := 0 } else s

/-- The entry or record of a load completes. -/
def State.loadCompletes (s : State) (l : Load) (st : Status) (detail : Nat) : State :=
  match l.slip with
  | some r => s.slipDone l r st.code (if st = .cfgRejected ∨ st = .authFail then detail else 0)
  | none => match l.cmd.bind (fun n => s.cmds.find? (fun c => c.id == n)) with
    | some c => s.finish c st detail
    | none => s

/-- A load ends with a status; a sender's entry waits for its repair window (R299). -/
def State.endLoad (s : State) (i : Nat) (st : Status) (detail : Nat) : State :=
  match s.load? i with
  | none => s
  | some l =>
    let s := s.unloading l
    if l.tx then s.setLoad i { l with started := true, result := some (st.code, detail) }
    else (s.dropLoad i).loadCompletes l st detail

/-- What a load that does not commit leaves (R290): a FULL one nothing, its ranges zero, its gallery gone; a PARTIAL one
its region fenced, the ranges it wrote holding undefined (free) bytes. A load that has fenced nothing has written nothing (R287,
R291, R292). -/
def State.undoLoad (s : State) (l : Load) : State :=
  if !l.fenced || l.result.isSome then s
  else if l.full then
    let s := l.written.foldl (fun s w =>
      let c := s.cell w.1
      let z := List.replicate w.2.2 0#8
      s.setCell w.1 (if 2 ^ 20 ≤ w.2.1 then c.putLocal (w.2.1 - 2 ^ 20) z else c.memWrite w.2.1 z)) s
    let s := (s.loadCells l).foldl (fun s n => s.setCell n { s.cell n with fenced := false, owner := 0 }) s
    (s.setGallery l.gallery none).setReg (rGalCtl l.gallery) 0
  else
    l.written.foldl (fun s w =>
      let (k, s) := s.drawFree
      let c := s.cell w.1
      let z := Config.freeBytes k w.2.2
      s.setCell w.1 (if 2 ^ 20 ≤ w.2.1 then c.putLocal (w.2.1 - 2 ^ 20) z else c.memWrite w.2.1 z)) s

/-- A refusal (R289): one record that names the segment, the offset, the cell and the index, what was written undone, CFG_REJECTED
or AUTH_FAIL with the reason. -/
def State.refuseAt (s : State) (i seg reason off cell idx : Nat) : State :=
  match s.load? i with
  | none => s
  | some l =>
    let s := s.record .cfgReject { noRec with node := if cell < cellSites then cell else 0xFFF, unit := 0xA, tenant := l.tenant
                                              gallery := some l.gallery, idx0 := seg % 2 ^ 16, idx1 := idx % 2 ^ 16
                                              addr := off, code := reason }
    (s.undoLoad l).endLoad i (if reason = rAuth then .authFail else .cfgRejected) reason

/-- A refusal in the segment the load has come to. -/
def State.refuseLoad (s : State) (i reason off cell idx : Nat) : State :=
  s.refuseAt i ((s.load? i).getD { tenant := 0, gallery := 0 }).got reason off cell idx

/-- A load ends without a refusal, before COMMIT. -/
def State.abortLoad (s : State) (i : Nat) (st : Status) (detail : Nat) : State :=
  match s.load? i with
  | none => s
  | some l => (s.undoLoad l).endLoad i st detail

/-- A stream that cannot be read ends the load. -/
def State.streamFails (s : State) (i : Nat) (l : Load) : StreamRead → State
  | .refused r => s.refuseLoad i r l.plain 0xFFFF 0
  | .bad d e => (s.tvaFault none l.tenant 0xA e).abortLoad i .badCommand d
  | _ => s

/-! ### Admission (R287) -/

/-- The good cells of a tenant's resident galleries (R532). -/
def State.cellsUsed (s : State) (t : Nat) : Nat :=
  (s.gals.map (fun e => match e.2 with
    | some (g : Gallery) => if g.resident && g.tenant == t then (s.galCells g).length else 0
    | none => 0)).sum

/-- The pages of a stream's spill region: spill_mib MiB, 64 where it is 0 (R228, R276). -/
def spillPages (h : List Byte) : Nat := (if hSpill h = 0 then 64 else hSpill h) / 2

/-- A gallery that stands in a FULL load's way will be parked first (R330). -/
def State.willPark (s : State) (n : Nat) (g : Gallery) : Bool :=
  s.mayPark n g && (g.busy || g.savePages != []
    || decide (s.pagesUsed g.tenant + ceilDiv (3 * (s.galCells g).length) 4 ≤ bits (s.reg (rTen g.tenant 0x0C)) 17 0))

/-- How a load stands with R287's checks that need the header: a CFG_REJECT reason, a quota refused, waiting for
galleries to be parked, or admitted. -/
inductive Admit where
  | refuse (reason : Nat)
  | quota (detail : Nat)
  | wait
  | ok
  deriving DecidableEq, Repr

/-- The stream key of a load (R583). -/
def State.streamKey (s : State) (l : Load) : Option (List Byte) :=
  match Tab.get none s.keySlots l.keySlot with
  | some k => if l.keySlot < 128 ∧ bit k.usage 0 ∧ k.tenant = l.tenant then some k.key else none
  | none => none

def State.keyOk (s : State) (l : Load) (h : List Byte) : Bool :=
  if hEnc h = 1 then (s.streamKey l).isSome else bit (s.reg rSecPolicy) l.tenant

def State.admits (s : State) (l : Load) (h : List Byte) : Admit :=
  if !headerOk h then .refuse rFormat
  else if !rectOk h then .refuse rGallery
  else if l.txOnly then .ok
  else if hKind h = 1 then
    let g : Gallery := { x0 := hX0 h, y0 := hY0 h, x1 := hX1 h, y1 := hY1 h, tenant := l.tenant }
    let there := (s.gals.filterMap (fun e => match e.2 with
      | some p => if p.resident && p.overlaps g then some (e.1, p) else none
      | none => none))
    if l.slip.isSome then .refuse rGallery
    else if there.any (fun e => s.willPark e.1 e.2) then .wait
    else if (s.gallery? l.gallery).isSome || there != [] || decide (32 ≤ s.gals.length) then .refuse rGallery
    else if bits (s.reg (rTen l.tenant 0x10)) 11 0 < s.cellsUsed l.tenant + (s.galCells g).length then .quota 2
    else if bits (s.reg (rTen l.tenant 0x14)) 5 0 ≤ (s.gals.filter (fun e => match e.2 with
        | some p => p.tenant == l.tenant | none => false)).length then .quota 4
    else if bits (s.reg (rTen l.tenant 0x0C)) 17 0 < s.pagesUsed l.tenant + spillPages h then .quota 1
    else if s.keyOk l h then .ok else .refuse rKey
  else match s.gallery? l.gallery with
    | some g =>
      if g.broken || g.loading || g.tenant != l.tenant || !(decide (g.x0 ≤ hX0 h) && decide (hX1 h ≤ g.x1) && decide (g.y0 ≤ hY0 h)
          && decide (hY1 h ≤ g.y1)) then .refuse rGallery
      else if s.keyOk l h then .ok else .refuse rKey
    | none => .refuse rGallery

/-- Load `i` admitted where it can be: a FULL load reserves its gallery number and rectangle and fences it (R287, R291);
the stream key is taken from its slot (R584). -/
def State.tryAdmit (s : State) (i : Nat) (h : HostIn) : State :=
  match s.load? i with
  | none => s
  | some l =>
    if l.started || l.unload || s.behind i l || !s.loadSlot then s
    else match s.streamRead l h 0 64 with
      | .missing => s
      | .ok hdr =>
        let l := { l with header := hdr, full := hKind hdr == 1 }
        let s := s.setLoad i l
        (match s.admits l hdr with
         | .wait => s
         | .refuse r => s.refuseLoad i r 0 0xFFFF 0
         | .quota d => s.abortLoad i .refusedQuota d
         | .ok =>
           let l := { l with started := true, lastGc := s.gc, pair := s.freePair
                             key := if hEnc hdr = 1 then (s.streamKey l).getD [] else [] }
           let s := s.setLoad i l
           if l.txOnly then s
           else if l.full then
             let g : Gallery := { x0 := hX0 hdr, y0 := hY0 hdr, x1 := hX1 hdr, y1 := hY1 hdr, tenant := l.tenant, loading := true
                                  spill := 2 * 2 ^ 20 * spillPages hdr }
             let s := (s.ungate g.x0 g.y0 g.x1 g.y1).setGallery l.gallery (some g)
             let s := (s.galCells g).foldl (fun s n => s.setCell n { s.cell n with fenced := true, owner := 0 }) s
             s.setLoad i { l with fenced := true }
           else s)
      | r => s.streamFails i l r

/-- CFG_LOAD (R286, R287, R491): the descriptor is read and checked; the load takes its place at the loader and is admitted
as soon as it may be. -/
def execCfgLoad (fn ring : Nat) (h : HostIn) (s : State) : Out :=
  .next (if s.fatal then s else s.executePay fn (ring % 8) 3 64 h (fun c bs s =>
    let d := words bs
    let w := fun i => d.getD i 0
    let src := bits (w 0) 6 5
    let tx := bit (w 0) 16
    let only := bit (w 0) 17
    let addr := w 1 + 2 ^ 32 * w 2
    let shape := bits (w 0) 7 7 == 0 && bits (w 0) 31 18 == 0 && src != 3 && (!only || tx) && bits (w 4) 31 28 == 0
      && bits (w 5) 31 16 == 0 && (List.range 10).all (fun i => w (6 + i) == 0)
      && (src != 1 || decide (w 2 < 2 ^ 16)) && (src != 2 || (addr == 0 && w 3 == 0))
      && (!tx || (decide (1 ≤ w 5) && decide (w 5 ≤ 60000)))
    if fn = 0 ∧ !(tx && only) then s.bad c detFunction
    else if !shape then s.bad c detMalformed
    else
      let l : Load := { cmd := some c.id, tenant := fn, gallery := bits (w 0) 4 0, src := src, addr := addr, length := w 3
                        keySlot := bits (w 0) 15 8, group := bits (w 4) 15 0, mcSrc := bits (w 4) 27 16, tx := tx, txOnly := only
                        holdMs := bits (w 5) 15 0, lastGc := s.gc }
      let s := s.running c
      ({ s with loads := s.loads ++ [l] }).tryAdmit s.loads.length h))

/-! ### The PARTIAL fence (R292 to R294) -/

/-- Every context of a cell is IDLE and no bind request is on its way to it. -/
def State.cellIdle (s : State) (n : Nat) : Bool :=
  let c := s.cell n
  (List.range 4).all (fun k => (c.mtx k).st == .idle && (c.vtx k).st == .idle)
    && !s.flight.any (fun p => p.dst == n && (match p.body with | .ctrl (.bind ..) => true | _ => false))

/-- PARTIAL_FENCE_FALL: the region of an admitted PARTIAL load has gone quiet and its gallery is resident: signals move to
Hub N, words left in inbound FIFOs, and those still on their way to one, are discarded and recorded (log 85), units go to reset, the owner tags take the fence value,
senders outside have their credits withheld. -/
def execPartialFenceFall (load : Nat) (s : State) : Out :=
  .next (
    if s.fatal then s else
    match s.load? load with
    | none => s
    | some l =>
      match s.gallery? l.gallery with
      | none => s
      | some g =>
        let region := s.loadCells l
        if !l.started || l.full || l.fenced || l.result.isSome || l.txOnly || !g.resident || g.busy || s.arrayHeld || !region.all s.cellIdle then s
        else
          let outs := (s.outChans (s.galCells g)).filter (fun e =>
            !region.contains e.1 && (match s.farEnd e.1 e.2 with | some f => region.contains f.1 | none => false))
          let into : SWord → Option (Nat × Nat) := fun w => s.farEnd (w.circuit / 32) (w.circuit % 32)
          let coming : Nat → Nat → Nat := fun n ch => (s.links.filter (fun k => into k.word == some (n, ch))).length
          let s := region.foldl (fun (s : State) n =>
            let c := s.cell n
            (List.range 32).foldl (fun (s : State) (ch : Nat) =>
              let k : Nat := (c.chan ch).fifo.length + coming n ch
              if c.chanRole ch = 1 ∧ k ≠ 0 then
                s.record .cfgWordsDiscarded { noRec with node := n, unit := 0xA, tenant := l.tenant, gallery := some l.gallery
                                                         idx0 := ch, code := k }
              else s) s) s
          let s := region.foldl (fun s n =>
            let s := s.homeToHub n
            let c := s.cell n
            s.setCell n { c.unitReset with fenced := true, ownerSaved := c.owner, owner := fenceTag }) s
          let s := outs.foldl (fun s e => s.setCell e.1 ((s.cell e.1).setChan e.2 { (s.cell e.1).chan e.2 with withheld := true })) s
          let s := { s with links := s.links.filter (fun k => match into k.word with | some f => !region.contains f.1 | none => true) }
          s.setLoad load { l with fenced := true })

/-! ### Segments (R277 to R280, R299) -/

/-- The additional data of segment i: the stream header and the first 16 bytes of the segment header (R279). -/
def segAad (l : Load) (sh : List Byte) : List Byte := l.header ++ sh.take 16

/-- The format of a segment header, and its place in the stream: a reason where it is wrong (R277). -/
def segmentFails (l : Load) (sh : List Byte) : Option Nat :=
  let len := leAt sh 8 4
  let last := bit (leAt sh 12 4) 0
  if leAt sh 0 4 ≠ 0x5A395347 ∨ leAt sh 12 4 / 2 ≠ 0 ∨ len % 64 ≠ 0 ∨ len < 64 ∨ 16777216 < len then some rFormat
  else if leAt sh 4 4 ≠ l.got ∨ last ≠ decide (l.got + 1 = hSegs l.header) then some rSequence
  else if hLen l.header < l.plain + len ∨ (last ∧ l.plain + len ≠ hLen l.header) then some rSequence
  else if last ∧ l.src ≠ 2 ∧ l.length ≠ l.off + 32 + len then some rSequence
  else none

/-- A segment's plaintext, where its tag is right, with the next chained key (R278, R279). -/
def openSegment (l : Load) (sh payload : List Byte) : Option (List Byte × List Byte) :=
  let tag := (sh.drop 16).take 16
  if hEnc l.header = 1 then
    let (k, iv) := segmentKey l.key (hId l.header) l.got
    if gcmTag k iv (segAad l sh) payload = tag then some (gcmCrypt k iv payload, k) else none
  else if (sha384 (segAad l sh ++ payload)).take 16 = tag then some (payload, []) else none

/-- Bytes of a stream sent to its group as CFG_MCAST messages; which class they travel in is open (R299, R454). -/
def State.mcastSend (s : State) (l : Load) (off : Nat) (bs : List Byte) : State :=
  let (k, s) := s.drawFree
  let tc := Config.freePick k 7
  (putPieces off bs).foldl (fun s p =>
    let m := ferMsg kMcast tc l.group s.fer.devId ((s.domainOf l.tenant).getD 0) s.fer.epoch p.1 0 s.fer.devId p.2
    let m := { m with words := m.words.set 0 (m.w 0 + 2 ^ 9) }
    match s.pickPort l.group tc with
    | some q => s.emit q m
    | none => s) s

/-- A segment sent to the group, the header before the first (R299). -/
def State.mcastSegment (s : State) (l : Load) (seg : List Byte) : State :=
  if !l.tx then s else (if l.got = 0 then s.mcastSend l 0 l.header else s).mcastSend l l.off seg

/-- A sender's next segment goes to its group; after the last one its repair window opens (R299). -/
def State.sendSegment (s : State) (i : Nat) (l : Load) (h : HostIn) : State :=
  match s.streamRead l h l.off 32 with
  | .ok sh =>
    let n := 32 + leAt sh 8 4
    let last := decide (hSegs l.header ≤ l.got + 1) || (l.src != 2 && decide (l.length < l.off + n + 32))
    (match s.streamRead l h l.off n with
     | .missing => s
     | r =>
       let s := match r with | .ok seg => (s.streamCost l n).mcastSegment l seg | _ => s
       s.setLoad i { l with got := l.got + 1, off := l.off + n
                            holdEnd := if last then some (s.gc + 1000000 * l.holdMs) else l.holdEnd })
  | .missing => s
  | _ => s.setLoad i { l with holdEnd := some (s.gc + 1000000 * l.holdMs) }

/-- SEGMENT_APPLY: the next segment of a load is staged, its tag checked, decrypted, and its sections are checked and
applied in order. A load still waiting to be admitted is tried first. -/
def execSegmentApply (load : Nat) (h : HostIn) (s : State) : Out :=
  .next (
    if s.fatal then s else
    match s.load? load with
    | none => s
    | some l =>
      let s := s.hostStores l.tenant h
      if !l.started then s.tryAdmit load h
      else if l.holdEnd.isSome || l.unload then s
      else if l.txOnly || l.result.isSome then s.sendSegment load l h
      else if !l.fenced || l.committed || decide (hSegs l.header ≤ l.got) || decide (3 ≤ s.sag) || s.arrayHeld then s
      else match s.streamRead l h l.off 32 with
        | .missing => s
        | .ok sh =>
          (match segmentFails l sh with
           | some r => s.refuseLoad load r l.plain 0xFFFF 0
           | none =>
             let n := leAt sh 8 4
             match s.streamRead l h (l.off + 32) n with
             | .missing => s
             | .ok payload =>
               (match openSegment l sh payload with
                | none => s.refuseLoad load rAuth l.plain 0xFFFF 0
                | some (pt, k) =>
                  let s := s.streamCost l (32 + n)
                  let (l', s, f) := s.applySections l.plain (n / 64 + 1) 0 pt l
                  match f with
                  | some (r, off, cell, idx) => (s.setLoad load l').refuseLoad load r off cell idx
                  | none =>
                    let s := s.mcastSegment l (sh ++ payload)
                    let got := l.got + 1
                    let l' := { l' with got := got, off := l.off + 32 + n, plain := l.plain + n, key := if k = [] then l.key else k
                                        holdEnd := if l.tx && decide (got = hSegs l.header) then some (s.gc + 1000000 * l.holdMs) else none }
                    let s := s.setLoad load l'
                    if got = hSegs l.header ∧ !l'.ended then s.refuseLoad load rFormat (l.plain + n) 0xFFFF 0 else s)
             | r => s.streamFails load l r)
        | r => s.streamFails load l r)

/-! ### COMMIT (R288, R296) -/

/-- A SLIPWAY section's port (R302). -/
def slipwayOf (w : List Nat) : Option Slipway :=
  if bit (w.getD 0 0) 14 then
    some { sigGo := bits (w.getD 0 0) 13 0, tbl := w.getD 1 0 + 2 ^ 32 * bits (w.getD 2 0) 15 0, len := bits (w.getD 3 0) 8 0
           keySlot := bits (w.getD 4 0) 7 0, quiesceMs := bits (w.getD 4 0) 31 16 }
  else none

/-- The configured granules of a load: those its images and fills touch and those of its regions (R312). -/
def Load.granules (l : Load) : List (Nat × Nat) :=
  let span := fun (n a len : Nat) => if len = 0 then [] else (List.range ((a + len - 1) / 4096 - a / 4096 + 1)).map (fun k => (n, a / 4096 + k))
  (l.written.filter (fun w => decide (w.2.1 < 2 ^ 20))).flatMap (fun w => span w.1 w.2.1 w.2.2)
    ++ l.ctrl.flatMap (fun c =>
      let g := fun i hi lo => bits (c.2.getD i 0) hi lo
      span c.1 (4096 * g 0 7 0) (64 * g 0 20 8) ++ span c.1 (1024 * g 1 9 0) (8 * g 1 23 10))

/-- COMMIT_APPLY: once the stream is whole, and the words that left the region before its fence fell have arrived, the checks over
the whole configuration; then COMMIT is applied. -/
def execCommitApply (load : Nat) (s : State) : Out :=
  .next (
    if s.fatal then s else
    match s.load? load with
    | none => s
    | some l =>
      match s.gallery? l.gallery with
      | none => s
      | some g =>
        let ends := fun (w : SWord) => w.circuit / 32 :: ((s.farEnd (w.circuit / 32) (w.circuit % 32)).map Prod.fst).toList
        let moving := s.links.any (fun k => (ends k.word).any (s.loadCells l).contains)
        if !l.ended || l.committed || l.result.isSome || decide (l.got ≠ hSegs l.header) || s.arrayHeld || moving then s
        else
          let t := s.applyConfig l
          match s.configFails t l g with
          | some (r, cell, idx) => s.refuseAt load l.commitAt.1 r l.commitAt.2 cell idx
          | none =>
            (t.setLoad load { l with committed := true }).setGallery l.gallery
              (some { g with config := (g.config ++ l.granules).eraseDups
                             slip := if l.full then l.slipway.bind slipwayOf else g.slip }))

/-- LOAD_FENCE_DROP: every cell of the region has acknowledged COMMIT: the fence drops in one step, credits withheld for it flow;
a FULL load's spill region is allocated; the load completes with OK. -/
def execLoadFenceDrop (load : Nat) (s : State) : Out :=
  .next (
    if s.fatal then s else
    match s.load? load with
    | none => s
    | some l =>
      match s.gallery? l.gallery with
      | none => s
      | some g =>
        let pending := s.flight.any (fun p => p.cls == .loader && (match p.body with | .cfg .. => true | .wrAck .. => true | _ => false))
        if !l.committed || l.result.isSome || pending || s.arrayHeld then s
        else match (if l.full then s.takePages l.tenant (4 + cellDie (cellIndex g.x0 g.y0)) (spillPages l.header) else some ([], s)) with
          | none => s
          | some (pages, s) =>
            let s := (s.loadCells l).foldl (fun s n => s.setCell n { s.cell n with fenced := false }) s
            let s := (s.galCells g).foldl (fun s n =>
              s.setCell n ((s.cell n).chans.foldl (fun c x =>
                let still := match s.farEnd n x.1 with | some f => (s.cell f.1).fenced | none => false
                if x.2.withheld && !still then c.setChan x.1 { x.2 with withheld := false } else c) (s.cell n))) s
            let s := (s.galCells g).foldl State.settleSumps s
            let s := s.setGallery l.gallery (some { g with spillPages := if l.full then pages else g.spillPages
                                                           residentGc := if l.full then s.gc else g.residentGc })
            (s.traceEv 7 l.tenant 0 [l.gallery, l.plain]).endLoad load .ok 0)

/-! ### CFG packets -/

/-- CFG reaches a cell: the loader's delivery of one section to it, its type in `kind`, its offset in the first four bytes
(R236). The Slipway port's are accepted only within its gallery (R305), any other source's not at all. -/
def execCfg (p : Packet) (s : State) : Out :=
  .next (
    if s.fatal then s else
    match p.body with
    | .cfg kind b =>
      if !s.goodCell p.dst || !s.cellOpen p.dst then s
      else s.arrive p (fun s =>
        if (p.cls ≠ .loader ∧ p.cls ≠ .slipway) ∨ !s.ownerAdmits p.dst p then s.send (s.respTo p (.wrAck .access))
        else
          let s := s.setCell p.dst ((s.cell p.dst).cfgWrite kind (leAt b 0 4) (b.drop 4))
          s.send (s.respTo p (.wrAck .ok)))
    | _ => s)

/-! ### Unloading (R298) -/

/-- Configuration signals of a gallery made FREE (R254). -/
def State.freeConfigSignals (s : State) (n : Nat) : State :=
  (s.sigs.filter (fun g => g.2.st == .live && g.2.owner == galOwner n)).foldl (fun s g => s.freeSignal g.1) s

/-- A gallery whose jobs have ended taken away: signals moved and freed, cells cleared where it is resident, its pages
freed, its number free. -/
def State.removeGallery (s : State) (n : Nat) (g : Gallery) : State :=
  let s := if g.resident then
      (s.galCells g).foldl (fun s k => (s.homeToHub k).setCell k ((s.homeToHub k).cell k).cleared) s
    else s
  let s := (s.freeConfigSignals n)
  let s := (g.spillPages ++ g.savePages).foldl State.freePage s
  (s.setGallery n none).setReg (rGalCtl n) 0

/-- The jobs of a gallery. -/
def State.galJobs (s : State) (n : Nat) : List Nat :=
  s.jobs.filterMap (fun e => match e.2 with | some j => if j.gallery = some n then some e.1 else none | none => none)

/-- An unload at the loader goes as far as it can: it waits for what arrived before it and for a park or restore; then
it cancels the gallery's jobs, and ends once they have ended (R287, R298). None: nothing to do now. -/
def State.unloadStep (s : State) (i : Nat) : Option State :=
  match s.load? i with
  | none => none
  | some l =>
    if !l.unload || s.behind i l then none
    else match s.gallery? l.gallery with
      | none => some ((s.dropLoad i).loadCompletes l .badCommand detMalformed)
      | some g =>
        if l.tenant ≠ 0 ∧ g.tenant ≠ l.tenant then some ((s.dropLoad i).loadCompletes l .badCommand detFunction)
        else if g.busy || g.loading || (g.resident && s.arrayHeld) then none
        else if !l.started then
          some (((s.galJobs l.gallery).foldl (fun s j => s.stopJob (some j) .cancelled 0) s).setLoad i { l with started := true })
        else if s.galJobs l.gallery ≠ [] then none
        else some ((((s.removeGallery l.gallery g).traceEv 7 g.tenant 0 [l.gallery, 0]).dropLoad i).loadCompletes l .ok 0)

/-- The first unload of a ring that can go on. -/
def State.unloadRing (s : State) (fn ring : Nat) : Option State :=
  (List.range s.loads.length).findSome? (fun i =>
    match s.load? i with
    | some l =>
      if l.unload && (match l.cmd.bind (fun n => s.cmds.find? (fun c => c.id == n)) with
          | some c => c.fn == fn && c.ring == ring
          | none => false) then s.unloadStep i else none
    | none => none)

/-- CFG_UNLOAD: an unload of the ring that waits goes on; else the ring's next entry is taken. It takes its place behind the loads
and unloads of its gallery that arrived before it, and finds the gallery as they leave it (R287). -/
def execCfgUnload (fn ring : Nat) (s : State) : Out :=
  .next (
    if s.fatal then s else
    match s.unloadRing fn (ring % 8) with
    | some t => t
    | none => s.execute fn (ring % 8) 4 ⟨[], false⟩ (fun c s =>
      let s := s.running c
      let l : Load := { cmd := some c.id, unload := true, tenant := fn, gallery := c.w 8 }
      let s := { s with loads := s.loads ++ [l] }
      (s.unloadStep (s.loads.length - 1)).getD s))

/-! ### Multicast (R299, R300, R454) -/

/-- A multicast load still takes its stream: it has not ended, or it sends what it takes on (R299). -/
def Load.reading (l : Load) : Bool := l.result.isNone || (l.tx && l.holdEnd.isNone)

/-- CFG_MCAST: the bytes are passed to the loads that wait for them from that sender and group; a copy already held is
discarded, as is a message no load waits for (R300, R454). -/
def execCfgMcast (port : Nat) (m : FMsg) (s : State) : Out :=
  .next (
    if s.fatal then s else
    if !(s.port port).st.isUp || m.kind != kMcast || !m.mcast then s
    else { s with loads := s.loads.map (fun (l : Load) =>
      if l.src ≠ 2 ∨ l.group ≠ m.dst ∨ l.mcSrc ≠ bits (m.w 7) 11 0 ∨ !l.reading then l
      else if m.addr = l.buf.length then { l with buf := l.buf ++ m.data, lastGc := s.gc, gap := false }
      else if l.buf.length < m.addr then { l with gap := true } else l) })

/-- Bytes of a stream whose header is held. -/
def streamLength (h : List Byte) : Nat := 64 + 32 * hSegs h + hLen h

/-- MCAST_GAP_FETCH: bytes late by 1 ms or passed over are fetched from the sender by GET, in pieces of at most 16,384 B
(R300, R454). -/
def execMcastGapFetch (load : Nat) (s : State) : Out :=
  .next (
    if s.fatal then s else
    match s.load? load with
    | none => s
    | some l =>
      let off := l.buf.length
      let want := if off < 64 then 64 - off else streamLength l.buf - off
      if l.src ≠ 2 || !l.reading || (l.ended && l.result.isNone) || !(l.gap || decide (l.lastGc + 1000000 ≤ s.gc)) || want == 0
        || s.fer.gets.any (fun g => g.use == .mcast l.gallery off) || !s.ferGood l.tenant 0 0 then s
      else
        let tag := s.fer.reqTag
        let s := s.updFer (fun f => { f with reqTag := (tag + 1) % 2 ^ 32, gets := f.gets ++ [{ tag := tag, dst := l.mcSrc, use := .mcast l.gallery off }] })
        let (k, s) := s.drawFree
        s.ferSend false .none l.tenant kGet (Config.freePick k 7) l.mcSrc off (2 ^ 16) tag
          (leBytes 4 (min want 16384) ++ leBytes 4 l.group ++ leBytes 8 0))

/-- The reply to a multicast load's GET: the bytes go on with the stream; a window that has closed refuses the load with
reason SEQUENCE (R300). -/
def State.mcastReply (s : State) (gallery off : Nat) (data : Option (List Byte)) : State :=
  match s.loads.findIdx? (fun l => l.gallery == gallery && l.src == 2 && l.reading) with
  | none => s
  | some i =>
    match s.load? i, data with
    | some l, some bs => if l.buf.length = off then s.setLoad i { l with buf := l.buf ++ bs, lastGc := s.gc, gap := false } else s
    | some l, none =>
      if l.result.isSome then s.setLoad i { l with holdEnd := some (s.gc + 1000000 * l.holdMs) } else s.refuseLoad i rSequence l.plain 0xFFFF 0
    | none, _ => s

/-- HOLD_WINDOW_CLOSE: hold_ms after its last segment a sender's entry completes, once its own load has ended. -/
def execHoldWindowClose (load : Nat) (s : State) : Out :=
  .next (
    if s.fatal then s else
    match s.load? load with
    | none => s
    | some l =>
      match l.holdEnd with
      | none => s
      | some e =>
        if s.gc < e then s
        else if l.txOnly && l.result.isNone then (s.dropLoad load).loadCompletes l .ok 0
        else match l.result with
          | some (st, d) => (s.dropLoad load).loadCompletes l (if st = 0 then .ok else if st = Status.authFail.code then .authFail
              else if st = Status.timeout.code then .timeout else if st = Status.refusedQuota.code then .refusedQuota
              else if st = Status.badCommand.code then .badCommand else .cfgRejected) d
          | none => s)

/-! ### The Slipway port (R301 to R305) -/

/-- SLIPWAY_RECORD: the port of a resident gallery takes the next queued record and starts its load; a record with a
reserved field set, or that cannot be translated, completes with BAD_COMMAND. -/
def execSlipwayRecord (gallery : Nat) (s : State) : Out :=
  .next (
    if s.fatal then s else
    match s.gallery? gallery with
    | none => s
    | some g =>
      match g.slip with
      | none => s
      | some p =>
        match p.queue with
        | [] => s
        | n :: rest =>
          if !g.resident || g.busy || g.loading || g.broken || s.loads.any (fun l => l.gallery == gallery && !l.txOnly && l.result.isNone)
            || !s.loadSlot then s
          else
            let s := s.setGallery gallery (some { g with slip := some { p with queue := rest } })
            let a := p.tbl + 64 * n
            let l : Load := { slip := some a, tenant := g.tenant, gallery := gallery, src := 1, keySlot := p.keySlot
                              expires := some (s.gc + 1000000 * p.quiesceMs) }
            match s.tvaCheck g.tenant a 64 false with
            | .ok =>
              let w := words (s.tvaBytes g.tenant a 64)
              let s := s.tvaTouch g.tenant a 64
              let z := fun i => w.getD i 0
              if z 0 % 64 ≠ 0 ∨ bits (z 1) 31 16 ≠ 0 ∨ bits (z 3) 31 15 ≠ 0 ∨ bits (z 4) 31 17 ≠ 0 ∨ (List.range 11).any (fun i => z (5 + i) != 0) then
                s.slipDone l a Status.badCommand.code 0
              else
                let l : Load := { l with addr := z 0 + 2 ^ 32 * z 1, length := z 2 }
                ({ s with loads := s.loads ++ [l] }).tryAdmit s.loads.length ⟨[], false⟩
            | e => (s.tvaFault none g.tenant 0xA e).slipDone l a Status.badCommand.code 0)

/-- QUIESCE_TIMEOUT: a Slipway load whose region has not gone quiet within quiesce_ms ends with TIMEOUT (R305). -/
def execQuiesceTimeout (load : Nat) (s : State) : Out :=
  .next (
    if s.fatal then s else
    match s.load? load with
    | none => s
    | some l =>
      match l.expires with
      | some e => if s.gc < e ∨ l.fenced ∨ l.slip.isNone then s else s.endLoad load .timeout 0
      | none => s)

end Sys2Proof.Machine
end

