-- ==== Sys2Proof/Machine/Engines.lean ====
section
/-!
DEFINITION. Sys2Proof/Machine/Engines.lean: the fixed-function engines (ch. 13): what they reach, the commands of the DMA,
gather, sort, random, compression and crypto engines.
-/
namespace Sys2Proof.Machine
open Sys2Proof

namespace EngCmd
def w (c : EngCmd) (i : Nat) : Nat := leAt c.cmd (4 * i) 4
def f (c : EngCmd) (i hi lo : Nat) : Nat := bits (c.w i) hi lo
def a64 (c : EngCmd) (i : Nat) : Nat := c.w i + 2 ^ 32 * c.w (i + 1)
def op (c : EngCmd) : Nat := c.f 0 7 0
def waitEn (c : EngCmd) : Bool := bit (c.w 0) 8
def doneEn (c : EngCmd) : Bool := bit (c.w 0) 9
def doneSet (c : EngCmd) : Bool := bit (c.w 0) 10
def recEn (c : EngCmd) : Bool := bit (c.w 0) 11
def waitSig (c : EngCmd) : Nat := c.f 0 29 16
def doneSig (c : EngCmd) : Nat := c.f 2 13 0
def recTva (c : EngCmd) : Nat := c.a64 4
/-- Words of a list are all 0. -/
def zero (c : EngCmd) (is : List Nat) : Bool := is.all (fun i => c.w i == 0)
end EngCmd

/-- The class of an opcode (R339). -/
def opClass (op : Nat) : Nat := op / 16 - 1

/-- The opcodes defined (R355, R360, R362, R364, R366, R368, R370, R372). -/
def opDefined (op : Nat) : Bool :=
  [0x10, 0x11, 0x12, 0x13, 0x14, 0x15, 0x20, 0x21, 0x22, 0x23, 0x24, 0x25, 0x30, 0x31, 0x40, 0x41, 0x50, 0x60, 0x61, 0x70, 0x71,
   0x72, 0x80].contains op

/-- The header's check when Ferryman places a command on an engine (R338, R339). -/
def State.headerGood (s : State) (tenant e : Nat) (c : EngCmd) : Bool :=
  opDefined c.op && opClass c.op == engineClass e && bits (c.w 0) 15 12 == 0 && bits (c.w 0) 31 30 == 0 && bits (c.w 2) 31 14 == 0
    && (!c.recEn || (c.recTva % 32 == 0)) && decide (c.w 5 < 2 ^ 16)
    && (!c.waitEn || s.fnSignal tenant c.waitSig) && (!c.doneEn || s.fnSignal tenant c.doneSig)

/-! ### Reach (R340, R341) -/

/-- The tenant and the function of a command. -/
def State.engTenant (s : State) (c : EngCmd) : Nat := match c.mirror with | some m => m.1 | none => s.jobTenant c.job
def State.engFn (s : State) (c : EngCmd) : Nat := match s.job? c.job with | some j => j.ref.fn | none => 0

/-- The job of a command; a mirror UPDATE has none. -/
def EngCmd.jobOf (c : EngCmd) : Option Nat := if c.mirror.isSome then none else some c.job

/-- The address of a space is one the space has (R340). -/
def addrGood (space a : Nat) : Bool :=
  match space with
  | 0 => decide (a < 2 ^ 48)
  | 1 => bits a 31 20 == 0 && bits a 63 44 == 0
  | 2 => true
  | _ => false

/-- The packet an engine's access of a cell travels in: class ENGINE, the job's tenant (R341). -/
def State.enginePacket (s : State) (tenant cell : Nat) (b : Body) : Packet :=
  { src := hubS, dst := cell, tenant := tenant, cls := .engine, share := s.shareOf tenant, tag := 0, body := b }

/-- How an engine's access ends: OK or the status that stops the command. -/
abbrev EngEnd := Option Status

/-- A mesh status as a command's end (R341). -/
def mstatusEnd : MStatus → EngEnd
  | .ok => none
  | .poison => some .memUncorrectable
  | _ => some .badCommand

/-- Bytes an engine is to have, those of a TVA not yet read through their slices. -/
def State.engPeek (s : State) (c : EngCmd) (h : HostIn) (space a n : Nat) : State × EngEnd × List Byte :=
  let t := s.engTenant c
  match space with
  | 0 =>
    (match s.tvaCheck t a n false with
     | .ok => (s, none, s.tvaBytes t a n)
     | .poison _ => (s, some .memUncorrectable, [])
     | e => (s.tvaFault c.jobOf t 6 e, some .badCommand, []))
  | 1 =>
    let cell := bits a 43 32
    let off := bits a 19 0
    let p := s.enginePacket t cell (.rd off 64)
    if n = 0 then (s, none, [])
    else if !s.goodCell cell then (s.send p, some .badCommand, [])
    else
      let (st, bs, s) := s.memtRead cell p off n (decide (off + n ≤ memtSize))
      (s, mstatusEnd st, bs)
  | 2 =>
    if h.fail then (s, some .badCommand, [])
    else (s.acctHost (s.engFn c) n, none, s.hostRead (s.engFn c) a n)
  | _ => (s, some .badCommand, [])

/-- Bytes read by an engine. -/
def State.engRead (s : State) (c : EngCmd) (h : HostIn) (space a n : Nat) : State × EngEnd × List Byte :=
  match s.engPeek c h space a n with
  | (s, none, bs) => (if space = 0 then s.touch c.jobOf (s.engTenant c) a n else s, none, bs)
  | r => r

/-- Bytes written by an engine. -/
def State.engWrite (s : State) (c : EngCmd) (space a : Nat) (bs : List Byte) : State × EngEnd :=
  let t := s.engTenant c
  if bs = [] then (s, none)
  else match space with
  | 0 =>
    (match s.tvaCheck t a bs.length true with
     | .ok => ((s.touch c.jobOf t a bs.length).tvaStore t a bs, none)
     | e => (s.tvaFault c.jobOf t 6 e, some .badCommand))
  | 1 =>
    let cell := bits a 43 32
    let off := bits a 19 0
    let p := s.enginePacket t cell (.wr off [])
    if !s.goodCell cell then (s.send p, some .badCommand)
    else
      let (st, s) := s.memtWrite cell p off bs (decide (off + bs.length ≤ memtSize))
      (s, mstatusEnd st)
  | 2 => ((s.hostWrite (s.engFn c) a bs).acctHost (s.engFn c) bs.length, none)
  | _ => (s, some .badCommand)

/-! ### What a command writes -/

/-- The work of a command: writes as (space, address, bytes) in order, cut into chunks of `chunk` bytes in order, or made
at its last of `chunks` chunks where `atEnd`; the ranges read as (space, address, bytes), and the bytes that merging adds to theirs
(R358); the record's count and conditions, and the status and detail it ends with. -/
structure Plan where
  s : State
  reads : List (Nat × Nat × Nat) := []
  merged : Int := 0
  writes : List (Nat × Nat × List Byte) := []
  chunk : Nat := 4096
  chunks : Nat := 0
  atEnd : Bool := false
  count : Nat := 0
  cond : Nat := 0
  fin : Status := .ok
  detail : Nat := 0
  deriving DecidableEq, Repr

/-- A command that stops before it writes. -/
def Plan.stop (s : State) (st : Status) (detail : Nat := 0) : Plan := { s := s, fin := st, detail := detail, chunks := 1, atEnd := true }

/-- Bytes read, then the rest of a plan. -/
def State.withRead (s : State) (c : EngCmd) (h : HostIn) (space a n : Nat) (k : State → List Byte → Plan) : Plan :=
  match s.engRead c h space a n with
  | (s, none, bs) => let p := k s bs; { p with reads := (space, a, n) :: p.reads }
  | (s, some st, _) => Plan.stop s st

/-- Several ranges read, then the rest. -/
def State.withReads (s : State) (c : EngCmd) (h : HostIn) : List (Nat × Nat × Nat) → List (List Byte) → (State → List (List Byte) → Plan) → Plan
  | [], acc, k => k s acc.reverse
  | (sp, a, n) :: rest, acc, k => s.withRead c h sp a n (fun s bs => s.withReads c h rest (bs :: acc) k)

/-- A plan of bytes to one destination, counted in bytes written. -/
def Plan.bytes (s : State) (space a : Nat) (bs : List Byte) : Plan := { s := s, writes := [(space, a, bs)], count := bs.length }

/-- The total of a plan's bytes, and the number of its chunks. -/
def Plan.total (p : Plan) : Nat := (p.writes.map (fun w => w.2.2.length)).sum
def Plan.size (p : Plan) : Nat := if p.atEnd then max 1 p.chunks else max 1 (ceilDiv p.total (max 1 p.chunk))

/-- The bytes a plan reads. -/
def Plan.taken (p : Plan) : Nat := (((p.reads.map (fun r => r.2.2)).sum : Int) + p.merged).toNat

/-- The part of a plan's writes in the bytes [lo, hi) of its output. -/
def sliceWrites (lo hi : Nat) : Nat → List (Nat × Nat × List Byte) → List (Nat × Nat × List Byte)
  | _, [] => []
  | at_, (sp, a, bs) :: rest =>
    let x := max lo at_ - at_
    let y := min hi (at_ + bs.length) - at_
    (if x < y then [(sp, a + x, (bs.drop x).take (y - x))] else []) ++ sliceWrites lo hi (at_ + bs.length) rest

/-- The writes of chunk `k`. -/
def Plan.part (p : Plan) (k : Nat) : List (Nat × Nat × List Byte) :=
  if p.atEnd then (if k + 1 = p.size then p.writes else []) else sliceWrites (p.chunk * k) (p.chunk * (k + 1)) 0 p.writes

/-! ### DMA engines (R355 to R359) -/

/-- Formats and layouts of a CONVERT (R357). -/
structure ConvArgs where
  fi : Fmt
  li : Layout
  fo : Fmt
  lo : Layout
  mode : RMode
  deriving DecidableEq, Repr

def EngCmd.conv (c : EngCmd) (mx16 : Bool) : Option ConvArgs :=
  match Fmt.ofCode (c.f 12 3 0), Layout.ofCode mx16 (c.f 12 5 4), Fmt.ofCode (c.f 12 9 6), Layout.ofCode mx16 (c.f 12 11 10),
      RMode.ofCode (c.f 12 13 12) with
  | some fi, some li, some fo, some lo, some m => some { fi := fi, li := li, fo := fo, lo := lo, mode := m }
  | _, _, _, _, _ => none

/-- The 16 random bits of element i of an engine command (R354). -/
def engR16 (seed ctr i : Nat) : Nat := srBits (fun w => rng32 seed ((ctr + w) % 2 ^ 64)) i

/-- A tensor's bytes: its element array, and a blocked one's scale array at the next 64-byte boundary (R357). -/
def elemBytes (f : Fmt) (n : Nat) : Nat := (n * f.width + 7) / 8
def tensorBytes (f : Fmt) (l : Layout) (n : Nat) : Nat :=
  if l = .unblocked then elemBytes f n else roundUp (elemBytes f n) 64 + n / l.block

/-- CONVERT: each element converted once, or quantised by block; the output bytes and the conditions. DESIGN CHOICE (log 63):
an unblocked FP4, INT4 or FP6 tensor whose elements do not fill whole bytes is accepted, and the last byte's other bits are
written as zeros. -/
def convertTensor (k : ConvArgs) (sat smode : Bool) (seed ctr n : Nat) (src : List Byte) : List Byte × Nat :=
  let el := fun i => streamElem src k.fi.width i
  let scales := src.drop (roundUp (elemBytes k.fi n) 64)
  let val := fun i => if k.li = .unblocked then FVal.decode k.fi (el i) else blockElem k.fi (byteAt scales (i / k.li.block)) (el i)
  if k.lo = .unblocked then
    let rs := (List.range n).map (fun i =>
      let (w, c) := if k.li = .unblocked then k.fi.convert k.fo k.mode sat (engR16 seed ctr i) (el i)
        else k.fo.round k.mode sat (engR16 seed ctr i) (val i)
      (w, c.toBits))
    (packElems k.fo.width (rs.map Prod.fst), rs.foldl (fun a r => a ||| r.2) 0)
  else
    let qs := (List.range (n / k.lo.block)).map (fun b =>
      quantBlock k.fo smode k.mode sat (fun j => engR16 seed ctr (b * k.lo.block + j)) ((List.range k.lo.block).map (fun j => val (b * k.lo.block + j))))
    let es := packElems k.fo.width (qs.flatMap (fun q => q.2.1))
    (es ++ List.replicate (roundUp es.length 64 - es.length) 0#8 ++ qs.map (fun q => BitVec.ofNat 8 q.1),
     qs.foldl (fun a q => a ||| q.2.2.toBits) 0)

/-- The entries of a SCATTER list as (src space, src, dst space, dst, length), none where one is ill-formed (R356). -/
def scatterList (bs : List Byte) : Option (List (Nat × Nat × Nat × Nat × Nat)) :=
  let es := (List.range (bs.length / 32)).map (fun i =>
    let b := (bs.drop (32 * i)).take 32
    let sp := leAt b 20 4
    ((bits sp 1 0, leAt b 0 8, bits sp 3 2, leAt b 8 8, leAt b 16 4),
     sp / 16 == 0 && zeros (b.drop 24) && addrGood (bits sp 1 0) (leAt b 0 8) && addrGood (bits sp 3 2) (leAt b 8 8)
       && decide (1 ≤ leAt b 16 4)))
  if es.all Prod.snd then some (es.map Prod.fst) else none

/-- The body of a DMA command is well formed (R356, R357). A blocked tensor of a CONVERT begins on a 64-byte boundary (R56);
one that does not makes the command ill-formed (DEDUCED, log 64). -/
def EngCmd.dmaGood (c : EngCmd) (mx16 sr : Bool) : Bool :=
  let ss := c.f 6 1 0
  let ds := c.f 6 3 2
  let sp := bits (c.w 6) 31 4 == 0
  match c.op with
  | 0x10 => sp && addrGood ss (c.a64 7) && addrGood ds (c.a64 9) && c.w 11 != 0 && c.zero [12, 13, 14, 15]
  | 0x11 => sp && addrGood ss (c.a64 7) && addrGood ds (c.a64 9) && c.w 11 != 0 && bits (c.w 12) 31 16 == 0 && c.w 12 != 0 && c.w 15 == 0
  | 0x12 => c.zero [6, 9, 10, 12, 13, 14, 15] && decide (c.w 8 < 2 ^ 16) && c.a64 7 % 32 == 0 && decide (1 ≤ c.w 11) && decide (c.w 11 ≤ 65536)
  | 0x13 =>
    sp && decide (ss ≤ 1) && decide (ds ≤ 1) && addrGood ss (c.a64 7) && addrGood ds (c.a64 9) && c.w 11 != 0 && bits (c.w 12) 31 16 == 0
      && (match c.conv mx16 with
          | some k => k.fi != .e8m0 && k.fo != .e8m0 && (k.li == .unblocked || c.a64 7 % 64 == 0) && (k.lo == .unblocked || c.a64 9 % 64 == 0)
              && k.fi.layoutOk k.li && k.fo.layoutOk k.lo && (k.mode != .sr || sr)
              && c.w 11 % k.li.block == 0 && c.w 11 % k.lo.block == 0
          | none => false)
  | 0x14 => bits (c.w 6) 1 0 == 0 && sp && addrGood ds (c.a64 9) && c.w 11 != 0 && c.zero [7, 8, 14, 15]
  | 0x15 => bits (c.w 6) 15 0 == 0 && bits (c.w 6) 31 28 == 0 && c.zero [7, 15]
  | _ => false

/-- The writes of a list of copies whose sources have been read. -/
def copyWrites (es : List (Nat × Nat × Nat × Nat × Nat)) (bs : List (List Byte)) : List (Nat × Nat × List Byte) :=
  (es.zip bs).map (fun x => (x.1.2.2.1, x.1.2.2.2.1, x.2))

/-- The sources of several copies, up to the first that is refused. -/
def State.peekAll (s : State) (c : EngCmd) (h : HostIn) : List (Nat × Nat × Nat) → State × EngEnd × List (List Byte)
  | [] => (s, none, [])
  | (sp, a, n) :: rest => match s.engPeek c h sp a n with
    | (s, none, bs) => (match s.peekAll c h rest with | (s, e, l) => (s, e, bs :: l))
    | (s, some e, _) => (s, some e, [])

/-- Copies as (src space, src, dst space, dst, length); those of TVAs are read merged (R358, log 88). -/
def State.copyPlan (s : State) (c : EngCmd) (h : HostIn) (es : List (Nat × Nat × Nat × Nat × Nat)) : Plan :=
  let srcs := es.map (fun e => (e.1, e.2.1, e.2.2.2.2))
  match s.peekAll c h srcs with
  | (s, some st, _) => Plan.stop s st
  | (s, none, bs) =>
    let tva := (srcs.filter (fun r => r.1 == 0)).map Prod.snd
    let spans := mergedSpans tva
    let sum := fun (l : List (Nat × Nat)) => ((l.map Prod.snd).sum : Int)
    { s := spans.foldl (fun s r => s.touch c.jobOf (s.engTenant c) r.1 r.2) s
      reads := srcs, merged := sum spans - sum tva, writes := copyWrites es bs, count := (bs.map List.length).sum }

/-- The plans of the DMA commands; a MSG writes nothing. -/
def State.dmaPlan (s : State) (c : EngCmd) (h : HostIn) : Plan :=
  let ss := c.f 6 1 0
  let ds := c.f 6 3 2
  match c.op with
  | 0x10 => s.copyPlan c h [(ss, c.a64 7, ds, c.a64 9, c.w 11)]
  | 0x11 => s.copyPlan c h ((List.range (c.w 12)).map (fun r => (ss, c.a64 7 + r * c.w 13, ds, c.a64 9 + r * c.w 14, c.w 11)))
  | 0x12 =>
    s.withRead c h 0 (c.a64 7) (32 * c.w 11) (fun s bs => match scatterList bs with
      | some es => s.copyPlan c h es
      | none => Plan.stop s .badCommand)
  | 0x13 =>
    (match c.conv (s.feature 3) with
     | some k =>
       s.withRead c h ss (c.a64 7) (tensorBytes k.fi k.li (c.w 11)) (fun s bs =>
         let (out, cond) := convertTensor k (bit (c.w 12) 14) (bit (c.w 12) 15) (c.a64 13) (c.w 15) (c.w 11) bs
         { Plan.bytes s ds (c.a64 9) out with cond := cond })
     | none => Plan.stop s .badCommand)
  | 0x14 =>
    let pat := leBytes 8 (c.a64 12)
    Plan.bytes s ds (c.a64 9) ((List.range (c.w 11)).map (fun k => pat.getD ((c.a64 9 + k) % 8) 0#8))
  | _ => Plan.stop s .badCommand

/-! ### Gather engines (R362, R363) -/

/-- The body of a GE command; GATHER reads neither bag_op, rnd, n_bags nor off_rel (log 91). -/
def EngCmd.geGood (c : EngCmd) : Bool :=
  let bag := c.op == 0x31
  let rowOk := [0, 1, 2, 3, 4].contains (c.f 6 5 2) || Fmt.ofCode (c.f 6 5 2) == some .int8
  bits (c.w 6) 31 15 == 0 && decide (c.f 6 1 0 ≤ 1) && rowOk && decide (c.w 8 < 2 ^ 16) && decide (c.w 10 < 2 ^ 16)
    && (if bag then [0, 1, 2].contains (c.f 6 9 6) && c.f 6 11 10 != 3 && decide (c.f 6 14 13 ≤ 1)
        else c.f 6 9 6 == c.f 6 5 2)
    && c.a64 9 % (if bit (c.w 6) 12 then 8 else 4) == 0 && c.w 11 != 0
    && decide (1 ≤ c.f 12 15 0) && decide (c.f 12 15 0 ≤ 16384) && addrGood (c.f 6 1 0) (c.a64 13)
    && (if bag then decide (1 ≤ c.f 12 31 16) && (c.a64 9 + c.w 15) % 64 == 0 else true)

/-- Unsigned integers of an array. -/
def uints (n : Nat) (bs : List Byte) : List Nat := (List.range (bs.length / n)).map (fun i => leAt bs (n * i) n)

/-- One column of a bag: the FP32 result and its conditions. A signalling NaN that MAX or acc_add takes in raises invalid
(R35, R52). DESIGN CHOICE (log 62): MAX of a bag of one row performs no MAX, so an FP32 NaN keeps its bits and raises nothing. -/
def bagColumn (fp32Native : Bool) (op : Nat) (f : Fmt) (col : List Nat) : Nat × Nat :=
  match op with
  | 2 =>
    (match col with
     | [] => (0, 0)
     | x :: xs => xs.foldl (fun (a : Nat × Nat) y =>
         (fmax32 fp32Native a.1 (f.toFp32 y), a.2 ||| (snanCond (FVal.decode .fp32 a.1) (FVal.decode f y)).toBits))
         (f.toFp32 x, if xs = [] then 0 else Cond.toBits { inv := (FVal.decode f x).isSnan }))
  | _ =>
    let (sum, cs) := col.foldl (fun (a : Nat × Nat) y =>
      let (r, c) := accAdd a.1 (FVal.decode f y)
      (r, a.2 ||| c.toBits)) (0, 0)
    if op = 1 ∧ col ≠ [] then
      let (q, fl) := fdiv32 .rne false sum (rne32 (FVal.ofInt col.length)).1
      (q, cs ||| fl)
    else (sum, cs)

/-- The plans of GATHER and BAG. DESIGN CHOICE (log 65): a BAG has no saturation bit; its rounding to fmt_out does not
saturate. -/
def State.gePlan (s : State) (c : EngCmd) (h : HostIn) : Plan :=
  let f := (Fmt.ofCode (c.f 6 5 2)).getD .fp32
  let fo := (Fmt.ofCode (c.f 6 9 6)).getD .fp32
  let iw := if bit (c.w 6) 12 then 8 else 4
  let elems := c.f 12 15 0
  let rb := elems * f.width / 8
  let ds := c.f 6 1 0
  let row := fun i => (0, c.a64 7 + i * rb, rb)
  s.withRead c h 0 (c.a64 9) (iw * c.w 11) (fun s ib =>
    let idx := uints iw ib
    if c.op = 0x30 then
      s.withReads c h (idx.map row) [] (fun s rows =>
        { s := s, writes := [(ds, c.a64 13, rows.flatten)], chunk := min 4096 (max 1 rb), count := rows.length })
    else
      let nb := c.f 12 31 16
      s.withRead c h 0 (c.a64 9 + c.w 15) (iw * (nb + 1)) (fun s ob =>
        let offs := uints iw ob
        let rising := (List.range nb).all (fun b => decide (offs.getD b 0 ≤ offs.getD (b + 1) 0))
        if !rising || decide (c.w 11 < offs.getD nb 0) then Plan.stop s .badCommand
        else
          let used := (idx.take (offs.getD nb 0)).drop (offs.getD 0 0)
          s.withReads c h (used.map row) [] (fun s rows =>
            let outs := (List.range nb).map (fun b =>
              let rs := (rows.drop (offs.getD b 0 - offs.getD 0 0)).take (offs.getD (b + 1) 0 - offs.getD b 0)
              (List.range elems).map (fun j =>
                let (r, fl) := bagColumn (s.feature 0) (c.f 6 11 10) f (rs.map (fun x => streamElem x f.width j))
                if fo = .fp32 then (r, fl)
                else
                  let (w, k) := Fmt.fp32.convert fo (if c.f 6 14 13 = 1 then .rz else .rne) false 0 r
                  (w, fl ||| k.toBits)))
            let orow := elems * fo.width / 8
            { s := s, writes := [(ds, c.a64 13, outs.flatMap (fun r => packElems fo.width (r.map Prod.fst)))], chunk := min 4096 (max 1 orow)
              count := nb, cond := outs.foldl (fun a r => r.foldl (fun a x => a ||| x.2) a) 0 })))

/-! ### Sort engines (R364, R365) -/

/-- The body of an SE command; SORT reads no k, and idx_out counts where idx_en is 1 (log 91). -/
def EngCmd.seGood (c : EngCmd) : Bool :=
  let n := c.w 11
  let rows := c.f 15 15 0
  let fmtOk := [0, 1, 2].contains (c.f 6 3 0) || Fmt.ofCode (c.f 6 3 0) == some .int32
  bits (c.w 6) 31 6 == 0 && fmtOk && c.a64 7 % 64 == 0 && decide (c.w 8 < 2 ^ 16) && decide (c.w 10 < 2 ^ 16) && decide (c.w 14 < 2 ^ 16)
    && decide (1 ≤ n) && decide (n ≤ 2 ^ 24) && decide (1 ≤ rows) && bits (c.w 15) 31 16 == 0 && decide (n * rows ≤ 2 ^ 28)
    && (c.op != 0x41 || (decide (1 ≤ c.w 12) && decide (c.w 12 ≤ min n 65536)))

/-- Stable insertion by a strict order: an element goes behind those it is not less than. -/
def insertBy {α : Type} (lt : α → α → Bool) (x : α) : List α → List α
  | [] => [x]
  | y :: ys => if lt x y then x :: y :: ys else y :: insertBy lt x ys

/-- A list sorted stably. -/
def sortBy {α : Type} (lt : α → α → Bool) (l : List α) : List α := l.foldl (fun acc x => insertBy lt x acc) []

/-- A row of keys in order with its positions (R365). -/
def sortRow (f : Fmt) (desc : Bool) (keys : List Nat) : List (Nat × Nat) :=
  sortBy (fun (a b : Nat × Nat) => if desc then decide (f.sortKey b.1 < f.sortKey a.1) else decide (f.sortKey a.1 < f.sortKey b.1)) keys.zipIdx

/-- Chunks of a merge sort over keys of 4 KiB: ceil(log16 n) passes for SORT, one for TOPK. -/
def sortChunks (n rows : Nat) (passes : Nat) : Nat := max 1 (ceilDiv (8 * n * rows) 4096 * max 1 passes)

/-- The least p with 16^p ≥ n. -/
def log16Up (n : Nat) : Nat := ceilDiv (log2Up n) 4

/-- SORT and TOPK; SORT leaves its scratch with open contents. -/
def State.sePlan (s : State) (c : EngCmd) (h : HostIn) : Plan :=
  let f := (Fmt.ofCode (c.f 6 3 0)).getD .fp32
  let n := c.w 11
  let rows := c.f 15 15 0
  let kb := f.width / 8
  s.withRead c h 0 (c.a64 7) (kb * n * rows) (fun s bs =>
    let sorted := (List.range rows).map (fun r =>
      sortRow f (bit (c.w 6) 4) ((List.range n).map (fun i => streamElem (bs.drop (kb * n * r)) f.width i)))
    let m := if c.op = 0x41 then c.w 12 else n
    let out := sorted.map (fun r => r.take m)
    let keys := out.flatMap (fun r => packElems f.width (r.map Prod.fst))
    let pos := out.flatMap (fun r => packElems 32 (r.map Prod.snd))
    let (k, s) := if c.op = 0x40 then s.drawFree else (0, s)
    { s := s, atEnd := true, count := m * rows, chunks := sortChunks n rows (if c.op = 0x40 then log16Up n else 1)
      writes := (if c.op = 0x40 then [(0, c.a64 9, Config.freeBytes k (8 * n * rows)), (0, c.a64 7, keys)] else [(0, c.a64 9, keys)])
        ++ (if bit (c.w 6) 5 then [(0, c.a64 13, pos)] else []) })

/-! ### Random engines (R366, R367) -/

/-- The body of a RAND; a distribution reads its own parameters only (log 91). -/
def EngCmd.reGood (c : EngCmd) : Bool :=
  let dist := c.f 6 1 0
  let fm := c.f 6 5 2
  bits (c.w 6) 31 8 == 0 && decide (c.f 6 7 6 ≤ 1) && addrGood (c.f 6 7 6) (c.a64 7)
    && (match dist with
        | 0 => Fmt.ofCode fm == some .int32
        | 1 => [0, 1, 2].contains fm
        | 2 => [0, 1, 2].contains fm && c.w 9 % 2 == 0
        | _ => fm == 0 && c.w 9 % 8 == 0)

/-- (m + 0.5) × 2^−24 in FP32. -/
def unit24 (w : Nat) : Nat := (rne32 (.fin false (2 * bits w 31 8 + 1) (-25))).1

/-- normal_pair of R367. -/
def normalPair (w0 w1 : Nat) : Nat × Nat :=
  let r := (fsqrt32 .rne false (fmul32 .rne false 0 (flog2 (unit24 w0)).1 0xBFB17218).1).1
  let m := fun x => (fmul32 .rne false 0 r x).1
  (m (Config.cos2pi (unit24 w1)), m (Config.sin2pi (unit24 w1)))

/-- floor(p × 2^24) clamped to 0 to 2^24; 0 for a NaN (R367). -/
def bernoulliT (p : Nat) : Nat :=
  match FVal.decode .fp32 p with
  | .fin false m e => min (2 ^ 24) (if 0 ≤ e + 24 then m * 2 ^ (e + 24).toNat else m / 2 ^ (-(e + 24)).toNat)
  | .fin true _ _ => 0
  | v => if v.isNan || v.neg? then 0 else 2 ^ 24

/-- RAND. -/
def State.rePlan (s : State) (c : EngCmd) : Plan :=
  let f := (Fmt.ofCode (c.f 6 5 2)).getD .fp32
  let n := c.w 9
  let wd := fun i => rng32 (c.a64 10) ((c.a64 12 + i) % 2 ^ 64)
  let enc := fun (x : Nat) => if f = .fp32 then x else (Fmt.fp32.convert f .rne false 0 x).1
  let bs := match c.f 6 1 0 with
    | 0 => packElems 32 ((List.range n).map wd)
    | 1 => packElems f.width ((List.range n).map (fun i => enc (unit24 (wd i))))
    | 2 => packElems f.width ((List.range (n / 2)).flatMap (fun j =>
        let (a, b) := normalPair (wd (2 * j)) (wd (2 * j + 1))
        let g := fun z => enc (ffma32 .rne false 0 z (c.w 15) (c.w 14)).1
        [g a, g b]))
    | _ => packElems 1 ((List.range n).map (fun i => if bits (wd i) 31 8 < bernoulliT (c.w 14) then 1 else 0))
  Plan.bytes s (c.f 6 7 6) (c.a64 7) bs

/-! ### Compression and crypto engines (R368 to R371) -/

/-- The body of a ZE command; DECOMPRESS reads neither level, window_log nor checksum (log 91). -/
def EngCmd.zeGood (c : EngCmd) : Bool :=
  decide (c.w 8 < 2 ^ 16) && decide (c.w 10 < 2 ^ 16) && c.w 11 != 0 && c.zero [13, 14, 15] && bits (c.w 6) 31 11 == 0
    && (c.op != 0x60 || (decide (1 ≤ c.f 6 4 0) && decide (c.f 6 4 0 ≤ 12) && decide (10 ≤ c.f 6 9 5) && decide (c.f 6 9 5 ≤ 23)))

/-- COMPRESS and DECOMPRESS. -/
def State.zePlan (s : State) (c : EngCmd) (h : HostIn) : Plan :=
  s.withRead c h 0 (c.a64 7) (c.w 11) (fun s bs =>
    let chunks := ceilDiv (c.w 11) 131072
    let give := fun (out : List Byte) =>
      if c.w 12 < out.length then Plan.stop s .overflowFault 4
      else { Plan.bytes s 0 (c.a64 9) out with atEnd := true, chunks := chunks }
    if c.op = 0x60 then give (Config.zstdFrame (c.f 6 4 0) (c.f 6 9 5) (bit (c.w 6) 10) bs)
    else match Config.zstdContent bs with
      | (0, out) => give out
      | (1, _) => Plan.stop s .badCommand 1
      | (3, _) => Plan.stop s .authFail 3
      | _ => Plan.stop s .badCommand 2)

/-- The body of a KE command; SHA384 reads neither key_slot nor aux (log 91). -/
def EngCmd.keGood (c : EngCmd) : Bool :=
  decide (c.w 8 < 2 ^ 16) && decide (c.w 10 < 2 ^ 16) && c.zero [14, 15] && bits (c.w 6) 31 8 == 0 && decide (c.w 13 < 2 ^ 16)
    && (c.op == 0x72 || c.a64 12 % 64 == 0)

/-- The key a GCM command uses (R583). -/
def State.gcmKey (s : State) (c : EngCmd) : Option (List Byte) :=
  match Tab.get none s.keySlots (c.f 6 7 0) with
  | some k => if c.f 6 7 0 < 128 ∧ bit k.usage 1 ∧ k.tenant = s.engTenant c then some k.key else none
  | none => none

/-- GCM_ENC, GCM_DEC and SHA384: a tag that does not match leaves dst undefined (free) and gives AUTH_FAIL. -/
def State.kePlan (s : State) (c : EngCmd) (h : HostIn) : Plan :=
  s.withRead c h 0 (c.a64 7) (c.w 11) (fun s bs =>
    if c.op = 0x72 then Plan.bytes s 0 (c.a64 9) (sha384 bs)
    else s.withRead c h 0 (c.a64 12) 64 (fun s ab =>
      let iv := ab.take 12
      s.withRead c h 0 (c.a64 12 + 64) (leAt ab 12 4) (fun s aad =>
        if !zeros (ab.drop 32) then Plan.stop s .badCommand
        else
          let out := gcmCrypt c.key iv bs
          if c.op = 0x70 then
            { s := s, writes := [(0, c.a64 9, out), (0, c.a64 12 + 16, gcmTag c.key iv aad out)], count := bs.length }
          else if gcmTag c.key iv aad bs = (ab.drop 16).take 16 then Plan.bytes s 0 (c.a64 9) out
          else
            let (k, s) := s.drawFree
            { Plan.bytes s 0 (c.a64 9) (Config.freeBytes k bs.length) with fin := .authFail })))

/-! ### The queues -/

/-- An engine's commands, in order of placement. -/
def State.engine (s : State) (e : Nat) : List EngCmd := Tab.get [] s.engines e
def State.setEngine (s : State) (e : Nat) (q : List EngCmd) : State := { s with engines := Tab.put [] s.engines e q }

/-- One command of an engine changed. -/
def State.updEng (s : State) (e id : Nat) (g : EngCmd → EngCmd) : State :=
  s.setEngine e ((s.engine e).map (fun c => if c.id = id then g c else c))

/-- The command with an identity, and its engine. -/
def State.engById (s : State) (tag : Nat) : Option (Nat × EngCmd) :=
  s.engines.findSome? (fun e => (e.2.find? (fun c => c.id % 65536 == tag)).map (fun c => (e.1, c)))

/-- A command's WAIT sent to its signal's home (R342). -/
def State.engWait (s : State) (c : EngCmd) : State :=
  s.hubSignal .wait c.waitSig (c.w 1) (s.engTenant c) .engine { node := hubS, unit := 0xE, tag := c.id % 65536 }

/-- A wake reaches an engine's command (R264, R342, R256). -/
def State.engWake (s : State) (tag : Nat) (o : WakeOutcome) : State :=
  match s.engById tag with
  | none => s
  | some (e, c) =>
    if c.ready then s
    else match o with
      | .satisfied => s.updEng e c.id (fun c => { c with ready := true })
      | .retry => s.updEng e c.id (fun c => { c with retry := true })
      | .abandoned => s.updEng e c.id (fun c => { c with ready := true, fin := some (Status.abandoned.code, 0) })
      | .refused => s.updEng e c.id (fun c => { c with ready := true, fin := some (Status.badCommand.code, 0) })

/-- The most active commands: 8, in sealed tenancy one for each share class with a weight (R342, R540). -/
def State.activeRoom (s : State) (e : Nat) (c : EngCmd) : Bool :=
  let act := (s.engine e).filter (fun d => d.active)
  if s.sealed then
    !act.any (fun d => s.shareOf (s.engTenant d) == s.shareOf (s.engTenant c))
  else decide (act.length < 8)

/-- ZE and SE engines do not run in supply-sag stage S3 and later (R374). -/
def State.engineHeld (s : State) (e : Nat) : Bool :=
  decide (3 ≤ s.sag) && (engineClass e == 3 || engineClass e == 5)

/-- The body check at activation, and a GCM command's key: the status a command ends with at once, or its key. -/
def State.bodyCheck (s : State) (c : EngCmd) (extra : Bool) : Option Status × List Byte :=
  let good := match opClass c.op with
    | 0 => c.dmaGood (s.feature 3) (s.feature 4)
    | 2 => c.geGood
    | 3 => c.seGood
    | 4 => c.reGood
    | 5 => c.zeGood
    | 6 => c.keGood
    | _ => extra
  if !good then (some .badCommand, [])
  else if c.op = 0x70 ∨ c.op = 0x71 then
    match s.gcmKey c with
    | some k => (none, k)
    | none => (some .authFail, [])
  else (none, [])

end Sys2Proof.Machine
end

