-- ==== Sys2Proof/Machine/Optim.lean ====
section
/-!
DEFINITION. Sys2Proof/Machine/Optim.lean: the optimiser engines (ch. 15): state descriptors, hyperparameters and the
UPDATE arithmetic; the streams of EXPORT_SHARD and IMPORT_SHARD.
-/
namespace Sys2Proof.Machine
open Sys2Proof

/-! ### State descriptors and hyperparameters (R400 to R404) -/

/-- A shard's state descriptor: its 32 words and where it lies. -/
structure Shard where
  tva : Nat
  words : List Nat
  deriving DecidableEq, Repr

namespace Shard
def w (d : Shard) (i : Nat) : Nat := d.words.getD i 0
def f (d : Shard) (i hi lo : Nat) : Nat := bits (d.w i) hi lo
def tvaAt (d : Shard) (i : Nat) : Nat := d.w i + 2 ^ 32 * bits (d.w (i + 1)) 15 0
def wkFmt (d : Shard) : Fmt := (Fmt.ofCode (d.f 0 3 0)).getD .e8m0
def wkLay (d : Shard) : Option Layout := Layout.ofCode true (d.f 0 5 4)
def mFmt (d : Shard) : Fmt := (Fmt.ofCode (d.f 0 13 10)).getD .e8m0
def gFmt (d : Shard) : Fmt := (Fmt.ofCode (d.f 0 19 16)).getD .e8m0
def tensor (d : Shard) : Nat := d.f 1 23 0
def rowFirst (d : Shard) : Nat := d.w 3
def rows (d : Shard) : Nat := d.w 4
def colFirst (d : Shard) : Nat := d.w 5
def cols (d : Shard) : Nat := d.w 6
def n (d : Shard) : Nat := d.rows * d.cols
def block (d : Shard) : Nat := match d.wkLay with | some l => l.block | none => 1
/-- Arrays as (TVA, bytes): master, moment, row and column vectors, gradient, working copy, scales. -/
def master (d : Shard) : Nat × Nat := (d.tvaAt 13, 4 * d.n)
def moment (d : Shard) : Nat × Nat := (d.tvaAt 15, elemBytes d.mFmt d.n)
def rowV (d : Shard) : Nat × Nat := (d.tvaAt 17, 4 * d.rows)
def colV (d : Shard) : Nat × Nat := (d.tvaAt 19, 4 * d.cols)
def grad (d : Shard) : Nat × Nat := (d.tvaAt 21, elemBytes d.gFmt d.n)
def working (d : Shard) : Nat × Nat := (d.tvaAt 23, elemBytes d.wkFmt d.n)
def scales (d : Shard) : Nat × Nat := (d.tvaAt 25, if d.block = 1 then 0 else d.n / d.block)
/-- The arrays a rule uses (0 ADAMW_FACTORED, 1 MOMENTUM, 2 SGD). -/
def arrays (d : Shard) (rule : Nat) : List (Nat × Nat) :=
  [d.master, d.grad, d.working] ++ (if d.block = 1 then [] else [d.scales]) ++ (if rule = 2 then [] else [d.moment])
    ++ (if rule = 0 then [d.rowV, d.colV] else [])
end Shard

/-- The words that hold the upper half of the TVAs a rule uses: bits [31:16] of each are reserved (R401, R11). -/
def Shard.highs (d : Shard) (rule : Nat) : List Nat :=
  [14, 22, 24] ++ (if d.block = 1 then [] else [26]) ++ (if rule = 2 then [] else [16]) ++ (if rule = 0 then [18, 20] else [])

/-- The descriptor at a TVA. -/
def shardOf (tva : Nat) (bs : List Byte) : Shard := { tva := tva, words := words bs }

/-- The descriptor with its arrays' TVAs moved by an offset (R474). -/
def Shard.moved (d : Shard) (off : Nat) : Shard :=
  { d with words := d.words.zipIdx.map (fun (x : Nat × Nat) =>
      if x.2 < 13 ∨ 27 ≤ x.2 then x.1
      else
        let i := x.2 - (x.2 + 1) % 2
        let a := (d.tvaAt i + off) % 2 ^ 48
        if x.2 = i then a % 2 ^ 32 else a / 2 ^ 32 + 2 ^ 16 * d.f (i + 1) 31 16) }

/-- Formats, shapes and limits of a descriptor. -/
def Shard.ok (d : Shard) (mx16 sr : Bool) : Bool :=
  let sq := fun (c : Nat) => c == 1 && !sr
  (d.wkFmt == .e4m3 || d.wkFmt == .e5m2 || (d.wkFmt == .bf16 && d.wkLay == some .unblocked))
    && (match d.wkLay with
        | some .mx16 => mx16 && d.cols % 16 == 0
        | some .mx32 => d.cols % 32 == 0
        | some .unblocked => true
        | none => false)
    && (d.f 0 8 7 == 0 || d.f 0 8 7 == 2) && (d.f 0 15 14 == 0 || d.f 0 15 14 == 2) && !sq (d.f 0 8 7 / 2) && !sq (d.f 0 15 14 / 2)
    && (d.mFmt == .fp32 && d.f 0 15 14 == 0 || d.mFmt == .bf16) && (d.gFmt == .fp32 || d.gFmt == .bf16)
    && d.f 0 31 20 == 0 && d.f 1 31 24 == 0 && d.f 10 31 12 == 0 && [27, 28, 29, 30, 31].all (fun i => d.w i == 0)
    && decide (1 ≤ d.rows) && decide (1 ≤ d.cols) && decide (d.cols ≤ 2 ^ 24)
    && decide (1 ≤ d.w 7) && decide (1 ≤ d.w 8) && decide (d.w 8 ≤ 2 ^ 24)
    && decide (d.rowFirst + d.rows ≤ d.w 7) && decide (d.colFirst + d.cols ≤ d.w 8)
    && decide (d.w 9 + 2 ^ 32 * d.w 10 + d.w 7 * d.w 8 ≤ 2 ^ 44)

/-- An FP32 word is finite, and at least +0. -/
def finitePos (x : Nat) : Bool := match FVal.decode .fp32 x with | .fin s m _ => !s || decide (m = 0 ∧ x = 0) | _ => false

/-- A hyperparameter block is well formed. -/
def hypOk (hy : List Nat) (gate : Bool) : Bool :=
  let g := hy.getD 8 0
  let c := hy.getD 9 0
  [13, 14, 15].all (fun i => hy.getD i 0 == 0) && finitePos g && !(FVal.decode .fp32 g).isZero && finitePos c && (gate || c == 0)

/-! ### Arithmetic (R405 to R408) -/

/-- An FP32 word with the conditions raised in making it. -/
abbrev FW := Nat × Nat

def fwOp (r : Nat × Nat) (c : Nat) : FW := (r.1, r.2 ||| c)
def fwMul (a b : FW) : FW := fwOp (fmul32 .rne false 0 a.1 b.1) (a.2 ||| b.2)
def fwFma (a b c : FW) : FW := fwOp (ffma32 .rne false 0 a.1 b.1 c.1) (a.2 ||| b.2 ||| c.2)
def fwAdd (a b : FW) : FW := fwOp (fadd32 .rne false 0 a.1 b.1) (a.2 ||| b.2)
def fwSub (a b : FW) : FW := fwOp (fsub32 .rne false 0 a.1 b.1) (a.2 ||| b.2)
def fwDiv (a b : FW) : FW := fwOp (fdiv32 .rne false a.1 b.1) (a.2 ||| b.2)
def fwSqrt (a : FW) : FW := fwOp (fsqrt32 .rne false a.1) a.2

/-- acc_add over a list from +0. -/
def fwSum (l : List FW) : FW :=
  l.foldl (fun a x => let r := accAdd a.1 (FVal.decode .fp32 x.1); (r.1, a.2 ||| x.2 ||| r.2.toBits)) (0, 0)

/-- A stored element as FP32. -/
def fwLoad (f : Fmt) (w : Nat) : FW :=
  if f = .fp32 then (w % 2 ^ 32, 0) else let r := f.convert .fp32 .rne false 0 w; (r.1, r.2.toBits)

/-- A count in FP32. -/
def fwCount (k : Nat) : FW := let r := rne32 (FVal.ofInt k); (r.1, r.2.toBits)

/-- The gradient multiplier (R405). DESIGN CHOICE (log 66): its comparison with a NaN is false and raises nothing, a signalling NaN's
included. -/
def gradScale (hy : List Nat) (gsumsq : Nat) : FW :=
  let h := fun (i : Nat) => ((hy.getD i 0, 0) : FW)
  if hy.getD 9 0 = 0 then h 8
  else
    let ng := fwMul (fwSqrt (gsumsq, 0)) (h 8)
    if (FVal.decode .fp32 (hy.getD 9 0)).lt (FVal.decode .fp32 ng.1) then fwMul (h 8) (fwDiv (h 9) ng) else (hy.getD 8 0, ng.2)

/-- The arrays after an update: master, moment, row and column vectors. -/
structure Updated where
  master : List FW
  moment : List FW := []
  rowV : List FW := []
  colV : List FW := []
  deriving DecidableEq, Repr

/-- w' of a parameter from its direction. -/
def stepParam (h : Nat → FW) (w u : FW) : FW := fwSub w (fwMul (h 0) (fwFma (h 5) w u))

/-- ADAMW_FACTORED (R406). -/
def adamw (h : Nat → FW) (rows cols : Nat) (w m rv cv g : List FW) : Updated :=
  let at_ := fun (l : List FW) (i : Nat) => l.getD i (0, 0)
  let one : FW := (0x3F800000, 0)
  let om1 := fwSub one (h 1)
  let om2 := fwSub one (h 2)
  let q := g.map (fun x => fwFma x x (h 3))
  let rs := (List.range rows).map (fun i => fwSum ((q.drop (i * cols)).take cols))
  let cs := (List.range cols).map (fun j => fwSum ((List.range rows).map (fun i => at_ q (i * cols + j))))
  let rv' := rs.zipIdx.map (fun (x : FW × Nat) => fwFma (h 2) (at_ rv x.2) (fwMul om2 (fwDiv x.1 (fwCount cols))))
  let cv' := cs.zipIdx.map (fun (x : FW × Nat) => fwFma (h 2) (at_ cv x.2) (fwMul om2 (fwDiv x.1 (fwCount rows))))
  let rmean := fwDiv (fwSum rv') (fwCount rows)
  let m' := (m.zip g).map (fun (x : FW × FW) => fwFma (h 1) x.1 (fwMul om1 x.2))
  let w' := w.zipIdx.map (fun (x : FW × Nat) =>
    let vh := fwMul (fwDiv (fwMul (at_ rv' (x.2 / cols)) (at_ cv' (x.2 % cols))) rmean) (h 7)
    stepParam h x.1 (fwDiv (fwMul (at_ m' x.2) (h 6)) (fwAdd (fwSqrt vh) (h 4))))
  { master := w', moment := m', rowV := rv', colV := cv' }

/-- MOMENTUM and SGD (R407). -/
def momentum (h : Nat → FW) (w m g : List FW) : Updated :=
  let m' := (m.zip g).map (fun (x : FW × FW) => fwFma (h 1) x.1 x.2)
  { master := (w.zip m').map (fun (x : FW × FW) => stepParam h x.1 x.2), moment := m' }

def sgd (h : Nat → FW) (w g : List FW) : Updated := { master := (w.zip g).map (fun (x : FW × FW) => stepParam h x.1 x.2) }

/-- Elements of an array as FP32. -/
def fwArray (f : Fmt) (n : Nat) (bs : List Byte) : List FW := (List.range n).map (fun i => fwLoad f (streamElem bs f.width i))

/-- The working copy's elements, scales and conditions from master values, `r16` its random bits (R57, R58, R408). -/
def Shard.workBytes (d : Shard) (mode : RMode) (sat : Bool) (r16 : Nat → Nat) (ws : List Nat) : List Byte × List Byte × Nat :=
  if d.block = 1 then
    let rs := ws.zipIdx.map (fun (x : Nat × Nat) => let r := Fmt.fp32.convert d.wkFmt mode sat (r16 x.2) x.1; (r.1, r.2.toBits))
    (packElems d.wkFmt.width (rs.map Prod.fst), [], rs.foldl (fun a r => a ||| r.2) 0)
  else
    let qs := (List.range (ws.length / d.block)).map (fun b =>
      quantBlock d.wkFmt (bit (d.w 0) 6) mode sat (fun j => r16 (b * d.block + j))
        (((ws.drop (b * d.block)).take d.block).map (FVal.decode .fp32)))
    (packElems d.wkFmt.width (qs.flatMap (fun q => q.2.1)), qs.map (fun q => BitVec.ofNat 8 q.1),
     qs.foldl (fun a q => a ||| q.2.2.toBits) 0)

/-- Conditions of a list. -/
def fwConds (l : List FW) : Nat := l.foldl (fun a x => a ||| x.2) 0

def fp32Bytes (l : List FW) : List Byte := packElems 32 (l.map Prod.fst)

/-- What UPDATE writes for a shard, once its inputs are read: arrays, then last_step (R408, R409). -/
def Shard.updatePlan (d : Shard) (s : State) (rule step gsumsq : Nat) (hy : List Nat) (w m rv cv g : List Byte) : Plan :=
  let h := fun (i : Nat) => ((hy.getD i 0, 0) : FW)
  let gs := gradScale hy gsumsq
  let ga := (fwArray d.gFmt d.n g).map (fun x => fwMul x gs)
  let wa := fwArray .fp32 d.n w
  let ma := fwArray d.mFmt d.n m
  let u := match rule with
    | 0 => adamw h d.rows d.cols wa ma (fwArray .fp32 d.rows rv) (fwArray .fp32 d.cols cv) ga
    | 1 => momentum h wa ma ga
    | _ => sgd h wa ga
  let seed := hy.getD 10 0 + 2 ^ 32 * hy.getD 11 0
  let word := fun (base i : Nat) => rng32 seed ((hy.getD 12 0 + base + i) % 2 ^ 64)
  let mode := fun (c : Nat) => if c = 2 then RMode.sr else RMode.rne
  let (kb, ks, kc) := d.workBytes (mode (d.f 0 8 7)) (bit (d.w 0) 9) (srBits (word 0)) (u.master.map Prod.fst)
  let mr := u.moment.zipIdx.map (fun (x : FW × Nat) =>
    if d.mFmt = .fp32 then (x.1.1, 0)
    else let r := Fmt.fp32.convert d.mFmt (mode (d.f 0 15 14)) false (srBits (word (ceilDiv d.n 2)) x.2) x.1.1; (r.1, r.2.toBits))
  { s := s, atEnd := true, chunks := ceilDiv d.n 4096, count := d.n
    writes := [(0, d.master.1, fp32Bytes u.master), (0, d.working.1, kb), (0, d.scales.1, ks)]
      ++ (if rule = 2 then [] else [(0, d.moment.1, packElems d.mFmt.width (mr.map Prod.fst))])
      ++ (if rule = 0 then [(0, d.rowV.1, fp32Bytes u.rowV), (0, d.colV.1, fp32Bytes u.colV)] else [])
      ++ [(0, d.tva + 44, leBytes 8 step)]
    cond := gs.2 ||| fwConds u.master ||| fwConds u.moment ||| fwConds u.rowV ||| fwConds u.colV ||| kc ||| mr.foldl (fun a r => a ||| r.2) 0 }

/-! ### The UPDATE command (R372, R404) -/

def EngCmd.rule (c : EngCmd) : Nat := c.f 6 1 0
def EngCmd.gateEn (c : EngCmd) : Bool := c.op == 0x80 && bit (c.w 6) 2
def EngCmd.tetherEn (c : EngCmd) : Bool := c.op == 0x80 && bit (c.w 6) 3
def EngCmd.stepNo (c : EngCmd) : Nat := c.a64 12

/-- The fields of an UPDATE, and the features it needs (R404, R411, R470, R472). -/
def State.oeGood (s : State) (c : EngCmd) : Bool :=
  bits (c.w 6) 31 4 == 0 && c.rule != 3 && decide (c.w 8 < 2 ^ 16) && decide (c.w 10 < 2 ^ 16) && c.a64 7 % 64 == 0 && c.a64 9 % 64 == 0
    && c.zero [14, 15] && (!c.gateEn || s.feature 9) && (!c.tetherEn || (s.feature 6 && s.tether.st == .paired))

/-- The work of an UPDATE that applies. -/
def State.oePlan (s : State) (c : EngCmd) (h : HostIn) : Plan :=
  let gsumsq := match c.decision with | some d => d.gsumsq | none => 0
  s.withReads c h [(0, c.a64 7, 128), (0, c.a64 9, 64)] [] (fun s bs =>
    let d := shardOf (c.a64 7) (bs.getD 0 [])
    let d := if c.mirror.isSome then d.moved s.tether.mirrorOff else d
    let hy := words (bs.getD 1 [])
    let aligned := (d.arrays c.rule).all (fun a => a.1 % 64 == 0) && (d.highs c.rule).all (fun i => d.f i 31 16 == 0)
    if !d.ok (s.feature 3) (s.feature 4) || d.n != c.w 11 || !hypOk hy c.gateEn || !aligned then Plan.stop s .badCommand
    else
      let m := if c.rule = 2 then (d.tvaAt 15, 0) else d.moment
      let rv := if c.rule = 0 then d.rowV else (d.tvaAt 17, 0)
      let cv := if c.rule = 0 then d.colV else (d.tvaAt 19, 0)
      s.withReads c h [(0, d.master.1, d.master.2), (0, m.1, m.2), (0, rv.1, rv.2), (0, cv.1, cv.2), (0, d.grad.1, d.grad.2)] []
        (fun s as => d.updatePlan s c.rule c.stepNo gsumsq hy (as.getD 0 []) (as.getD 1 []) (as.getD 2 []) (as.getD 3 []) (as.getD 4 [])))

/-! ### Export (R423 to R425, R427) -/

/-- Payload array and format byte of a component (R424): format code in [3:0], layout code in [5:4]. -/
def Shard.component (d : Shard) : Nat → (Nat × Nat) × Nat
  | 1 => (d.master, 0)
  | 2 => (d.moment, d.mFmt.code)
  | 3 => (d.rowV, 0)
  | 4 => (d.colV, 0)
  | 5 => (d.working, d.wkFmt.code + 16 * d.f 0 5 4)
  | 6 => (d.scales, Fmt.e8m0.code + 16 * d.f 0 5 4)
  | _ => (d.grad, d.gFmt.code)

/-- A record's header (R424). -/
def exportHeader (comp fmt : Nat) (tail : List Byte) : List Byte :=
  let h := leBytes 4 0x5A395852 ++ leBytes 2 1 ++ leBytes 1 comp ++ leBytes 1 fmt ++ tail
  h ++ List.replicate (128 - h.length) 0#8

/-- One record of a component. -/
def Shard.exportRecord (d : Shard) (coords : Bool) (z : Option Nat) (comp fmt : Nat) (pay : List Byte) : List Byte :=
  let stored := match z with | some lvl => Config.zstdFrame lvl 0 false pay | none => pay
  let geo := [d.rowFirst, d.rows, d.colFirst, d.cols, d.w 7, d.w 8].flatMap (fun x => leBytes 4 (if coords then x else 0))
  let tail := leBytes 4 d.tensor ++ leBytes 4 (d.w 2) ++ geo ++ leBytes 8 (d.w 11 + 2 ^ 32 * d.w 12) ++ leBytes 8 pay.length
    ++ leBytes 8 stored.length ++ leBytes 4 (z.isSome.toNat + 2 * coords.toNat) ++ List.replicate 12 0#8 ++ sha384 pay
  exportHeader comp fmt tail ++ stored ++ List.replicate ((64 - stored.length % 64) % 64) 0#8

/-- The END record: how many records stand before it, and the stream's length with it. -/
def exportEnd (records len : Nat) : List Byte :=
  exportHeader 0x7F 0 (leBytes 4 records ++ List.replicate 36 0#8 ++ leBytes 8 len)

/-! ### Import (R426, R427) -/

/-- The intersection of two intervals, as (first, count). -/
def overlap1 (a n b m : Nat) : Nat × Nat := (max a b, min (a + n) (b + m) - max a b)

/-- Elements of a record copied into a shard's array of the same format where their rectangles meet: the array's new bytes
and the elements written; `o` is the record's (row_first, rows, col_first, cols). -/
def Shard.copyRect (d : Shard) (width : Nat) (o : Nat × Nat × Nat × Nat) (src dst : List Byte) : List Byte × Nat :=
  let (r0, nr) := overlap1 o.1 o.2.1 d.rowFirst d.rows
  let (c0, nc) := overlap1 o.2.2.1 o.2.2.2 d.colFirst d.cols
  let out := packElems width ((List.range d.n).map (fun p =>
    let r := d.rowFirst + p / d.cols
    let c := d.colFirst + p % d.cols
    if r0 ≤ r ∧ r < r0 + nr ∧ c0 ≤ c ∧ c < c0 + nc then streamElem src width ((r - o.1) * o.2.2.2 + (c - o.2.2.1))
    else streamElem dst width p))
  (out, nr * nc)

end Sys2Proof.Machine
end

