-- ==== Sys2Proof/Machine/GateOps.lean ====
section
/-!
DEFINITION. Sys2Proof/Machine/GateOps.lean: the step gate (R411 to R422) and what the tethered pair does at its votes and
decisions (R473, R474).
-/
namespace Sys2Proof.Machine
open Sys2Proof

/-! ### The gate -/

def State.gateOf (s : State) (al : Bool) : Option Gate := if al then s.aliasGate else s.gate
def State.setGate (s : State) (al : Bool) (g : Option Gate) : State := if al then { s with aliasGate := g } else { s with gate := g }
def State.updGate (s : State) (al : Bool) (f : Gate → Gate) : State := s.setGate al ((s.gateOf al).map f)

/-- The settings as the registers hold them (R412, R693). -/
def State.gateSet (s : State) : GateSet :=
  let r := fun (o : Nat) => s.reg (rGate o)
  { tenant := bits (r 0) 12 8, tc := bits (r 0) 18 16, group := r 4, parent := r 8
    kids := (List.range (r 0xC)).map (fun i => r (0x10 + 4 * i)), stepBase := r 0x50, timeoutMs := r 0x58, contribCount := r 0x5C
    contribTva := r 0x60, contribSig := bits (r 0x68) 13 0, decideSig := bits (r 0x68) 29 16, decideTva := r 0x70, gnormMax := r 0x78 }

/-- Every field of the settings is in its range, and the tenant PRESENT (R412, R693). -/
def State.gateSetOk (s : State) (g : GateSet) : Bool :=
  decide (g.tenant ≤ 16) && s.present g.tenant && decide (g.kids.length ≤ 16) && decide (1 ≤ g.timeoutMs) && decide (g.timeoutMs ≤ 60000)
    && decide (1 ≤ g.contribCount) && g.contribTva % 16 == 0 && g.decideTva % 32 == 0
    && s.fnSignal g.tenant g.contribSig && s.fnSignal g.tenant g.decideSig

/-- The gate is the tree's root. -/
def State.gateRoot (s : State) (al : Bool) (g : Gate) : Bool := g.set.parent == s.ferId al

/-- Its own vote for a step has been cast. -/
def Gate.cast (g : Gate) (step : Nat) : Option Vote := (g.own.find? (fun x => x.1.step == step && x.2.2)).map (fun x => x.1)

/-- A child's vote for a step. -/
def Gate.kid (g : Gate) (k step : Nat) : Option Vote := (g.kids.find? (fun x => x.1 == k && x.2.step == step)).map Prod.snd

/-- The children in ascending device ID. -/
def Gate.order (g : Gate) : List Nat := sortBy (fun (a b : Nat) => decide (a < b)) g.set.kids

/-- The votes for the open step that are there: its own, then the children's. -/
def Gate.present (g : Gate) : List Vote := (g.cast g.c).toList ++ g.order.filterMap (fun k => g.kid k g.c)

/-- The combined vote (R415). -/
def Gate.combined (g : Gate) : Vote :=
  let vs := g.present
  { step := g.c, ok := vs.all Vote.ok, voters := (vs.map Vote.voters).sum
    sumsq := (vs.foldl (fun a (v : Vote) => (accAdd a (FVal.decode .fp32 v.sumsq)).1) 0) }

/-- Its own vote and one from each child are there. -/
def Gate.complete (g : Gate) : Bool := (g.cast g.c).isSome && g.set.kids.all (fun k => (g.kid k g.c).isSome)

/-- The root's decision on a combined vote (R417). -/
def Gate.decide (g : Gate) : Decision :=
  let v := g.combined
  let bound := (FVal.decode .fp32 g.set.gnormMax)
  let x := FVal.decode .fp32 v.sumsq
  let cause := if !v.ok then 1 else if x.isNan || bound.isNan || bound.lt x then 2 else 0
  { step := g.c, skip := cause != 0, cause := cause, voters := v.voters, gsumsq := v.sumsq }

/-! ### Messages of the gate (R444) -/

def voteBytes (group : Nat) (v : Vote) : List Byte :=
  leBytes 2 group ++ leBytes 2 v.ok.toNat ++ leBytes 4 v.voters ++ leBytes 8 v.step ++ leBytes 4 v.sumsq ++ List.replicate 12 0#8

/-- A decision's bytes: decision and cause stand at bytes 4 and 5, so voters follow at bytes 6 and 7 (log 41). -/
def decisionBytes (group : Nat) (d : Decision) : List Byte :=
  leBytes 4 group ++ leBytes 1 d.skip.toNat ++ leBytes 1 d.cause ++ leBytes 2 d.voters ++ leBytes 8 d.step ++ leBytes 4 d.gsumsq
    ++ List.replicate 12 0#8

def reportBytes (group step : Nat) (ids : List Nat) : List Byte :=
  let b := leBytes 4 group ++ leBytes 4 ids.length ++ leBytes 8 step ++ ids.flatMap (leBytes 2)
  b ++ List.replicate (64 - b.length) 0#8

/-- A gate message sent in domain 0 on the gate's class (R412, R444). -/
def State.gateSend (s : State) (al : Bool) (g : Gate) (kind dst : Nat) (bs : List Byte) : State :=
  s.ferSend al (.gate al) 0 kind g.set.tc dst 0 0 0 bs

/-! ### The tether's pushes and mirrors (R472 to R474) -/

def State.updTether (s : State) (f : Tether → Tether) : State := { s with tether := f s.tether }

/-- FORM may begin: there is no pair, or the module is SOLO with no claim outstanding (R472, R484) (log 106). -/
def Tether.unpaired (t : Tether) : Bool := t.st == .none || (t.st == .solo && !t.claiming)

/-- The UPDATE of a list entry. -/
def listCmd (bs : List Byte) : EngCmd := { job := 0, task := 0, cmd := bs }

/-- The descriptor a list entry names. -/
def State.listShard (s : State) (t : Nat) (bs : List Byte) : Shard :=
  shardOf ((listCmd bs).a64 7) (s.tvaBytes t ((listCmd bs).a64 7) 128)

/-- What a module tells in its gate record. -/
def State.ownInfo (s : State) : PeerInfo :=
  { gate := s.gate.map Gate.set, c := (s.gate.map Gate.c).getD 0, v := (s.gate.map Gate.v).getD 0, list := s.tether.list
    reportTva := s.tether.reportTva, reportSig := s.tether.reportSig }

/-- Ranges of the tenant's memory sent to the partner at TVA + mirror_off, then the gate record (R472, R473). -/
def State.tetherPut (s : State) (o : FerOwner) (ranges : List (Nat × Nat)) : State :=
  let t := s.tether
  let s := ranges.foldl (fun s r => (s.tvaTouch t.tenant r.1 (roundUp r.2 16)).ferPut o t.tenant t.tc t.partner (r.1 + t.mirrorOff) false 0
    (s.tvaBytes t.tenant r.1 (roundUp r.2 16))) s
  s.ferPut o 0 t.tc t.partner Config.gateRecordTva false 0 (Config.gateRecord s.ownInfo)

/-- The messages of an owner that are not complete. -/
def State.ferOwed (s : State) (o : FerOwner) : Nat := ((s.fer.wait ++ s.fer.out).filter (fun x => x.owner == o)).length

/-- The push of a step: each list entry's gradient, descriptor and hyperparameter block (R473). -/
def State.tetherPush (s : State) (step : Nat) : State :=
  s.tetherPut (.push step) (s.tether.list.flatMap (fun b =>
    let c := listCmd b
    [(s.listShard s.tether.tenant b).grad, (c.a64 7, 128), (c.a64 9, 64)]))

/-- The optimiser engine with the fewest commands, of those with a free entry (R27, R324). -/
def State.mirrorEngine (s : State) : Option Nat :=
  leastBy s.engineQueue ((classEngines 7).filter (fun e => s.engineUp e && s.engineRoom e s.tether.tenant))

/-- A mirror UPDATE: the partner's command with its TVAs moved, gate_en 1, tether_en 0 and the step (R474). -/
def mirrorCmd (off step : Nat) (bs : List Byte) : List Byte :=
  let c := listCmd bs
  let w6 := setBits (c.w 6) 3 2 1
  let put := fun (a : Nat) => leBytes 8 ((a + off) % 2 ^ 48)
  bs.take 24 ++ leBytes 4 w6 ++ put (c.a64 7) ++ put (c.a64 9) ++ leBytes 4 (c.w 11) ++ leBytes 8 step ++ (bs.drop 56).take 8

/-- Mirror UPDATEs that wait are placed in OE queues, in order, while these have entries (R27, R29). -/
def State.mirrorPlace (s : State) : State :=
  s.tether.waiting.foldl (fun s x => match s.mirrorEngine with
    | none => s
    | some e =>
      let c : EngCmd := { id := s.cmdCtr, job := 0, task := 0, cmd := x.1, ready := true
                          decision := some x.2, mirror := some (s.tether.tenant, x.2.step) }
      { (s.setEngine e (s.engine e ++ [c])).updTether (fun t => { t with waiting := t.waiting.drop 1 }) with cmdCtr := s.cmdCtr + 1 }) s

/-- The mirror UPDATEs of a decision. -/
def State.mirrorUpdates (s : State) (d : Decision) : State :=
  match s.tether.peer with
  | none => s
  | some p =>
    (s.updTether (fun t => { t with
      mirrors := t.mirrors ++ [(d.step, p.list.length, 0)]
      waiting := t.waiting ++ p.list.map (fun bs =>
        (mirrorCmd t.mirrorOff d.step (leBytes 4 0x80 ++ List.replicate 20 0#8 ++ bs.drop 24), d)) })).mirrorPlace

/-- The worse of two statuses: any but OK and STEP_SKIPPED before these. -/
def worseStatus (a b : Nat) : Nat :=
  let bad := fun (x : Nat) => x != Status.ok.code && x != Status.stepSkipped.code
  if bad a && !bad b then a else if bad b && !bad a then b else max a b

/-- A mirror UPDATE has completed; the last of its step sends the mirror report (R474). -/
def State.mirrorDone (s : State) (step st : Nat) : State :=
  match s.tether.mirrors.find? (fun m => m.1 == step), s.tether.peer with
  | some (_, left, worst), some p =>
    let w := worseStatus worst st
    if 1 < left then
      s.updTether (fun t => { t with mirrors := t.mirrors.map (fun m => if m.1 = step then (step, left - 1, w) else m) })
    else
      let s := s.updTether (fun t => { t with mirrors := t.mirrors.filter (fun m => m.1 != step), lastStep := step })
      if s.tether.st = .paired then
        s.ferPut .none 0 s.tether.tc s.tether.partner (p.reportTva + 16 * (step % 16)) true p.reportSig
          (leBytes 8 step ++ leBytes 4 w ++ leBytes 2 p.list.length ++ leBytes 2 0)
      else s
  | _, _ => s

/-! ### Deciding (R418 to R422) -/

/-- A silent module recorded by the root (R419) (log 100). -/
def State.gateSilent (s : State) (g : Gate) (ids : List Nat) (step : Nat) : State :=
  ids.foldl (fun s id => s.record .gateSilent { noRec with tenant := g.set.tenant, idx0 := id, extra0 := step }) s

/-- The modules a gate lacks votes of: children, and itself (R419). -/
def State.gateLacks (s : State) (al : Bool) (g : Gate) : List Nat :=
  g.order.filter (fun k => (g.kid k g.c).isNone) ++ (if (g.cast g.c).isNone then [s.ferId al] else [])

/-- The UPDATEs that wait for a step take its decision (R419, R422). -/
def State.releaseUpdates (s : State) (t : Nat) (d : Decision) : State :=
  { s with engines := s.engines.map (fun e => (e.1, e.2.map (fun c =>
      if c.gateEn && c.mirror.isNone && c.stepNo == d.step && c.decision.isNone && s.engTenant c == t then { c with decision := some d }
      else c))) }

/-- The decision record written and decide_sig added to (R419, R420). -/
def State.gateRecordDecision (s : State) (al : Bool) (g : Gate) (d : Decision) : State :=
  if al && !g.votes then s
  else
    let bs := leBytes 8 d.step ++ leBytes 1 d.skip.toNat ++ leBytes 1 d.cause ++ leBytes 2 d.voters ++ leBytes 4 d.gsumsq ++ leBytes 8 s.gc
      ++ leBytes 8 0
    match s.tvaCheck g.set.tenant g.set.decideTva 32 true with
    | .ok => (s.tvaStore g.set.tenant g.set.decideTva bs).hubSignal .add g.set.decideSig 1 g.set.tenant .engine
        { node := hubN, unit := 0xF, tag := 0 }
    | e => s.tvaFault none g.set.tenant 7 e

/-- What a gate does on a decision for its open step (R419). While its failed partner's ID is being claimed a pair's survivor still brings
the mirror up to date: the gradients were pushed before the partner voted (R474, R479). -/
def State.gateDecided (s : State) (al : Bool) (g : Gate) (d : Decision) : State :=
  let s := g.set.kids.foldl (fun s k => s.gateSend al g kDecision k (decisionBytes g.set.group d)) s
  let lacks := s.gateLacks al g
  let s :=
    if d.cause ≠ 3 ∨ lacks = [] then s
    else if s.gateRoot al g then s.gateSilent g lacks d.step
    else s.gateSend al g kReport g.set.parent (reportBytes g.set.group d.step lacks)
  let s := s.gateRecordDecision al g d
  let s := (g.stopped.filter (fun x => x.1 == d.step)).foldl (fun s x =>
    if d.skip then s
    else s.record .gateUnapplied { noRec with tenant := x.2.1, idx0 := x.2.2.1 % 2 ^ 16, idx1 := x.2.2.2 % 2 ^ 16
                                              code := x.2.2.1, addr := x.2.2.2, extra0 := d.step }) s
  let c := g.c + 1
  let held := g.kids.filter (fun k => decide (c ≤ k.2.step))
  let own := g.own.filter (fun x => decide (c ≤ x.1.step))
  let s := s.setGate al (some { g with c := c, kids := held, own := own, passed := false
                                       start := if held.any (fun k => k.2.step == c) then some s.gc else none
                                       hist := (g.hist ++ [d]).drop (g.hist.length - 15)
                                       stopped := g.stopped.filter (fun x => x.1 != d.step) })
  let s := s.traceEv 0xA g.set.tenant 0 [d.step % 2 ^ 32, d.step / 2 ^ 32, d.skip.toNat, d.voters]
  let s := if al then s else s.releaseUpdates g.set.tenant d
  if !al && (s.tether.st == .paired || s.tether.claiming || s.tether.st == .catchingUp) then s.mirrorUpdates d else s

/-- Votes traced as they are cast (R656). -/
def State.traceAll (s : State) (ds : List (List Nat)) (t : Nat) : State := ds.foldl (fun s d => s.traceEv 0xA t 0 d) s

/-- The own vote for the open step is cast once its pushes are acknowledged; with every vote there the combined vote goes
up, or the root decides (R414, R415, R417, R473). The number bounds the steps decided in one go. -/
def State.gateTry (s : State) (al : Bool) : Nat → State
  | 0 => s
  | n + 1 =>
    match s.gateOf al with
    | none => s
    | some g =>
      let ready := fun (x : Vote × Nat × Bool) => x.1.step == g.c && (al || s.ferOwed (.push x.1.step) == 0)
      let mine := (g.own.filter (fun x => ready x && !x.2.2)).map (fun x => x.1)
      let g := { g with own := g.own.map (fun x => if ready x then (x.1, 0, true) else x) }
      let g := { g with start := if g.start.isNone && g.present != [] then some s.gc else g.start }
      let s := (s.setGate al (some g)).traceAll (mine.map (fun v => [v.step % 2 ^ 32, v.step / 2 ^ 32, v.ok.toNat, v.voters])) g.set.tenant
      if !g.complete || g.passed then s
      else if s.gateRoot al g then (s.gateDecided al g g.decide).gateTry al n
      else (s.setGate al (some { g with passed := true })).gateSend al g kVote g.set.parent (voteBytes g.set.group g.combined)

/-- The steps a gate may decide in one go: those of its held votes. -/
def State.gateGo (s : State) (al : Bool) : State := s.gateTry al 20

/-- A contribution record: valid and well formed with no non-finite value, and its sum of squares (R413). -/
def contribution (b : List Byte) : Bool × Nat :=
  (leAt b 0 4 == 0 && leAt b 8 4 == 1 && leAt b 12 4 == 0, leAt b 4 4)

/-- GATE_VOTE_FORM (R414): the table of step v is read and counted, and the vote formed, pushed and cast (log 105). -/
def execGateVoteForm (al : Bool) (s : State) : Out :=
  .next (
    if s.fatal then s else
    match s.gateOf al with
    | none => s
    | some g =>
      let sig := s.signal g.set.contribSig
      if !g.votes || decide (sig.counter < g.set.contribCount) || (decide (3 ≤ s.sag) && s.tether.st == .paired) then s
      else
        let n := g.set.contribCount
        let a := g.set.contribTva + 16 * (n * ((g.v + 2 ^ 64 - g.set.stepBase) % 2))
        let (bs, s) := match s.tvaCheck g.set.tenant a (16 * n) false with
          | .ok => (some (s.tvaBytes g.set.tenant a (16 * n)), s.tvaTouch g.set.tenant a (16 * n))
          | _ => (none, s)
        let s := s.setSignal g.set.contribSig { s.signal g.set.contribSig with counter := sig.counter - n }
        let (ok, sum, s) := match bs with
          | some bs =>
            let cs := (List.range n).map (fun k => contribution ((bs.drop (16 * k)).take 16))
            let sum := cs.foldl (fun a (c : Bool × Nat) => (accAdd a (FVal.decode .fp32 c.2)).1) 0
            (cs.all Prod.fst && (FVal.decode .fp32 sum).isFin, sum, s)
          | none => let (k, s) := s.drawFree; (false, Config.freeNat k % 2 ^ 32, s)
        let vote : Vote := { step := g.v, ok := ok, voters := 1, sumsq := sum }
        let late := decide (g.v < g.c)
        let s := s.setGate al (some { g with v := g.v + 1, own := if late then g.own else g.own ++ [(vote, 0, false)] })
        let s := if !al && s.tether.st == .paired then s.tetherPush g.v else s
        if late then s.record .gateLateVote { noRec with tenant := g.set.tenant, extra0 := g.v } else s.gateGo al)

/-- GATE_TIMEOUT (R418): the root's timeout for the open step has passed. -/
def execGateTimeout (al : Bool) (s : State) : Out :=
  .next (
    if s.fatal then s else
    match s.gateOf al with
    | none => s
    | some g =>
      let paused := (List.range 16).any (fun p => (s.port p).stalled)
      match g.start with
      | some t =>
        if !s.gateRoot al g || paused || decide (s.gc < t + 1000000 * g.set.timeoutMs) then s
        else
          let d : Decision := { step := g.c, skip := true, cause := 3, voters := (g.present.map Vote.voters).sum, gsumsq := canonNan }
          (s.gateDecided al g d).gateGo al
      | none => s)

/-- GATE_ENABLE: a write of GATE_CTL with gate_en 1 (R411, R412, R693). -/
def execGateEnable (ctl : Nat) (s : State) : Out :=
  .next (
    if s.fatal then s else
    if !bit ctl 0 || !s.bar 3 || s.gate.isSome || !s.feature 9 then s
    else
      let s' := s.setReg (rGate 0) (ctl % 2 + 2 ^ 8 * bits ctl 12 8 + 2 ^ 16 * bits ctl 18 16)
      let g := s'.gateSet
      if !s'.gateSetOk g then s else s'.setGate false (some { set := g, c := g.stepBase, v := g.stepBase }))

/-- GATE_DISABLE: a write of gate_en 0 (R421). -/
def execGateDisable (s : State) : Out :=
  .next (if s.fatal then s else if s.bar 3 then (s.setField (rGate 0) 0 0 0).setGate false none else s)

/-- The decision for an UPDATE's step, where its gate has one: at once from the history; a step older than it is refused
(R422). -/
def State.gateLookup (s : State) (c : EngCmd) : Except Status (Option Decision) :=
  match c.decision with
  | some d => .ok (some d)
  | none =>
    if !c.gateEn then .ok none
    else match s.gate with
      | none => .ok none
      | some g =>
        if g.set.tenant ≠ s.engTenant c then .ok none
        else match g.hist.find? (fun d => d.step == c.stepNo) with
          | some d => .ok (some d)
          | none => if c.stepNo < g.c then .error .badCommand else .ok none

end Sys2Proof.Machine
end

