-- ==== Sys2Proof/Machine/Coll.lean ====
section
/-!
DEFINITION. Sys2Proof/Machine/Coll.lean: the collective engines (R360, R361, R459 to R468): groups, segments, the
combination of partials, fragments and grants.
-/
namespace Sys2Proof.Machine
open Sys2Proof

/-! ### Groups (R459, R460) -/

def State.grpField (s : State) (i off hi lo : Nat) : Nat := bits (s.reg (rGrp i off)) hi lo
def State.grpValid (s : State) (i : Nat) : Bool := bit (s.reg (rGrp i 0)) 0
def State.grpSize (s : State) (i : Nat) : Nat := s.grpField i 8 12 0
def State.grpRank (s : State) (i : Nat) : Nat := s.grpField i 8 27 16

/-- The valid entry of a group number. -/
def State.grpOf (s : State) (group : Nat) : Option Nat :=
  (List.range 64).find? (fun i => s.grpValid i && s.grpField i 4 15 0 == group)

/-- The valid entry a tenant's CE command may name. -/
def State.grpFor (s : State) (t group : Nat) : Option Nat :=
  match s.grpOf group with
  | some i => if s.grpField i 4 20 16 = t then some i else none
  | none => none

/-- The device ID of a rank, and the rank of a device ID. -/
def State.rankDev (s : State) (i r : Nat) : Nat := (Tab.get [] s.groups i).getD r 0
def State.devRank (s : State) (i dev : Nat) : Option Nat := (Tab.get [] s.groups i).findIdx? (fun d => d == dev)

namespace EngCmd
def isColl (c : EngCmd) : Bool := decide (0x20 ≤ c.op) && decide (c.op ≤ 0x25)
def group (c : EngCmd) : Nat := c.f 6 15 0
def ctc (c : EngCmd) : Nat := c.f 6 18 16
def redOp (c : EngCmd) : Nat := c.f 6 20 19
def cfmt (c : EngCmd) : Fmt := if c.f 6 24 21 = 2 then .bf16 else .fp32
/-- Bytes of one element. -/
def eb (c : EngCmd) : Nat := c.cfmt.width / 8
def root (c : EngCmd) : Nat := c.f 12 11 0
/-- The operations that reduce: ALL_REDUCE, REDUCE_SCATTER, REDUCE. -/
def reduces (c : EngCmd) : Bool := c.op == 0x20 || c.op == 0x21 || c.op == 0x25
end EngCmd

/-- The body of a CE command is well formed, and its group valid for its tenant (R360, R444, R449, R460); root counts for
BROADCAST and REDUCE only, and a count of 0 moves nothing (log 91). -/
def State.ceGood (s : State) (c : EngCmd) : Bool :=
  let fm := c.f 6 24 21
  let rnd := c.f 6 26 25
  bits (c.w 6) 31 27 == 0 && decide (c.ctc < 7) && (fm == 0 || fm == 2) && (rnd == 0 || (fm == 2 && decide (rnd ≤ 2)))
    && (rnd != 2 || s.feature 4) && (!c.reduces || c.redOp != 3) && decide (c.w 8 < 2 ^ 16) && decide (c.w 10 < 2 ^ 16)
    && c.a64 7 % 64 == 0 && c.a64 9 % 64 == 0 && bits (c.w 12) 31 12 == 0
    && s.ferGood (s.engTenant c) c.ctc 0
    && (match s.grpFor (s.engTenant c) c.group with
        | some i => !(c.op == 0x23 || c.op == 0x25) || decide (c.root < s.grpSize i)
        | none => false)

/-! ### Segments and fragments (R462, R466) -/

/-- Segment `k` of `count` elements over `n` ranks: first element and length. -/
def segment (count n k : Nat) : Nat × Nat :=
  let q := roundUp (ceilDiv count n) 16
  (k * q, min count ((k + 1) * q) - min count (k * q))

/-- Fragments of a number of bytes. -/
def fragCount (bytes : Nat) : Nat := ceilDiv bytes 16384

/-- Bytes cut into fragments. -/
def fragments (bs : List Byte) : List (Nat × List Byte) :=
  (List.range (fragCount bs.length)).map (fun k => (k, (bs.drop (16384 * k)).take 16384))

/-- The fragments of every segment of a reduction. -/
def allReduceFrags (count n : Nat) : Nat := ((List.range n).map (fun k => fragCount (4 * (segment count n k).2))).sum

/-- How many data fragments a rank expects. -/
def collExpects (c : EngCmd) (k : CollSt) : Nat :=
  let C := c.w 11
  let f := allReduceFrags C k.n
  let gat := fun (j : Nat) => fragCount (c.eb * (segment C k.n j).2)
  let gatAll := ((List.range k.n).map gat).sum
  if k.n ≤ 1 then 0
  else
    let red :=
      if !c.reduces then 0
      else if k.ordered then
        (if k.rank = 0 then 0 else f) + (if k.rank + 1 = k.n then 0
          else if c.op = 0x25 then (if k.rank = c.root then f else 0) else fragCount (4 * (segment C k.n k.rank).2))
      else f
    let g := match c.op with
      | 0x20 => gatAll - gat k.rank
      | 0x22 => (k.n - 1) * fragCount (c.eb * C)
      | 0x23 => if k.rank = c.root then 0 else gatAll
      | 0x24 => (k.n - 1) * fragCount (c.eb * C)
      | 0x25 => if k.rank = c.root ∧ !k.ordered then gatAll - gat k.rank else 0
      | _ => 0
    red + g

/-- The ranks a command expects fragments from, in rank order from rank + 1 (R467). -/
def collPeers (c : EngCmd) (k : CollSt) : List Nat :=
  let all := (List.range (k.n - 1)).map (fun i => (k.rank + 1 + i) % k.n)
  let prev := (k.rank + k.n - 1) % k.n
  let next := (k.rank + 1) % k.n
  all.filter (fun p =>
    match c.op with
    | 0x22 => p == prev
    | 0x23 => p == prev && k.rank != c.root
    | 0x24 => true
    | 0x25 => if k.ordered then (p == prev && k.rank != 0) || (p + 1 == k.n && k.rank == c.root)
        else p == prev || p == next || k.rank == c.root
    | 0x20 => if k.ordered then (p == prev) || (p + 1 == k.n) else p == prev || p == next
    | _ => if k.ordered then (p == prev && k.rank != 0) || p + 1 == k.n else p == prev || p == next)

/-- The peers granted at once, and the initial grant of each. -/
def collCap (c : EngCmd) : Nat := if c.op = 0x24 then 64 else 256
def collGrant (c : EngCmd) (k : CollSt) : Nat := max 1 (min 16 (256 / max 1 (min (collCap c) (collPeers c k).length)))

/-- The fragments a peer sends in all, where that is fixed: blocks of an ALL_TO_ALL, segments sent to the root. -/
def collFrom (c : EngCmd) (k : CollSt) (p : Nat) : Option Nat :=
  match c.op with
  | 0x24 => some (fragCount (c.eb * c.w 11))
  | 0x25 => if p = (k.rank + 1) % k.n ∨ p = (k.rank + k.n - 1) % k.n then none else some (fragCount (c.eb * (segment (c.w 11) k.n p).2))
  | _ => none

/-! ### Messages -/

/-- Words 5 to 7 of a fragment of a command. -/
def collWords (c : EngCmd) (k : CollSt) (phase dir seg frag : Nat) : Nat × Nat × Nat :=
  (c.group + 2 ^ 16 * (c.op - 0x20) + 2 ^ 19 * k.ordered.toNat + 2 ^ 20 * c.redOp + 2 ^ 22 * c.f 6 24 21 + 2 ^ 26 * phase + 2 ^ 28 * dir,
   k.no % 2 ^ 32, seg + 2 ^ 12 * (frag % 2 ^ 20))

def State.collSend (s : State) (c : EngCmd) (k : CollSt) (peer phase dir seg frag : Nat) (bs : List Byte) : State :=
  let (w5, w6, w7) := collWords c k phase dir seg frag
  s.ferSend false (.engine c.id) (s.engTenant c) kColl c.ctc (s.rankDev k.grp peer) w5 w6 w7 bs

/-- The active CE command on a group entry. -/
def State.collOn (s : State) (grp : Nat) : Option (Nat × EngCmd × CollSt) :=
  s.engines.findSome? (fun e => e.2.findSome? (fun c => match c.coll with
    | some k => if k.grp = grp ∧ c.active ∧ c.fin = none then some (e.1, c, k) else none
    | none => none))

def State.updColl (s : State) (e id : Nat) (f : CollSt → CollSt) : State := s.updEng e id (fun c => { c with coll := c.coll.map f })

/-- The limit a peer has granted. -/
def State.limitOut (s : State) (k : CollSt) (peer : Nat) : Nat :=
  ((s.grants.filter (fun g => g.1 == k.grp && g.2.1 == k.no && g.2.2.1 == peer)).map (fun g => g.2.2.2)).foldl max 0

/-- The peer and the direction of a fragment when it is sent: the first hop of a ring segment chooses (R464) (log 97). -/
def State.collHop (s : State) (k : CollSt) (f : CollFrag) : Nat × Nat :=
  if f.dir ≠ 2 then (f.peer, f.dir)
  else
    let cw := (k.rank + 1) % k.n
    let ccw := (k.rank + k.n - 1) % k.n
    let room := fun p => s.ferRoom (s.rankDev k.grp p)
    if !room cw && room ccw then (ccw, 1) else (cw, 0)

/-- A command's waiting fragments leave in order as their peers' grants allow. -/
def State.collPump (s : State) (e id : Nat) : State :=
  match (s.engine e).find? (fun c => c.id == id) with
  | none => s
  | some c =>
    match c.coll with
    | none => s
    | some k =>
      k.outq.foldl (fun s f =>
        match ((s.engine e).find? (fun c => c.id == id)).bind (fun c => c.coll) with
        | none => s
        | some k =>
          let (peer, dir) := s.collHop k f
          let n := Tab.get 0 k.sent peer
          if n < s.limitOut k peer then
            (s.updColl e id (fun k => { k with sent := Tab.put 0 k.sent peer (n + 1) })).collSend c k peer f.phase dir f.seg f.frag f.data
          else s.updColl e id (fun k => { k with outq := k.outq ++ [f] })) (s.updColl e id (fun k => { k with outq := [] }))

/-- A peer granted up to a limit. -/
def State.grantPeer (s : State) (e : Nat) (c : EngCmd) (peer limit : Nat) : State :=
  match c.coll with
  | none => s
  | some k => (s.updColl e c.id (fun k => { k with limitIn := Tab.put 0 k.limitIn peer limit })).collSend c k peer 2 0 0 limit []

/-- The grants at activation (R467). -/
def State.collActivate (s : State) (e : Nat) (c : EngCmd) : State :=
  match c.coll with
  | none => s
  | some k => ((collPeers c k).take (collCap c)).foldl (fun s p => s.grantPeer e c p (collGrant c k)) s

/-- A fragment of a peer consumed: its limit rises by one, and once all of its fragments are there the next peer is
granted. -/
def State.collConsumed (s : State) (e id peer : Nat) : State :=
  match (s.engine e).find? (fun c => c.id == id) with
  | none => s
  | some c =>
    match c.coll with
    | none => s
    | some k =>
      let all := match collFrom c k peer with | some n => decide (n ≤ Tab.get 0 k.arrived peer) | none => false
      if all then
        match (collPeers c k).find? (fun p => Tab.get 0 k.limitIn p == 0) with
        | some p => s.grantPeer e c p (collGrant c k)
        | none => s
      else s.grantPeer e c peer (Tab.get 0 k.limitIn peer + 1)

/-! ### Combination and rounding (R463) -/

/-- One step of the combination. -/
def collCombine (fp32Native : Bool) (op acc x : Nat) : Nat × Nat :=
  match op with
  | 0 => let r := accAdd acc (FVal.decode .fp32 x); (r.1, r.2.toBits)
  | 1 => (fmax32 fp32Native acc x, (snanCond (FVal.decode .fp32 acc) (FVal.decode .fp32 x)).toBits)
  | _ => (fmin32 fp32Native acc x, (snanCond (FVal.decode .fp32 acc) (FVal.decode .fp32 x)).toBits)

/-- Partials combined with own elements. -/
def collMerge (fp32Native : Bool) (op : Nat) (ps xs : List Nat) : List Nat × Nat :=
  let rs := (ps.zip xs).map (fun (x : Nat × Nat) => collCombine fp32Native op x.1 x.2)
  (rs.map Prod.fst, rs.foldl (fun a r => a ||| r.2) 0)

/-- Partials rounded to the format; element `base + i` of the output has its random bits (R361). DESIGN CHOICE (log 65): a
collective has no saturation bit; its rounding does not saturate. -/
def collRound (c : EngCmd) (base : Nat) (ps : List Nat) : List Byte × Nat :=
  let rs := ps.zipIdx.map (fun (x : Nat × Nat) =>
    if c.cfmt = .fp32 then (x.1, 0)
    else
      let r := Fmt.fp32.convert c.cfmt ((RMode.ofCode (c.f 6 26 25)).getD .rne) false (engR16 (c.a64 13) (c.w 15) (base + x.2)) x.1
      (r.1, r.2.toBits))
  (packElems c.cfmt.width (rs.map Prod.fst), rs.foldl (fun a r => a ||| r.2) 0)

/-- Own elements [a, a + n) as FP32, and the state once they are read. -/
def State.collOwn (s : State) (c : EngCmd) (a n : Nat) : List Nat × State :=
  let bs := s.tvaBytes (s.engTenant c) (c.a64 7 + c.eb * a) (c.eb * n)
  ((List.range n).map (fun i => c.cfmt.toFp32 (streamElem bs c.cfmt.width i)), s.touch c.jobOf (s.engTenant c) (c.a64 7 + c.eb * a) (c.eb * n))

/-- A CE command ends with a status. -/
def State.collEnd (s : State) (e id : Nat) (st : Status) : State :=
  s.updEng e id (fun c => if c.fin.isSome then c else { c with fin := some (st.code, 0), coll := c.coll.map (fun k => { k with outq := [] }) })

/-- Bytes written to dst by a command; a refused write ends it. -/
def State.collWrite (s : State) (e : Nat) (c : EngCmd) (off : Nat) (bs : List Byte) : State :=
  match s.engWrite c 0 (c.a64 9 + off) bs with
  | (s, none) => s
  | (s, some st) => s.collEnd e c.id st

/-- Fragments put behind a command's own. -/
def State.collQueue (s : State) (e id : Nat) (fs : List CollFrag) : State := s.updColl e id (fun k => { k with outq := k.outq ++ fs })

/-- Bits of a range of dst or of the own segment sent on in the GATHER phase. -/
def gatherFrags (peer seg : Nat) (bs : List Byte) : List CollFrag :=
  (fragments bs).map (fun x => { peer := peer, phase := 1, dir := 0, seg := seg, frag := x.1, data := x.2 })

/-- An owner's reduced fragment: rounded once, written where the operation says, and once its segment is whole sent on
(R462 to R465). -/
def State.collOwner (s : State) (e : Nat) (c : EngCmd) (k : CollSt) (seg frag : Nat) (ps : List Nat) : State :=
  let (a, len) := segment (c.w 11) k.n seg
  let base := if c.op = 0x21 then 4096 * frag else a + 4096 * frag
  let (bs, cond) := collRound c base ps
  let s := s.updEng e c.id (fun c => { c with cond := c.cond ||| cond })
  let s :=
    if c.op = 0x25 ∧ k.rank ≠ c.root then s
    else s.collWrite e c (c.eb * base) bs
  if k.n ≤ 1 ∨ c.op = 0x21 ∨ (c.op = 0x25 ∧ (k.rank = c.root ∨ k.ordered)) then s
  else
    let s := s.updColl e c.id (fun k => { k with own := Tab.put [] k.own frag bs })
    let own := Tab.put [] k.own frag bs
    if own.length < fragCount (4 * len) then s
    else s.collQueue e c.id (gatherFrags (if c.op = 0x25 then c.root else (k.rank + 1) % k.n) seg (own.flatMap Prod.snd))

/-- A combined fragment goes on its way: to the next rank, or to the owner. -/
def State.collForward (s : State) (e : Nat) (c : EngCmd) (k : CollSt) (dir seg frag : Nat) (ps : List Nat) : State :=
  let pass := fun (p : Nat) => s.collQueue e c.id [{ peer := p, phase := 0, dir := dir, seg := seg, frag := frag, data := packElems 32 ps }]
  if !k.ordered then
    if seg = k.rank then s.collOwner e c k seg frag ps
    else pass (if dir = 1 then (k.rank + k.n - 1) % k.n else (k.rank + 1) % k.n)
  else if k.rank + 1 < k.n then pass (k.rank + 1)
  else
    let owner := if c.op = 0x25 then c.root else seg
    if owner = k.rank then s.collOwner e c k seg frag ps else pass owner

/-- A command with nothing left to receive, send or see acknowledged has done its work; the record's count is open. -/
def State.collCheck (s : State) (e id : Nat) : State :=
  match (s.engine e).find? (fun c => c.id == id) with
  | none => s
  | some c =>
    match c.coll with
    | none => s
    | some k =>
      if c.done = 0 || k.left != 0 || k.outq != [] || s.ferOwed (.engine id) != 0 || c.fin.isSome then s
      else
        let (n, s) := s.drawFree
        s.updEng e id (fun c => { c with fin := some (0, 0), count := Config.freeNat n % 2 ^ 64 })

/-- A CE command whose own part has begun: contributions are read, own bytes copied, first fragments queued (R462 to R465). -/
def State.collStart (s : State) (e : Nat) (c : EngCmd) (h : HostIn) : State :=
  match c.coll with
  | none => s
  | some k =>
    let C := c.w 11
    let blocks := if c.op = 0x24 then k.n else 1
    let reads := if c.op = 0x23 ∧ k.rank ≠ c.root then 0 else c.eb * C * blocks
    match s.engRead c h 0 (c.a64 7) reads with
    | (s, some st, _) => s.collEnd e c.id st
    | (s, none, src) =>
      let s := s.updEng e c.id (fun c => { c with done := 1 })
      let next := (k.rank + 1) % k.n
      let s := match c.op with
        | 0x22 =>
          let s := s.collWrite e c (k.rank * C * c.eb) src
          if k.n ≤ 1 then s else s.collQueue e c.id (gatherFrags next k.rank src)
        | 0x23 =>
          if k.rank ≠ c.root then s
          else
            let s := if c.a64 7 = c.a64 9 then s else s.collWrite e c 0 src
            if k.n ≤ 1 then s
            else s.collQueue e c.id ((List.range k.n).flatMap (fun j =>
              let (a, len) := segment C k.n j
              gatherFrags next j ((src.drop (c.eb * a)).take (c.eb * len))))
        | 0x24 =>
          let blk := fun (j : Nat) => (src.drop (c.eb * C * j)).take (c.eb * C)
          let s := s.collWrite e c (c.eb * C * k.rank) (blk k.rank)
          s.collQueue e c.id ((List.range (k.n - 1)).flatMap (fun i =>
            let j := (k.rank + 1 + i) % k.n
            gatherFrags j j (blk j)))
        | _ =>
          let xs := (List.range C).map (fun i => c.cfmt.toFp32 (streamElem src c.cfmt.width i))
          let first := fun (seg : Nat) =>
            let (a, len) := segment C k.n seg
            collMerge (s.feature 0) c.redOp (List.replicate len 0) ((xs.drop a).take len)
          let cut := fun (ps : List Nat) => (List.range (ceilDiv ps.length 4096)).map (fun i => (i, (ps.drop (4096 * i)).take 4096))
          if k.n ≤ 1 then
            let (ps, cond) := first 0
            let s := s.updEng e c.id (fun c => { c with cond := c.cond ||| cond })
            (cut ps).foldl (fun (s : State) (f : Nat × List Nat) => s.collOwner e c k 0 f.1 f.2) s
          else if k.ordered then
            if k.rank ≠ 0 then s
            else
              (List.range k.n).foldl (fun s seg =>
                let (ps, cond) := first seg
                let s := s.updEng e c.id (fun c => { c with cond := c.cond ||| cond })
                (cut ps).foldl (fun (s : State) (f : Nat × List Nat) => s.collForward e c k 0 seg f.1 f.2) s) s
          else
            let len := (segment C k.n k.rank).2
            s.collQueue e c.id ((cut (List.replicate len 0)).map (fun (f : Nat × List Nat) =>
              { peer := next, phase := 0, dir := 2, seg := k.rank, frag := f.1, data := packElems 32 f.2 }))
      (s.collPump e c.id).collCheck e c.id

/-- The bytes of a received fragment are those its place has, and it goes where the operation sends it. -/
def collFragOk (c : EngCmd) (k : CollSt) (peer phase seg frag len : Nat) : Bool :=
  let sg := segment (c.w 11) k.n seg
  let bytes := if phase = 0 then 4 * sg.2 else if c.op = 0x22 ∨ c.op = 0x24 then c.eb * c.w 11 else c.eb * sg.2
  let place := match c.op with
    | 0x20 | 0x21 => phase == 0 || (c.op == 0x20 && seg != k.rank)
    | 0x22 => phase == 1 && seg != k.rank
    | 0x23 => phase == 1 && k.rank != c.root
    | 0x24 => phase == 1 && seg == k.rank
    | _ => phase == 0 || (k.rank == c.root && !k.ordered && seg == peer)
  let final := k.ordered && phase == 0 && peer + 1 == k.n && k.rank + 1 != k.n
  let owner := if c.op = 0x25 then k.rank == c.root else seg == k.rank
  decide (seg < k.n) && decide (16384 * frag < bytes) && len == min 16384 (bytes - 16384 * frag) && place && (!final || owner)

/-- A REDUCE-phase fragment's partials combined with the own contribution and passed on (R463 to R465). -/
def State.collReduce (s : State) (e : Nat) (c : EngCmd) (k : CollSt) (peer dir seg frag : Nat) (bs : List Byte) : State :=
  let ps := (List.range (bs.length / 4)).map (fun i => leAt bs (4 * i) 4)
  if k.ordered ∧ peer + 1 = k.n ∧ k.rank + 1 ≠ k.n then s.collOwner e c k seg frag ps
  else
    let a := (segment (c.w 11) k.n seg).1 + 4096 * frag
    let (own, s) := s.collOwn c a ps.length
    let (rs, cond) := collMerge (s.feature 0) c.redOp ps own
    (s.updEng e c.id (fun c => { c with cond := c.cond ||| cond })).collForward e c k dir seg frag rs

/-- A GATHER-phase fragment's bits written, and passed on along the ring until every rank has them. -/
def State.collGather (s : State) (e : Nat) (c : EngCmd) (k : CollSt) (peer seg frag : Nat) (bs : List Byte) : State :=
  let C := c.w 11
  let off := match c.op with
    | 0x22 => c.eb * C * seg
    | 0x24 => c.eb * C * peer
    | _ => c.eb * (segment C k.n seg).1
  let s := s.collWrite e c (off + 16384 * frag) bs
  let next := (k.rank + 1) % k.n
  let stop := match c.op with | 0x20 | 0x22 => next == seg | 0x23 => next == c.root | _ => true
  if stop then s else s.collQueue e c.id [{ peer := next, phase := 1, dir := 0, seg := seg, frag := frag, data := bs }]

end Sys2Proof.Machine
end

