-- ==== Sys2Proof/Machine/FerLink.lean ====
section
/-!
DEFINITION. Sys2Proof/Machine/FerLink.lean: the link layer of the Ferier ports (R428 to R439): training, flits, replay
and retraining.
-/
namespace Sys2Proof.Machine
open Sys2Proof

/-! ### Pauses (R436, R446, R645) -/

/-- The job a message is sent for. -/
def State.ownerJob (s : State) : FerOwner → Option Nat
  | .epilogue _ _ _ j => j
  | .engine id => (s.engines.findSome? (fun e => e.2.find? (fun c => c.id == id))).bind EngCmd.jobOf
  | _ => none

/-- A job waits on a signal or a collective grant. -/
def State.jobWaits (s : State) (slot : Nat) : Bool :=
  s.cells.any (fun c => (List.range 4).any (fun k =>
    ((c.2.mtx k).job == some slot && (c.2.mtx k).wait.isSome) || ((c.2.vtx k).job == some slot && (c.2.vtx k).wait.isSome)))
    || s.engines.any (fun e => e.2.any (fun c => c.job == slot && c.mirror.isNone && (!c.ready || c.coll.isSome)))

/-- A port holds a job's traffic: its last transmission of an unacknowledged message left there (R645). -/
def State.carries (s : State) (p slot : Nat) : Bool :=
  s.fer.out.any (fun o => o.port == some p && s.ownerJob o.owner == some slot)

/-- A job's clock pauses now on account of a port. -/
def State.pausedBy (s : State) (slot p : Nat) : Bool :=
  let q := s.port p
  q.stalled && (s.carries p slot || (q.nak && s.jobWaits slot))

/-- A port's tick in REPLAY or discarding is added to its spans, and spans of more than a second ago leave (R646). -/
def Port.stallTick (now : Nat) (q : Port) : Port :=
  if q.st != .replay && !q.nak then q
  else
    let old := q.spans.filter (fun x => decide (now < x.2 + 1000000000))
    { q with spans := match old.getLast? with
        | some (a, b) => if b = now then old.dropLast ++ [(a, now + 1)] else old ++ [(now, now + 1)]
        | none => [(now, now + 1)] }

/-- A tick while ports stand still: the timeouts of the jobs they delay, the gate's at the root, and the 250 µs clocks of the messages
that left on a port in REPLAY or RETRAIN, or of all in KEEPALIVE, stand (R436, R446, R453, R645). -/
def State.stallTick (s : State) : State :=
  if !s.lowPower && !s.fer.ports.any (fun e => e.2.stalled) then s
  else
    let cmds := s.cmds.map (fun (c : Cmd) => match c.job with
      | some k => if (List.range 16).any (s.pausedBy k) then { c with expires := c.expires.map (· + 1) } else c
      | none => c)
    let gate := fun (g : Option Gate) => if s.fer.ports.any (fun e => e.2.stalled) then g.map (fun g => { g with start := g.start.map (· + 1) }) else g
    let waits := fun (o : OutMsg) => s.lowPower || (match o.port with
      | some p => (s.port p).st == .replay || (s.port p).st == .retrain
      | none => false)
    { s.updFer (fun f => { f with out := f.out.map (fun o => if waits o then { o with sentGc := o.sentGc + 1 } else o)
                                  ports := Tab.update {} f.ports (fun _ q => q.stallTick s.gc) }) with
        cmds := cmds, gate := gate s.gate, aliasGate := gate s.aliasGate }

/-! ### States of a port (R432, R433) -/

/-- A port's link at its start: the sequence numbers begin again. -/
def Port.fresh (q : Port) : Port :=
  { q with nextTx := 0, rxSeq := 4095, nak := false, asm := [], held := [], owed := [], naks := 0, drr := 0, left := 0 }

/-- A port fails: its replay buffer is discarded (R433, R446). -/
def State.portFail (s : State) (p : Nat) : State :=
  let q := s.port p
  (s.setPort p { q with st := .failed, since := s.gc, buf := [], txq := [], nak := false }).record .ferPortFailed
    { noRec with unit := 7, idx0 := p, causeSeq := q.cause }

/-- A port enters RETRAIN with a code; the third entry within one second leaves it FAILED (R433, R646). -/
def State.portRetrain (s : State) (p code : Nat) : State :=
  let q := s.port p
  let near := (q.retrains.filter (fun t => decide (s.gc < t + 1000000000))) ++ [s.gc]
  let seq := s.nextSeq
  let s := (s.setPort p { q with st := .retrain, since := s.gc, retrains := near, cause := seq }).regAdd (rPortCtr p 7) 1
  let s := s.record .ferRetrain { noRec with unit := 7, idx0 := p, code := code }
  if 3 ≤ near.length then s.portFail p else s

/-- PORT_ENABLE: a write of FER_PORT_EN: ports newly enabled train from Stage 3 on, ports disabled stop (R433, R439). -/
def execPortEnable (mask : Nat) (s : State) : Out :=
  .next (
    if s.fatal then s else
    if !s.bar 3 then s else
    let old := s.reg rPortEn
    let s := s.setReg rPortEn (mask % 2 ^ 16)
    (List.range 16).foldl (fun s p =>
      if bit mask p && !bit old p then
        s.setPort p { (s.port p).fresh with st := .training, since := s.gc, ident := false, buf := [], txq := []
                                            part := (List.range 8).map (fun c => s.reg (rTcBuf c)) }
      else if !bit mask p && (s.port p).st != .disabled then s.setPort p { (s.port p).fresh with st := .disabled, buf := [], txq := [] }
      else s) s)

/-- The device ID the module sends as changes: a new epoch, skipping 0 (R441). -/
def State.newEpoch (s : State) : State := s.updFer (fun f => { f with epoch := if f.epoch = 65535 then 1 else f.epoch + 1 })

/-- IDENT: the switch assigns the device ID and advertises its credits; an ID unlike that of the ports already UP fails the
port (R433, R437, R440). -/
def execIdent (port dev : Nat) (enc : Bool) (credits : List Nat) (s : State) : Out :=
  .next (
    if s.fatal then s else
    let q := s.port port
    if q.st ≠ .training ∨ 16 ≤ port then s
    else if (List.range 16).any (fun p => (s.port p).st.isUp) ∧ s.fer.devId ≠ dev % 4096 then
      (s.setPort port { q with st := .failed, since := s.gc }).record .ferIdMismatch
        { noRec with unit := 7, idx0 := port, idx1 := dev % 4096, extra0 := s.fer.devId } |>.record .ferPortFailed
        { noRec with unit := 7, idx0 := port, causeSeq := s.nextSeq }
    else
      let s := s.setPort port { q with ident := true, peerEnc := enc
                                       credits := credits.zipIdx.foldl (fun (t : Tab Nat) (x : Nat × Nat) => if x.2 < 8 then Tab.put 0 t x.2 x.1 else t) [] }
      if s.fer.devId = dev % 4096 then s else (s.updFer (fun f => { f with devId := dev % 4096 })).newEpoch)

/-- PORT_TRAINING_END: all four lanes hold and IDENT has come, or 500 ms have passed (R433). -/
def execPortTrainingEnd (port : Nat) (ok : Bool) (s : State) : Out :=
  .next (
    if s.fatal then s else
    let q := s.port port
    if q.st ≠ .training ∨ 16 ≤ port then s
    else if ok && q.ident && decide (s.gc ≤ q.since + 500000000) then
      let s := s.setPort port { q with st := if s.lowPower then .keepalive else .up, since := s.gc }
      ((s.updFer (fun f => { f with idValid := true })).ferPump).pumpPort port
    else if !ok || decide (q.since + 500000000 ≤ s.gc) then s.portFail port
    else s)

/-- FER_LOSS_OF_LOCK: a port that carries flits loses a lane or its lock (R638); the code of its record is open. -/
def execFerLossOfLock (port : Nat) (s : State) : Out :=
  .next (if s.fatal then s else if (s.port port).st.isUp then let (k, s) := s.drawFree; s.portRetrain port (Config.freeNat k % 2 ^ 32) else s)

/-- PORT_RETRAIN_END: every unacknowledged flit is sent again with fresh sequence numbers, or the port fails (R433). -/
def execPortRetrainEnd (port : Nat) (ok : Bool) (s : State) : Out :=
  .next (
    if s.fatal then s else
    let q := s.port port
    if q.st ≠ .retrain then s
    else if ok && decide (s.gc ≤ q.since + 20000000) then
      let buf := q.buf.zipIdx.map (fun (x : Flit × Nat) => { x.1 with fseq := x.2 })
      let q := { q.fresh with st := if s.lowPower then .keepalive else .up, since := s.gc, buf := buf, nextTx := buf.length % 4096, asm := q.asm
                              held := q.held, owed := q.owed }
      ((s.setPort port q).regAdd (rPortCtr port 0) buf.length).pumpPort port
    else if !ok || decide (q.since + 20000000 ≤ s.gc) then s.portFail port
    else s)

/-- REPLAY_BUDGET_EXPIRE: a replay not over 64 µs after its first nak (R436). -/
def execReplayBudgetExpire (port : Nat) (s : State) : Out :=
  .next (if s.fatal then s else if (s.port port).st = .replay ∧ (s.port port).since + 64000 ≤ s.gc then s.portRetrain port 0 else s)

/-- Ticks of a span within the last second. -/
def spanTicks (now : Nat) (x : Nat × Nat) : Nat := x.2 - max x.1 (now - 1000000000)

/-- REPLAY_TIME_RETRAIN: more than 50 ms of the last second in REPLAY or discarding (R646). -/
def execReplayTimeRetrain (port : Nat) (s : State) : Out :=
  .next (
    if s.fatal then s else
    let q := s.port port
    if q.st.isUp ∧ (q.st = .replay ∨ q.nak) ∧ 50000000 < (q.spans.map (spanTicks s.gc)).sum then s.portRetrain port 1 else s)

/-! ### Flits (R434, R435) -/

/-- One byte taken into the CRC-64 of R434, its most significant bit first (log 37). -/
def crcByte (c : Nat) (b : Byte) : Nat :=
  (List.range 8).foldl (fun c _ => if bit c 63 then (2 * c % 2 ^ 64) ^^^ 0x42F0E1EBA9EA3693 else 2 * c) (c ^^^ (2 ^ 56 * b.toNat))

/-- The CRC-64: initial value all ones, final value inverted. -/
def crc64 (bs : List Byte) : Nat := 2 ^ 64 - 1 - bs.foldl crcByte (2 ^ 64 - 1)

/-- Bytes 0 to 247 of a flit: its link header, then its units. -/
def flitBytes (f : Flit) : List Byte :=
  leBytes 8 (f.ftype + 2 ^ 2 * f.fseq + 2 ^ 14 * f.ack + 2 ^ 26 * f.nak.toNat + 2 ^ 27 * f.tc + 2 ^ 30 * f.first + 2 ^ 34 * f.crdTc
    + 2 ^ 37 * f.crdCount) ++ f.payload

/-- A flit arrived good: its CRC holds, and no codeword it overlaps was uncorrectable. -/
def flitGood (f : Flit) : Bool := f.uncorr == 0 && f.crc == crc64 (flitBytes f)

/-- Whole messages taken from the bytes received in a class; a header of kind 0 pads out its flit (R443). -/
def extractMsgs : Nat → List Byte → List FMsg × List Byte
  | 0, bs => ([], bs)
  | n + 1, bs =>
    if bs = [] ∨ byteAt bs 0 % 64 = 0 then ([], [])
    else if bs.length < 32 then ([], bs)
    else
      let w0 := leAt bs 0 4
      let len := bits w0 31 16
      let tag := if bit w0 10 then 16 else 0
      if bs.length < 32 + len + tag then ([], bs)
      else
        let m : FMsg := { words := words (bs.take 32), data := (bs.drop 32).take len, tag := (bs.drop (32 + len)).take tag }
        let (ms, rest) := extractMsgs n (bs.drop (32 + len + tag))
        (m :: ms, rest)

/-- The replay buffer without what an ack covers. -/
def Port.acked (q : Port) (ack : Nat) : Port :=
  { q with buf := q.buf.filter (fun f => decide ((f.fseq + 4096 - (ack + 1) % 4096) % 4096 < 2048)) }

/-- A nak received: every flit after ack_seq is sent again (R435), or at the eighth nak for one fseq the port retrains
(R436). -/
def State.portNak (s : State) (p next : Nat) : State :=
  let q := s.port p
  let n := if q.nakSeq = next ∧ q.naks ≠ 0 then q.naks + 1 else 1
  let s := s.setPort p { q with naks := n, nakSeq := next, since := if q.st = .replay then q.since else s.gc
                                st := if q.st = .keepalive then .keepalive else .replay }
  let s := if q.st = .replay then s else s.regAdd (rPortCtr p 5) 1
  if 8 ≤ n then s.portRetrain p 0 else s.regAdd (rPortCtr p 0) q.buf.length

/-- A flit's ack, nak and credits acted on. -/
def State.flitLink (s : State) (p : Nat) (f : Flit) : State :=
  let q := (s.port p).acked f.ack
  let q := { q with credits := Tab.put 0 q.credits f.crdTc (Tab.get 0 q.credits f.crdTc + f.crdCount) }
  let s := s.setPort p q
  let next := (f.ack + 1) % 4096
  if f.nak then s.portNak p next
  else if q.st = .replay ∧ (q.buf.all (fun x => x.fseq != q.nakSeq)) then
    s.setPort p { q with st := .up, since := s.gc, naks := 0 }
  else s.setPort p { q with naks := 0 }

/-- DATA_FLIT: a flit arrives (R434, R435): what it says of the link is acted on; a DATA flit is accepted in order with a
good CRC, and the messages it completes lie in the receive buffer. -/
def execDataFlit (port : Nat) (f : Flit) (s : State) : Out :=
  .next (
    if s.fatal then s else
    let q := s.port port
    if !q.st.isUp || decide (16 ≤ port) then s
    else
      let discard := fun (s : State) =>
        let q := s.port port
        (s.setPort port { q with nak := true }).regAdd (rPortCtr port 4) 1
      let s := (s.regAdd (rPortCtr port 2) f.corr).regAdd (rPortCtr port 3) f.uncorr
      if !flitGood f then discard s
      else
        let s := s.flitLink port f
        let q := s.port port
        let s :=
          if f.ftype ≠ 1 ∨ !q.st.isUp then s
          else if f.fseq ≠ (q.rxSeq + 1) % 4096 then discard s
          else
            let (ms, rest) := extractMsgs 16 (Tab.get [] q.asm f.tc ++ f.payload)
            let q := { q with rxSeq := f.fseq, nak := false, asm := Tab.put [] q.asm f.tc rest
                              held := Tab.put 0 q.held f.tc (Tab.get 0 q.held f.tc + 1) }
            ((s.setPort port q).regAdd (rPortCtr port 1) 1).updFer (fun r => { r with rx := r.rx ++ ms.map (fun m =>
              ({ port := port, m := m, since := s.gc } : RxMsg)) })
        (s.pumpPort port).ferPump)

end Sys2Proof.Machine
end

