-- ==== Sys2Proof/Machine/Ferier.lean ====
section
/-!
DEFINITION. Sys2Proof/Machine/Ferier.lean: messages of the Ferier transport (R440 to R455): what is received, refused,
acknowledged and sent again.
-/
namespace Sys2Proof.Machine
open Sys2Proof

/-! ### How a sent message ends (R446, R448, R468, R475) -/

/-- A FORM or RESYNC entry completes. -/
def State.tetherFinish (s : State) (cmd : Option Nat) (st : Status) : State :=
  match cmd.bind (fun n => s.cmds.find? (fun c => c.id == n)) with
  | some c => s.finish c st 0
  | none => s

/-- The pair is PAIRED once the own copy is acknowledged and the partner's gate record has come (R472). -/
def State.tetherFormed (s : State) : State :=
  if s.tether.st = .forming ∧ s.ferOwed .copy = 0 ∧ s.tether.peer.isSome then
    (s.updTether (fun t => { t with st := .paired, cmd := none, hbGc := s.gc, hbSent := s.gc })).tetherFinish s.tether.cmd .ok
  else s

/-- RESYNC completes once its last GET is answered (R483). -/
def State.resyncCheck (s : State) : State :=
  let left := s.fer.gets.any (fun g => match g.use with | .mirror _ => true | _ => false)
  if s.tether.resync.isSome && !left then (s.updTether (fun t => { t with resync := none })).tetherFinish s.tether.resync .ok else s

/-- RESYNC ends with the first failing status. -/
def State.resyncFail (s : State) (st : Status) : State :=
  let s' := s.updFer (fun f => { f with gets := f.gets.filter (fun g => match g.use with | .mirror _ => false | _ => true) })
  if s.tether.resync.isSome then (s'.updTether (fun t => { t with resync := none })).tetherFinish s.tether.resync st else s

/-- A message is complete: acknowledged (no status), or ended with one. -/
def State.ferEnded (s : State) (o : OutMsg) (st : Option Status) : State :=
  match o.owner, st with
  | .epilogue cell ctx tile _, none => s.epiAck cell ctx tile
  | .epilogue _ _ _ j, some st => s.stopJob j st 0
  | .engine id, none => (match s.engines.find? (fun e => e.2.any (fun c => c.id == id)) with
    | some e => s.collCheck e.1 id
    | none => s)
  | .engine id, some st => (match s.engines.find? (fun e => e.2.any (fun c => c.id == id)) with
    | some e => s.collEnd e.1 id st
    | none => s)
  | .gate al, none => s.updGate al (fun g => if o.m.dst = g.set.parent then { g with detached := false } else g)
  | .gate _, some _ => s
  | .push _, none => s.gateGo false
  | .push step, some st =>
    let s := (s.updTether (fun t => { t with pushFail := t.pushFail ++ [(step, st.code)] })).record .tetherPushFailed
      { noRec with unit := 7, tenant := s.tether.tenant, idx0 := s.tether.partner, extra0 := step, code := st.code } false
    s.gateGo false
  | .copy, none => s.tetherFormed
  | .copy, some st =>
    (s.updTether (fun t => { t with st := .none, cmd := Option.none })).tetherFinish s.tether.cmd st
  | .resync, none => s
  | .resync, some st => s.resyncFail st
  | .timeReq _, _ => s
  | .timeResp _, _ => s
  | .none, _ => s

/-- Outstanding messages that meet a condition leave; each is told how it ended, and waiting ones follow (R446, R447). -/
def State.ferClose (s : State) (p : OutMsg → Bool) (st : Option Status) : State :=
  let gone := s.fer.out.filter p
  let s := s.updFer (fun f => { f with out := f.out.filter (fun o => !p o) })
  (gone.foldl (fun s o => s.ferEnded o st) s).ferPump

/-- The outstanding message of a stream and seq. -/
def sameMsg (al : Bool) (dst tc seq : Nat) (o : OutMsg) : Bool := o.alias_ == al && o.m.dst == dst && o.m.tc == tc && o.m.seq == seq

def State.updOut (s : State) (p : OutMsg → Bool) (f : OutMsg → OutMsg) : State :=
  s.updFer (fun r => { r with out := r.out.map (fun o => if p o then f o else o) })

/-- A message goes out once more. -/
def State.resend (s : State) (o : OutMsg) : State :=
  let (s, o') := s.transmit o
  (s.noteSent o.owner true).updOut (sameMsg o.alias_ o.m.dst o.m.tc o.m.seq) (fun _ => o')

/-- A message's job has gone or is stopping: the message is abandoned (R647). -/
def State.ferOrphan (s : State) (o : OutMsg) : Bool :=
  match o.owner with
  | .epilogue _ _ _ (some j) => (match s.job? j with | some j => j.stop.isSome | none => true)
  | .engine id => (s.engines.all (fun e => e.2.all (fun c => c.id != id))) ||
      (match s.ownerJob (.engine id) with | some k => (match s.job? k with | some j => j.stop.isSome | none => true) | none => false)
  | _ => false

/-- RETRANSMIT_TIMEOUT (R446): 250 µs after it last left, a message is sent again; after 8 times it is LINK_FAILED, in
domain 0 it goes on. -/
def execRetransmitTimeout (al : Bool) (dst tc seq : Nat) (s : State) : Out :=
  .next (
    if s.fatal then s else
    match s.fer.out.find? (sameMsg al dst tc seq) with
    | none => s
    | some o =>
      let paused := match o.port with | some p => (s.port p).st == .replay || (s.port p).st == .retrain | none => false
      if paused || s.lowPower || o.due.isSome || decide (s.gc < o.sentGc + 250000) then s
      else if s.ferOrphan o then s.updFer (fun f => { f with out := f.out.filter (fun x => !sameMsg al dst tc seq x) })
      else
        let s :=
          if o.retx ≠ 8 then s
          else
            let j := s.ownerJob o.owner
            let s := s.record .ferUnreachable
              { noRec with unit := 7, idx0 := dst, job := j, tenant := o.tenant, status := if j.isSome then Status.linkFailed.code else 0 } j.isSome
            match o.owner, s.gateOf al with
            | .gate b, some g =>
              if b = al ∧ g.set.parent = dst ∧ !g.detached then
                (s.setGate al (some { g with detached := true })).record .gateDetached { noRec with tenant := g.set.tenant, idx0 := dst }
              else s
            | _, _ => s
        if o.retx < 8 ∨ o.m.fdom = 0 then (s.resend { o with retx := o.retx + 1 }).regAdd (rFerCtr 0) 1
        else s.ferClose (sameMsg al dst tc seq) (some .linkFailed))

/-- An ACK or NAK refers to a stream the module sends: as its own ID or as its alias. -/
def State.refAlias (s : State) (m : FMsg) : Bool := m.dst != s.fer.devId && some m.dst == s.fer.alias_

/-- The module accepts messages to its ID and to its alias (R440). -/
def State.ferMine (s : State) (m : FMsg) : Bool := m.dst == s.fer.devId || some m.dst == s.fer.alias_

/-- A port that takes messages. -/
def State.ferOpen (s : State) (port : Nat) : Bool := (s.port port).st.isUp && decide (port < 16)

/-- A message that is not sequenced leaves the receive buffer. -/
def State.takeRx (s : State) (port : Nat) (m : FMsg) : State :=
  s.updFer (fun f => { f with rx := match f.rx.find? (fun r => r.port == port && r.m == m) with | some r => f.rx.erase r | none => f.rx })

/-- ACK: every message it covers is complete (R446). -/
def execAck (port : Nat) (m : FMsg) (s : State) : Out :=
  .next (
    if s.fatal then s else
    if !s.ferOpen port || m.kind != kAck || !s.ferMine m then s
    else
      let s := s.takeRx port m
      let covers := fun (n : Nat) => decide (n < m.seq) || (decide (m.seq < n) && bit (m.w 7) (n - m.seq - 1) && decide (n ≤ m.seq + 32))
      s.ferClose (fun o => o.alias_ == s.refAlias m && o.m.dst == m.src && o.m.tc == m.stc && o.m.epoch == bits (m.w 5) 15 0
        && covers o.m.seq) none)

/-- The reasons of a NAK (R448). -/
def nBusy : Nat := 1
def nFull : Nat := 2
def nAccess : Nat := 3
def nUnmapped : Nat := 4
def nNoDomain : Nat := 5
def nAuth : Nat := 6
def nWindow : Nat := 7
def nPoison : Nat := 8
def nMalformed : Nat := 9

/-- The status a final NAK's reason gives the sender. -/
def nakStatus (r : Nat) : Status :=
  if r = nAuth then .authFail else if r = nPoison then .memUncorrectable else .badCommand

/-- NAK: retried, dropped or ended by its reason (R448); the eighth BUSY is recorded here, where it is known to be final (R638,
log 51). -/
def execNak (port : Nat) (m : FMsg) (s : State) : Out :=
  .next (
    if s.fatal then s else
    if !s.ferOpen port || m.kind != kNak || !s.ferMine m then s
    else
      let s := (s.takeRx port m).regAdd (rFerCtr 3) 1
      let r := bits (m.w 5) 3 0
      let hit := fun (o : OutMsg) => sameMsg (s.refAlias m) m.src m.stc m.seq o && o.m.epoch == bits (m.w 5) 31 16
      match s.fer.out.find? hit with
      | none => s
      | some o =>
        if r = nBusy then
          if o.naks + 1 < 8 ∨ o.m.fdom = 0 then
            s.updOut hit (fun o => { o with naks := o.naks + 1, full := false, due := some (s.gc + 1000 * min 1024 (8 * 2 ^ o.naks)) })
          else
            let j := s.ownerJob o.owner
            (s.record .ferRefused { noRec with unit := 7, tenant := o.tenant, idx0 := o.m.dst, idx1 := o.m.tc, addr := o.m.seq, code := r, job := j
                                               status := if j.isSome then Status.nakExhausted.code else 0 } j.isSome).ferClose
              hit (some .nakExhausted)
        else if r = nFull then
          if o.fulls < 4 then s.updOut hit (fun o => { o with fulls := o.fulls + 1, full := true, due := some (s.gc + 2000) })
          else s.ferClose hit none
        else s.ferClose hit (some (nakStatus r)))

/-- A refused message whose backoff is over goes out again. -/
def State.retryMsg (s : State) (full al : Bool) (dst tc seq : Nat) : State :=
  match s.fer.out.find? (sameMsg al dst tc seq) with
  | some o =>
    (match o.due with
     | some t => if o.full ≠ full ∨ s.gc < t ∨ s.lowPower then s
       else if s.ferOrphan o then s.updFer (fun f => { f with out := f.out.filter (fun x => !sameMsg al dst tc seq x) })
       else s.resend o
     | none => s)
  | none => s

/-- BUSY_RETRY (R448). -/
def execBusyRetry (al : Bool) (dst tc seq : Nat) (s : State) : Out := .next (if s.fatal then s else s.retryMsg false al dst tc seq)

/-- QUEUE_FULL_RETRY (R448). -/
def execQueueFullRetry (al : Bool) (dst tc seq : Nat) (s : State) : Out := .next (if s.fatal then s else s.retryMsg true al dst tc seq)

/-! ### Receiving (R440 to R445, R448, R451, R455, R480) -/

/-- How performing a message goes: done, waiting in the receive buffer for the messages before it, or refused for a
reason. -/
inductive RxEnd where
  | done (s : State)
  | hold (s : State)
  | refuse (s : State) (reason : Nat)
  | later (s : State)
  deriving DecidableEq, Repr

/-- What performing a message needs: its tenant, whether it came for the alias, whether its seq is the base of its stream
(every lower one is performed), whether it was tried before, and the message in clear. -/
structure RxCtx where
  t : Nat
  al : Bool
  first : Bool
  again : Bool
  port : Nat
  m : FMsg
  deriving DecidableEq, Repr

/-- The stream of a message. A stream to the alias begins at the first message received for it (R480). -/
def State.rxStream (s : State) (m : FMsg) : RxStream :=
  (s.fer.streams.find? (fun x => x.src == m.src && x.dst == m.dst && x.tc == m.tc)).getD
    { src := m.src, dst := m.dst, tc := m.tc, base := if m.dst = s.fer.devId then 0 else m.seq }

def State.setStream (s : State) (x : RxStream) : State :=
  s.updFer (fun f => { f with streams := f.streams.filter (fun y => !(y.src == x.src && y.dst == x.dst && y.tc == x.tc)) ++ [x] })

/-- The base moved over the marked positions. -/
def RxStream.settle : Nat → RxStream → RxStream
  | 0, x => x
  | n + 1, x => if x.marked.contains x.base then RxStream.settle n { x with base := x.base + 1, marked := x.marked.erase x.base } else x

/-- A position marked as performed. -/
def RxStream.mark (x : RxStream) (n : Nat) : RxStream := RxStream.settle 4097 { x with marked := x.marked ++ [n] }

/-- The bitmap of an ACK (R444). -/
def RxStream.bitmap (x : RxStream) : Nat :=
  ((List.range 32).map (fun b => if x.marked.contains (x.base + 1 + b) then 2 ^ b else 0)).sum

/-- The ACK and the NAK of a message. -/
def State.sendAck (s : State) (m : FMsg) : State :=
  let x := s.rxStream m
  s.ferPlain (s.refAlias m) kAck 7 m.src m.fdom x.base m.tc m.epoch 0 x.bitmap []
def State.sendNak (s : State) (m : FMsg) (r : Nat) : State :=
  let s := (s.ferPlain (s.refAlias m) kNak 7 m.src m.fdom m.seq m.tc (r + 2 ^ 16 * m.epoch) 0 0 []).regAdd (rFerCtr 2) 1
  if r = nBusy ∨ r = nFull then s
  else
    let t := (s.tenantOf m.fdom).getD 0x1F
    s.record .ferRefused { noRec with unit := 7, tenant := t, idx0 := m.src, idx1 := m.tc, addr := m.seq, code := r } false

/-- The message is as its format demands (R443). -/
def msgShape (m : FMsg) : Bool :=
  !m.mcast && bits (m.w 0) 15 11 == 0 && m.len == m.data.length && m.len % 16 == 0 && decide (m.len ≤ 16384)
    && bits (m.w 1) 15 12 == 0 && bits (m.w 1) 31 28 == 0 && bits (m.w 4) 31 16 == 0 && seqKind m.kind

/-- A received message in clear; none where its tag check fails (R455, R585). -/
def State.openMsg (s : State) (t : Nat) (m : FMsg) : Option FMsg :=
  if !m.enc then (if bit (s.reg rFerCtl) 1 then none else some m)
  else if !s.ferEnc then none
  else
    let k := s.ferKey t
    let aad := m.words.flatMap (leBytes 4)
    ([k.cur, k.prev].filterMap id).findSome? (fun key =>
      if gcmTag key (ferIv m) aad m.data = m.tag then some { m with data := gcmCrypt key (ferIv m) m.data } else none)

/-- The flits of a class leave the receive buffer with its last message: their credits go back (R437). -/
def State.rxCredit (s : State) (port tc : Nat) : State :=
  let q := s.port port
  if s.fer.rx.any (fun r => r.port == port && r.m.tc == tc) || Tab.get [] q.asm tc != [] || Tab.get 0 q.held tc == 0 then s
  else s.setPort port { q with owed := Tab.put 0 q.owed tc (Tab.get 0 q.owed tc + Tab.get 0 q.held tc), held := Tab.put 0 q.held tc 0 }

/-- The response to an ATOMIC of a slot (R450). -/
def State.atomicReply (s : State) (m : FMsg) (a : AtomSlot) : State :=
  s.ferSend (s.refAlias m) .none ((s.tenantOf m.fdom).getD 0) kAtomicResp m.tc m.src (a.seq % 2 ^ 32) (a.seq / 2 ^ 32) (bits (m.w 7) 3 0)
    (a.old ++ leBytes 8 0)

/-- A duplicate: not performed, acknowledged at once; an ATOMIC of its slot's current seq is answered again (R445, R450). -/
def State.rxDuplicate (s : State) (m : FMsg) : State :=
  let s := (s.regAdd (rFerCtr 1) 1).sendAck m
  if m.kind ≠ kAtomic then s
  else match Tab.get none s.fer.atoms (16 * m.src + bits (m.w 7) 3 0) with
    | some a => if a.seq = m.seq then s.atomicReply m a else s
    | none => s

/-- A message of a device other than the partner on a dedicated port (R452). -/
def State.stray (s : State) (port : Nat) (m : FMsg) : Bool :=
  s.tetherPorts && decide (14 ≤ port) && !(s.tether.st != .none && m.src == s.tether.partner)

/-- A message may be taken from a port now: the next of its stream in the receive buffers, one held there, or one that
arrives while none of its port and class waits. -/
def State.rxEntry (s : State) (port : Nat) (m : FMsg) : Option RxMsg :=
  match s.fer.rx.find? (fun r => r.port == port && r.m == m) with
  | some r =>
    let same := fun (x : RxMsg) => x.m.src == m.src && x.m.dst == m.dst && x.m.tc == m.tc && !x.held
    if r.held || s.fer.rx.find? same == some r then some r else none
  | none => if s.fer.rx.any (fun r => r.port == port && r.m.tc == m.tc && !r.held) then none else some { port := port, m := m, since := s.gc }

/-- A sequenced message is received: refused, discarded as a duplicate, or performed, marked and acknowledged. -/
def State.ferReceive (s : State) (port : Nat) (m : FMsg) (want : FMsg → Bool) (perform : RxCtx → State → RxEnd) : State :=
  match (if s.ferOpen port && want m then s.rxEntry port m else none) with
  | none => s
  | some r =>
    let s := s.updFer (fun f => { f with rx := f.rx.erase r })
    let keep := fun (s : State) (wrote : Bool) => s.updFer (fun f => { f with rx := f.rx ++ [{ r with held := true, tried := wrote }] })
    let nak := fun (s : State) (k : Nat) => (s.sendNak m k).rxCredit port m.tc
    let al := s.refAlias m
    if s.stray port m then (s.record .ferTetherStray { noRec with unit := 7, idx0 := m.src, idx1 := port }).rxCredit port m.tc
    else if !s.ferMine m then s.rxCredit port m.tc
    else if s.lowPower then nak { s with pwr := { s.pwr with wake := true } } nBusy
    else
      let cur := Tab.get 0 s.fer.epochs m.src
      if cur ≠ 0 ∧ cur ≠ m.epoch ∧ 32768 ≤ (m.epoch + 65536 - cur) % 65536 then s.rxCredit port m.tc
      else
        let s := if cur = m.epoch then s else s.updFer (fun f =>
          { f with epochs := Tab.put 0 f.epochs m.src m.epoch, streams := f.streams.filter (fun x => x.src != m.src) })
        let x := s.rxStream m
        if m.seq < x.base ∨ x.marked.contains m.seq then (s.rxDuplicate m).rxCredit port m.tc
        else if x.base + 4096 ≤ m.seq then nak s nWindow
        else if x.marked = [] ∧ x.base < m.seq ∧ 8192 ≤ (s.fer.streams.filter (fun y => y.marked != [])).length then nak s nBusy
        else if !msgShape m then nak s nMalformed
        else match s.tenantOf m.fdom with
          | none => nak s nNoDomain
          | some t =>
            if m.tc = 7 ∧ t ≠ 0 then nak s nAccess
            else if al ∧ s.tether.st = .catchingUp ∧ t ≠ 0 then nak s nBusy
            else if al ∧ s.tether.st = .catchingUp then keep s r.tried
            else match s.openMsg t m with
              | none => nak s nAuth
              | some c =>
                match perform { t := t, al := al, first := m.seq == x.base, again := r.tried, port := port, m := c } s with
                | .refuse s k => nak s k
                | .hold s => keep s true
                | .later s => keep s r.tried
                | .done s => ((((s.regAdd (rAcct t 0x68) m.bytes.length).setStream ((s.rxStream m).mark m.seq)).sendAck m).rxCredit port m.tc).ferPump

/-- RX_BUFFER_TIMEOUT: a message that has lain 16 µs in the receive buffer is refused BUSY (R448). -/
def execRxBufferTimeout (port : Nat) (m : FMsg) (s : State) : Out :=
  .next (
    if s.fatal then s else
    match s.fer.rx.find? (fun r => r.port == port && r.m == m) with
    | some r =>
      if s.gc < r.since + 16000 ∨ !seqKind m.kind ∨ (s.refAlias m ∧ s.tether.st = .catchingUp) then s
      else ((s.updFer (fun f => { f with rx := f.rx.erase r })).sendNak m nBusy).rxCredit port m.tc
    | none => s)

/-! ### PUT, GET, atomics, signals and messages (R450) -/

/-- A TVA a message names, for the alias its mirror (R480). -/
def State.rxTva (s : State) (c : RxCtx) (a : Nat) : Nat := if c.al then a + s.tether.mirrorOff else a
def State.rxSig (s : State) (c : RxCtx) (n : Nat) : Nat := if c.al then n + s.tether.sigOff else n

/-- What a PUT of the partner in domain 0 tells the tether: its gate record, or the mirror report of a step (R472 to
R475). -/
def State.tetherSee (s : State) (c : RxCtx) (a : Nat) : State :=
  let t := s.tether
  if c.al ∨ c.m.fdom ≠ 0 ∨ c.m.src ≠ t.partner ∨ (t.st ≠ .forming ∧ t.st ≠ .paired) then s
  else if a = Config.gateRecordTva then
    (s.updTether (fun t => { t with peer := some (Config.gateRecordRead c.m.data)
                                    peerEpoch := if t.st = .forming then some c.m.epoch else t.peerEpoch })).tetherFormed
  else if t.st = .paired ∧ t.reportTva ≤ a ∧ a < t.reportTva + 256 ∧ c.m.len = 16 then
    let step := leAt c.m.data 0 8
    let st := leAt c.m.data 8 1
    let bad := st ≠ Status.ok.code ∧ st ≠ Status.stepSkipped.code
    let s := s.updTether (fun t => { t with partnerStep := step, reports := (t.reports ++ [(step, st)]).drop ((t.reports.length + 1) - 32) })
    if bad then s.record .tetherMirrorFailed { noRec with unit := 7, tenant := t.tenant, idx0 := t.partner, extra0 := step, code := st } false
    else s
  else s

/-- PUT. A partner's gate record that comes before this module's FORM is refused BUSY and comes again (log 43). -/
def performPut (c : RxCtx) (s : State) : RxEnd :=
  let m := c.m
  let a := s.rxTva c m.addr
  let sigEn := bit (m.w 6) 30
  let sig := s.rxSig c (bits (m.w 6) 29 16)
  if m.addr % 16 ≠ 0 ∨ m.len < 16 ∨ bit (m.w 6) 31 ∨ m.w 7 ≠ 0 then .refuse s nMalformed
  else if sigEn ∧ !(s.fnSignal c.t sig && decide (sig < 16384)) then .refuse s nAccess
  else if s.feature 6 ∧ s.tether.unpaired ∧ m.fdom = 0 ∧ a = Config.gateRecordTva then .refuse s nBusy
  else
    let write := fun (s : State) => if c.again then s else (s.tvaStore c.t a m.data).tetherSee c a
    if !c.again ∧ s.tvaCheck c.t a m.len true ≠ .ok then
      (if m.src = s.tether.partner ∧ m.fdom = 0 ∧ a = Config.gateRecordTva ∧ !s.tether.unpaired then .done (s.tetherSee c a) else .refuse s nUnmapped)
    else if !c.again ∧ !s.tvaServed c.t a m.len then .later s
    else if sigEn ∧ !c.first then .hold (write s)
    else
      let s := write s
      .done (if sigEn then s.hubSignal .add sig 1 c.t .engine { node := hubN, unit := 0xF, tag := 0 } else s)

def execPut (port : Nat) (m : FMsg) (s : State) : Out := .next (if s.fatal then s else s.ferReceive port m (fun m => m.kind == kPut) performPut)

/-- The bytes of a stream a sender holds for a group, while its window is open, and the state once they are read (R299, R454). -/
def State.heldStream (s : State) (group off n : Nat) : Option (List Byte × State) :=
  match s.loads.find? (fun l => l.tx && l.group == group && (match l.holdEnd with | some e => decide (s.gc < e) | none => true)) with
  | some l =>
    if l.length < off + n then none
    else if l.src = 0 then some (s.hostRead l.tenant (l.addr + off) n, s)
    else if s.tvaCheck l.tenant (l.addr + off) n false = .ok then
      some (s.tvaBytes l.tenant (l.addr + off) n, s.tvaTouch l.tenant (l.addr + off) n) else none
  | none => none

/-- GET. -/
def performGet (c : RxCtx) (s : State) : RxEnd :=
  let m := c.m
  let n := leAt m.data 0 4
  let space := bits (m.w 6) 17 16
  let reply := fun (s : State) (st : Nat) (bs : List Byte) => RxEnd.done (s.ferSend c.al .none c.t kGetResp m.tc m.src st 0 (m.w 7) bs)
  if m.len ≠ 16 ∨ n < 16 ∨ 16384 < n ∨ n % 16 ≠ 0 ∨ 2 ≤ space ∨ bits (m.w 6) 31 18 ≠ 0 ∨ !zeros (m.data.drop 8) then .refuse s nMalformed
  else if !s.ferRoom m.src then .refuse s nBusy
  else if space = 1 then
    match s.heldStream (leAt m.data 4 2) m.addr n with
    | some (bs, s) => reply s 0 bs
    | none => reply s MStatus.range.ctorIdx []
  else
    let a := s.rxTva c m.addr
    match s.tvaCheck c.t a n false with
    | .ok => if s.tvaServed c.t a n then reply (s.tvaTouch c.t a n) 0 (s.tvaBytes c.t a n) else .later s
    | .poison _ => .refuse s nPoison
    | _ => .refuse s nUnmapped

def execGet (port : Nat) (m : FMsg) (s : State) : Out := .next (if s.fatal then s else s.ferReceive port m (fun m => m.kind == kGet) performGet)

/-- GET_RESP: the first response of a tag is given to what waits for it. -/
def performGetResp (c : RxCtx) (s : State) : RxEnd :=
  let m := c.m
  let st := bits (m.w 5) 7 0
  match s.fer.gets.find? (fun g => g.tag == m.w 7 && g.dst == m.src) with
  | none => .done s
  | some g =>
    let s := s.updFer (fun f => { f with gets := f.gets.erase g })
    match g.use with
    | .mcast gal off => .done (s.mcastReply gal off (if st = 0 then some m.data else none))
    | .mirror a =>
      if st ≠ 0 then .done (s.resyncFail (nakStatus st))
      else match s.tvaCheck s.tether.tenant a m.len true with
        | .ok => .done ((s.tvaStore s.tether.tenant a m.data).resyncCheck)
        | _ => .done (s.resyncFail .badCommand)

def execGetResp (port : Nat) (m : FMsg) (s : State) : Out := .next (if s.fatal then s else s.ferReceive port m (fun m => m.kind == kGetResp) performGetResp)

/-- The result of an atomic on 64-bit integers: 0 ADD, 1 SWAP, 2 CAS, 3 SMAX. -/
def atomicOp (op old x cmp : Nat) : Nat :=
  match op with
  | 0 => (old + x) % 2 ^ 64
  | 1 => x
  | 2 => if old = cmp then x else old
  | _ => if sext 64 old < sext 64 x then x else old

/-- ATOMIC: one 8-byte operation at the slice, its old value kept by slot. -/
def performAtomic (c : RxCtx) (s : State) : RxEnd :=
  let m := c.m
  let a := s.rxTva c m.addr
  let op := bits (m.w 6) 19 16
  if m.len ≠ 16 ∨ m.addr % 8 ≠ 0 ∨ 4 ≤ op ∨ bits (m.w 6) 31 20 ≠ 0 ∨ bits (m.w 7) 31 4 ≠ 0 then .refuse s nMalformed
  else if !c.first then .hold s
  else if s.tvaCheck c.t a 8 true ≠ .ok then .refuse s nUnmapped
  else match s.tvaCheck c.t a 8 false with
    | .ok =>
      if !s.ferRoom m.src then .refuse s nBusy
      else if !s.tvaServed c.t a 8 then .later s
      else
        let old := s.tvaBytes c.t a 8
        let new := atomicOp op (leNat old) (leAt m.data 0 8) (leAt m.data 8 8)
        let slot : AtomSlot := { seq := m.seq, old := old }
        let s := ((s.tvaTouch c.t a 8).tvaStore c.t a (leBytes 8 new)).updFer (fun f =>
          { f with atoms := Tab.put none f.atoms (16 * m.src + bits (m.w 7) 3 0) (some slot) })
        .done (s.atomicReply m slot)
    | .poison _ => .refuse s nPoison
    | _ => .refuse s nUnmapped

def execAtomic (port : Nat) (m : FMsg) (s : State) : Out := .next (if s.fatal then s else s.ferReceive port m (fun m => m.kind == kAtomic) performAtomic)

/-- ATOMIC_RESP: the slot is free again (R447). -/
def performAtomicResp (c : RxCtx) (s : State) : RxEnd :=
  .done (s.updFer (fun f => { f with atomBusy := Tab.put false f.atomBusy (16 * c.m.src + bits (c.m.w 7) 3 0) false }))

def execAtomicResp (port : Nat) (m : FMsg) (s : State) : Out := .next (if s.fatal then s else s.ferReceive port m (fun m => m.kind == kAtomicResp) performAtomicResp)

/-- SIGNAL: applied at the signal's home after every lower seq. -/
def performSignal (c : RxCtx) (s : State) : RxEnd :=
  let m := c.m
  let sig := s.rxSig c (bits (m.w 5) 13 0)
  let op := bits (m.w 5) 17 16
  if m.len ≠ 0 ∨ 2 ≤ op ∨ bits (m.w 5) 31 18 ≠ 0 ∨ bits (m.w 5) 15 14 ≠ 0 ∨ m.w 7 ≠ 0 then .refuse s nMalformed
  else if !(s.fnSignal c.t sig && decide (sig < 16384)) then .refuse s nAccess
  else if !c.first then .hold s
  else .done (s.hubSignal (if op = 0 then .set else .add) sig (m.w 6) c.t .engine { node := hubN, unit := 0xF, tag := 0 })

def execSignal (port : Nat) (m : FMsg) (s : State) : Out := .next (if s.fatal then s else s.ferReceive port m (fun m => m.kind == kSignal) performSignal)

/-- QMSG: an uncredited message of a peer device for a cell's queue, answered there as R269 and R271 say. -/
def performQmsg (c : RxCtx) (s : State) : RxEnd :=
  let m := c.m
  let cell := bits (m.w 5) 11 0
  if m.len ≠ 32 ∨ bits (m.w 5) 31 12 ≠ 0 ∨ m.w 6 ≠ 0 ∨ m.w 7 ≠ 0 then .refuse s nMalformed
  else if c.al then .refuse s nAccess
  else if !c.first then .hold s
  else if !s.goodCell cell then .refuse s nAccess
  else
    let d := s.cell cell
    let hub := if c.port < 8 then hubN else hubS
    let nak := s.setCell cell (d.count .msgEvtNak 1)
    if d.owner = 0 ∨ d.owner = fenceTag then .refuse nak nFull
    else match (if c.t = 0 ∨ c.t = d.owner then d.msg else none) with
      | none =>
        .refuse (nak.record .msgRefused { noRec with node := cell, unit := 5, tenant := c.t, idx0 := hub, extra1 := SrcClass.engine.ctorIdx }) nAccess
      | some l =>
        let un := (l.inbox.filter (fun e => !e.2.2)).length
        if un + s.reserved cell < 16 then
          let p : Packet := { src := hub, dst := cell, tenant := c.t, cls := .engine, share := s.shareOf c.t, tag := 0
                              body := .msg 0 false m.src true ((m.data.drop 4).take 28) }
          .done (s.msgAccept cell l p 0 false m.src true ((m.data.drop 4).take 28))
        else .refuse nak nFull

def execQmsg (port : Nat) (m : FMsg) (s : State) : Out := .next (if s.fatal then s else s.ferReceive port m (fun m => m.kind == kQmsg) performQmsg)

/-! ### Collective fragments (R461, R466, R467) -/

def collPhase (m : FMsg) : Nat := bits (m.w 5) 27 26

/-- A fragment agrees with the active command. -/
def collAgrees (c : EngCmd) (k : CollSt) (m : FMsg) : Bool :=
  bits (m.w 5) 18 16 + 0x20 == c.op && bit (m.w 5) 19 == k.ordered && bits (m.w 5) 21 20 == c.redOp && bits (m.w 5) 25 22 == c.f 6 24 21
    && m.w 6 == k.no % 2 ^ 32

/-- A disagreement: the fragment is refused and the command fails. -/
def State.collMismatch (s : State) (e : Nat) (c : EngCmd) (k : CollSt) (m : FMsg) : State :=
  (s.record .collMismatch { noRec with unit := 6, node := hubS, tenant := s.engTenant c, job := c.jobOf, status := Status.badCommand.code
                                       idx0 := c.group, idx1 := m.src, code := k.no }).collEnd e c.id .badCommand

/-- A data fragment. -/
def performColl (c : RxCtx) (s : State) : RxEnd :=
  let m := c.m
  match s.grpOf (bits (m.w 5) 15 0) with
  | none => .refuse s nBusy
  | some g =>
    match s.collOn g with
    | none => .refuse s nBusy
    | some (e, cm, k) =>
      if !collAgrees cm k m || s.engTenant cm != c.t then .refuse (s.collMismatch e cm k m) nMalformed
      else match s.devRank g m.src with
        | none => .refuse s nMalformed
        | some peer =>
          let seg := bits (m.w 7) 11 0
          let frag := bits (m.w 7) 31 12
          let n := Tab.get 0 k.arrived peer
          if Tab.get 0 k.limitIn peer ≤ n then .refuse s nBusy
          else if !collFragOk cm k peer (collPhase m) seg frag m.len then .refuse s nMalformed
          else
            let s := (s.regAdd (rEng e 1) 1).updColl e cm.id (fun k => { k with arrived := Tab.put 0 k.arrived peer (n + 1), left := k.left - 1 })
            let s := if collPhase m = 0 then s.collReduce e cm k peer (bits (m.w 5) 28 28) seg frag m.data else s.collGather e cm k peer seg frag m.data
            .done (((s.collConsumed e cm.id peer).collPump e cm.id).collCheck e cm.id)

/-- A GRANT: the limit of fragments a peer accepts, kept also for a command not yet active. -/
def performGrant (c : RxCtx) (s : State) : RxEnd :=
  let m := c.m
  match s.grpOf (bits (m.w 5) 15 0) with
  | none => .refuse s nBusy
  | some g =>
    match s.devRank g m.src with
    | none => .refuse s nMalformed
    | some peer =>
      let s' := { s with grants := s.grants ++ [(g, m.w 6, peer, bits (m.w 7) 31 12)] }
      match s.collOn g with
      | none => if m.len ≠ 0 then .refuse s nMalformed else .done s'
      | some (e, cm, k) =>
        if m.len ≠ 0 then .refuse s nMalformed
        else if m.w 6 = k.no % 2 ^ 32 ∧ !collAgrees cm k m then .refuse (s.collMismatch e cm k m) nMalformed
        else .done ((s'.collPump e cm.id).collCheck e cm.id)

/-- COLL_FRAG_REDUCE. -/
def execCollFragReduce (port : Nat) (m : FMsg) (s : State) : Out :=
  .next (if s.fatal then s else s.ferReceive port m (fun m => m.kind == kColl && collPhase m == 0) performColl)

/-- COLL_FRAG_GATHER; a fragment of the reserved phase is refused with it. -/
def execCollFragGather (port : Nat) (m : FMsg) (s : State) : Out :=
  .next (if s.fatal then s else s.ferReceive port m (fun m => m.kind == kColl && (collPhase m == 1 || collPhase m == 3)) (fun c s =>
    if collPhase c.m = 3 then .refuse s nMalformed else performColl c s))

/-- COLL_GRANT. -/
def execCollGrant (port : Nat) (m : FMsg) (s : State) : Out :=
  .next (if s.fatal then s else s.ferReceive port m (fun m => m.kind == kColl && collPhase m == 2) performGrant)

/-! ### Settings (R442, R459, R694) -/

/-- FDOM_WRITE: a tenant is bound to a domain; a domain bound to another tenant is refused (R442, R692). -/
def execFdomWrite (tenant dom : Nat) (s : State) : Out :=
  .next (
    if s.fatal then s else
    if tenant = 0 ∨ 16 < tenant ∨ s.bar 3 = false then s
    else if dom % 65536 ≠ 0 ∧ ((List.range 16).map (· + 1)).any (fun t => t != tenant && s.reg (rFdom t) == dom % 65536) then
      s.setReg rFerStatus 1
    else s.setReg (rFdom tenant) (dom % 65536))

/-- A CE command that names a group entry is queued or active (R694). -/
def State.grpUsed (s : State) (i : Nat) : Bool :=
  s.engines.any (fun e => e.2.any (fun c => c.isColl && c.group == s.grpField i 4 15 0 && s.grpValid i))

/-- The refused bit of GRP_CTL. -/
def State.grpRefuse (s : State) (i : Nat) : State := s.setField (rGrp i 0) 2 2 1

/-- GRP_COMMIT: the rank table is read and checked, and the entry made valid or recorded (R459, R694). -/
def execGrpCommit (i : Nat) (h : HostIn) (s : State) : Out :=
  .next (
    if s.fatal then s else
    if 64 ≤ i ∨ s.bar 3 = false then s
    else if s.grpUsed i then s.grpRefuse i
    else
      let s := s.hostStores 0 h
      let n := s.grpSize i
      let rank := s.grpRank i
      let tbl := (List.range n).map (fun r => leNat (s.hostRead 0 (s.reg (rGrp i 0x10) + 2 * r) 2))
      let group := s.grpField i 4 15 0
      let other := (List.range 64).any (fun j => j != i && s.grpValid j && s.grpField j 4 15 0 == group)
      let ok := decide (1 ≤ n) && decide (n ≤ 4096) && decide (rank < n) && decide (s.grpField i 4 20 16 ≤ 16) && s.reg (rGrp i 0x10) % 64 == 0
        && tbl[rank]? == some s.fer.devId && tbl.eraseDups.length == tbl.length && !other && !h.fail
      let s := s.acctHost 0 (2 * n)
      if ok then
        let s := (s.setField (rGrp i 0) 0 0 1).setReg (rGrp i 0x18) 0
        { s with groups := Tab.put [] s.groups i tbl, grants := s.grants.filter (fun g => g.1 != i) }
      else
        let s : State := { (s.setField (rGrp i 0) 0 0 0) with groups := Tab.put [] s.groups i [] }
        s.record .collGroupReject
          { noRec with unit := 7, tenant := s.grpField i 4 20 16, idx0 := group, idx1 := i })

/-- GRP_CLEAR: a write of grp_valid 0 (R694). -/
def execGrpClear (i : Nat) (s : State) : Out :=
  .next (
    if s.fatal then s else
    if 64 ≤ i ∨ s.bar 3 = false then s
    else if s.grpUsed i then s.grpRefuse i
    else { (s.setField (rGrp i 0) 0 0 0) with groups := Tab.put [] s.groups i [], grants := s.grants.filter (fun g => g.1 != i) })

end Sys2Proof.Machine
end

