-- ==== Sys2Proof/Machine/Training.lean ====
section
/-!
DEFINITION. Sys2Proof/Machine/Training.lean: votes, decisions and reports that arrive (R415 to R419), and the export and
-/
namespace Sys2Proof.Machine
open Sys2Proof

/-! ### Gate messages (R416, R419) -/

/-- A child's vote at a gate: discarded, or held; then the combined vote goes on. -/
def State.gateVote (s : State) (al : Bool) (src : Nat) (v : Vote) : State :=
  match s.gateOf al with
  | none => s
  | some g =>
    if !g.set.kids.contains src || decide (v.step < g.c) || (v.step == g.c && (g.kid src v.step).isSome) then s
    else if g.c < v.step ∧ g.kids.any (fun k => k.1 == src && decide (g.c < k.2.step)) then
      s.record .gateStepMismatch { noRec with tenant := g.set.tenant, idx0 := src, extra0 := v.step }
    else (s.setGate al (some { g with kids := g.kids ++ [(src, v)] })).gateGo al

/-- The gate group of a message's payload and whether the message is a gate's in domain 0. -/
def gateMsgOk (c : RxCtx) (len : Nat) : Bool := c.m.len == len && c.t == 0 && c.m.w 5 == 0 && c.m.w 6 == 0 && c.m.w 7 == 0

def performVote (c : RxCtx) (s : State) : RxEnd :=
  let b := c.m.data
  if !gateMsgOk c 32 then .refuse s nMalformed
  else match s.gateOf c.al with
    | some g =>
      if leAt b 0 2 ≠ g.set.group then .done s
      else .done (s.gateVote c.al c.m.src { step := leAt b 8 8, ok := bit (leAt b 0 8) 16, voters := leAt b 4 2, sumsq := leAt b 16 4 })
    | none => .done s

/-- GATE_VOTE. -/
def execGateVote (port : Nat) (m : FMsg) (s : State) : Out := .next (if s.fatal then s else s.ferReceive port m (fun m => m.kind == kVote) performVote)

def performDecision (c : RxCtx) (s : State) : RxEnd :=
  let b := c.m.data
  if !gateMsgOk c 32 then .refuse s nMalformed
  else match s.gateOf c.al with
    | some g =>
      if leAt b 0 2 ≠ g.set.group ∨ c.m.src ≠ g.set.parent ∨ s.gateRoot c.al g ∨ leAt b 8 8 ≠ g.c then .done s
      else
        let d : Decision := { step := g.c, skip := leAt b 4 1 != 0, cause := leAt b 5 1, voters := leAt b 6 2, gsumsq := leAt b 16 4 }
        .done ((s.gateDecided c.al g d).gateGo c.al)
    | none => .done s

/-- GATE_DECISION. -/
def execGateDecision (port : Nat) (m : FMsg) (s : State) : Out :=
  .next (if s.fatal then s else s.ferReceive port m (fun m => m.kind == kDecision) performDecision)

/-- A report at the root names its silent modules; at another module it goes on to the parent (log 42). -/
def performReport (c : RxCtx) (s : State) : RxEnd :=
  let b := c.m.data
  let n := leAt b 4 1
  if !gateMsgOk c 64 || decide (n = 0) || decide (17 < n) then .refuse s nMalformed
  else match s.gateOf c.al with
    | some g =>
      if leAt b 0 2 ≠ g.set.group then .done s
      else if s.gateRoot c.al g then .done (s.gateSilent g ((List.range n).map (fun i => leAt b (16 + 2 * i) 2)) (leAt b 8 8))
      else .done (s.gateSend c.al g kReport g.set.parent b)
    | none => .done s

/-- GATE_REPORT. -/
def execGateReport (port : Nat) (m : FMsg) (s : State) : Out :=
  .next (if s.fatal then s else s.ferReceive port m (fun m => m.kind == kReport) performReport)

/-! ### EXPORT_SHARD (R423 to R425) -/

/-- The descriptor of an export or import. -/
structure ShardJob where
  count : Nat
  mask : Nat
  z : Option Nat
  regen : Bool
  space : Nat
  list : Nat
  addr : Nat
  cap : Nat
  report : Nat
  deriving DecidableEq, Repr

/-- The descriptor read from its 64 bytes; none where it is malformed. A listed field that the command does not use (EXPORT: regen_wk
and report_tva, and z_level with z_en 0; IMPORT: z_en and z_level) may hold anything (log 91). -/
def shardJob (export_ : Bool) (bs : List Byte) : Option ShardJob :=
  let d := words bs
  let w := fun (i : Nat) => d.getD i 0
  let zEn := bit (w 0) 23
  let lvl := bits (w 0) 28 24
  let sp := bits (w 0) 31 30
  let rep := w 7 + 2 ^ 32 * w 8
  let ok := decide (1 ≤ bits (w 0) 15 0) && (sp == 0 || sp == 2) && decide (w 2 < 2 ^ 16) && (sp != 0 || decide (w 4 < 2 ^ 16))
    && (!export_ || !zEn || decide (1 ≤ lvl) && decide (lvl ≤ 12)) && decide (w 8 < 2 ^ 16) && (export_ || rep % 64 == 0)
    && [9, 10, 11, 12, 13, 14, 15].all (fun i => w i == 0)
  if ok then some { count := bits (w 0) 15 0, mask := bits (w 0) 22 16, z := if export_ && zEn then some lvl else none, regen := bit (w 0) 29
                    space := sp, list := w 1 + 2 ^ 32 * w 2, addr := w 3 + 2 ^ 32 * w 4, cap := w 5 + 2 ^ 32 * w 6, report := rep }
  else none

/-- The accesses of a job's shard work are those of an engine. -/
def shardCmd (slot : Nat) : EngCmd := { job := slot, task := 0, cmd := [] }

/-- The listed shards, or the status that stops the job. -/
def State.listedShards (s : State) (slot : Nat) (j : ShardJob) : State × EngEnd × List Shard :=
  match s.engRead (shardCmd slot) ⟨[], false⟩ 0 j.list (8 * j.count) with
  | (s, some st, _) => (s, some st, [])
  | (s, none, bs) =>
    (List.range j.count).foldl (fun (a : State × EngEnd × List Shard) i =>
      match a.2.1 with
      | some _ => a
      | none =>
        let tva := leAt bs (8 * i) 8
        match a.1.engRead (shardCmd slot) ⟨[], false⟩ 0 tva 128 with
        | (s, none, d) =>
          let d := shardOf tva d
          if tva % 64 = 0 ∧ d.ok (s.feature 3) (s.feature 4) then (s, none, a.2.2 ++ [d]) else (s, some .badCommand, [])
        | (s, e, _) => (s, e, [])) (s, none, [])

/-- The records of one shard in ascending component code. DESIGN CHOICE (log 96): a descriptor names no rule, so every selected component
that the shard has is written. -/
def State.exportShard (s : State) (slot : Nat) (j : ShardJob) (d : Shard) : State × EngEnd × List (List Byte) :=
  let comps := ((List.range 7).map (· + 1)).filter (fun k => bit j.mask (k - 1) && (k != 6 || d.block != 1))
  comps.foldl (fun (a : State × EngEnd × List (List Byte)) k =>
    match a.2.1 with
    | some _ => a
    | none =>
      let ((tva, len), fmt) := d.component k
      match a.1.engRead (shardCmd slot) ⟨[], false⟩ 0 tva len with
      | (s, none, pay) => (s, none, a.2.2 ++ [d.exportRecord (s.feature 11) j.z k fmt pay])
      | (s, e, _) => (s, e, [])) (s, none, [])

/-- A job of this chapter ends with a status. -/
def State.shardEnd (s : State) (slot : Nat) (st : Status) : State :=
  if st = .ok then s.updJob slot (fun j => { j with endGc := s.gc }) else s.stopJob (some slot) st 0

/-- Records written one behind the other while they fit. -/
def State.writeStream (s : State) (slot : Nat) (j : ShardJob) : Nat → List (List Byte) → State × EngEnd
  | _, [] => (s, none)
  | at_, r :: rest =>
    if j.cap < at_ + r.length then (s, some .overflowFault)
    else match s.engWrite (shardCmd slot) j.space (j.addr + at_) r with
      | (s, none) => s.writeStream slot j (at_ + r.length) rest
      | (s, e) => (s, e)

/-- The export of a job in its slot. -/
def State.exportRun (s : State) (slot : Nat) (j : ShardJob) : State :=
  match s.listedShards slot j with
  | (s, some st, _) => s.shardEnd slot st
  | (s, none, ds) =>
    let (s, e, recs) := ds.foldl (fun (a : State × EngEnd × List (List Byte)) d =>
      match a.2.1 with
      | some _ => a
      | none => let (s, e, rs) := a.1.exportShard slot j d; (s, e, a.2.2 ++ rs)) (s, none, [])
    match e with
    | some st => s.shardEnd slot st
    | none =>
      let len := (recs.map List.length).sum + 128
      let (s, e) := s.writeStream slot j 0 (recs ++ [exportEnd recs.length len])
      s.shardEnd slot (e.getD .ok)

/-- Admission of an export or import, then its work. -/
def State.shardAdmit (s : State) (fn ring op : Nat) (h : HostIn) (run : ShardJob → Nat → State → State) : State :=
    s.executePay fn (ring % 8) op 64 h (fun c bs s =>
      let slot := c.slot.getD 0
      match shardJob (op == 0xA) bs with
      | none => s.bad c detMalformed
      | some j =>
        if j.z.isSome ∧ !s.feature 14 then s.bad c detFeature
        else
          let s := s.admitJob c slot (s.newJob c)
          if (s.job? slot).isSome then run j slot s else s)

/-- EXPORT_SHARD. -/
def execExportShard (fn ring : Nat) (h : HostIn) (s : State) : Out :=
  .next (if s.fatal then s else s.shardAdmit fn ring 0xA h (fun j slot s => s.exportRun slot j))

/-! ### IMPORT_SHARD (R426, R427) -/

/-- Counts of an import's report. -/
structure Imported where
  read : Nat := 0
  applied : Nat := 0
  skipped : Nat := 0
  restarted : Nat := 0
  elems : Nat := 0
  deriving DecidableEq, Repr

/-- A record read from a stream. -/
structure ShardRec where
  hdr : List Byte
  pay : List Byte
  deriving DecidableEq, Repr

namespace ShardRec
def comp (r : ShardRec) : Nat := byteAt r.hdr 6
def fmt (r : ShardRec) : Nat := byteAt r.hdr 7
def tensor (r : ShardRec) : Nat := leAt r.hdr 8 4
def shard (r : ShardRec) : Nat := leAt r.hdr 12 4
def rect (r : ShardRec) : Nat × Nat × Nat × Nat := (leAt r.hdr 16 4, leAt r.hdr 20 4, leAt r.hdr 24 4, leAt r.hdr 28 4)
def coords (r : ShardRec) : Bool := bit (leAt r.hdr 64 4) 1
end ShardRec

/-- A header is well formed (R424). -/
def recHeaderOk (h : List Byte) : Bool :=
  leAt h 0 4 == 0x5A395852 && leAt h 4 2 == 1 && (byteAt h 6 == 0x7F || (decide (1 ≤ byteAt h 6) && decide (byteAt h 6 ≤ 7)))
    && (byteAt h 6 == 0x7F || (byteAt h 7 / 64 == 0 && decide (leAt h 64 4 < 4) && zeros ((h.drop 68).take 12)))

/-- What a record does to one shard: the bytes written, the elements, and whether vectors restart; none where it is
skipped. -/
def Shard.apply (d : Shard) (rect : Bool) (r : ShardRec) (old : List Byte) : Option (List Byte × Nat × Bool) :=
  let ((_, len), fmt) := d.component r.comp
  let f := (Fmt.ofCode (fmt % 16)).getD .fp32
  let whole := some (r.pay, len * 8 / f.width, false)
  if !rect then (if r.tensor = d.tensor ∧ r.shard = d.w 2 ∧ r.pay.length = len then whole else none)
  else if r.tensor ≠ d.tensor then none
  else
    let same := r.rect == (d.rowFirst, d.rows, d.colFirst, d.cols)
    if r.comp = 1 ∨ r.comp = 2 ∨ r.comp = 7 then
      if r.fmt ≠ fmt ∨ r.pay.length ≠ elemBytes f (r.rect.2.1 * r.rect.2.2.2) then none
      else
        let (bs, n) := d.copyRect f.width r.rect r.pay old
        if n = 0 then none else some (bs, n, false)
    else if same then (if r.fmt = fmt ∧ r.pay.length = len then whole else none)
    else if r.comp = 3 ∨ r.comp = 4 then some ([], 0, true)
    else none

/-- A record applied to the listed shards. -/
def State.importRecord (s : State) (slot : Nat) (ds : List Shard) (r : ShardRec) (t : Imported) : State × EngEnd × Imported :=
  let rect := r.coords && s.feature 11
  let good := sha384 r.pay == (r.hdr.drop 80).take 48
  let (s, e, n) := ds.foldl (fun (a : State × EngEnd × Imported) d =>
    match a.2.1 with
    | some _ => a
    | none =>
      let (s, _, t) := a
      let ((tva, len), _) := d.component r.comp
      if (d.apply rect r []).isNone then (s, none, t)
      else match s.engRead (shardCmd slot) ⟨[], false⟩ 0 tva len with
      | (s, some e, _) => (s, some e, t)
      | (s, none, old) =>
        match d.apply rect r old with
        | none => (s, none, t)
        | some (_, _, true) =>
          let (s, e1) := s.engWrite (shardCmd slot) 0 d.rowV.1 (List.replicate d.rowV.2 0#8)
          let (s, e2) := s.engWrite (shardCmd slot) 0 d.colV.1 (List.replicate d.colV.2 0#8)
          (s, e1 <|> e2, { t with restarted := t.restarted + 1 })
        | some (bs, k, false) =>
          let (i, s) := if good then (0, s) else s.drawFree
          let (s, e) := s.engWrite (shardCmd slot) 0 tva (if good then bs else Config.freeBytes i bs.length)
          (s, e, { t with applied := t.applied + 1, elems := t.elems + k })) (s, none, { t with applied := 0, restarted := 0 })
  let hit := decide (0 < n.applied + n.restarted)
  let n := { n with read := t.read + 1, applied := t.applied + (decide (0 < n.applied)).toNat, restarted := t.restarted + n.restarted
                    skipped := t.skipped + (!hit).toNat }
  (s, if e.isNone && !good then some .authFail else e, n)

/-- The working copy of a shard converted from its master copy under RNE (R426). -/
def State.regenWork (s : State) (slot : Nat) (d : Shard) : State × EngEnd :=
  match s.engRead (shardCmd slot) ⟨[], false⟩ 0 d.master.1 d.master.2 with
  | (s, some e, _) => (s, some e)
  | (s, none, w) =>
    let (kb, ks, _) := d.workBytes .rne (bit (d.w 0) 9) (fun _ => 0) ((fwArray .fp32 d.n w).map Prod.fst)
    let (s, e1) := s.engWrite (shardCmd slot) 0 d.working.1 kb
    let (s, e2) := s.engWrite (shardCmd slot) 0 d.scales.1 ks
    (s, e1 <|> e2)

/-- Records read in order until END; the number bounds them. -/
def State.importLoop (slot : Nat) (h : HostIn) (j : ShardJob) (ds : List Shard) :
    Nat → Nat → Imported → State → State × EngEnd × Imported
  | 0, _, t, s => (s, some .badCommand, t)
  | n + 1, at_, t, s =>
    if j.cap < at_ + 128 then (s, some .badCommand, t)
    else match s.engRead (shardCmd slot) h j.space (j.addr + at_) 128 with
      | (s, some e, _) => (s, some e, t)
      | (s, none, hdr) =>
        if !recHeaderOk hdr then (s, some .badCommand, t)
        else if byteAt hdr 6 = 0x7F then (s, none, t)
        else
          let stored := leAt hdr 56 8
          if j.cap < at_ + 128 + roundUp stored 64 then (s, some .badCommand, t)
          else match s.engRead (shardCmd slot) h j.space (j.addr + at_ + 128) stored with
            | (s, some e, _) => (s, some e, t)
            | (s, none, body) =>
              let z := bit (leAt hdr 64 4) 0
              let (code, pay) := if z then Config.zstdContent body else (0, body)
              if code = 3 then (s, some .authFail, t)
              else if code ≠ 0 ∨ pay.length ≠ leAt hdr 48 8 then (s, some .badCommand, t)
              else match s.importRecord slot ds { hdr := hdr, pay := pay } t with
                | (s, none, t) => s.importLoop slot h j ds n (at_ + 128 + roundUp stored 64) t
                | r => r

/-- The import of a job in its slot. -/
def State.importRun (s : State) (slot : Nat) (h : HostIn) (j : ShardJob) : State :=
  match s.listedShards slot j with
  | (s, some st, _) => s.shardEnd slot st
  | (s, none, ds) =>
    match s.importLoop slot h j ds (j.cap / 128 + 1) 0 {} with
    | (s, some st, _) => s.shardEnd slot st
    | (s, none, t) =>
      let (s, e) := if j.regen then ds.foldl (fun (a : State × EngEnd) d => match a.2 with
          | some _ => a
          | none => a.1.regenWork slot d) (s, none) else (s, none)
      match e with
      | some st => s.shardEnd slot st
      | none =>
        let rep := [t.read, t.applied, t.skipped, t.restarted, t.elems].flatMap (leBytes 8) ++ List.replicate 24 0#8
        let (s, e) := s.engWrite (shardCmd slot) 0 j.report rep
        s.shardEnd slot (e.getD .ok)

/-- IMPORT_SHARD. -/
def execImportShard (fn ring : Nat) (h : HostIn) (s : State) : Out :=
  .next (if s.fatal then s else s.shardAdmit fn ring 0xB h (fun j slot s => s.importRun slot h j))

end Sys2Proof.Machine
end

