-- ==== Sys2Proof/Machine/Tether.lean ====
section
/-!
DEFINITION. Sys2Proof/Machine/Tether.lean: the tethered pair (R470 to R484): TETHER_CTL's operations, heartbeats, the
declaration of the partner's failure and the takeover of its ID.
-/
namespace Sys2Proof.Machine
open Sys2Proof

/-! ### TETHER_CTL (R471) -/

/-- The payload's words; the bits each operation uses. -/
def tethMask (op i : Nat) : Nat :=
  match op, i with
  | 0, 0 => 0x1F07
  | _, 0 => 7
  | 0, 1 => 0xFFF
  | 0, 2 | 0, 6 | 0, 10 => 0xFFFFFFFF
  | 0, 3 | 0, 7 | 0, 11 | 0, 8 => 0xFFFF
  | 0, 4 | 0, 12 => 0x3FFF
  | 0, 5 => 0x7FFFFFF
  | 2, 6 | 2, 10 => 0xFFFFFFFF
  | 2, 7 | 2, 11 | 2, 8 => 0xFFFF
  | 2, 9 => 0x3FFF3FFF
  | _, _ => 0

/-- No reserved bit is set. -/
def tethPlain (op : Nat) (ws : List Nat) : Bool :=
  (List.range 16).all (fun i => (ws.getD i 0) &&& tethMask op i == ws.getD i 0)

/-- The next entry of a ring is a TETHER_CTL of operation `op`: run; one that no operation owns (reserved, unreadable) is
refused by whichever row comes first. -/
def State.tethEntry (s : State) (fn ring op : Nat) (h : HostIn) (run : Cmd → List Nat → State → State) : State :=
  let mine := match s.nextCmd fn ring 0xF with
    | none => false
    | some c => (match c.breaks, (s.hostStores fn h).payload c h c.payPtr 64 with
        | none, .ok bs => bits (leAt bs 0 4) 2 0 == op || decide (5 ≤ bits (leAt bs 0 4) 2 0)
        | _, _ => true)
  if !mine then s
  else s.executePay fn ring 0xF 64 h (fun c bs s =>
    let ws := words bs
    if !s.feature 6 then s.bad c detFeature
    else if 5 ≤ bits (ws.getD 0 0) 2 0 ∨ !tethPlain op ws then s.bad c detReserved
    else run c ws s)

/-- The arrays, descriptor and hyperparameter block of a list entry. -/
def State.listRanges (s : State) (t : Nat) (bs : List Byte) : List (Nat × Nat) :=
  let c := listCmd bs
  (s.listShard t bs).arrays c.rule ++ [(c.a64 7, 128), (c.a64 9, 64)]

/-- Entries of a mirror list, where they are UPDATEs whose descriptor and arrays can be read (R472). -/
def State.mirrorList (s : State) (t tva n : Nat) : Except Nat (List (List Byte)) :=
  if s.tvaCheck t tva (64 * n) false ≠ .ok then .error detTranslate
  else
    let bs := s.tvaBytes t tva (64 * n)
    let es := (List.range n).map (fun i => (bs.drop (64 * i)).take 64)
    let good := fun (b : List Byte) => (listCmd b).op == 0x80 && (listCmd b).rule != 3 && s.tvaCheck t ((listCmd b).a64 7) 128 false == .ok
    if !es.all good then .error detMalformed
    else if es.all (fun b => (s.listRanges t b).all (fun r => s.tvaCheck t r.1 (roundUp r.2 16) false == .ok)) then .ok es
    else .error detTranslate

/-- The fields of FORM are in range. -/
def State.formGood (s : State) (ws : List Nat) : Bool :=
  let w := fun (i : Nat) => ws.getD i 0
  let t := bits (w 0) 12 8
  let hb := bits (w 5) 15 0
  let miss := bits (w 5) 23 16
  decide (1 ≤ t) && decide (t ≤ 16) && s.present t && (w 2 + 2 ^ 32 * w 3) % 2 ^ 21 == 0
    && (hb == 0 || (decide (100 ≤ hb) && decide (hb ≤ 10000))) && miss != 1 && s.ferGood t (bits (w 5) 26 24) 16
    && decide (1 ≤ w 8) && decide (w 8 ≤ 4096) && s.tether.unpaired

/-- TETHER_FORM (R471, R472): every array of every listed shard goes to the partner, then the gate record. -/
def execTetherForm (fn ring : Nat) (h : HostIn) (s : State) : Out :=
  .next (if s.fatal then s else s.tethEntry fn ring 0 h (fun c ws s =>
    let w := fun (i : Nat) => ws.getD i 0
    let a := fun (i : Nat) => w i + 2 ^ 32 * w (i + 1)
    let t := bits (w 0) 12 8
    if !s.formGood ws then s.bad c detMalformed
    else match s.mirrorList t (a 6) (w 8) with
      | .error d => s.bad c d
      | .ok es =>
        let pick := fun (x d : Nat) => if x = 0 then d else x
        let s := { (s.tvaTouch t (a 6) (64 * w 8)).running c with tether :=
          { st := .forming, tenant := t, partner := w 1, mirrorOff := a 2, sigOff := w 4, hbUs := pick (bits (w 5) 15 0) 1000
            hbMiss := pick (bits (w 5) 23 16) 8, tc := bits (w 5) 26 24, list := es, reportTva := a 10, reportSig := w 12, cmd := some c.id
            hbGc := s.gc } }
        s.tetherPut .copy (es.flatMap (s.listRanges t))))

/-- The alias returned to the switch: its gate ends and nothing more is sent as it. -/
def State.dropAlias (s : State) : State :=
  let s := s.updFer (fun f => { f with alias_ := none, wait := f.wait.filter (fun o => !o.alias_), out := f.out.filter (fun o => !o.alias_)
                                       streams := f.streams.filter (fun x => some x.dst != f.alias_) })
  s.setGate true none

/-- The pair ends: what FORM or RESYNC still runs completes with CANCELLED, and mirror UPDATEs not yet active are dropped
(R484, log 44). -/
def State.tetherDissolve (s : State) : State :=
  let s := (s.tetherFinish s.tether.cmd .cancelled).resyncFail .cancelled
  let s := { s.dropAlias with tether := {} }
  { s with engines := Tab.update [] s.engines (fun _ q => q.filter (fun (x : EngCmd) => x.mirror.isNone || x.active)) }

/-- TETHER_DISSOLVE (R484): the pair ends from any state; a FORM or RESYNC still running completes with CANCELLED, and
mirror UPDATEs not yet active are dropped (log 44). -/
def execTetherDissolve (fn ring : Nat) (h : HostIn) (s : State) : Out :=
  .next (if s.fatal then s else s.tethEntry fn ring 1 h (fun c _ s =>
    s.tetherDissolve.finish c .ok 0))

/-- TETHER_ADOPT (R482): the alias gate gets its contribution table, signals and decision record, and votes. -/
def execTetherAdopt (fn ring : Nat) (h : HostIn) (s : State) : Out :=
  .next (if s.fatal then s else s.tethEntry fn ring 2 h (fun c ws s =>
    let w := fun (i : Nat) => ws.getD i 0
    let a := fun (i : Nat) => w i + 2 ^ 32 * w (i + 1)
    match s.tether.st, s.aliasGate with
    | .holdingAlias, some g =>
      let set := { g.set with contribTva := a 6, contribCount := w 8, contribSig := bits (w 9) 13 0, decideSig := bits (w 9) 29 16, decideTva := a 10 }
      if s.gateSetOk set then (s.setGate true (some { g with set := set, votes := true })).finish c .ok 0 else s.bad c detMalformed
    | _, _ => s.bad c detMalformed))

/-- A tethered UPDATE is queued or active. -/
def State.tethUpdate (s : State) : Bool := s.engines.any (fun e => e.2.any (fun c => c.tetherEn && c.mirror.isNone))

/-- A GET of a mirror's bytes. -/
def State.mirrorGet (s : State) (tva len : Nat) : State :=
  let t := s.tether
  let tag := s.fer.reqTag
  let s := s.updFer (fun f => { f with reqTag := (tag + 1) % 2 ^ 32, gets := f.gets ++ [{ tag := tag, dst := t.partner, use := .mirror tva }] })
  let a := tva + t.mirrorOff
  s.ferSend false .resync t.tenant kGet t.tc t.partner (a % 2 ^ 32) (a / 2 ^ 32 % 2 ^ 16) tag (leBytes 4 len ++ List.replicate 12 0#8)

/-- TETHER_RESYNC (R483): every array of every listed shard is read back from the partner's mirror. -/
def execTetherResync (fn ring : Nat) (h : HostIn) (s : State) : Out :=
  .next (if s.fatal then s else s.tethEntry fn ring 3 h (fun c _ s =>
    if s.tether.st ≠ .paired ∨ s.tethUpdate ∨ s.tether.resync.isSome then s.bad c detMalformed
    else
      let s := (s.running c).updTether (fun t => { t with resync := some c.id })
      let rs := s.tether.list.flatMap (fun b => (s.listShard s.tether.tenant b).arrays (listCmd b).rule)
      let pieces := rs.flatMap (fun r => (List.range (ceilDiv r.2 16384)).map (fun i => (r.1 + 16384 * i, min 16384 (roundUp r.2 16 - 16384 * i))))
      (pieces.foldl (fun s p => s.mirrorGet p.1 p.2) s).resyncCheck))

/-- TETHER_RELEASE (R484): the alias goes back and the module is SOLO. -/
def execTetherRelease (fn ring : Nat) (h : HostIn) (s : State) : Out :=
  .next (if s.fatal then s else s.tethEntry fn ring 4 h (fun c _ s =>
    if s.tether.st ≠ .holdingAlias ∧ s.tether.st ≠ .catchingUp then s.bad c detMalformed
    else (s.dropAlias.updTether (fun t => { t with st := .solo, claiming := false, refusedGc := none })).finish c .ok 0))

/-! ### Heartbeats and declaration (R477, R478) -/

/-- The states in which a module sends heartbeats. -/
def TethSt.beats (t : TethSt) : Bool := t == .paired || t == .holdingAlias || t == .catchingUp

/-- One heartbeat on each UP tether port and on the fabric port of R451. -/
def State.heartbeat (s : State) : State :=
  let t := s.tether
  let st := if s.fatal then 1 else if 3 ≤ s.sag then 2 else 0
  let pay := leBytes 2 s.fer.devId ++ leBytes 1 st ++ leBytes 1 0 ++ leBytes 2 s.fer.epoch ++ leBytes 2 0 ++ leBytes 8 t.lastStep
  let m := ferMsg kHeartbeat 7 t.partner s.fer.devId 0 s.fer.epoch 0 0 0 pay
  let up := fun p => (s.port p).st.isUp
  let fabric := (List.range 16).filter (fun p => up p && !(s.tetherPorts && decide (14 ≤ p)))
  let own := if s.tetherPorts then [14, 15].filter up else []
  let ports := own ++ (fabric[(t.partner + 21) % max 1 fabric.length]?).toList
  (ports.foldl (fun s p => s.emit p m) s).updTether (fun t => { t with hbSent := s.gc })

/-- HEARTBEAT_SEND: every hb_us. -/
def execHeartbeatSend (s : State) : Out :=
  .next (if !s.tether.st.beats || s.fatal || decide (s.gc < s.tether.hbSent + 1000 * s.tether.hbUs) then s else s.heartbeat)

/-- The partner is declared failed: tethered UPDATEs that wait for a report complete, and its ID is claimed (R478, R479). -/
def State.declarePartner (s : State) : State :=
  let t := s.tether
  let steps := s.engines.flatMap (fun e => (e.2.filter (fun c => c.tetherEn && c.mirror.isNone)).map (fun c => (c.stepNo, Status.ok.code)))
  let s := s.updTether (fun t => { t with st := .solo, claiming := true, refusedGc := none, failing := false, reports := t.reports ++ steps })
  s.record .tetherPartnerFailed { noRec with unit := 7, tenant := t.tenant, idx0 := t.partner, extra0 := t.peerStep }

/-- Why a PAIRED module would declare now. -/
def State.partnerSilent (s : State) : Bool :=
  let t := s.tether
  t.failing || decide ((t.hbGc + if t.shedding then 1000000000 else 1000 * t.hbUs * t.hbMiss) ≤ s.gc)

/-- PARTNER_DECLARE: no heartbeat for the limit, or one that told of failure; not in supply-sag stage S3 or later. -/
def execPartnerDeclare (s : State) : Out :=
  .next (if s.fatal then s else if s.tether.st = .paired ∧ s.sag < 3 ∧ s.partnerSilent then s.declarePartner else s)

/-- HEARTBEAT from the partner (R452, R477 to R479). -/
def execHeartbeat (port : Nat) (m : FMsg) (s : State) : Out :=
  .next (
    if s.fatal then s else
    if !s.ferOpen port || m.kind != kHeartbeat || !s.ferMine m then s
    else
      let s := s.takeRx port m
      if s.stray port m then s.record .ferTetherStray { noRec with unit := 7, idx0 := m.src, idx1 := port }
      else if s.tether.st = .none ∨ m.src ≠ s.tether.partner ∨ m.len ≠ 16 ∨ m.data.length ≠ 16 then s
      else
        let st := leAt m.data 2 1
        let ep := leAt m.data 4 2
        let same := s.tether.peerEpoch == some ep
        let bad := st == 1 || (s.tether.peerEpoch.isSome && !same)
        let s := s.updTether (fun t => { t with hbGc := s.gc, shedding := st == 2, peerLast := ep, peerStep := leAt m.data 8 8
                                                failing := t.failing || bad })
        if s.tether.st = .paired then (if s.tether.failing ∧ s.sag < 3 then s.declarePartner else s)
        else if s.tether.claiming ∧ !bad then
          (s.updTether (fun t => { t with st := .paired, claiming := false, refusedGc := none, failing := false })).record .tetherPartnerReturned
            { noRec with unit := 7, tenant := s.tether.tenant, idx0 := m.src }
        else s)

/-! ### Takeover (R479, R480, R482) -/

/-- ALIAS_CLAIM_RESPONSE: on a grant the module answers for the partner's ID under a new epoch; a refusal is recorded. -/
def execAliasClaimResponse (granted : Bool) (s : State) : Out :=
  .next (
    if s.fatal then s else
    let t := s.tether
    if !t.claiming || t.refusedGc.isSome then s
    else if granted then
      let last := if t.peerLast = 0 then t.peerEpoch.getD 0 else t.peerLast
      (s.updFer (fun f => { f with alias_ := some t.partner, aliasEpoch := if 65535 ≤ last then 1 else last + 1
                                   streams := f.streams.filter (fun x => x.dst != t.partner)
                                   nextSeq := f.nextSeq.filter (fun e => decide (e.1 < 2 ^ 15)) })).updTether
        (fun t => { t with st := .catchingUp, claiming := false })
    else (s.updTether (fun t => { t with refusedGc := some s.gc })).record .tetherClaimRefused
      { noRec with unit := 7, tenant := t.tenant, idx0 := t.partner })

/-- CLAIM_RETRY: 10 ms after a refusal the claim is made again. -/
def execClaimRetry (s : State) : Out :=
  .next (if s.fatal then s else match s.tether.refusedGc with
    | some g => if s.tether.claiming ∧ g + 10000000 ≤ s.gc then s.updTether (fun t => { t with refusedGc := none }) else s
    | none => s)

/-- CATCH_UP_DONE: with every mirror UPDATE complete the alias gate starts and the module holds the alias. -/
def execCatchUpDone (s : State) : Out :=
  .next (
    if s.fatal then s else
    let t := s.tether
    if t.st ≠ .catchingUp ∨ t.mirrors ≠ [] then s
    else
      let g := t.peer.bind (fun p => p.gate.map (fun g => ({ set := { g with tenant := t.tenant }, c := p.c, v := p.v, votes := false } : Gate)))
      ((s.setGate true g).updTether (fun t => { t with st := .holdingAlias })).record .tetherTakeover
        { noRec with unit := 7, tenant := t.tenant, idx0 := t.partner })

end Sys2Proof.Machine
end

