-- ==== Sys2Proof/Machine/EngineRun.lean ====
section
/-!
DEFINITION. Sys2Proof/Machine/EngineRun.lean: an engine's commands placed, activated, performed chunk by chunk and completed
(R337 to R350); one row for each engine opcode.
-/
namespace Sys2Proof.Machine
open Sys2Proof

/-! ### Placement and activation (R339, R342, R461) -/

/-- ENG_CMD reaches Hub S: the header is checked and the command takes an entry of its engine's queue; a CE command gets
its group's next collective number; its wait is sent. -/
def execEngCmd (p : Packet) (s : State) : Out :=
  .next (
    if s.fatal then s else
    match p.body with
    | .engCmd e job task cmd =>
      if p.dst ≠ hubS || decide (36 ≤ e) || !(s.job? job).isSome then s
      else s.arrive p (fun s =>
        let t := s.jobTenant job
        let c : EngCmd := { id := s.cmdCtr, job := job, task := task, cmd := cmd }
        let s := s.send (s.respTo p (.opDone .ok))
        let zstd := opClass c.op == 5 && !s.feature 14
        if !s.headerGood t e c || zstd then
          let s := if zstd then s.updJob job (fun j => { j with detail := some detFeature }) else s
          s.stopJob (some job) .badCommand 0
        else
          let grp := if c.isColl then s.grpFor t c.group else none
          let (no, s) := match grp with
            | some i => (s.reg (rGrp i 0x18), s.regAdd (rGrp i 0x18) 1)
            | none => (0, s)
          let c := { c with ready := !c.waitEn, collNo := no }
          let s := { s with cmdCtr := s.cmdCtr + 1 }
          let s := s.setEngine e (s.engine e ++ [c])
          if c.waitEn then s.engWait c else s)
    | _ => s)

/-- A collective waits for the one before it on its group. -/
def State.collTurn (s : State) (c : EngCmd) : Bool :=
  !c.isColl || s.engines.all (fun e => e.2.all (fun d => !(d.isColl && d.group == c.group && s.engTenant d == s.engTenant c
    && decide (d.collNo < c.collNo))))

/-- A command's job is stopping; a mirror UPDATE has no job. -/
def State.engStopped (s : State) (c : EngCmd) : Option Status :=
  match c.jobOf.bind s.job? with
  | some j => j.stop.map StopCause.status
  | none => none

/-- The progress of a collective at activation. -/
def State.collInit (s : State) (c : EngCmd) : Option CollSt :=
  if !c.isColl then none
  else (s.grpFor (s.engTenant c) c.group).map (fun i =>
    let k : CollSt := { grp := i, no := c.collNo, n := s.grpSize i, rank := s.grpRank i, ordered := s.feature 5 }
    { k with left := collExpects c k })

/-- Two commands are active at once in one tenant's memory; a tenant's mirror UPDATEs follow each other by their steps (R474) (log 90). -/
def State.beside (s : State) (c d : EngCmd) : Bool :=
  d.active && d.id != c.id && c.mirror.isNone && d.mirror.isNone && s.engTenant d == s.engTenant c

/-- ENGINE_ACTIVATE: the eligible command placed earliest takes a free active slot; its body is checked. -/
def execEngineActivate (engine : Nat) (s : State) : Out :=
  .next (
    if s.fatal then s else
    let e := engine
    match (s.engine e).find? (fun c => c.ready && !c.active && c.fin.isNone && (s.engStopped c).isNone && s.activeRoom e c && s.collTurn c) with
    | none => s
    | some c =>
      if s.engineHeld e then s
      else
        let extra := if c.isColl then s.ceGood c else s.oeGood c
        let (bad, key) := s.bodyCheck c extra
        let (bad, dec) := match bad with
          | some st => (some st, c.decision)
          | none => (match s.gateLookup c with
            | .error st => (some st, none)
            | .ok d => (none, d))
        let c := { c with active := true, order := s.cmdCtr, start := s.gc, key := key, decision := dec
                          others := s.engines.flatMap (fun x => (x.2.filter (s.beside c)).flatMap EngCmd.wrote)
                          fin := bad.map (fun st => (st.code, 0)), coll := if bad.isNone then s.collInit c else none }
        let s := { s with cmdCtr := s.cmdCtr + 1 }
        let s := (s.updEng e c.id (fun _ => c)).traceEv 6 (s.engTenant c) c.job [e, c.op, 0]
        if c.coll.isSome then s.collActivate e c else s)

/-! ### Chunks (R343 to R345) -/

/-- The bytes two ranges share. -/
def meet (a n b m : Nat) : Bool := decide (max a b < min (a + n) (b + m))

/-- A source and a destination of a command overlap; SORT and UPDATE work in place, and the auxiliary block of a GCM
command holds what it reads and writes (R351) (log 90). -/
def Plan.overlaps (p : Plan) (c : EngCmd) : Bool :=
  c.op != 0x40 && c.op != 0x80 &&
    p.reads.any (fun r => !(opClass c.op == 6 && r.2.1 == c.a64 12 && r.2.2 == 64) && p.writes.any (fun w => w.1 == r.1 && meet r.2.1 r.2.2 w.2.1 w.2.2.length))

/-- A command's work; where source and destination overlap the bytes written are open. -/
def State.engPlan (s : State) (c : EngCmd) (h : HostIn) : Plan :=
  let p := match opClass c.op with
    | 0 => s.dmaPlan c h
    | 2 => s.gePlan c h
    | 3 => s.sePlan c h
    | 4 => s.rePlan c
    | 5 => s.zePlan c h
    | 6 => s.kePlan c h
    | _ => s.oePlan c h
  if p.overlaps c then
    let (k, s') := p.s.drawFree
    { p with s := s', writes := p.writes.map (fun w => (w.1, w.2.1, Config.freeBytes k w.2.2.length)) }
  else p

/-- The last chunk of a command is done. -/
def State.engFin (s : State) (e id : Nat) (st : Status) (detail count cond : Nat) : State :=
  s.updEng e id (fun c => { c with fin := some (st.code, detail), count := count, cond := cond })

/-- A DMA engine's message sent to a cell's queue (R359). -/
def State.engMsg (s : State) (e : Nat) (c : EngCmd) : State :=
  let cell := c.f 6 27 16
  let t := s.engTenant c
  let s := s.send { src := hubS, dst := cell, tenant := t, cls := .engine, share := s.shareOf t, tag := c.id % 65536
                    body := .msg 0 false 0 false ((c.cmd.drop 32).take 28) }
  if s.goodCell cell then s.updEng e c.id (fun c => { c with sent := true, again := false }) else s.engFin e c.id .badCommand 0 0 0

/-- Byte `a` of a space lies in a list of ranges (space, address, length). -/
def inRanges (rs : List (Nat × Nat × Nat)) (space a : Nat) : Bool := rs.any (fun r => r.1 == space && meet r.2.1 r.2.2 a 1)

/-- What a command writes where a command that is active beside it has written: those bytes are open (R351). -/
def State.unordered (s : State) (c : EngCmd) (w : Nat × Nat × List Byte) : State × List Byte :=
  if !(c.others.any (fun r => r.1 == w.1 && meet r.2.1 r.2.2 w.2.1 w.2.2.length)) then (s, w.2.2)
  else
    let (k, s) := s.drawFree
    (s, (List.zip w.2.2 (List.zip (Config.freeBytes k w.2.2.length) (List.range w.2.2.length))).map (fun x =>
      if inRanges c.others w.1 (w.2.1 + x.2.2) then x.2.1 else x.1))

/-- A write noted with its command and with those active beside it. -/
def State.noteWrite (s : State) (c : EngCmd) (space a n : Nat) : State :=
  { s with engines := Tab.update [] s.engines (fun _ q => q.map (fun d =>
      if d.id = c.id then { d with wrote := d.wrote ++ [(space, a, n)] }
      else if s.beside c d then { d with others := d.others ++ [(space, a, n)] } else d)) }

/-- The writes of a chunk in order, up to the first that is refused: the bytes written and that refusal. -/
def State.engWrites (s : State) (c : EngCmd) (ws : List (Nat × Nat × List Byte)) : State × Nat × EngEnd :=
  ws.foldl (fun (r : State × Nat × EngEnd) w =>
    match r.2.2 with
    | some _ => r
    | none =>
      let (s, bs) := r.1.unordered c w
      let (s, x) := s.engWrite c w.1 w.2.1 bs
      (if x.isNone then s.noteWrite c w.1 w.2.1 w.2.2.length else s, if x.isNone then r.2.1 + w.2.2.length else r.2.1, x)) (s, 0, none)

/-- One chunk of a command. A command's reads are charged and recorded at its first chunk. -/
def State.engChunk (s : State) (e : Nat) (c : EngCmd) (h : HostIn) : State :=
  let s := s.regAdd (rEng e 1) 1
  if c.op = 0x15 then s.engMsg e c
  else if c.isColl then s.collStart e c h
  else if (match c.decision with | some d => d.skip | none => false) then s.engFin e c.id .stepSkipped 0 0 0
  else
    let p := s.engPlan c h
    let s := if c.done = 0 ∨ p.fin ≠ .ok then p.s.regAdd (rEng e 7) p.taken else { s with freeCtr := p.s.freeCtr }
    let (s, n, bad) := s.engWrites c (p.part c.done)
    let s := s.regAdd (rEng e 8) n
    match bad with
    | some st => s.engFin e c.id st 0 0 0
    | none =>
      if c.done + 1 < p.size then s.updEng e c.id (fun c => { c with done := c.done + 1 })
      else (s.updEng e c.id (fun c => { c with done := c.done + 1 })).engFin e c.id p.fin p.detail p.count p.cond

/-- An active command that has a chunk to do now. -/
def State.canChunk (s : State) (e : Nat) (c : EngCmd) : Bool :=
  c.active && c.fin.isNone && (s.engStopped c).isNone && !s.engineHeld e && !c.sent && (!c.isColl || c.done == 0)
    && (!c.gateEn || c.decision.isSome) && !(c.mirror.isSome && decide (3 ≤ s.sag)) && decide (s.sag < 4)

/-- The order of selection: a command passed over 64 times, then the earliest job deadline (a mirror UPDATE, which has no
job, last), then activation. -/
def State.chunkBefore (s : State) (a b : EngCmd) : Bool :=
  let dl := fun (c : EngCmd) => match c.jobOf.bind s.job? with | some j => j.deadline | none => 2 ^ 64
  let starved := fun (c : EngCmd) => decide (64 ≤ c.passed)
  if starved a != starved b then starved a
  else decide (dl a < dl b) || (dl a == dl b && decide (a.order < b.order))

/-- The first of a list by an order. -/
def firstBy {α : Type} (lt : α → α → Bool) : List α → Option α
  | [] => none
  | x :: xs => match firstBy lt xs with
    | some y => some (if lt y x then y else x)
    | none => some x

/-- The slot lengths of R344 in ns, the CE's 40.96 rounded down. -/
def slotNs (e : Nat) : Nat := [64, 40, 32, 256, 64, 16384, 256, 256].getD (engineClass e) 64

/-- What an engine selects next: in sealed tenancy a command of the class that owns the slot's position (R343, R345). -/
def State.chunkPick (s : State) (e : Nat) : Option EngCmd :=
  let act := (s.engine e).filter (s.canChunk e)
  let mine := if s.sealed then
      let owner := s.wheel.getD (Tab.get 0 s.engWheel e) 16
      act.filter (fun c => s.shareOf (s.engTenant c) == owner && decide (owner < 16))
    else act
  firstBy s.chunkBefore mine

/-- A selection made: the chosen one's count of passings restarts, those of the others that could proceed rise. -/
def State.chunkCount (s : State) (e id : Nat) : State :=
  let s := match (s.engine e).find? (fun c => c.id == id) with
    | some c => if 64 ≤ c.passed then s.regAdd (rEng e 5) 1 else s
    | none => s
  s.setEngine e ((s.engine e).map (fun c => if c.id = id then { c with passed := 0 } else if s.canChunk e c then { c with passed := c.passed + 1 } else c))

/-- In sealed tenancy each selection is one slot of the wheel. -/
def State.chunkSlot (s : State) (e : Nat) (used : Bool) : State :=
  if !s.sealed then s
  else
    let s : State := { s with engWheel := Tab.put 0 s.engWheel e ((Tab.get 0 s.engWheel e + 1) % 64) }
    if !used && (s.engine e).any (fun c => c.active) then s.regAdd (rEng e 4) (slotNs e) else s

/-- The stacks a chunk of a command reaches serve its tenant now: in sealed tenancy it waits for tokens (R398). -/
def State.chunkServed (s : State) (c : EngCmd) (h : HostIn) : Bool :=
  !s.sealed || c.op == 0x15 || c.isColl ||
    (let p := s.engPlan c h
     (c.done != 0 || p.reads.all (fun r => r.1 != 0 || s.tvaServed (s.engTenant c) r.2.1 r.2.2))
       && (p.part c.done).all (fun w => w.1 != 0 || s.tvaServed (s.engTenant c) w.2.1 w.2.2.length))

/-- ENGINE_CHUNK: one selection, and one chunk of the command selected. -/
def execEngineChunk (engine : Nat) (h : HostIn) (s : State) : Out :=
  .next (
    if s.fatal then s else
    match s.chunkPick engine with
    | none => s.chunkSlot engine false
    | some c =>
      if !s.chunkServed c h then s.chunkSlot engine false
      else (((s.hostStores (s.engFn c) h).chunkCount engine c.id).chunkSlot engine true).engChunk engine c h)

/-- The remaining chunks of the command an engine would select, where it has an opcode. -/
def State.engAll (s : State) (op engine : Nat) (h : HostIn) : State :=
  match s.chunkPick engine with
  | none => s
  | some c =>
    if c.op ≠ op || !s.chunkServed c h then s
    else
      let s := ((s.hostStores (s.engFn c) h).chunkCount engine c.id).chunkSlot engine true
      let n := if c.op = 0x15 ∨ c.isColl then 1 else (s.engPlan c h).size
      (List.range n).foldl (fun s _ => match (s.engine engine).find? (fun d => d.id == c.id && s.canChunk engine d && s.chunkServed d h) with
        | some d => s.engChunk engine d h
        | none => s) s

/-! The rows of the opcodes (R355, R360, R362, R364, R366, R368, R370, R372). -/

def execDmaCopy (engine : Nat) (h : HostIn) (s : State) : Out := .next (if s.fatal then s else s.engAll 0x10 engine h)
def execCopy2d (engine : Nat) (h : HostIn) (s : State) : Out := .next (if s.fatal then s else s.engAll 0x11 engine h)
def execScatter (engine : Nat) (h : HostIn) (s : State) : Out := .next (if s.fatal then s else s.engAll 0x12 engine h)
def execConvert (engine : Nat) (h : HostIn) (s : State) : Out := .next (if s.fatal then s else s.engAll 0x13 engine h)
def execDmaFill (engine : Nat) (h : HostIn) (s : State) : Out := .next (if s.fatal then s else s.engAll 0x14 engine h)
def execDmaMsg (engine : Nat) (h : HostIn) (s : State) : Out := .next (if s.fatal then s else s.engAll 0x15 engine h)
def execAllReduce (engine : Nat) (h : HostIn) (s : State) : Out := .next (if s.fatal then s else s.engAll 0x20 engine h)
def execReduceScatter (engine : Nat) (h : HostIn) (s : State) : Out := .next (if s.fatal then s else s.engAll 0x21 engine h)
def execAllGather (engine : Nat) (h : HostIn) (s : State) : Out := .next (if s.fatal then s else s.engAll 0x22 engine h)
def execBroadcast (engine : Nat) (h : HostIn) (s : State) : Out := .next (if s.fatal then s else s.engAll 0x23 engine h)
def execAllToAll (engine : Nat) (h : HostIn) (s : State) : Out := .next (if s.fatal then s else s.engAll 0x24 engine h)
def execReduce (engine : Nat) (h : HostIn) (s : State) : Out := .next (if s.fatal then s else s.engAll 0x25 engine h)
def execGather (engine : Nat) (h : HostIn) (s : State) : Out := .next (if s.fatal then s else s.engAll 0x30 engine h)
def execBag (engine : Nat) (h : HostIn) (s : State) : Out := .next (if s.fatal then s else s.engAll 0x31 engine h)
def execSort (engine : Nat) (h : HostIn) (s : State) : Out := .next (if s.fatal then s else s.engAll 0x40 engine h)
def execTopk (engine : Nat) (h : HostIn) (s : State) : Out := .next (if s.fatal then s else s.engAll 0x41 engine h)
def execRand (engine : Nat) (h : HostIn) (s : State) : Out := .next (if s.fatal then s else s.engAll 0x50 engine h)
def execCompress (engine : Nat) (h : HostIn) (s : State) : Out := .next (if s.fatal then s else s.engAll 0x60 engine h)
def execDecompress (engine : Nat) (h : HostIn) (s : State) : Out := .next (if s.fatal then s else s.engAll 0x61 engine h)
def execGcmEnc (engine : Nat) (h : HostIn) (s : State) : Out := .next (if s.fatal then s else s.engAll 0x70 engine h)
def execGcmDec (engine : Nat) (h : HostIn) (s : State) : Out := .next (if s.fatal then s else s.engAll 0x71 engine h)
def execSha384 (engine : Nat) (h : HostIn) (s : State) : Out := .next (if s.fatal then s else s.engAll 0x72 engine h)
def execUpdate (engine : Nat) (h : HostIn) (s : State) : Out := .next (if s.fatal then s else s.engAll 0x80 engine h)

/-! ### Completion (R347 to R350) -/

/-- How a tethered UPDATE that has done its work ends: still waiting for the partner's report (none), or with a status
(R373, R475, R478). -/
def State.tetherEnd (s : State) (c : EngCmd) (st detail : Nat) : Option (Nat × Nat) :=
  let ran := st == Status.ok.code || st == Status.stepSkipped.code
  if !c.tetherEn || c.mirror.isSome || !ran then some (st, detail)
  else match s.tether.pushFail.find? (fun x => x.1 == c.stepNo) with
    | some x => some (if st = Status.ok.code then x.2 else st, detail)
    | none =>
      match s.tether.reports.find? (fun x => x.1 == c.stepNo) with
      | some x => some (if x.2 = Status.ok.code ∨ x.2 = Status.stepSkipped.code then st else Status.linkFailed.code, detail)
      | none => if s.tether.st = .paired then none else some (st, detail)

/-- The status of a code. -/
def statusOf (n : Nat) : Status :=
  [Status.ok, .cancelled, .abandoned, .timeout, .refusedQuota, .cfgRejected, .overflowFault, .stepSkipped, .sumpOpened, .linkFailed,
   .memUncorrectable, .authFail, .preempted, .shed, .nakExhausted].getD n .badCommand

/-- How a command of an engine ends now, if it does: as it finished, or with its stopping job's status at a chunk boundary. -/
def State.engEnding (s : State) (c : EngCmd) : Option (Nat × Nat) :=
  let ended := match c.fin with
    | some (st, d) => if c.coll.isSome ∧ s.ferOwed (.engine c.id) ≠ 0 ∧ st = 0 then none else s.tetherEnd c st d
    | none => none
  match ended with
  | some x => some x
  | none => if c.active then (s.engStopped c).map (fun st => (st.code, 0)) else none

/-- The destination of a collective's output on this rank. -/
def collOut (c : EngCmd) (k : CollSt) : Nat :=
  match c.op with
  | 0x21 => c.eb * (segment (c.w 11) k.n k.rank).2
  | 0x22 | 0x24 => k.n * c.eb * c.w 11
  | 0x25 => if k.rank = c.root then c.eb * c.w 11 else 0
  | _ => c.eb * c.w 11

/-- What a stopped command, or a failed collective, has written is open (R350, R468). -/
def State.engSmear (s : State) (c : EngCmd) : State :=
  let (k, s) := s.drawFree
  match c.coll with
  | some g => if c.done = 0 ∧ g.arrived = [] then s else (s.engWrite c 0 (c.a64 9) (Config.freeBytes k (collOut c g))).1
  | none =>
    if c.done = 0 ∨ c.op = 0x15 then s
    else
      let p := s.engPlan c ⟨[], false⟩
      if p.atEnd then p.writes.foldl (fun s w => (s.engWrite c w.1 w.2.1 (Config.freeBytes k w.2.2.length)).1) s
      else (List.range c.done).foldl (fun s i => (p.part i).foldl (fun s w => (s.engWrite c w.1 w.2.1 (Config.freeBytes k w.2.2.length)).1) s) s

/-- The 32 bytes of a completion record. -/
def EngCmd.record (c : EngCmd) (e st detail gc : Nat) : List Byte :=
  leBytes 4 (st + 2 ^ 8 * detail + 2 ^ 16 * (c.cond % 32)) ++ leBytes 4 e ++ leBytes 8 c.count ++ leBytes 8 c.start ++ leBytes 8 gc

/-- A waiting gated UPDATE whose job stopped is remembered by the gate (R422). -/
def State.gateStopped (s : State) (c : EngCmd) : State :=
  if c.gateEn && c.decision.isNone && c.mirror.isNone then
    let d := shardOf (c.a64 7) (s.tvaBytes (s.engTenant c) (c.a64 7) 128)
    (s.tvaTouch (s.engTenant c) (c.a64 7) 128).updGate false (fun g => if g.set.tenant = s.engTenant c then { g with stopped := g.stopped ++ [(c.stepNo, s.engTenant c, d.tensor, d.w 2)] } else g)
  else s

/-- ENGINE_COMPLETE: the first command of an engine that has ended writes its record, operates on done_sig and leaves; its
job takes its conditions, and stops where it ended badly. -/
def execEngineComplete (engine : Nat) (s : State) : Out :=
  .next (
    if s.fatal then s else
    match (s.engine engine).find? (fun c => (s.engEnding c).isSome) with
    | none => s
    | some c =>
      match s.engEnding c with
      | none => s
      | some (st, detail) =>
        let halted := c.fin.isNone
        let s := if halted then (s.engSmear c).gateStopped c else if c.coll.isSome ∧ st ≠ 0 then s.engSmear c else s
        let (s, bad) := if c.recEn ∧ c.active then s.engWrite c 0 c.recTva (c.record engine st detail s.gc) else (s, none)
        let st := match bad with | some x => x.code | none => st
        let good := st == Status.ok.code || st == Status.stepSkipped.code
        let s := if good && c.doneEn then
            s.hubSignal (if c.doneSet then .set else .add) c.doneSig (c.w 3) (s.engTenant c) .engine { node := hubS, unit := 0xE, tag := c.id % 65536 }
          else s
        let s := s.setEngine engine ((s.engine engine).filter (fun d => d.id != c.id))
        let s := (s.regAdd (rEng engine 0) 1).traceEv 6 (s.engTenant c) c.job [engine, c.op, st]
        let s := match c.coll with
          | some k => { s with grants := s.grants.filter (fun g => !(g.1 == k.grp && g.2.1 == k.no)) }
          | none => s
        let s := s.mirrorPlace
        match c.mirror with
        | some m => s.mirrorDone m.2 st
        | none =>
          let s := s.updJob c.job (fun j => { j with cond := j.cond ||| c.cond })
          if good then s else s.stopJob (some c.job) (statusOf st) 0)

end Sys2Proof.Machine
end

