-- ==== Sys2Proof/Machine/Billing.lean ====
section
/-!
DEFINITION. Sys2Proof/Machine/Billing.lean: wall time as a reading, billing periods and their records, and the energy
intervals (ch. 19).
-/
namespace Sys2Proof.Machine
open Sys2Proof

/-- Wall time, TAI ns: GC + WALL_BASE (R557). -/
def State.wallNow (s : State) : Int := (s.gc : Int) + s.time.base

/-- The tenants with an open period: the owner and every PRESENT tenant. -/
def State.billed (s : State) : List Nat := (List.range 17).filter s.present

def State.billOf (s : State) (t : Nat) : Billing := Tab.get {} s.billing t
def State.setBill (s : State) (t : Nat) (b : Billing) : State := { s with billing := Tab.put {} s.billing t b }

/-- The index of the open period (R549). -/
def State.periodIndex (s : State) : Nat := s.bootCount * 2 ^ 32 + s.bill.closed

/-- The first multiple of P later than a wall time (R548, R550). -/
def nextBoundary (p w : Int) : Int := (w / p + 1) * p

/-- BILL_PERIOD_S in ns. -/
def State.billP (s : State) : Int := 1000000000 * (max 1 (s.reg rBillPeriod % 2 ^ 17) : Nat)

/-- A record put into a tenant's stream (R553). -/
def State.billRecord (s : State) (t : Nat) (ws : List Nat) : State :=
  let b := s.billOf t
  s.setBill t { b with slots := Tab.put [] b.slots (b.seq % 16) ws, seq := b.seq + 1 }

/-- The counters of a tenant: ACCT_* and the two tick sums, at 0x00 to 0x90 (R696). -/
def State.zeroAcct (s : State) (t : Nat) : State := (List.range 19).foldl (fun s i => s.setReg (rAcct t (8 * i)) 0) s

/-- A tenant's period slowdown (R543, R544). -/
def periodSlow (w d : Nat) : Nat :=
  if w = 0 then 0 else if d ≤ w then 65535 else min 65535 (1000 * w / (d - w))

/-- The PERIOD record of a tenant's open period, ended now (R552). -/
def State.periodRecord (s : State) (t : Nat) (endWall : Int) (removed forward : Bool) : List Nat :=
  let b := s.billOf t
  let c := fun off => s.reg (rAcct t off)
  [1 + 2 ^ 8 * t + 2 ^ 16 * removed.toNat + 2 ^ 17 * b.partial_.toNat + 2 ^ 18 * forward.toNat, s.periodIndex,
   twos 64 b.startWall, twos 64 endWall, b.startGc, s.gc]
    ++ (List.range 15).map (fun i => c (8 * i)) ++ [b.uj / 1000, b.idleUj / 1000, c 0x80, c 0x88, c 0x90]
    ++ [periodSlow (c 0x88) (c 0x90), 0, 0, 0, 0, 0]

/-- A tenant's period closed with its record; a new one begins from zero, what is below 1 mJ carried over (R546, R550). -/
def State.closeOne (s : State) (t : Nat) (endWall : Int) (removed forward : Bool) : State :=
  let s := s.billRecord t (s.periodRecord t endWall removed forward)
  let b := s.billOf t
  let m := (List.range 15).map (fun i => b.marks.getD i 0 - (s.reg (rAcct t (8 * i)) : Int))
  (s.setBill t { b with partial_ := false, startWall := endWall, startGc := s.gc, uj := b.uj % 1000, idleUj := b.idleUj % 1000
                        marks := m }).zeroAcct t

/-- The open period closed at a boundary; a change of P applies from here (R548, R550). -/
def State.closePeriod (s : State) (boundary : Int) (forward : Bool) : State :=
  let s := s.billed.foldl (fun s t => s.closeOne t boundary false forward) s
  { s with bill := { s.bill with closed := (s.bill.closed + 1) % 2 ^ 32, last := some boundary
                                 next := some (nextBoundary s.billP boundary), p := s.billP } }

/-- BILLING_PERIOD_CLOSE (R550): wall time has reached B_next. -/
def execBillingPeriodClose (s : State) : Out :=
  .next (if s.fatal then s else match s.bill.next with
    | some b => if s.time.valid && decide (b ≤ s.wallNow) then s.closePeriod b false else s
    | none => s)

/-- The host sets wall time first: the first boundary is known (R550). -/
def State.wallSet (s : State) : State :=
  { s with bill := { s.bill with next := some (nextBoundary s.billP s.wallNow), p := s.billP } }

/-- Wall time was stepped from `old` to its present value (R551). -/
def State.timeStep (s : State) (old : Int) : State :=
  match s.bill.next with
  | none => s
  | some nxt =>
    let now := s.wallNow
    let past := decide (nxt < now) && decide (old < now)
    let edge := now / s.bill.p * s.bill.p
    let after := if past then nextBoundary s.billP edge else nxt
    let rec_ := fun (t : Nat) => [2 + 2 ^ 8 * t, s.periodIndex, twos 64 old, twos 64 now, s.gc, twos 64 (s.bill.last.getD 0), twos 64 after]
      ++ List.replicate 25 0
    let s := s.billed.foldl (fun s t => s.billRecord t (rec_ t)) s
    if past then s.closePeriod edge true else s

/-! ### Energy (R546, R547) -/

/-- The increments of a tenant's counters in an interval: those the block counts itself, and the measured engine ticks. -/
def State.increments (s : State) (t : Nat) (ticks : List Nat) : List Nat :=
  (List.range 15).map (fun i => if 2 ≤ i ∧ i < 10 then ticks.getD (i - 2) 0
    else ((s.reg (rAcct t (8 * i)) : Int) - (s.billOf t).marks.getD i 0).toNat)

/-- Energy charged to a tenant. -/
def State.charge (s : State) (t uj idle : Nat) : State :=
  let b := s.billOf t
  (s.setBill t { b with uj := b.uj + uj, idleUj := b.idleUj + idle }).regAdd (rAcct t 0x78) (uj + idle)

/-- ENERGY_INTERVAL (R546): `uj` is the energy the power monitor measured in the last 1 ms of GC, `counts` the increments
by tenant of ACCT_ENG_TICK of the eight classes in it (log 45). PWR_NOW and ENERGY_MJ follow (R608). -/
def execEnergyInterval (uj : Nat) (counts : List (List Nat)) (s : State) : Out :=
  .next (
    if s.fatal then s else
    if s.stage ≠ 3 ∨ s.gc < s.bill.energyGc + 1000000 then s
    else
      let ts := s.billed
      let incs := ts.map (fun t => (t, s.increments t (counts.getD t [])))
      let act := incs.map (fun (e : Nat × List Nat) => (e.1, ((e.2.zipIdx).map (fun (x : Nat × Nat) => x.1 * s.reg (rAcctW x.2))).sum))
      let all := (act.map (fun (e : Nat × Nat) => e.2)).sum
      let base := if s.pwr.mode = 2 then 210000 else 690000
      let dyn := uj - base + s.bill.carryUj
      let parts := act.map (fun (e : Nat × Nat) => (e.1, if all = 0 then 0 else dyn * e.2 / all))
      let given := (parts.map (fun (e : Nat × Nat) => e.2)).sum
      let s := incs.foldl (fun s (e : Nat × List Nat) =>
        (List.range 8).foldl (fun s i => s.regAdd (rAcct e.1 (8 * (i + 2))) (e.2.getD (i + 2) 0)) s) s
      let s := ts.foldl (fun s t => s.setBill t { s.billOf t with marks := (List.range 15).map (fun i => (s.reg (rAcct t (8 * i)) : Int)) }) s
      let s := parts.foldl (fun s (e : Nat × Nat) => s.charge e.1 e.2 0) s
      let s := s.charge 0 0 (base + if all = 0 then dyn else 0)
      { s with bill := { s.bill with energyGc := s.bill.energyGc + 1000000, carryUj := if all = 0 then 0 else dyn - given }
               pwr := { s.pwr with mw := uj, energyUj := s.pwr.energyUj + uj } })

end Sys2Proof.Machine
end

