-- ==== Sys2Proof/Machine/TimeOps.lean ====
section
/-!
DEFINITION. Sys2Proof/Machine/TimeOps.lean: the Global Counter's tick, wall time, PPS discipline, time sync and
synchronised launch (ch. 20).
-/
namespace Sys2Proof.Machine
open Sys2Proof

def State.updTime (s : State) (f : TimeSt → TimeSt) : State := { s with time := f s.time }

/-- An amount brought one nearer to zero. -/
def shrink (x : Int) : Int := if 0 < x then x - 1 else if x < 0 then x + 1 else 0

/-! ### Wall time (R557, R558) -/

/-- WALL_BASE set: the initial set, or a step where the value changes. -/
def State.setBase (s : State) (v : Int) : State :=
  let old := s.wallNow
  let first := !s.time.valid
  let same := decide (v = s.time.base)
  let s := s.updTime (fun t => { t with base := v, valid := true, slew := 0, slewing := false })
  if first then s.wallSet else if same then s else s.timeStep old

/-- WALL_BASE written: refused within a second that a time source governs. -/
def State.wallBaseWrite (s : State) (v : Nat) : State :=
  let x := sext 64 v
  let governed := s.time.ppsEn || (decide (s.time.role = 2) && s.time.sync == .locked)
  if governed && decide (x % 1000000000 ≠ 0) then s.updTime (fun t => { t with refused := true })
  else s.setBase x

/-- WALL_BASE_WRITE: the register written whole. -/
def execWallBaseWrite (v : Nat) (s : State) : Out := .next (if s.bar 1 then s.wallBaseWrite v else s)

/-- WALL_SLEW_WRITE: a new write replaces the remaining amount. -/
def execWallSlewWrite (v : Nat) (s : State) : Out :=
  .next (
    if !s.bar 1 then s
    else
      let x := sext 32 v
      if s.time.ppsEn || s.time.role == 2 || !s.time.valid || decide (x < -100000000) || decide (100000000 < x) then
        s.updTime (fun t => { t with refused := true })
      else s.updTime (fun t => { t with slew := x, slewGc := s.gc, slewing := true }))

/-- WALL_SLEW_END: the amount is used up. -/
def execWallSlewEnd (s : State) : Out :=
  .next (if s.time.slewing ∧ s.time.slew = 0 then s.updTime (fun t => { t with slewing := false }) else s)

/-! ### PPS (R559 to R561) -/

/-- PPS_CTL set: pps_en 1 truncates WALL_BASE to a whole second and begins ACQUIRING where the discipline was off or in
FAULT; 0 ends it. -/
def State.ppsWrite (s : State) (ctl : Nat) : State :=
      let on := bit ctl 0
      let fresh := on && (!s.time.ppsEn || s.time.pps == .fault)
      let s := s.updTime (fun t => { t with ppsEn := on, stepEn := bit ctl 1, delay := bits ctl 31 16 })
      let s := if !on then s.updTime (fun t => { t with pps := .off, edge := false, small := 0, prevErr := none })
        else if fresh then s.updTime (fun t => { t with pps := .acquiring, edge := false, small := 0, prevErr := none, since := s.gc })
        else s
      if !on then s
      else
        let old := s.wallNow
        let v := s.time.base / 1000000000 * 1000000000
        if v = s.time.base then s
        else
          let t := s.updTime (fun t => { t with base := v, slew := 0, slewing := false })
          if s.time.valid then t.timeStep old else t

/-- PPS_EN_WRITE: a write of PPS_CTL. -/
def execPpsEnWrite (ctl : Nat) (s : State) : Out := .next (if s.bar 1 then s.ppsWrite ctl else s)

/-- The last_err and last_off fields saturate to 32 bits. -/
def sat32 (e : Int) : Int := max (-(2 ^ 31)) (min (2 ^ 31 - 1) e)

/-- Every ring of every function is DISABLED. -/
def State.ringsOff (s : State) : Bool := s.rings.all (fun r => r.2.st == .disabled)

/-- R560 for an error `e` found `over` ticks after the correction before it, by PPS or by time sync (`sync`); the state
that goes with it, small corrections in a row counted (log 47). -/
def State.correct (s : State) (sync : Bool) (e : Int) (span : Nat) : State :=
  let put := fun (s : State) (p : PpsSt) (n : Nat) => s.updTime (fun t => if sync then { t with sync := p, syncSmall := n } else { t with pps := p, small := n })
  let st := if sync then s.time.sync else s.time.pps
  let n := if sync then s.time.syncSmall else s.time.small
  if e.natAbs ≤ 1000 then
    let drift := match s.time.prevErr with | some _ => (e - s.time.toSlew) * 1000000000 / (max 1 span : Nat) | none => 0
    let f := s.time.freq - drift
    if 50000 < f.natAbs then
      (put s (if sync then .holdover else .fault) 0).record .ppsFault
        { noRec with node := hubN, code := twos 32 e, extra0 := recPair (twos 32 s.time.freq) (twos 32 f) }
    else
      let s := s.updTime (fun t => { t with freq := f, toSlew := e, prevErr := some e })
      put s (if 3 ≤ n + 1 then .locked else if st = .locked then .locked else .acquiring) (n + 1)
  else if s.time.stepEn ∧ s.ringsOff ∧ s.tether.st = .none then
    let old := s.wallNow
    let gc := s.gc + (if 0 < e then 1000000000 - e else -e).toNat
    let t : State := { s with gc := gc }
    let t := t.updTime (fun t => { t with base := if 0 < e then t.base - 1000000000 else t.base, toSlew := 0, prevErr := none })
    let t := put t .acquiring 0
    let t := if s.time.valid then t.timeStep old else t
    t.record .ppsStep { noRec with node := hubN, code := twos 32 e, extra0 := recPair s.gc gc }
  else put (s.updTime (fun t => { t with toSlew := e, prevErr := none })) .slewing 0

/-- PPS_EVT_REJECT (R689). -/
def rPpsReject : Nat := 0x30058

/-- PPS_EDGE (R559): a rising edge on PPS_IN now. -/
def execPpsEdge (s : State) : Out :=
  .next (
    let t := s.time
    if !t.ppsEn || t.pps == .fault || !s.time.running || decide (s.stage = 0) || t.refLost then s
    else
      let first := !t.edge || t.pps == .holdover
      if !first && !(decide (t.edgeGc + 999900000 ≤ s.gc) && decide (s.gc ≤ t.edgeGc + 1000100000)) then s.regAdd rPpsReject 1
      else
        let x := ((s.gc : Int) - t.delay) % 1000000000
        let e := if x ≤ 500000000 then x else x - 1000000000
        let span := s.gc - t.edgeGc
        let g := s.gc
        let s := s.updTime (fun t => { t with lastErr := sat32 e, edgeGc := g, edge := true, since := g
                                              pps := if t.pps = .holdover then .acquiring else t.pps
                                              small := if t.pps = .holdover then 0 else t.small
                                              prevErr := if first then none else t.prevErr })
        s.correct false e span)

/-- PPS_LOST (R561): no edge has been accepted for 1.5 s. -/
def execPpsLost (s : State) : Out :=
  .next (
    let t := s.time
    if t.ppsEn && (t.pps == .acquiring || t.pps == .locked || t.pps == .slewing) && decide (t.since + 1500000000 ≤ s.gc) then
      (s.updTime (fun t => { t with pps := .holdover, small := 0 })).record .ppsLost { noRec with node := hubN, addr := t.edgeGc }
    else s)

/-! ### Time sync (R562, R563) -/

/-- A TIME_SYNC payload. -/
def syncBytes (ty flags n : Nat) (t2 t3 : Int) : List Byte :=
  leBytes 1 ty ++ leBytes 1 flags ++ leBytes 2 n ++ leBytes 4 0 ++ leBytes 8 (twos 64 t2) ++ leBytes 8 (twos 64 t3) ++ leBytes 8 0

/-- SYNC_REQUEST_SEND: a SLAVE's request is due; the exchange before it awaits its t3. -/
def execSyncRequestSend (s : State) : Out :=
  .next (
    if s.fatal then s else
    let t := s.time
    if t.role ≠ 2 || decide (s.stage ≠ 3) || (decide (0 < t.reqN) && decide (s.gc < t.reqGc + 1000000 * t.interval)) then s
    else
      let n := t.reqN + 1
      let s := s.updTime (fun t => { t with reqN := n, reqGc := s.gc, req := some { n := n % 65536, t1 := s.stamp } })
      s.ferSend false (.timeReq (n % 65536)) 0 kTime 7 s.time.master 0 0 0 (syncBytes 0 0 (n % 65536) 0 0))

/-- A TIME_SYNC message is well formed: domain 0, class 7, 32 bytes (R444, R562). -/
def syncOk (c : RxCtx) (ty : Nat) : Bool := c.t == 0 && c.m.len == 32 && byteAt c.m.data 0 == ty && c.m.tc == 7

/-- The type of a TIME_SYNC message as sent. -/
def State.syncType (s : State) (m : FMsg) : Nat :=
  match s.openMsg 0 m with
  | some c => byteAt c.data 0
  | none => 0

/-- A request performed: answered with the responder's time stamps. -/
def performSyncReq (c : RxCtx) (s : State) : RxEnd :=
  if !syncOk c 0 then .refuse s nMalformed
  else if s.time.role = 0 then .done s
  else
    let p := Tab.get {} s.time.peers c.m.src
    let valid := s.time.valid && (s.time.pps == .locked || s.time.sync == .locked)
    .done (s.ferSend c.al (.timeResp c.m.src) 0 kTime 7 c.m.src 0 0 0
      (syncBytes 1 (valid.toNat + 2 * p.again.toNat) (leAt c.m.data 2 2) s.stamp p.t3))

/-- TIME_SYNC_REQ. -/
def execTimeSyncReq (port : Nat) (m : FMsg) (s : State) : Out :=
  .next (if s.fatal then s else s.ferReceive port m (fun m => m.kind == kTime && s.syncType m != 1) performSyncReq)

/-- The accepted exchange with the least d, the first of equals. -/
def bestSync : List (Int × Int) → Option (Int × Int)
  | [] => none
  | x :: xs => match bestSync xs with
    | some y => some (if y.1 < x.1 then y else x)
    | none => some x

/-- Whole seconds of an offset, to the nearest, ties toward zero. -/
def wholeSeconds (o : Int) : Int :=
  let q := (o.natAbs + 499999999) / 1000000000
  if 0 ≤ o then (q : Int) else -(q : Int)

/-- Eight exchanges evaluated: the best corrects WALL_BASE and the GC; none counts toward loss (log 47). -/
def State.syncGroup (s : State) : State :=
  let g := s.time.group
  let s := s.updTime (fun t => { t with group := [], seen := 0 })
  match bestSync g with
  | none =>
    let n := s.time.empty + 1
    if n < 8 then s.updTime (fun t => { t with empty := n })
    else
      let s := s.updTime (fun t => { t with empty := 0, syncSmall := 0 })
      if s.time.sync = .holdover then s
      else (s.updTime (fun t => { t with sync := .holdover })).record .syncLost { noRec with node := hubN, idx0 := s.time.master }
  | some (_, o) =>
    let w := wholeSeconds o
    let old := s.wallNow
    let first := !s.time.valid
    let s := s.updTime (fun t => { t with empty := 0, base := t.base + w * 1000000000, valid := true
                                          lastOff := sat32 (o - w * 1000000000) })
    let s := if first then s.wallSet else if w = 0 then s else s.timeStep old
    let span := s.gc - s.time.since
    let s := s.updTime (fun t => { t with since := s.gc, sync := if t.sync = .holdover then .acquiring else t.sync })
    s.correct true (-(o - w * 1000000000)) span

/-- A response performed: it gives exchange n its t2 and t4, and exchange n − 1 its t3 (log 99). -/
def performSyncResp (c : RxCtx) (s : State) : RxEnd :=
  if !syncOk c 1 then .refuse s nMalformed
  else
    let n := leAt c.m.data 2 2
    if s.time.role ≠ 2 ∨ c.m.src ≠ s.time.master then .done s
    else
      let flags := byteAt c.m.data 1
      let t3 := sext 64 (leAt c.m.data 16 8)
      let s := match s.time.exch with
        | some x =>
          if (x.n + 1) % 65536 ≠ n then s
          else
            let z := (x.t2 - x.t1) - (x.t4 - t3)
            let (k, s) := s.drawFree
            let o := z / 2 + (if z % 2 = 0 then 0 else Config.freePick k 2)
            let d := (x.t4 - x.t1) - (t3 - x.t2)
            let ok := decide (d ≤ 20000) && bit flags 0 && !bit flags 1 && x.clean
            let s := s.updTime (fun t => { t with exch := none, seen := t.seen + 1, group := if ok then t.group ++ [(d, o)] else t.group })
            if s.time.seen = 8 then s.syncGroup else s
        | none => s
      .done (match s.time.req with
        | some r =>
          if r.n = n then s.updTime (fun t => { t with req := none, exch := some { r with t2 := sext 64 (leAt c.m.data 8 8), t4 := s.stamp } })
          else s
        | none => s)

/-- TIME_SYNC_RESP. -/
def execTimeSyncResp (port : Nat) (m : FMsg) (s : State) : Out :=
  .next (if s.fatal then s else s.ferReceive port m (fun m => m.kind == kTime && s.syncType m == 1) performSyncResp)

/-! ### Reading time (R564) -/

/-- The result buffer of TIME_QUERY. -/
def State.timeBytes (s : State) : List Byte :=
  let t := s.time
  leBytes 8 s.gc ++ leBytes 8 (if t.valid then twos 64 s.wallNow else 0)
    ++ [BitVec.ofNat 8 (t.valid.toNat + 2 * t.ppsEn.toNat + 4 * (decide (t.role = 2)).toNat), BitVec.ofNat 8 t.pps.ctorIdx, BitVec.ofNat 8 t.sync.ctorIdx, 0#8]
    ++ leBytes 4 (twos 32 (if t.ppsEn then t.lastErr else if t.role = 2 then t.lastOff else 0))
    ++ leBytes 8 s.fingerprint ++ leBytes 8 s.periodIndex ++ List.replicate 24 0#8

/-- TIME_QUERY (R564): the buffer is written, then the entry completes. -/
def execTimeQuery (fn ring : Nat) (s : State) : Out :=
  .next (if s.fatal then s else s.execute fn (ring % 8) 0xD ⟨[], false⟩ (fun c s =>
    if c.payTva then
      match s.tvaCheck fn c.payPtr 64 true with
      | .ok => (s.tvaStore fn c.payPtr s.timeBytes).finish c .ok 0
      | e => (s.tvaFault none fn 0xC e).bad c detTranslate
    else ((s.hostWrite fn c.payPtr s.timeBytes).acctHost fn 64).finish c .ok 0))

/-! ### Synchronised launch (R565 to R567) -/

def rLaunch (k off : Nat) : Nat := 0x31000 + 0x20 * k + off
def State.slot (s : State) (k : Nat) : LaunchSlot := Tab.get {} s.launch k
def State.setSlot (s : State) (k : Nat) (l : LaunchSlot) : State := { s with launch := Tab.put {} s.launch k l }

/-- LAUNCH_ARM. -/
def execLaunchArm (k : Nat) (s : State) : Out :=
  .next (
    if 64 ≤ k ∨ s.bar 1 = false ∨ (s.slot k).st = 1 then s
    else
      let cfg := s.reg (rLaunch k 8)
      let t := bits cfg 20 16
      let ok := decide (t ≤ 16) && s.present t && (t == 0 || s.sigTenant (bits cfg 13 0) == t) && (!bit cfg 15 || s.time.valid)
      s.setSlot k { s.slot k with st := if ok then 1 else 4 })

/-- LAUNCH_DISARM: a slot that is not ARMED stays as it is. -/
def execLaunchDisarm (k : Nat) (s : State) : Out :=
  .next (if k < 64 ∧ s.bar 1 ∧ (s.slot k).st = 1 then s.setSlot k { s.slot k with st := 0 } else s)

/-- LAUNCH_FIRE: an ARMED slot whose basis reads at least its instant. -/
def execLaunchFire (k : Nat) (s : State) : Out :=
  .next (
    if s.fatal then s else
    if 64 ≤ k ∨ (s.slot k).st ≠ 1 then s
    else
      let cfg := s.reg (rLaunch k 8)
      let now := if bit cfg 15 then s.wallNow else (s.gc : Int)
      let at_ : Int := (s.reg (rLaunch k 0) : Int)
      if now < at_ then s
      else
        let s := s.setSlot k { st := if at_ + 1000 < now then 3 else 2, fired := s.gc }
        s.hubSignal (if bit cfg 14 then .add else .set) (bits cfg 13 0) (s.reg (rLaunch k 12)) (bits cfg 20 16) .mgmt
          { node := hubN, unit := 0xF, tag := 0 })

end Sys2Proof.Machine
end

