-- ==== Sys2Proof/Machine/Clock.lean ====
section
/-!
DEFINITION. Sys2Proof/Machine/Clock.lean: what passes with time alone (log 5): the A-clocks and the cycle counters of the cells,
the tokens of HBM, the counters that are in GC ticks, the held ticks of jobs (R542), and the Global Counter's tick.
-/
namespace Sys2Proof.Machine
open Sys2Proof

/-! ### The A-clocks (R112, R154, R222, R274) -/

/-- The head outbox entry of a cell waits for a credit (R268, R274). -/
def State.msgNoCredit (s : State) (cell : Nat) : Bool :=
  let c := s.cell cell
  match c.msg with
  | none => false
  | some m =>
    let w := c.mem.readLe (m.outboxBase + 32 * (m.nS % 16)) 4
    m.due != 0 && !m.stands && bit w 12 && (match m.creditFor (bits w 11 0) with
      | some e => decide (e.count + (s.signal e.sig).counter ≤ e.sent)
      | none => false)

/-- Some wide-port client of the cell has work (R180). -/
def Cell.wideBusy (c : Cell) : Bool :=
  ((c.mtx c.mtSel).st == .active && (c.mtx c.mtSel).cmd.isSome) || c.vt.any (fun x => !x.2.xfers.isEmpty || x.2.epi.isSome)
    || !c.mtOps.isEmpty

/-- `n` A-cycles of a cell, up to cycle `t` of its die. A mesh access that waits while the wide port is busy has been refused in each:
had a bank been free it would have been performed (R183, log 73). -/
def State.clockCell (s : State) (t n k : Nat) (c : Cell) : Cell :=
  if n = 0 then c
  else
    let d := (c.clockUnits s.arrFeat (t - c.since) n).clockStreams s.arrFeat (t - n) n (s.runFrozen k)
    { d.count .msgCycNocredit (if s.msgNoCredit k then n else 0) with
        narrowRefused := if c.wideBusy && (s.narrowHead k).isSome then c.narrowRefused + n else 0 }

/-- One tick of the dies' A-clocks (R12, R601, R602), and the A-cycles each has made since the last counted in its cells. -/
def State.clockTick (s : State) : State :=
  let acyc := (List.range 4).foldl (fun t d => Tab.put 0 t d (Tab.get 0 s.pwr.acyc d + s.aclkTick d)) s.pwr.acyc
  let t : State := { s with pwr := { s.pwr with acyc := acyc } }
  let t := t.mapCells (fun k c => t.clockCell (t.acycles (cellDie k)) (t.acycles (cellDie k) - Tab.get 0 s.pwr.counted (cellDie k)) k c)
  { t with pwr := { t.pwr with counted := (List.range 4).foldl (fun x d => Tab.put 0 x d (t.acycles d)) t.pwr.counted } }

/-! ### Held ticks (R542) -/

/-- The contexts a task has bound in a cell. -/
def Cell.mtOf (c : Cell) (slot i : Nat) : List Nat := (List.range 4).filter (fun k => (c.mtx k).job == some slot && (c.mtx k).task == i)
def Cell.vtOf (c : Cell) (slot i : Nat) : List Nat := (List.range 4).filter (fun k => (c.vtx k).job == some slot && (c.vtx k).task == i)

/-- The engine commands of a task, with their engines. -/
def State.cmdsOf (s : State) (slot i : Nat) : List (Nat × EngCmd) :=
  s.engines.flatMap (fun e => (e.2.filter (fun c => c.job == slot && c.task == i && c.mirror.isNone)).map (fun c => (e.1, c)))

/-- A command is the one its engine performs now. -/
def State.picked (s : State) (e : Nat) (c : EngCmd) : Bool :=
  match s.chunkPick e with
  | some d => d.id == c.id
  | none => false

/-- A task progresses: a context of it is ACTIVE and issues, a chunk of its command is in progress, or a write of its phase is in
flight. -/
def State.taskMoves (s : State) (slot i : Nat) (j : Job) (t : Task) : Bool :=
  s.cells.any (fun e => s.cellRuns e.1 && ((e.2.mtOf slot i).any (fun k => (e.2.mtx k).st == .active && !(e.2.mtx k).finished)
      || (e.2.vtOf slot i).any (fun k => e.2.vtState s.arrFeat k == .active)))
    || (s.cmdsOf slot i).any (fun x => s.picked x.1 x.2 && s.chunkServed x.2 ⟨[], false⟩)
    || (s.servable j t && !t.phase.placed && s.servedFirst slot i j t)

/-- What a ready task needs is held by another job (R314, R323, R324). -/
def State.needsOthers (s : State) (slot : Nat) (j : Job) (t : Task) : Bool :=
  if t.isEngine then (s.pickEngine t j.tenant).isNone
  else
    let other := fun (o : Option Nat) => o.isSome && o != some slot
    (s.taskCells t).any (fun n =>
      let c := s.cell n
      (t.mtEn && other (c.mtx t.ctx).job) || (t.pair && other (c.mtx (t.ctx + 1)).job) || (t.vtEn && other (c.vtx t.ctx).job)
        || t.ranges.any (fun r => (List.range r.2.1).any (fun g => s.granHeld slot n (r.1 + g))))

/-- A context of a task is blocked on a circuit whose Sump is open. -/
def State.sumpBlocks (s : State) (slot i : Nat) : Bool :=
  s.cells.any (fun e => ((e.2.mtOf slot i) ++ (e.2.vtOf slot i).map (4 + ·)).any (fun n => (e.2.nodeEdges s.arrFeat n).any (fun w =>
    match s.edgeCircuit e.1 w with
    | some q => ((s.cell (q / 32)).chan (q % 32)).sump.isSome
    | none => false)))

/-- An engine command that waits for another, for tokens, for a grant, for a RETRY, or through supply-sag stage S3. -/
def State.cmdHeld (s : State) (e : Nat) (c : EngCmd) : Bool :=
  c.fin.isNone &&
    (if !c.ready then c.retry
     else if !c.active then true
     else (s.canChunk e c && (!s.picked e c || !s.chunkServed c ⟨[], false⟩)) || s.engineHeld e
       || (match c.coll with
           | some k => k.outq.any (fun f => decide (s.limitOut k (s.collHop k f).1 ≤ Tab.get 0 k.sent (s.collHop k f).1))
           | none => false))

/-- A task is in a held state of R542 (log 93). -/
def State.taskHeld (s : State) (slot i : Nat) (j : Job) (t : Task) : Bool :=
  (j.taskReady i t && s.needsOthers slot j t)
    || (s.cmdsOf slot i).any (fun x => s.cmdHeld x.1 x.2)
    || j.suspended || (match j.gallery.bind s.gallery? with | some g => g.busy | none => false)
    || (t.phase.current.isSome && !t.phase.placed && s.inDemand slot i t.phase.regions)
    || s.sumpBlocks slot i
    || (decide (3 ≤ s.sag) && t.st == .bound && !t.isEngine)
    || (t.phase.current.isSome && (match t.phase.held with
        | some p => !p.sources.all (fun r => s.tvaServed j.tenant r.1 r.2)
        | none => false))
    || s.cells.any (fun e => (e.2.mtOf slot i).any (fun k => match (e.2.mtx k).wait with | some w => w.retry | none => false)
        || (e.2.vtOf slot i).any (fun k => match (e.2.vtx k).wait with | some w => w.retry | none => false))

/-- A job is held in this tick: some task is in a held state, and none progresses (R542). -/
def State.jobHeld (s : State) (slot : Nat) (j : Job) : Bool :=
  let ts := j.tasks.zipIdx.filter (fun x => x.1.st != .done)
  j.endGc == 0 && ts.any (fun x => s.taskHeld slot x.2 j x.1) && !ts.any (fun x => s.taskMoves slot x.2 j x.1)

/-! ### Counters in GC ticks -/

/-- RING_TICK_HOLD and RING_TICK_CQFULL of a ring, and whether its head launch is held by R311 (R336, R528). -/
def State.ringTick (s : State) (fn k : Nat) : State :=
  let r := s.ring fn k
  if r.st ≠ .active || r.sqHead == r.dbTail || !s.fnExists fn then s
  else
    let op := byteAt (s.entryBytes fn k) 0
    let roomy := { s with rings := Tab.put {} s.rings (8 * fn + k) { r with dbHead := (r.cqTail + r.owed) % 2 ^ 32 } }
    let s := s.regAdd (rRingCtr fn k 3) 1
    if !s.mayConsume fn k op && roomy.mayConsume fn k op then s.regAdd (rRingCtr fn k 4) 1 else s

/-- Some ring's head launch finds no slot (R311). -/
def State.launchHeld (s : State) : Bool :=
  s.rings.any (fun e => e.2.st == .active && e.2.sqHead != e.2.dbTail && jobOp (byteAt (s.entryBytes (e.1 / 8) (e.1 % 8)) 0)
    && (s.slotFor (e.1 / 8)).isNone)

/-- Some gallery is parked with a job in flight (R336). -/
def State.parkedJob (s : State) : Bool :=
  s.gals.any (fun e => match e.2 with
    | some g => !g.resident && s.jobs.any (fun j => match j.2 with | some b => b.gallery == some e.1 | none => false)
    | none => false)

/-- A counter advanced where a condition holds. -/
def State.tickIf (s : State) (b : Bool) (k : Nat) : State := if b then s.regAdd k 1 else s

/-- The counters of a Ferier port: REPLAY, and the classes with flits waiting and no link credit (R458). -/
def State.portTick (s : State) (p : Nat) : State :=
  let q := s.port p
  (List.range 8).foldl (fun s c => s.tickIf (q.st.isUp && Tab.get [] q.txq c != [] && Tab.get 0 q.credits c == 0) (rPortCtr p (8 + c)))
    (s.tickIf (q.st == .replay) (rPortCtr p 6))

/-- The counters of ticks of the whole module (R336, R375, R399, R458, R528). -/
def State.tickCounters (s : State) : State :=
  let t := s.rings.foldl (fun t e => t.ringTick (e.1 / 8) (e.1 % 8)) s
  let t := (t.tickIf s.launchHeld (rFmEvt 1)).tickIf s.parkedJob (rFmEvt 9)
  let t := (List.range 8).foldl (fun (t : State) st =>
    (t.tickIf (s.stackMode st == 1) (rHbmCtr st 6)).tickIf (bits (s.reg (rStack st)) 9 8 != 0) (rHbmCtr st 7)) t
  let t := s.engines.foldl (fun (t : State) e => t.tickIf (e.2.any (fun c => !c.ready)) (rEng e.1 3)) t
  let t := (List.range 16).foldl State.portTick t
  t.tickIf (s.fer.wait.any (fun o => decide (256 ≤ (s.fer.out.filter (fun x => x.m.dst == o.m.dst)).length))) (rFerCtr 4)

/-! ### The tick (R554, R555) -/

/-- One T-cycle (R554, R555): the GC advances; a wall slew moves WALL_BASE by 1 ns in 20,000 ticks (R558), and a phase
error is slewed out at 50 ppm (R560). -/
def State.timeTick (s : State) : State :=
  let gc := s.gc + 1
  let t := s.time
  let t := if t.slew ≠ 0 ∧ t.slewGc + 20000 ≤ gc then
      { t with base := t.base + (if 0 < t.slew then 1 else -1), slew := shrink t.slew, slewGc := gc } else t
  let t := if gc % 20000 = 0 then { t with toSlew := shrink t.toSlew } else t
  { s with gc := gc, time := t }

/-- What the block does while no command waits: where the time base runs, one tick of all that time drives. A stopped module's time
base runs on (R641). -/
def State.tick (s : State) : State :=
  if !s.time.running then s
  else if s.fatal then s.timeTick
  else
    let t := s.mapJobs (fun slot j => if s.jobHeld slot j then { j with heldTicks := j.heldTicks + 1 } else j)
    (t.tickCounters.accrue.clockTick).stallTick.timeTick

end Sys2Proof.Machine
end

