-- ==== Sys2Proof/Machine/NvOps.lean ====
section
/-!
DEFINITION. Sys2Proof/Machine/NvOps.lean: the non-volatile memory (R620 to R629): the journal, settings stores, firmware
updates.
-/
namespace Sys2Proof.Machine
open Sys2Proof

def State.updNv (s : State) (f : NvSt → NvSt) : State := { s with nv := f s.nv }

/-- A bank. -/
def State.bank (s : State) (b : Nat) : NvBank := (s.nv.banks[b]?).getD {}
def State.updBank (s : State) (b : Nat) (f : NvBank → NvBank) : State :=
  s.updNv (fun n => { n with banks := (n.banks.zipIdx).map (fun x => if x.2 = b then f x.1 else x.1) })

/-- NV_EVT_ERASE and NV_EVT_RECOVER (R630). -/
def rNvErase : Nat := 0x80020
def rNvRecover : Nat := 0x80028

/-- An erase number taken. -/
def State.eraseNo (s : State) : Nat × State := (s.nv.eraseNo, s.updNv (fun n => { n with eraseNo := (n.eraseNo + 1) % 2 ^ 32 }))

/-- A journal of 256 entries is erased before the next BEGIN, under the other bank's journal (R622). -/
def State.journalRoom (s : State) (b : Nat) : State :=
  if (s.bank b).journal.length < 256 then s
  else
    let (n, s) := s.eraseNo
    let e := fun (d : Bool) => ({ done := d, bank := b, sector := 1, no := n } : JEntry)
    ((s.updBank (1 - b) (fun x => { x with journal := x.journal ++ [e false, e true] })).updBank b (fun x => { x with journal := [] })).regAdd rNvErase 1

/-- An erase begins: its BEGIN entry is programmed (R622). -/
def State.beginErase (s : State) (b sector : Nat) : Nat × State :=
  let (n, s) := (s.journalRoom b).eraseNo
  (n, s.updBank b (fun x => { x with journal := x.journal ++ [{ done := false, bank := b, sector := sector, no := n }] }))

/-- An erase has ended: its DONE entry is programmed. -/
def State.endErase (s : State) (b sector n : Nat) : State :=
  (s.updBank b (fun x => { x with journal := x.journal ++ [{ done := true, bank := b, sector := sector, no := n }] })).regAdd rNvErase 1

/-- A journaled erase performed whole. -/
def State.eraseNow (s : State) (b sector : Nat) : State :=
  let (n, s) := s.beginErase b sector
  s.endErase b sector n

/-- The seq of a bank's settings copy, 0 where it is not valid. -/
def NvBank.seq (b : NvBank) : Nat := match b.settings with | some (q, _) => q | none => 0

/-- The bank whose copy is newest: the higher seq, bank 0 on a tie (R627). -/
def State.newestBank (s : State) : Nat := if (s.bank 0).seq < (s.bank 1).seq then 1 else 0

/-- The newest stored copy. -/
def State.newest (s : State) : Settings := match (s.bank s.newestBank).settings with | some (_, x) => x | none => {}

/-- The fields board management may write, taken into a copy (R629). -/
def Settings.manage (x y : Settings) : Settings :=
  { x with flags := setBits x.flags 4 1 (bits y.flags 4 1), portEn := y.portEn, delayNs := y.delayNs, apGate := y.apGate, capW := y.capW
           billS := y.billS, tcBuf := y.tcBuf }

/-- The first operation of the controller's order begins where none has: seq and bank are chosen and the erase starts; the
copy is partly erased until it ends (R628). -/
def State.nvStart (s : State) : State :=
  match s.nv.ops with
  | [] => s
  | o :: rest =>
    if o.begun.isSome then s
    else
      let b := o.bank.getD (if (s.bank 1).seq < (s.bank 0).seq then 1 else 0)
      let q := if o.bank.isSome then o.seq else max (s.bank 0).seq (s.bank 1).seq + 1
      let v := if o.pldm ∧ o.bank.isNone then s.newest.manage o.val else o.val
      let (n, s) := s.beginErase b 3
      (s.updBank b (fun x => { x with settings := none })).updNv (fun x =>
        { x with ops := { o with bank := some b, seq := q, val := v, begun := some n } :: rest })

/-- The entry of a store completes. -/
def State.storeDone (s : State) (o : NvOp) (st : Status) : State :=
  match o.cmd.bind (fun n => s.cmds.find? (fun c => c.id == n)) with
  | some c => s.finish c st 0
  | none => s

/-- SETTINGS_STORE (R628): the image is checked and the store joins the controller's order. -/
def execSettingsStore (fn ring : Nat) (h : HostIn) (s : State) : Out :=
  .next (if s.fatal then s else s.executePay fn (ring % 8) 0xE 1024 h (fun c bs s =>
    match settingsOf bs with
    | none => s.bad c detMalformed
    | some x => ((s.running c).updNv (fun n => { n with ops := n.ops ++ [{ val := x, cmd := some c.id }] })).nvStart))

/-- PLDM_SETTINGS_WRITE (R629): a store of the newest copy with the fields of `image` that are not in the security subset. -/
def execPldmSettingsWrite (image : List Byte) (s : State) : Out :=
  .next (
    let x := settingsAt image
    if !s.ao.powered || decide (s.stage = 0) || !(({} : Settings).manage x).inRange || decide (image.length ≠ 1024) then s
    else (s.updNv (fun n => { n with ops := n.ops ++ [{ val := x, cmd := none, pldm := true }] })).nvStart)

/-- NV_ERASE_COMPLETE: DONE is programmed, then the copy; `ok` says it reads back correctly. The other bank's copy
follows, then the store completes (R622, R628) (log 107). -/
def execNvEraseComplete (ok : Bool) (s : State) : Out :=
  .next (
    match s.nv.ops with
    | [] => s
    | o :: rest =>
      match o.begun, o.bank with
      | some n, some b =>
        let s := (s.endErase b 3 n).updBank b (fun x => { x with settings := if ok then some (o.seq, o.val) else none })
        if ok ∧ o.more then
          (s.updNv (fun x => { x with ops := { o with bank := some (1 - b), more := false, begun := none } :: rest })).nvStart
        else ((s.updNv (fun x => { x with ops := rest })).storeDone o (if ok then .ok else .memUncorrectable)).nvStart
      | _, _ => s)

/-- The boot record in force: the higher sequence number, bank 0 on a tie (R620). -/
def State.bootRecord (s : State) : Option (Nat × Nat) :=
  match (s.bank 0).boot, (s.bank 1).boot with
  | some a, some b => some (if a.1 < b.1 then b else a)
  | some a, none => some a
  | none, b => b

/-- FIRMWARE_UPDATE (R575, R620): a bundle goes into the bank that is not preferred, then both boot records name it; `valid`
says every component verifies, `svn` is the lowest of their security versions. It runs from the next start. -/
def execFirmwareUpdate (svn : Nat) (valid : Bool) (s : State) : Out :=
  .next (
    if !s.ao.powered || !s.ao.landed || s.nv.ops != [] then s
    else
      let (q, p) := s.bootRecord.getD (0, 1)
      let b := 1 - p
      let s := s.updBank b (fun x => { x with bundle := if valid then some (svn % 128) else none, boot := some (q + 1, b) })
      s.updBank (1 - b) (fun x => { x with boot := some (q + 1, b) }))

end Sys2Proof.Machine
end

