-- ==== Sys2Proof/Machine/Security.lean ====
section
/-!
DEFINITION. Sys2Proof/Machine/Security.lean: the security block's commands (ch. 21): version floor, debug lock, keys,
attestation, sessions and link keys.
-/
namespace Sys2Proof.Machine
open Sys2Proof

/-- The last answer to an SPDM requester. -/
def State.answerSpdm (s : State) (r : SpdmReply) : State := s.updSec (fun x => { x with reply := r })

/-- The SPDM responder works: from Landing on, outside recovery (R575, R579, R610). -/
def State.spdmUp (s : State) : Bool := s.ao.powered && s.ao.landed && !s.sec.recovery

/-- The alias key's inputs: measurements 1 to 7 (R578). -/
def State.aliasSeed (s : State) : List (List Byte) := (List.range 7).map (fun i => s.meas (i + 1))

/-- A signature of the alias key. -/
def State.aliasSign (s : State) (content : List Byte) : List Byte := Config.aliasSign s.aliasSeed s.sec.mix content

/-! ### Version floor (R576) -/

/-- SVN_COMMIT: ignored below the floor and above the running bundle's lowest svn. -/
def execSvnCommit (v : Nat) (s : State) : Out :=
  .next (
    let v := v % 128
    if !s.bar 0 || decide (v ≤ s.sec.svnFloor) || decide (s.sec.svnRun < v) then s
    else (s.updSec (fun x => { x with svnFloor := v })).secEvent)

/-! ### The debug lock (R588 to R592) -/

/-- The mailbox SEC_DBG_TOKEN. -/
def State.tokenBytes (s : State) : List Byte := (List.range 64).flatMap (fun i => leBytes 4 (s.reg (0x70100 + 4 * i)))

/-- The nonce of SEC_DBG_NONCE. -/
def State.nonceNow (s : State) : List Byte := (List.range 32).map (fun i => (Config.nonce s.sec.nonceNo).getD i 0#8)

/-- Bytes all zero. -/
def allZero (bs : List Byte) : Bool := bs.all (fun b => b == 0#8)

/-- The result code of a token (R590). -/
def State.tokenResult (s : State) : Nat :=
  let t := s.tokenBytes
  let st := byteAt t 5
  let owner := s.nv.active.2
  let serial := (List.range 16).map (fun i => Config.serial.getD i 0#8)
  if leAt t 0 4 ≠ 0x5A394455 ∨ byteAt t 4 ≠ 1 ∨ (st ≠ 1 ∧ st ≠ 2) ∨ !allZero ((t.drop 6).take 2) ∨ !allZero ((t.drop 56).take 8)
    ∨ !allZero (t.drop 160) then 2
  else if st = 1 ∧ !bit owner.flags 5 then 3
  else if (t.drop 8).take 16 ≠ serial then 4
  else if (t.drop 24).take 32 ≠ s.nonceNow then 5
  else if !Config.tokenOk st owner.ownerKey t then 6
  else if (List.range 16).any (fun n => bits (s.reg (rTenStatus (n + 1))) 1 0 != 0) ∨ s.gals.any (fun g => g.2.isSome)
    ∨ (List.range 16).any (fun n => (List.range 8).any (fun k => (s.ring (n + 1) k).st != .disabled)) then 7
  else 1

/-- New keys for HBM tags 0 and 17: with encryption enabled, what pages of tag 0 held no longer decrypts (R393, R591). -/
def State.rekeyHbm (s : State) : State :=
  let again := fun (t : Tab Nat) n => Tab.put 0 t n (Tab.get 0 t n + 1)
  let s := s.updSec (fun x => { x with hbmKeys := again (again x.hbmKeys 0) 17 })
  if !bit (s.reg rHbmEnc) 0 then s
  else
    (s.pages.filter (fun p => (p.2 == .used || p.2 == .marked) && Tab.get 0 s.pageTag p.1 == 0)).foldl (fun s p =>
      let (n, s) := s.drawFree
      let s := s.flushPage p.1
      { s with hbm := s.hbm.writeBytes (pageSize * p.1) (Config.freeBytes n pageSize) }) s

/-- A successful unlock (R591). -/
def State.unlock (s : State) (st : Nat) : State :=
  let s := (s.updSec (fun x => { x with dbg := st, unlocked := true, sessions := [], mix := st })).extend 8 [BitVec.ofNat 8 st]
  let s := s.secEvent.record .secDebugUnlock { noRec with node := hubN, unit := 0xD, code := st }
  if st = 2 then
    ({ s with keySlots := [], ferKeys := [] } : State).rekeyHbm.updSec (fun x => { x with keysUp := false })
  else s

/-- DEBUG_UNLOCK: a write of SEC_DBG_CTL.go. A module locked again stays LOCKED until the next start (log 48). -/
def execDebugUnlock (s : State) : Out :=
  .next (
    if !s.bar 0 then s
    else
      let r := s.tokenResult
      let st := byteAt s.tokenBytes 5
      let s := if r = 1 ∧ !s.sec.relocked then s.unlock st else s
      s.updSec (fun x => { x with result := r, nonceNo := x.nonceNo + 1 }))

/-- Every halt ends, each with a DBG_HALT record (R653). -/
def State.endHalts (s : State) : State :=
  let ks := (s.cells.filter (fun e => e.2.halted)).map Prod.fst
  (s.mapCells (fun _ c => { c with halted := false, stepLeft := 0, stepEnd := 0 })) |> fun s =>
    ks.foldl (fun s k => s.record .dbgHalt { noRec with node := k, unit := 0xD, code := 3 }) s

/-- DEBUG_LOCK: a write of SEC_DBG_CTL.lock; it ends every halt. -/
def execDebugLock (s : State) : Out :=
  .next (
    if !s.bar 0 || s.sec.dbg == 0 then s
    else (((s.updSec (fun x => { x with dbg := 0, relocked := true })).extend 8 [0#8]).secEvent).endHalts)

/-! ### Key slots (R581 to R585) -/

/-- SLOT_CLEAR: for later uses. -/
def execSlotClear (slot : Nat) (s : State) : Out :=
  .next (
    if !s.bar 0 then s
    else if slot < 0x80 then { s with keySlots := Tab.put none s.keySlots slot none }
    else if slot ≤ 0x90 then { s with ferKeys := Tab.put {} s.ferKeys (slot - 0x80) {} }
    else s)

/-- The previous key of a Ferier slot discarded. -/
def State.dropPrev (s : State) (n : Nat) : State := { s with ferKeys := Tab.put {} s.ferKeys n { s.ferKey n with prev := none } }

/-- FER_KEY_RETIRE. -/
def execFerKeyRetire (slot : Nat) (s : State) : Out :=
  .next (if s.bar 0 ∧ 0x80 ≤ slot ∧ slot ≤ 0x90 then s.dropPrev (slot - 0x80) else s)

/-- PREVIOUS_KEY_EXPIRE: 10 s after the key was displaced. -/
def execPreviousKeyExpire (slot : Nat) (s : State) : Out :=
  .next (
    let k := s.ferKey (slot - 0x80)
    if 0x80 ≤ slot ∧ slot ≤ 0x90 ∧ k.prev.isSome ∧ k.since + 10000000000 ≤ s.gc then s.dropPrev (slot - 0x80) else s)

/-- The session with a number. -/
def State.session? (s : State) (id : Nat) : Option Session := s.sec.sessions.find? (fun x => x.id == id)

/-- SET_KEY's response byte for a request of a session of root `r` (R582). -/
def State.setKeyCode (s : State) (r : Nat) (bs : List Byte) : Nat :=
  let slot := byteAt bs 0
  let t := byteAt bs 1
  let usage := byteAt bs 2
  if bs.length ≠ 48 ∨ !allZero ((bs.drop 3).take 13) ∨ 0x90 < slot ∨ 16 < t ∨ (slot < 0x80 ∧ 3 < usage)
    ∨ (0x80 ≤ slot ∧ (usage ≠ 0 ∨ t ≠ slot - 0x80)) then 1
  else if !bit (((s.nv.active.2.roots[r]?).getD ([], 0)).2) t then 2
  else if t ≠ 0 ∧ !s.present t then 3
  else 0

/-- SET_KEY: in a session whose requester authenticated against a provisioning root. -/
def execSetKey (session : Nat) (req : List Byte) (s : State) : Out :=
  .next (
    if !s.spdmUp then s
    else match (s.session? session).bind Session.root with
      | none => s.answerSpdm .error
      | some r =>
        let code := s.setKeyCode r req
        let slot := byteAt req 0
        let key := (req.drop 16).take 32
        let s := s.answerSpdm (.setKey code)
        if code ≠ 0 then s
        else if slot < 0x80 then
          { s with keySlots := Tab.put none s.keySlots slot (some { tenant := byteAt req 1, usage := byteAt req 2, key := key }) }
        else
          let k := s.ferKey (slot - 0x80)
          { s with ferKeys := Tab.put {} s.ferKeys (slot - 0x80) { cur := some key, prev := k.cur, since := s.gc } })

/-! ### Attestation and sessions (R577 to R579) -/

/-- The chain of a certificate slot: slot 0; in VENDOR_DEBUG's start slot 7's debug chain alone (R578, R591). -/
def State.chainOf (s : State) (slot : Nat) : Option (List Byte) :=
  if s.sec.keysUp then (if slot = 0 then some (Config.certChain 0 s.aliasSeed s.sec.mix) else none)
  else if slot = 7 then some (Config.certChain 7 [] s.sec.mix) else none

/-- GET_CERTIFICATE: a portion of a slot's chain. -/
def execGetCertificate (slot off len : Nat) (s : State) : Out :=
  .next (
    if !s.spdmUp then s
    else match s.chainOf slot with
      | some c => s.answerSpdm (.chain ((c.drop off).take len))
      | none => s.answerSpdm .error)

/-- GET_MEASUREMENTS: index 0xFF asks for all, 0 for none; signed by the alias key where a signature is asked for. -/
def execGetMeasurements (index : Nat) (nonce : List Byte) (sign : Bool) (s : State) : Out :=
  .next (
    if !s.spdmUp then s
    else if (10 < index ∧ index ≠ 0xFF) ∨ (sign ∧ !s.sec.keysUp) then s.answerSpdm .error
    else
      let is := if index = 0xFF then (List.range 10).map (· + 1) else if index = 0 then [] else [index]
      let ms := is.map (fun i => (i, s.meas i))
      s.answerSpdm (.measurements ms (if sign then some (s.aliasSign (nonce ++ ms.flatMap (fun m => m.2))) else none)))

/-- CHALLENGE: signed by the alias key, in VENDOR_DEBUG's start by slot 7's debug key. -/
def execChallenge (slot : Nat) (nonce : List Byte) (s : State) : Out :=
  .next (
    if !s.spdmUp then s
    else if slot = 0 ∧ s.sec.keysUp then s.answerSpdm (.signature (s.aliasSign nonce))
    else if slot = 7 ∧ !s.sec.keysUp then s.answerSpdm (.signature (Config.aliasSign [] s.sec.mix nonce))
    else s.answerSpdm .error)

/-- KEY_EXCHANGE: a session opened, of at most four; `chain` is the requester's certificate chain where it authenticates
mutually, whose root is looked up among the provisioning roots in force. -/
def execKeyExchange (chain : Option (List Byte)) (nonce : List Byte) (s : State) : Out :=
  .next (
    if !s.spdmUp then s
    else match (List.range 4).find? (fun i => (s.session? i).isNone) with
      | none => s.answerSpdm .error
      | some i =>
        let hash := chain.bind Config.chainRoot
        if !s.sec.keysUp || (chain.isSome && hash.isNone) then s.answerSpdm .error
        else
          let root := hash.bind (fun h => s.nv.active.2.roots.findIdx? (fun r => r.1 == h && bit r.2 31))
          (s.updSec (fun x => { x with sessions := x.sessions ++ [{ id := i, root := root }] })).answerSpdm (.session i (s.aliasSign nonce)))

/-- END_SESSION. -/
def execEndSession (session : Nat) (s : State) : Out :=
  .next (
    if !s.spdmUp then s
    else if (s.session? session).isNone then s.answerSpdm .error
    else (s.updSec (fun x => { x with sessions := x.sessions.filter (fun y => y.id != session) })).answerSpdm .ended)

/-- KEY_UPDATE. -/
def execKeyUpdate (session : Nat) (s : State) : Out :=
  .next (
    if !s.spdmUp then s
    else if (s.session? session).isNone then s.answerSpdm .error
    else (s.updSec (fun x => { x with sessions := x.sessions.map (fun y => if y.id = session then { y with keys := y.keys + 1 } else y) })).answerSpdm .updated)

/-! ### Link keys (R587) -/

/-- An IDE_KM request inside a session of the DOE mailbox, for key set 0 or 1 of the link stream. -/
def State.ideKm (s : State) (session set : Nat) (run : State → State) : State :=
  if !s.spdmUp then s
  else if (s.session? session).isNone ∨ 2 ≤ set then s.answerSpdm .error
  else run s

/-- KEY_PROG. -/
def execKeyProg (session set : Nat) (key : List Byte) (s : State) : Out :=
  .next (s.ideKm session set (fun s =>
    (s.updSec (fun x => { x with ideSets := Tab.put [] x.ideSets set key })).answerSpdm .ideAck))

/-- K_SET_GO: a programmed set comes into use; the link stream is active. -/
def execKSetGo (session set : Nat) (s : State) : Out :=
  .next (s.ideKm session set (fun s =>
    if Tab.get [] s.sec.ideSets set = [] ∨ bits (s.reg rLinkInfo) 2 0 = 0 then s.answerSpdm .error
    else ((s.updSec (fun x => { x with ideOn := some set })).setField rLinkInfo 10 10 1).answerSpdm .ideAck))

/-- K_SET_STOP: the set is no longer in use. -/
def execKSetStop (session set : Nat) (s : State) : Out :=
  .next (s.ideKm session set (fun s =>
    let s := s.updSec (fun x => { x with ideSets := Tab.put [] x.ideSets set [] })
    if s.sec.ideOn = some set then
      ((s.updSec (fun x => { x with ideOn := none })).setField rLinkInfo 10 10 0).answerSpdm .ideAck
    else s.answerSpdm .ideAck))

/-- IDE_QUERY. -/
def execIdeQuery (session : Nat) (s : State) : Out :=
  .next (s.ideKm session 0 (fun s => s.answerSpdm (.ideState s.sec.ideOn (s.sec.ideSets.map (fun e => e.1)))))

end Sys2Proof.Machine
end

