-- ==== Sys2Proof/Machine/Tenancy.lean ====
section
/-!
DEFINITION. Sys2Proof/Machine/Tenancy.lean: tenants, quotas, share classes and sealed tenancy (ch. 19).
-/
namespace Sys2Proof.Machine
open Sys2Proof

/-- TEN_STATUS.refused set (R686). -/
def State.tenRefuse (s : State) (t : Nat) : State := s.setReg (rTenStatus t) (setBit (s.reg (rTenStatus t)) 2 true)

/-- TEN_STATUS.state changed. -/
def State.tenState (s : State) (t st : Nat) : State := s.setField (rTenStatus t) 1 0 st

/-! ### Share classes and seal (R535, R539, R687, R688) -/

/-- The share class a tenant's register holds. -/
def State.shareReg (s : State) (t : Nat) : Nat := bits (s.reg (rTen t 0x20)) 3 0

/-- The checks of a sealed module for classes and weights: every PRESENT tenant has a class of its own with a weight of at
least 1, and the weights sum to at most 60. -/
def sealOk (tenants : List Nat) (cls : Nat → Nat) (w : List Nat) : Bool :=
  decide (w.sum ≤ 60) && tenants.all (fun t => decide (1 ≤ w.getD (cls t) 0) && tenants.all (fun u => u == t || cls u != cls t))

/-- The PRESENT tenants. -/
def State.tenants (s : State) : List Nat := ((List.range 16).map (· + 1)).filter s.present

/-- A SHARE_COMMIT applied: refused where the weights sum to more than 60 or would break the seal's checks. -/
def State.shareApply (s : State) : State :=
  let w := (List.range 16).map (fun c => s.reg (rShareW c))
  if 60 < w.sum ∨ (s.sealed ∧ sealOk s.tenants s.shareReg w = false) then
    s.setReg rShareStatus (setBit (s.reg rShareStatus) 0 true)
  else
    { s.setReg rShareStatus (setBit (s.reg rShareStatus) 1 true) with
        shareW := w
        shareClass := ((List.range 16).map (· + 1)).foldl (fun (c : Tab Nat) t => Tab.put 0 c t (s.shareReg t)) s.shareClass }

/-- SHARE_COMMIT (R535): held while the last commit's wheel is still being taken (R688). -/
def execShareCommit (s : State) : Out :=
  .next (if !s.bar 3 then s else if bit (s.reg rShareStatus) 1 then { s with shareHeld := true } else s.shareApply)

/-- SHARE_BUSY_CLEAR (R688): every port, engine and slice runs the new wheel; a held commit is applied. -/
def execShareBusyClear (s : State) : Out :=
  .next (
    if s.fatal then s else
    if !bit (s.reg rShareStatus) 1 then s
    else
      let t : State := { s.setReg rShareStatus (setBit (s.reg rShareStatus) 1 false) with wheel := buildWheel s.shareW }
      if s.shareHeld then ({ t with shareHeld := false } : State).shareApply else t)

/-- SEAL_CTL_WRITE (R539): ignored where SEALED_TENANCY is not committed; a change is pending, and one pending takes the
latest value (R688). -/
def execSealCtlWrite (en : Bool) (s : State) : Out :=
  .next (
    if !s.bar 3 || !s.feature 8 then s
    else
      let t := s.setReg rSealCtl en.toNat
      if bit (s.reg rSealStatus) 1 || en != s.sealed then t.setReg rSealStatus (setBit (s.reg rSealStatus) 1 true) else t)

/-- SEAL_APPLY (R539): no job is in flight; a held SHARE_COMMIT goes first (R688). -/
def execSealApply (s : State) : Out :=
  .next (
    if s.fatal then s else
    if !bit (s.reg rSealStatus) 1 || s.jobs.any (fun j => j.2.isSome) || s.shareHeld then s
    else
      let v := setBit (s.reg rSealStatus) 1 false
      if sealOk s.tenants (fun t => Tab.get 0 s.shareClass t) s.shareW then s.setReg rSealStatus (setBit v 0 (bit (s.reg rSealCtl) 0))
      else s.setReg rSealStatus (setBit v 2 true))

/-! ### The signal range (R534) -/

/-- A range of signals holds a number. -/
def inRange (base count n : Nat) : Bool := decide (base ≤ n) && decide (n < base + count)

/-- SIG_RANGE_WRITE: accepted where every signal that leaves or enters the range is FREE, and the new range overlaps no
other tenant's and ends at 16,383 at the latest. -/
def execSigRangeWrite (t base count : Nat) (s : State) : Out :=
  .next (
    if t = 0 ∨ 16 < t ∨ s.bar 3 = false then s
    else
      let old := s.reg (rTenSig t)
      let moves := fun (n : Nat) => inRange (bits old 13 0) (bits old 30 16) n != inRange base count n
      let clash := ((List.range 16).map (· + 1)).any (fun u =>
        let r := s.reg (rTenSig u)
        u != t && decide (0 < count) && decide (0 < bits r 30 16) && decide (base < bits r 13 0 + bits r 30 16) && decide (bits r 13 0 < base + count))
      let free := s.sigs.all (fun g => !moves g.1 || g.2.st == .free)
      if base < 16384 ∧ base + count ≤ 16384 ∧ clash = false ∧ free then s.setReg (rTenSig t) (base + 2 ^ 16 * count)
      else s.tenRefuse t)

/-! ### Creating and removing tenants (R530, R531) -/

/-- TENANT_CREATE: a write of CREATE for an ABSENT tenant, while STAGE reads 3 and the feature set is committed. -/
def execTenantCreate (t : Nat) (s : State) : Out :=
  .next (
    if t = 0 ∨ 16 < t ∨ s.bar 3 = false then s
    else if bits (s.reg (rTenStatus t)) 1 0 ≠ 0 then s.tenRefuse t
    else if s.stage ≠ 3 ∨ bit (s.reg rFeatStatus) 0 = false then s
    else
      let cls := fun (u : Nat) => if u = t then s.shareReg t else Tab.get 0 s.shareClass u
      if s.sealed ∧ sealOk (t :: s.tenants) cls s.shareW = false then s.tenRefuse t
      else
        let b := s.billOf t
        let s := s.zeroAcct t
        let s := s.setBill t { seq := b.seq, partial_ := true, startWall := s.wallNow, startGc := s.gc }
        { s.tenState t 1 with
            sec := { s.sec with hbmKeys := Tab.put 0 s.sec.hbmKeys t (Tab.get 0 s.sec.hbmKeys t + 1) }
            shareClass := Tab.put 0 s.shareClass t (s.shareReg t) })

/-- Step 1 of R531: every job of a tenant ends with CANCELLED; its completions are discarded, and no engine command,
packet, load or consumed entry of the tenant is left. -/
def State.dropJobs (s : State) (t : Nat) : State :=
  let mine := s.jobs.filterMap (fun e => match e.2 with | some j => if j.tenant = t then some (e.1, j) else none | none => none)
  let ids := (s.engines.flatMap (fun e => e.2)).filterMap (fun (c : EngCmd) =>
    if c.mirror.isNone && mine.any (fun e => e.1 == c.job) then some (c.id % 65536) else none)
  let s := mine.foldl (fun s e =>
    let s := s.stopStreams e.1
    let s := (s.mapCells (fun _ c => c.stopOf e.1)).stopPaging e.1 e.2
    let d := s.gc - e.2.admitGc
    ((s.setJob e.1 none).regAdd (rAcct t 0x80) 1).regAdd (rAcct t 0x90) d) s
  let s : State := { s with engines := Tab.update [] s.engines (fun _ q => q.filter (fun (c : EngCmd) =>
                              c.mirror.isSome || !mine.any (fun e => e.1 == c.job))) }
  let s := s.dropWaiters (fun i => i.node == hubS && i.unit == 0xE && ids.contains i.tag)
  let s := (s.loads.filter (fun l => l.tenant == t && l.started && !l.unload && !l.committed)).foldl State.undoLoad s
  { s with loads := s.loads.filter (fun l => l.tenant != t), cmds := s.cmds.filter (fun c => c.fn != t)
           flight := s.flight.filter (fun p => p.tenant != t) }

/-- Step 2: every gallery of a tenant is unloaded. -/
def State.dropGalleries (s : State) (t : Nat) : State :=
  s.gals.foldl (fun s e => match e.2 with
    | some g =>
      if g.tenant ≠ t then s
      else
        let cells := if g.resident then s.galCells g else []
        let s := cells.foldl State.dropWaits s
        let s : State := { s with links := s.links.filter (fun l => !cells.contains l.cell), creditFlight := s.creditFlight.filter (fun k => !cells.contains (k / 32)) }
        s.removeGallery e.1 g
    | none => s) s

/-- Step 3: reservations, collective groups, the gate, the tethered pair and the fabric domain of a tenant. -/
def State.dropShared (s : State) (t : Nat) : State :=
  let s := ({ s with reserves := s.reserves.filter (fun r => r.tenant != t) } : State).bwRecompute .release
  let s := (List.range 64).foldl (fun s i =>
    if s.grpValid i ∧ s.grpField i 4 20 16 = t then
      { (s.setField (rGrp i 0) 0 0 0) with groups := Tab.put [] s.groups i [], grants := s.grants.filter (fun g => g.1 != i) }
    else s) s
  let s : State := match s.gate with
    | some g => if g.set.tenant = t then (s.setField (rGate 0) 0 0 0).setGate false none else s
    | none => s
  let s := if s.tether.st ≠ .none ∧ s.tether.tenant = t then s.tetherDissolve else s
  if t = 0 then s else s.setReg (rFdom t) 0

/-- Step 4: every mapped page is unmapped, zeroed and returned to the pool; the page table is freed. -/
def State.dropPages (s : State) (t : Nat) : State :=
  let ps := (s.pt.filter (fun e => e.1 / 2 ^ 27 == t && bit e.2 0)).map (fun e => bits e.2 25 8)
  let s := ps.foldl (fun s p =>
    let s := (s.freePage p).zeroPage p
    if s.pageSt p = .dirty then s.setPage p .clean else s) s
  { s with pt := s.pt.filter (fun e => e.1 / 2 ^ 27 != t), l2 := s.l2.filter (fun e => e.1 / 16384 != t) }

/-- Step 5: every signal of the tenant's range becomes FREE with counter 0, its waiters released with ABANDONED. -/
def State.dropSignals (s : State) (t : Nat) : State :=
  let r := s.reg (rTenSig t)
  (s.sigs.filter (fun g => inRange (bits r 13 0) (bits r 30 16) g.1)).foldl (fun s g => (s.abandonSignal g.1).setSignal g.1 {}) s

/-- Step 6: the last record, and the tenant's keys gone (R531, R584). -/
def State.dropKeys (s : State) (t : Nat) : State :=
  let s := s.closeOne t s.wallNow true false
  { s with keySlots := Tab.update none s.keySlots (fun _ k => match k with | some x => if x.tenant = t then none else some x | none => none)
           ferKeys := Tab.put {} s.ferKeys t {} }

/-- The armed launch slots of a tenant are disarmed (R567). -/
def State.disarmAll (s : State) (t : Nat) : State :=
  { s with launch := Tab.update {} s.launch (fun k l => if l.st = 1 ∧ bits (s.reg (0x31008 + 0x20 * k)) 20 16 = t then { l with st := 0 } else l) }

/-- Steps 1 to 6 of R531, after which the tenant is ABSENT (log 46). -/
def State.removeTenant (s : State) (t : Nat) : State :=
  let s := (((((((s.dropJobs t).dropGalleries t).dropShared t).dropPages t).dropSignals t).dropKeys t).disarmAll t).tenState t 0
  { s with tablesLost := s.tablesLost.filter (fun u => u != t) }

/-- TENANT_REMOVE: a write of REMOVE for a PRESENT tenant, every ring of whose function is DISABLED. -/
def execTenantRemove (t : Nat) (s : State) : Out :=
  .next (
    if t = 0 ∨ 16 < t ∨ s.bar 3 = false then s
    else if bits (s.reg (rTenStatus t)) 1 0 ≠ 1 ∨ (List.range 8).any (fun k => (s.ring t k).st != .disabled) then s.tenRefuse t
    else s.removeTenant t)

end Sys2Proof.Machine
end

