-- ==== Sys2Proof/Machine/Stop.lean ====
section
/-!
DEFINITION. Sys2Proof/Machine/Stop.lean: what a reset leaves (R615, R616), entry to stage S5 (R605), and the fatal stop
(R641), as operations.
-/
namespace Sys2Proof.Machine
open Sys2Proof

/-- The queue's order of a record waiting in AO or at its source (R634). -/
def FaultLog.kept (l : FaultLog) : FaultLog := { ao := l.ao, held := l.held }

/-- What lies in AO of power and heat (R594, R615). -/
def PowerSt.kept (p : PowerSt) (time : Bool) : PowerSt :=
  { stage := p.stage, level := p.level, warmGc := if time then p.warmGc else [], tripN := p.tripN, trip := p.trip
    tripGc := if time then p.tripGc else 0, therm := p.therm, mv := p.mv, mw := p.mw }

/-- The time base after a reset: kept by a device reset, at 0 after the others (R555, R615). -/
def TimeSt.kept (t : TimeSt) (time : Bool) : TimeSt :=
  if time then { t with role := 0, master := 0, interval := 125, sync := .off, lastOff := 0, reqN := 0, reqGc := 0, req := none, exch := none
                        group := [], seen := 0, empty := 0, syncSmall := 0, peers := [] }
  else { refLost := t.refLost }

/-- The state a power-on, fundamental (`time` false) or device reset (`time` true) leaves: everything but AO, the
non-volatile memory and the host's memory is lost; an erase in progress stays journaled (R615, R616, R623). -/
def State.lost (s : State) (time : Bool) : State :=
  { State.reset with
      pending := s.pending, freeCtr := s.freeCtr, host := s.host, gc := if time then s.gc else 0, time := s.time.kept time
      log := s.log.kept, sag := s.sag, pwr := s.pwr.kept time, arrayHeld := decide (4 ≤ s.sag)
      sec := { svnFloor := s.sec.svnFloor, nonceNo := s.sec.nonceNo + 1 }
      nv := { s.nv with ops := [] }, ao := { s.ao with landed := false, start := false, halt := none, training := false }
      fer := { epoch := if s.fer.epoch = 65535 then 1 else s.fer.epoch + 1 } }

/-! ### Entry to S5 (R605) -/

/-- Completions of everything outstanding, with a status, as many as are written in time: jobs in slot order, then entries
in the order of their consumption (log 49). -/
def State.flush (s : State) (st : Status) (n : Nat) : State :=
  let jobs := s.jobs.filterMap (fun e => e.2.bind (fun j => (j.cmdId.bind (fun i => s.cmds.find? (fun c => c.id == i))).map (fun c => (c, e.1))))
  let rest := s.cmds.filter (fun c => !jobs.any (fun x => x.1.id == c.id))
  ((jobs ++ rest.map (fun c => (c, 0))).take n).foldl (fun s (x : Cmd × Nat) => s.finish x.1 st x.2) s

/-- Stage S5, or a disconnected input: jobs, loads and entries end with SHED, of whose completions `n` are written; every
domain but AO is powered off. -/
def State.powerDown (s : State) (n : Nat) : State :=
  let t := (s.flush .shed n).lost false
  { t with sag := 5, arrayHeld := true, pwr := { t.pwr with stage := 5 }
           ao := { t.ao with qualified := false, off := true, trigger := 5 } }

/-! ### The fatal stop (R641) -/

/-- All work ends without a completion; the ports go to DISABLED. -/
def State.haltAll (s : State) : State :=
  { s with jobs := [], loads := [], cmds := [], rings := [], lines := [], engines := [], flight := [], heldPkts := [], links := [], creditFlight := []
           gate := none, aliasGate := none
           cells := Tab.update Cell.reset s.cells (fun _ c => { c with mt := [], vt := [], ftq := [], mtOps := [] })
           fer := { s.fer with ports := [], wait := [], out := [], rx := [], gets := [] } }

/-- Heartbeats of state FAILING for 10 ms, one each hb_us (R477). -/
def State.failing (s : State) : State :=
  if s.tether.st.beats then (List.range (ceilDiv 10000 (max 1 s.tether.hbUs))).foldl (fun s _ => s.heartbeat) s else s

/-- A fatal stop with a cause. -/
def State.fatalStop (s : State) (code : Nat) : State :=
  if s.fatal then s
  else
    let r : FaultRec := { noRec with kind := .fatal, level := 4, node := hubN, unit := 0xD, code := code, gc := s.gc, seq := s.nextSeq }
    let s := s.record .fatal { noRec with node := hubN, unit := 0xD, code := code }
    let s : State := { s with fatal := true, ao := { s.ao with crash := some r } }
    s.failing.haltAll

end Sys2Proof.Machine
end

