-- ==== Sys2Proof/Machine/Power.lean ====
section
/-!
DEFINITION. Sys2Proof/Machine/Power.lean: power, clocks and thermal (ch. 22), and what the module's connectors bring of it
(R669, R678).
-/
namespace Sys2Proof.Machine
open Sys2Proof

def State.updPwr (s : State) (f : PowerSt → PowerSt) : State := { s with pwr := f s.pwr }
def State.updAo (s : State) (f : AoSt → AoSt) : State := { s with ao := f s.ao }

/-! ### Retention and KEEPALIVE (R453, R595, R598, R603) -/

/-- The ports leave KEEPALIVE, and what waited is sent. -/
def State.portsWake (s : State) : State :=
  let s := (List.range 16).foldl (fun s p =>
    if (s.port p).st = .keepalive then s.setPort p { s.port p with st := .up, since := s.gc } else s) s
  (List.range 16).foldl (fun s p => s.pumpPort p) s.ferPump

/-- Every UP port enters KEEPALIVE. -/
def State.portsRest (s : State) : State :=
  (List.range 16).foldl (fun s p =>
    if (s.port p).st = .up then s.setPort p { s.port p with st := .keepalive, since := s.gc } else s) s

/-- Array domains and ports follow the stage in force and deep idle. -/
def State.restOrWake (s : State) : State :=
  let s := if s.lowPower && !s.arrayHeld then s.flushLines (fun _ => true) else s
  let s : State := { s with arrayHeld := s.lowPower }
  if s.lowPower then s.portsRest else s.portsWake

/-- The stage in force is the higher of the input's and S4 under a thermal trip (R606). -/
def State.sagSet (s : State) : State :=
  let s : State := { s with sag := max s.pwr.stage (if s.pwr.trip then 4 else 0) }
  s.restOrWake

/-! ### Deep idle (R598, R599) -/

/-- DEEP_IDLE_REQUEST: a write of PWR_CTL with deep_idle 1. -/
def execDeepIdleRequest (ctl : Nat) (s : State) : Out :=
  .next (
    if !s.bar 0 || !bit ctl 0 then s
    else (s.setReg rPwrCtl (ctl % 4)).updPwr (fun p => { p with request := decide (p.mode = 0) }))

/-- The conditions of entry. -/
def State.idleNow (s : State) : Bool :=
  s.jobs.all (fun e => e.2.isNone) && s.loads.all (fun l => l.result.isSome) && s.engines.all (fun e => e.2.isEmpty)
    && s.cells.all (fun c => c.2.chans.all (fun x => x.2.sump.isNone)) && s.tether.st == .none && s.gate.isNone
    && s.launch.all (fun l => l.2.st != 1)

/-- DEEP_IDLE_ENTER (log 102). -/
def execDeepIdleEnter (s : State) : Out :=
  .next (
    if !s.pwr.request || !bit (s.reg rPwrCtl) 0 || s.pwr.mode ≠ 0 || s.stage ≠ 3 || s.fatal || !s.idleNow then s
    else (s.updPwr (fun p => { p with mode := 2, request := false, wake := false })).restOrWake)

/-- An ACTIVE ring has an entry available. -/
def State.ringWaits (s : State) : Bool := s.rings.any (fun r => r.2.st == .active && r.2.sqHead != r.2.dbTail)

/-- DEEP_IDLE_EXIT: a wake event, and no stage S4 in force. -/
def execDeepIdleExit (s : State) : Out :=
  .next (
    if s.pwr.mode ≠ 2 || decide (4 ≤ s.sag) || s.fatal || !(!bit (s.reg rPwrCtl) 0 || s.ringWaits || s.pwr.wake) then s
    else (s.updPwr (fun p => { p with mode := 0, wake := false })).restOrWake)

/-! ### Gating (R595, R596) -/

/-- AP_GATE_WRITE: a domain whose bit is cleared is powered on again. -/
def execApGateWrite (v : Nat) (s : State) : Out :=
  .next (
    if !s.bar 0 then s
    else { s.setReg rApGate (v % 2 ^ 32) with gated := s.gated.filter (fun n => bit v n) })

/-- A resident gallery has a good cell in a domain. -/
def State.domainUsed (s : State) (n : Nat) : Bool :=
  s.gals.any (fun e => match e.2 with
    | some (g : Gallery) => g.resident && (s.galCells g).any (fun c => apDomain c == n)
    | none => false)

/-- DOMAIN_GATE: what the domain held is lost; a request on its way to one of its cells is answered NODE. -/
def execDomainGate (n : Nat) (s : State) : Out :=
  .next (
    if 32 ≤ n ∨ s.stage < 2 ∨ s.fatal ∨ !bit (s.reg rApGate) n ∨ s.gated.contains n ∨ s.domainUsed n then s
    else
      let inside := fun (p : Packet) => s.goodCell p.dst && apDomain p.dst == n
      { s with gated := s.gated ++ [n], cells := s.cells.filter (fun c => apDomain c.1 != n)
               flight := s.flight.filterMap (fun p => if !inside p then some p else if p.body.vc = .req then some (nackOf p .node) else none) })

/-! ### The A-clock and the power cap (R601, R608) -/

/-- POWER_CAP_EVAL: with `mean` the mW of the last 10 ms and `now` those of the last 1 ms. -/
def execPowerCapEval (mean now : Nat) (s : State) : Out :=
  .next (
    if !s.ao.powered || s.ao.off then s
    else
      let s := s.updPwr (fun p => { p with mw := now })
      if !bit (s.reg rPwrCtl) 1 then s.updPwr (fun p => { p with capStep := 0, capShort := false })
      else if s.gc < s.pwr.capGc + 1000000 then s
      else
        let cap := 1000 * s.reg rPwrCap
        let k := s.pwr.capStep
        let s := s.updPwr (fun p => { p with capGc := s.gc, capShort := decide (cap < mean) && decide (k = 10) })
        if cap < mean then s.updPwr (fun p => { p with capStep := min 10 (k + 1) })
        else if 100 * mean < 95 * cap then s.updPwr (fun p => { p with capStep := k - 1 })
        else s)

/-! ### Supply sag (R603 to R605, R640) -/

/-- Thresholds in mV and sample counts of S1 to S5. -/
def sagMv (stage : Nat) : Nat := [0, 47000, 45000, 43000, 41000, 39000].getD stage 0
def sagCount (stage : Nat) : Nat := if stage = 1 then 50 else 2

/-- The newest samples in mV, newest last, lie below a stage's threshold. -/
def sagFalls (stage : Nat) (samples : List Nat) : Bool :=
  let last := samples.drop (samples.length - sagCount stage)
  decide (last.length = sagCount stage) && last.all (fun v => decide (v < sagMv stage))

/-- A change of stage: its record, its trace entry, and an event for board management; entries are counted (R609, R640,
R656, R672). -/
def State.sagRecord (s : State) (stage mv : Nat) (entry : Bool) : State :=
  let s := if entry then s.updAo (fun a => { a with sagEvt := Tab.put 0 a.sagEvt stage ((Tab.get 0 a.sagEvt stage + 1) % 2 ^ 64) }) else s
  ((s.record .sagStage { noRec with node := hubN, unit := 0xD, code := stage + (if entry then 2 ^ 31 else 0), idx0 := mv / 10 }).traceEv
    0xB 0 0 [s.pwr.stage]).pldmEvent

/-- The shedding controller runs: power is present and the input has qualified. -/
def State.shedding (s : State) : Bool := s.ao.powered && s.ao.qualified && !s.ao.off

/-- SAG_STAGE_ENTER: the next of the stages S1 to S4 is entered. -/
def execSagStageEnter (samples : List Nat) (s : State) : Out :=
  .next (
    let mv := samples.getLastD s.pwr.mv
    let n := s.pwr.stage + 1
    if !s.shedding then s
    else
      let s := s.updPwr (fun p => { p with mv := mv })
      if 4 < n ∨ !sagFalls n samples then s
      else ((s.updPwr (fun p => { p with stage := n })).sagRecord n mv true).sagSet)

/-- SAG_STAGE_EXIT: `low` is the lowest sample of the last 10 ms, `mv` the newest. -/
def execSagStageExit (low mv : Nat) (s : State) : Out :=
  .next (
    let n := s.pwr.stage
    if !s.shedding ∨ n = 0 ∨ 4 < n ∨ low < sagMv n + 1000 then s
    else ((s.updPwr (fun p => { p with stage := n - 1, mv := mv })).sagRecord n mv false).sagSet)

/-- SAG_S5_ENTER: `n` completions are written in time. -/
def execSagS5Enter (samples : List Nat) (n : Nat) (s : State) : Out :=
  .next (
    let mv := samples.getLastD s.pwr.mv
    if !s.shedding ∨ s.pwr.stage ≠ 4 ∨ !sagFalls 5 samples then s
    else (({ s with sag := 5 } : State).updPwr (fun p => { p with stage := 5, mv := mv })).sagRecord 5 mv true |>.powerDown n |>.updAo (fun a => { a with inS5 := true }))

/-- OVERVOLTAGE: five samples above 62.0 V (R678). -/
def execOvervoltage (samples : List Nat) (n : Nat) (s : State) : Out :=
  .next (
    let last := samples.drop (samples.length - 5)
    if !s.shedding ∨ last.length ≠ 5 ∨ !last.all (fun v => decide (62000 < v)) then s
    else (s.updPwr (fun p => { p with mv := samples.getLastD p.mv })).powerDown n)

/-- POWER_LOSS: below 37.0 V the module is unpowered, AO with it; the non-volatile memory stays (R603, R615, R634). -/
def execPowerLoss (s : State) : Out :=
  .next (
    if !s.ao.powered then s
    else
      let t := s.lost false
      { t with log := {}, sag := 0, arrayHeld := false, pwr := { mv := 0 }
               ao := { powered := false, perst := s.ao.perst, qualified := false } })

/-! ### Heat (R606, R607) -/

/-- A group's sensors: 0 to 3 the dies', 4 to 11 the stacks', 12 and 13 the hubs'. Its temperature is the highest, in 1/16 °C. -/
def groupTemp (temps : List Int) (g : Nat) : Int :=
  if g < 4 then ((temps.drop (12 * g)).take 12).foldl max (temps.getD (12 * g) 0) else temps.getD (44 + g) 0

/-- The threshold of a group's level 1 to 3, and of its trip, in 1/16 °C. -/
def levelAt (g level : Nat) : Int := if g < 4 then 16 * (90 + 5 * level) else 16 * (80 + 5 * level)
def tripAt (g : Nat) : Int := 16 * (if g < 4 then 110 else if g < 12 then 100 else 105)

/-- A level left once its sensors have stayed 3 °C below its threshold for 10 ms. -/
def State.coolTo (s : State) (g : Nat) : Nat → Nat
  | 0 => 0
  | k + 1 => if Tab.get 0 s.pwr.warmGc (4 * g + (k + 1)) + 10000000 ≤ s.gc then s.coolTo g k else k + 1

/-- A die's or stack's level evaluated: the A-clock level, or the throttle fraction and with it BW_FACTOR. -/
def State.thermLevel (s : State) (g : Nat) (t : Int) : State :=
  let old := Tab.get 0 s.pwr.level g
  let up := ([1, 2, 3].filter (fun (l : Nat) => decide (levelAt g l ≤ t))).length
  let warm := [1, 2, 3].filter (fun (l : Nat) => decide (levelAt g l - 48 < t))
  let s := s.updPwr (fun p => { p with warmGc := warm.foldl (fun w l => Tab.put 0 w (4 * g + l) s.gc) p.warmGc })
  let new := if old < up then up else s.coolTo g old
  if new = old then s
  else
    let seq := s.nextSeq
    let s := (s.updPwr (fun p => { p with level := Tab.put 0 p.level g new })).record .thermLevel
      { noRec with node := if g < 4 then hubN else sliceNode (g - 4), unit := if g < 4 then 0xD else 8, idx0 := if g < 4 then g else g - 4
                   code := new, extra0 := recPair old new }
    let s := (s.traceEv 0xB 0 0 [new]).pldmEvent
    if g < 4 then s
    else (s.setField (rStack (g - 4)) 9 8 new).bwRecompute (if old < new then .throttle else .recovered) seq

/-- THERM_SAMPLE: the 58 sensors in THERM_T's order; `n` completions are written in time on a critical trip. -/
def execThermSample (temps : List Int) (n : Nat) (s : State) : Out :=
  .next (
    if !s.ao.powered || s.ao.off || temps.length ≠ 58 then s
    else
      let s := s.updPwr (fun p => { p with therm := temps.zipIdx.foldl (fun (t : Tab Int) (x : Int × Nat) => Tab.put 0 t x.2 x.1) [] })
      let groups := List.range 14
      let s := (groups.take 12).foldl (fun s g => s.thermLevel g (groupTemp temps g)) s
      match groups.find? (fun g => decide (tripAt g + 80 ≤ groupTemp temps g)) with
      | some g => (s.record .thermCritical { noRec with node := hubN, unit := 0xD, idx0 := g, code := twos 32 (groupTemp temps g) }).powerDown n
      | none =>
        let s := s.updPwr (fun p => { p with
          tripN := groups.foldl (fun t g => Tab.put 0 t g (if tripAt g ≤ groupTemp temps g then Tab.get 0 t g + 1 else 0)) p.tripN
          tripGc := if groups.any (fun g => decide (tripAt g - 160 < groupTemp temps g)) then s.gc else p.tripGc })
        match groups.find? (fun g => decide (3 ≤ Tab.get 0 s.pwr.tripN g)) with
        | some g =>
          if s.pwr.trip then s
          else ((s.updPwr (fun p => { p with trip := true })).record .thermTrip
            { noRec with node := hubN, unit := 0xD, idx0 := g, code := twos 32 (groupTemp temps g) }).sagSet
        | none => if s.pwr.trip ∧ s.pwr.tripGc + 1000000000 ≤ s.gc then (s.updPwr (fun p => { p with trip := false })).sagSet else s)

/-! ### Droop (R602) -/

/-- The local number of a cell site in its die (R17). -/
def localNo (cell : Nat) : Nat := (cellY cell % 24) * 22 + cellX cell % 22

/-- The droop step falls where the die was stretched for more than half of the last 10 ms; the count of stretching starts anew. -/
def State.droopFall (s : State) (d : Nat) : State :=
  let from_ := s.gc - 10000000
  let past := (Tab.get [] s.pwr.stretches d).filter (fun x => decide (from_ < x.2))
  let open_ := if Tab.get false s.pwr.stretched d then [(Tab.get 0 s.pwr.stretchGc d, s.gc)] else []
  let t := ((past ++ open_).map (fun x => x.2 - max x.1 from_)).sum
  let k := Tab.get 0 s.pwr.droop d
  let s := s.updPwr (fun p => { p with stretches := Tab.put [] p.stretches d past })
  if t ≤ 5000000 ∨ k = 10 then s
  else
    let mhz := 2000 - 100 * (k + 1)
    (s.updPwr (fun p => { p with droop := Tab.put 0 p.droop d (k + 1), stretches := Tab.put [] p.stretches d []
                                 stretchGc := Tab.put 0 p.stretchGc d s.gc, calmGc := Tab.put 0 p.calmGc d s.gc })).record .droopStep
      { noRec with node := hubN, unit := 0xD, idx0 := d, code := mhz, extra0 := recPair (mhz + 100) mhz }

/-- DROOP_TRIP: a site's detector trips while its domain is powered. -/
def execDroopTrip (cell : Nat) (s : State) : Out :=
  .next (
    if cellSites ≤ cell ∨ s.stage < 2 ∨ s.arrayHeld ∨ s.cellGated cell then s
    else
      let d := cellDie cell
      let on := Tab.get false s.pwr.stretched d
      let s := (s.setReg (rDroopMap d) (setBit (s.reg (rDroopMap d)) (localNo cell) true)).regAdd (rDroopEvt d) 1
      (s.updPwr (fun p => { p with stretched := Tab.put false p.stretched d true, droopGc := Tab.put 0 p.droopGc d s.gc
                                   stretchGc := if on then p.stretchGc else Tab.put 0 p.stretchGc d s.gc })).droopFall d)

/-- DROOP_STRETCH_END: 256 A-cycles, each a quarter longer, have passed without a trip. -/
def execDroopStretchEnd (die : Nat) (s : State) : Out :=
  .next (
    let d := die % 4
    if !Tab.get false s.pwr.stretched d ∨ s.gc < Tab.get 0 s.pwr.droopGc d + ceilDiv (256 * 1250) (s.aclk d) then s
    else
      let s := s.droopFall d
      s.updPwr (fun p => { p with stretched := Tab.put false p.stretched d false, calmGc := Tab.put 0 p.calmGc d s.gc
                                  stretches := Tab.put [] p.stretches d (Tab.get [] p.stretches d ++ [(Tab.get 0 p.stretchGc d, s.gc)]) }))

/-- DROOP_STEP_RISE: 1 s without stretching. -/
def execDroopStepRise (die : Nat) (s : State) : Out :=
  .next (
    let d := die % 4
    let k := Tab.get 0 s.pwr.droop d
    if k = 0 ∨ Tab.get false s.pwr.stretched d ∨ s.gc < Tab.get 0 s.pwr.calmGc d + 1000000000 then s
    else s.updPwr (fun p => { p with droop := Tab.put 0 p.droop d (k - 1), calmGc := Tab.put 0 p.calmGc d s.gc }))

/-! ### REFCLK (R669) -/

/-- A reset by link disable: all but AO, the time base and the non-volatile memory is lost (R615, R616). -/
def State.linkDisable (s : State) (trig : Nat) : State :=
  let t := s.lost true
  { t with ao := { t.ao with trigger := trig } }

/-- REFCLK_LOSS: absent or more than 1,000 ppm off for 100 µs: the link goes down as by link disable; the GC counts on; PPS pauses. -/
def execRefclkLoss (s : State) : Out :=
  .next (
    if s.time.refLost ∨ !s.ao.powered ∨ s.ao.off ∨ s.ao.perst then s
    else
      let t := s.linkDisable 2
      { t with time := { t.time with refLost := true } })

/-- REFCLK_RETURN: PPS discipline goes on in ACQUIRING; the link trains and Landing starts. -/
def execRefclkReturn (s : State) : Out :=
  .next (
    if !s.time.refLost then s
    else
      let s := s.updTime (fun t =>
        let on := t.ppsEn && t.pps != .fault
        { t with refLost := false, pps := if on then .acquiring else t.pps, edge := if on then false else t.edge
                 small := if on then 0 else t.small, prevErr := if on then none else t.prevErr, since := if on then s.gc else t.since })
      if s.ao.powered ∧ !s.ao.off ∧ !s.ao.perst then s.updAo (fun a => { a with start := true }) else s)

end Sys2Proof.Machine
end

