-- ==== Sys2Proof/Machine/Retire.lean ====
section
/-!
DEFINITION. Sys2Proof/Machine/Retire.lean: which sites the mesh reaches (R241 to R243), and the retirement of cells (R639,
R643, R644).
-/
namespace Sys2Proof.Machine
open Sys2Proof

/-! ### Routes (R241, R242) -/

/-- The sites a grid link or die crossing joins to a site. -/
def neighbours (c : Nat) : List Nat :=
  (if cellX c = 0 then [] else [c - 1]) ++ (if cellX c = gridW - 1 then [] else [c + 1])
    ++ (if cellY c = 0 then [] else [c - gridW]) ++ (if cellY c = gridH - 1 then [] else [c + gridW])

/-- The good sites joined to a set, in at most a number of rounds. -/
def State.joined (s : State) : Nat → List Nat → List Nat
  | 0, r => r
  | k + 1, r =>
    match (r.flatMap neighbours).filter (fun c => s.goodCell c && !r.contains c) with
    | [] => r
    | new => s.joined k (r ++ new.eraseDups)

/-- The good sites with a route to the root, the good site with the lowest index: an up*/down* route exists exactly between
sites joined to it. -/
def State.reached (s : State) : List Nat :=
  match (List.range cellSites).find? s.goodCell with
  | some r => s.joined cellSites [r]
  | none => []

/-- Some hub or slice has no route: none of its attachments lies at a reached site. -/
def cutOff (r : List Nat) : Bool :=
  ([hubN, hubS] ++ (List.range 8).map sliceNode).any (fun n => !(attachCells n).any r.contains)

/-! ### Retirement -/

/-- A site's bit in the field cell map of both banks is programmed to 0 (R620). -/
def State.mapOut (s : State) (cell : Nat) : State :=
  let add := fun (b : NvBank) => if b.cells.contains cell then b else { b with cells := b.cells ++ [cell] }
  { s with badCells := s.badCells ++ [cell], nv := { s.nv with banks := s.nv.banks.map add } }

/-- The loads in progress in a gallery are refused with BAD_SITE; a FULL one leaves no gallery (R290, R639, R644). -/
def State.refuseLoadsOf (s : State) (n cell : Nat) : State :=
  let hit := (List.range s.loads.length).filter (fun i => match s.load? i with
    | some (l : Load) => l.gallery == n && l.started && !l.unload && !l.txOnly && !l.committed && l.result.isNone
    | none => false)
  hit.reverse.foldl (fun s i => match s.load? i with
    | some l => s.refuseLoad i rBadSite l.plain cell 0
    | none => s) s

/-- What a retirement does to the gallery that holds the cell: its jobs stop and it is BROKEN; a park in progress completes. -/
def State.breakGallery (s : State) (n cell seq : Nat) : State :=
  match s.gallery? n with
  | none => s
  | some g =>
    if g.busy then s
    else
      let s := (s.galJobs n).foldl (fun s j => s.stopJob (some j) .memUncorrectable seq) s
      let s := s.refuseLoadsOf n cell
      match s.gallery? n with
      | none => s
      | some g => (s.setGallery n (some { g with broken := true })).record .galleryBroken
          { noRec with node := cell, unit := 0xB, gallery := some n, tenant := g.tenant, causeSeq := seq }

/-- Steps 1 to 3 of R643, and the cell gone from the networks: its contents are lost, its homed signals go on in Hub N. -/
def State.retireOne (s : State) (cell cause : Nat) : State :=
  let seq := s.nextSeq
  let g := s.galleryOf cell
  let s := s.record .cellRetired { noRec with node := cell, unit := 0xF, causeSeq := cause }
  let s := (s.homeToHub cell).mapOut cell
  let s : State := { s with cells := s.cells.filter (fun c => c.1 != cell), links := s.links.filter (fun l => l.cell != cell)
                            flight := s.flight.filterMap (fun p => if p.dst ≠ cell then some p else if p.body.vc = .req then some (nackOf p .node) else none) }
  match g with
  | some n => s.breakGallery n cell seq
  | none => s

/-- A good cell retired, with the cells it leaves without a route; a hub or slice without one stops the module. The tables without
them are loaded once the mesh holds no packet (R243, R641, R643). -/
def State.retireCell (s : State) (cell cause : Nat) : State :=
  let seq := s.nextSeq
  let s := s.retireOne cell cause
  let r := s.reached
  let s := ((List.range cellSites).filter (fun c => s.goodCell c && !r.contains c)).foldl (fun s c => s.retireOne c seq) s
  if cutOff r then s.fatalStop 3 else s.loadTables

/-- 24 h in ticks of the GC. -/
def day : Nat := 86400 * 10 ^ 9

/-- A cell's records of a kind within the last 24 h, oldest first. -/
def State.cellRecords (s : State) (cell : Nat) (k : Kind) : List FaultRec :=
  s.log.ring.filter (fun r => r.kind == k && r.node == cell && decide (s.gc < r.gc + day))

/-- The fault that makes a cell fail, where R643 has it retired now: its second MEMT_DEGRADED or CELL_UNCORRECTABLE, or a
second granule found poisoned. -/
def State.failing? (s : State) (cell : Nat) : Option Nat :=
  let two := fun (rs : List FaultRec) => if 2 ≤ rs.length then rs.getLast?.map FaultRec.seq else none
  let gr := s.cellRecords cell .memtUncorrectable
  match two (s.cellRecords cell .memtDegraded), two (s.cellRecords cell .cellUncorrectable) with
  | some q, _ => some q
  | none, some q => some q
  | none, none => if 2 ≤ (gr.map FaultRec.addr).eraseDups.length then gr.getLast?.map FaultRec.seq else none

/-- CELL_RETIRE_STATUS. -/
def rRetireStatus : Nat := 0xA0204

/-- CELL_RETIREMENT: a write of CELL_RETIRE with go 1 (`write`), refused where the index is no good cell; or a cell that
fails by a threshold. -/
def execCellRetirement (cell : Nat) (write : Bool) (s : State) : Out :=
  .next (
    if write then
      (if !s.bar 3 then s
       else if s.goodCell cell then s.retireCell cell 0
       else s.setReg rRetireStatus (setBit (s.reg rRetireStatus) 1 true))
    else if !s.goodCell cell ∨ s.fatal ∨ s.stage < 2 then s
    else match s.failing? cell with
      | some q => s.retireCell cell q
      | none => s)

end Sys2Proof.Machine
end

