-- ==== Sys2Proof/Machine/Boot.lean ====
section
/-!
DEFINITION. Sys2Proof/Machine/Boot.lean: start-up, reset and the loading of the settings (ch. 23): start events, resets and
the four stages.
-/
namespace Sys2Proof.Machine
open Sys2Proof

/-! ### Start events and resets (R605, R610, R615, R616) -/

/-- A start event: the GC counts, and Landing may begin. -/
def State.startEvent (s : State) : State :=
  (s.updTime (fun t => { t with running := true })).updAo (fun a => { a with start := true })

/-- POWER_ON: over the last 10 ms the input lay between `low` and `high` mV (R605, R677). From S5, a critical trip or an
overvoltage the cause reads 5 (R630, R678). -/
def execPowerOn (low high : Nat) (s : State) : Out :=
  .next (
    if s.ao.qualified ∨ low < 48000 ∨ 60000 < high then s
    else
      let t := s.lost false
      let s : State := { t with sag := if t.pwr.trip then 4 else 0, arrayHeld := t.pwr.trip
                                pwr := { t.pwr with stage := 0, mv := low }
                                ao := { t.ao with powered := true, qualified := true, off := false, inS5 := false, smbus := 0x64
                                                  trigger := if s.ao.off then 5 else 0 } }
      let s := if t.ao.inS5 then s.sagRecord 5 low false else s
      if s.ao.perst then s else s.startEvent)

/-- PERST_ASSERT: a fundamental reset; the GC is held at 0. -/
def execPerstAssert (s : State) : Out :=
  .next (
    if s.ao.perst then s
    else if !s.ao.powered || s.ao.off then s.updAo (fun a => { a with perst := true })
    else (s.lost false).updAo (fun a => { a with perst := true, trigger := 1 }))

/-- PERST_DEASSERT: the GC starts, and Landing, where the input has qualified. -/
def execPerstDeassert (s : State) : Out :=
  .next (
    if !s.ao.perst then s
    else
      let s := s.updAo (fun a => { a with perst := false })
      if s.ao.powered ∧ s.ao.qualified ∧ !s.ao.off then s.startEvent else s)

/-- DEV_RESET: `trig` as RST_STATUS codes it: 2 hot reset or link disable, 3 RST_CTL, 4 the MCTP request (R616). -/
def execDevReset (trig : Nat) (s : State) : Out :=
  .next (
    if trig < 2 ∨ 4 < trig ∨ !s.ao.powered ∨ s.ao.off ∨ s.ao.perst ∨ !s.ao.landed then s
    else (s.linkDisable trig).startEvent)

/-! ### Stages (R610 to R614) -/

/-- A stage may run: no reset, no halt, no fatal stop. -/
def State.mayStage (s : State) : Bool :=
  s.ao.powered && !s.ao.off && !s.ao.perst && s.ao.halt.isNone && !s.fatal && !s.time.refLost

/-- A stage completes: STAGE advances, and vector 8 of every function with MSI-X enabled is raised. -/
def State.stageDone (s : State) (n : Nat) : State :=
  let s := ({ s with stage := n } : State).pldmEvent.traceEv 0xB 0 0 [n]
  ((List.range 17).filter (fun f => s.fnExists f && (s.fnCfg f).msix)).foldl (fun s f => s.raise f 8) s

/-- A halt in a stage (R614). -/
def State.halt (s : State) (code : Nat) : State :=
  (s.record .stageHalt { noRec with node := hubN, unit := 0xD, code := code }).updAo (fun a => { a with halt := some code })

/-- Microcode of the running bundle does not verify: a device reset from the other bank, or, where it ran as the fallback,
recovery (R614). -/
def State.fwFail (s : State) : State :=
  if s.sec.fallback then ((s.lost true).updAo (fun a => { a with force := some 2 })).startEvent
  else
    let b := 1 - s.sec.bank
    let s := s.record .secBootFallback { noRec with node := hubN, unit := 0xD, idx0 := s.sec.bank }
    ((s.lost true).updAo (fun a => { a with force := some b })).startEvent

/-- A bank's bundle, where every component is valid: its lowest svn (R574, R575). -/
def State.bundleOf (s : State) (b : Nat) : Option Nat :=
  match (s.bank b).bundle with
  | some v => if s.sec.svnFloor ≤ v then some v else none
  | none => none

/-- The bank that runs, and whether it is the fallback; none: recovery. -/
def State.bootBank (s : State) (pref : Nat) : Option (Nat × Bool) :=
  match s.ao.force with
  | some b => if b < 2 ∧ (s.bundleOf b).isSome then some (b, true) else none
  | none => if (s.bundleOf pref).isSome then some (pref, false) else if (s.bundleOf (1 - pref)).isSome then some (1 - pref, true) else none

/-- LANDING: the ROM measures and verifies the firmware and chooses the bank; AO and management come up. -/
def execLanding (s : State) : Out :=
  .next (
    if !s.ao.start || s.ao.landed || !s.mayStage then s
    else
      let forced := s.ao.force.isSome
      let t := s.updAo (fun a => { a with start := false, landed := true, cause := a.trigger, force := none })
      let t := t.extend 1 (Config.romInput t.sec.svnFloor)
      let run := fun (t : State) (i : Nat) => ((t.extend 2 (Config.fwImage i 0)).extend 3 (Config.fwImage i 1)).extend 8 [0#8]
      match s.bootRecord with
      | none => t.halt 3
      | some (_, pref) =>
        match s.bootBank (pref % 2) with
        | none => (run t 2).updSec (fun x => { x with recovery := true })
        | some (b, fb) =>
          let t := if fb ∧ !forced then t.record .secBootFallback { noRec with node := hubN, unit := 0xD, idx0 := 1 - b } else t
          (run t b).updSec (fun x => { x with bank := b, fallback := fb, svnRun := (s.bundleOf b).getD 0 }))

/-! ### Stage 1 (R610, R620 to R627) -/

/-- The BEGIN entries of both journals with no DONE of the same sector under the same or a later erase number. -/
def State.openErases (s : State) : List JEntry :=
  let all := (s.bank 0).journal ++ (s.bank 1).journal
  all.filter (fun e => !e.done && !all.any (fun d => d.done && d.bank == e.bank && d.sector == e.sector && decide (e.no ≤ d.no)))

/-- What an erased sector held is gone. -/
def NvBank.erased (b : NvBank) (sector : Nat) : NvBank :=
  if sector = 0 then { b with boot := none } else if sector = 1 then { b with journal := [] } else if sector = 2 then { b with counts := [] }
  else if sector = 3 then { b with settings := none } else if 16 ≤ sector then { b with bundle := none } else b

/-- Journal recovery (R624): the sector is erased again under its journal; a settings copy is then programmed from the other
bank's. -/
def State.recoverErases (s : State) : State :=
  s.openErases.foldl (fun s (e : JEntry) =>
    let jb := if e.sector = 1 then 1 - e.bank else e.bank
    let (n, s) := (s.journalRoom jb).eraseNo
    let j := fun (d : Bool) => ({ done := d, bank := e.bank, sector := e.sector, no := n } : JEntry)
    let s := (s.updBank jb (fun b => { b with journal := b.journal ++ [j false] })).updBank e.bank (fun b => b.erased e.sector)
    let s := (s.updBank jb (fun b => { b with journal := b.journal ++ [j true] })).regAdd rNvErase 1
    let s := if e.sector = 3 then s.updBank e.bank (fun b => { b with settings := (s.bank (1 - e.bank)).settings }) else s
    (s.regAdd rNvRecover 1).record .eraseRecovered { noRec with node := hubN, unit := 0xD, idx0 := e.bank, idx1 := e.sector, code := e.no }) s

/-- The boot count advanced (R621). -/
def State.countBoot (s : State) : State :=
  let c := ((s.bank 0).counts ++ (s.bank 1).counts).foldl max 0 + 1
  let b := c % 2
  let s := if 512 ≤ (s.bank b).counts.length then (s.eraseNow b 2).updBank b (fun x => { x with counts := [] }) else s
  { s.updBank b (fun x => { x with counts := x.counts ++ [c] }) with bootCount := c }

/-- A settings copy programmed after a journaled erase. -/
def State.rewriteSettings (s : State) (b seq : Nat) (x : Settings) : State :=
  (s.eraseNow b 3).updBank b (fun k => { k with settings := some (seq, x) })

/-- The settings in force chosen, the other copy brought in line (R627). -/
def State.chooseSettings (s : State) : State :=
  match (s.bank s.newestBank).settings with
  | none =>
    let s := (s.rewriteSettings 0 1 {}).rewriteSettings 1 1 {}
    (s.updNv (fun n => { n with active := (0, {}) })).record .settingsDefaulted { noRec with node := hubN, unit := 0xD }
  | some (q, x) =>
    let o := 1 - s.newestBank
    let s := s.updNv (fun n => { n with active := (q, x) })
    if (s.bank o).seq = q then s
    else (s.rewriteSettings o q x).record .settingsResync { noRec with node := hubN, unit := 0xD, idx0 := o }

/-- The settings in force placed in their registers (R625, R626). -/
def State.loadSettings (s : State) : State :=
  let x := s.nv.active.2
  let s := (List.range 8).foldl (fun s c => s.setReg (rTcBuf c) (x.tcBuf.getD c 128)) s
  let s := ((s.setReg rPortEn x.portEn).setField rFerCtl 0 0 (bit x.flags 4).toNat).setReg rSecPolicy x.plainCfg
  let s := (((s.setReg rApGate x.apGate).setReg rPwrCap x.capW).setField rPwrCtl 1 1 (bit x.flags 3).toNat).setReg rBillPeriod x.billS
  let s := s.setReg rHbmEnc (bit x.flags 0).toNat
  s.ppsWrite ((bit x.flags 2).toNat + 2 * s.time.stepEn.toNat + 2 ^ 16 * x.delayNs)

/-- The retired page list loaded, and the spares that are left on each stack (R379, R387). -/
def State.loadRetired (s : State) : State :=
  let ps := ((s.bank 0).pages ++ (s.bank 1).pages).eraseDups
  let s := ps.foldl (fun s p => s.setPage p .retired) s
  (List.range 8).foldl (fun s k =>
    s.setField (rStack k) 21 16 (32 - (ps.filter (fun p => stackOfPage p == k && reservedPage p)).length)) s

/-- HBM training: `modes` gives 0 at 8.0 Gb/s, 1 at 4.0 Gb/s alone, 2 neither, by stack (R388, R389). -/
def State.trainHbm (s : State) (modes : List Nat) : State :=
  (List.range 8).foldl (fun s k =>
    let m := min 2 (modes.getD k 0)
    let s := s.setField (rStack k) 1 0 m
    let r := { noRec with node := sliceNode k, unit := 8, idx0 := k }
    if m = 1 then s.record .hbmReduced r else if m = 2 then (s.setField (rStack k) 21 16 0).record .hbmStackFailed r else s) s

/-- What waited in AO copied into the ring, numbered now (R634). -/
def State.drainAo (s : State) : State :=
  let l := s.log
  { s with log := (l.ao ++ l.held).foldl (fun (g : FaultLog) r => g.append s.bootCount r) { l with ao := [], held := [] } }

/-- STAGE_1: `fwOk` says the Ferryman and loader microcode verifies, `hbm` how each stack trains. -/
def execStage1 (fwOk : Bool) (hbm : List Nat) (s : State) : Out :=
  .next (
    if s.stage ≠ 0 || !s.ao.landed || s.sec.recovery || !s.mayStage then s
    else
      let s := s.recoverErases
      if s.bundleOf s.sec.bank = none then s.fwFail
      else
        let s := s.countBoot.chooseSettings.loadSettings
        let s := (s.extend 7 s.nv.active.2.secBytes).loadRetired.trainHbm hbm
        if (List.range 8).all (fun k => s.stackMode k = 2) then s.halt 1
        else
          let s := s.updSec (fun x => { x with hbmKeys := [0, 17].foldl (fun t n => Tab.put 0 t n (Tab.get 0 t n + 1)) x.hbmKeys })
          if !fwOk then s.fwFail
          else (s.extend 4 (Config.fwImage s.sec.bank 2)).drainAo.stageDone 1)

/-! ### Stage 2 (R612) -/

/-- STAGE_2: `fwOk` says the array microcode verifies; `bad` lists the sites that fail the self-test. -/
def execStage2 (fwOk : Bool) (bad : List Nat) (s : State) : Out :=
  .next (
    if s.stage ≠ 1 || !s.mayStage then s
    else if !fwOk then s.fwFail
    else
      let s := s.extend 5 (Config.fwImage s.sec.bank 3)
      let s : State := { s with badCells := (s.nv.mfgBad ++ (s.bank 0).cells ++ (s.bank 1).cells).eraseDups, cells := [], gated := [] }
      let s := (bad.eraseDups.filter s.goodCell).foldl (fun s c =>
        (s.mapOut c).record .cellRetired { noRec with node := c }) s
      let s : State := { s with routeBad := s.badCells, flits := [] }
      let r := s.reached
      if cutOff r ∨ (List.range cellSites).any (fun c => s.goodCell c && !r.contains c) then s.halt 2
      else s.stageDone 2)

/-! ### Stage 3 (R252, R495, R496, R548, R613) -/

/-- Keys of the counters that Stage 3 clears. -/
def counterKey (k : Nat) : Bool :=
  let o := k % 0x400000
  (if 0x400000 ≤ k then decide (0x1800 ≤ o) && decide (o < 0x1A18) else
    (decide (0x10800 ≤ o) && decide (o < 0x10A18)) || (decide (0x40800 ≤ o) && decide (o < 0x40920)) || (decide (0x50100 ≤ o) && decide (o < 0x50400))
    || (decide (0x62000 ≤ o) && decide (o < 0x63028)) || (decide (0x90000 ≤ o) && decide (o < 0x930A8))) || k == rPpsReject || k == 0xB0218

/-- FEAT_OFFERED (R496). -/
def State.offered (s : State) : Nat :=
  let rate := bits (s.reg rLinkInfo) 2 0
  1 + 2 * (bit (s.reg rLinkInfo) 9).toNat + 4 + 8 + 16 + 32 + 2 ^ 6 * (decide (rate = 3)).toNat + 2 ^ 7 + 2 ^ 8 * s.sec.fwSigned.toNat
    + 2 ^ 9 + 2 ^ 10 + 2 ^ 11 + 2 ^ 12 + 2 ^ 13 + 2 ^ 14 + 2 ^ 15 * (decide (bits (s.reg rDevIdent) 23 16 = 0xB0)).toNat

/-- Stage 3 begins: the engines that pass their check are in service, and every enabled port enters TRAINING. -/
def State.beginStage3 (s : State) (engines : Nat) : State :=
  let s := s.extend 6 (Config.fwImage s.sec.bank 4)
  let s := (List.range 36).foldl (fun s e =>
    if bit engines e then s.setField rFeatStatus (28 + e) (28 + e) 1
    else s.record .engineOffline { noRec with node := hubS, unit := 6, idx0 := e }) s
  let (k, s) := s.drawFree
  let s := (s.updFer (fun f => { f with epoch := 1 + Config.freePick k 65535 })).updAo (fun a => { a with training := true })
  (List.range 16).foldl (fun s p =>
    if bit (s.reg rPortEn) p then
      s.setPort p { (s.port p).fresh with st := .training, since := s.gc, ident := false, buf := [], txq := []
                                          part := (List.range 8).map (fun c => s.reg (rTcBuf c)) }
    else s) s

/-- Stage 3 ends: signals FREE, counters cleared, features offered, the owner's billing period open. -/
def State.endStage3 (s : State) : State :=
  let s : State := { s with sigs := [], regs := s.regs.filter (fun r => !counterKey r.1), trace := { s.trace with head := 0 }
                            pwr := { s.pwr with energyUj := 0 }
                            bill := { p := s.billP, energyGc := s.gc, next := if s.time.valid then some (nextBoundary s.billP s.wallNow) else none } }
  let s := s.setBill 0 { startWall := s.wallNow, startGc := s.gc }
  (s.setReg rFeatOffered s.offered).stageDone 3

/-- STAGE_3: `fwOk` says the engine microcode verifies, `engines` has bit e for each engine that passes its check. The
stage waits until each enabled port is UP or FAILED. -/
def execStage3 (fwOk : Bool) (engines : Nat) (s : State) : Out :=
  .next (
    if s.stage ≠ 2 || !s.mayStage then s
    else if !s.ao.training ∧ !fwOk then s.fwFail
    else
      let s := if s.ao.training then s else s.beginStage3 engines
      if (List.range 16).any (fun p => (s.port p).st == .training) then s else s.endStage3)

/-! ### PF function-level reset (R527, R617) -/

/-- Key of a register of the host rings block, of the PF. -/
def hostKey (k : Nat) : Bool := decide (0x10000 ≤ k) && decide (k < 0x18000)

/-- Every signal FREE with counter 0, its waiters released. -/
def State.freeAll (s : State) : State := { s.sigs.foldl (fun (s : State) (g : Nat × Signal) => s.abandonSignal g.1) s with sigs := [] }

/-- The owner's own galleries, pages, jobs, groups, gate and pair (R617). -/
def State.dropOwner (s : State) : State := (((s.dropJobs 0).dropGalleries 0).dropShared 0).dropPages 0

/-- PF_FLR: every tenant is removed, the owner context freed, signals FREE, launch slots disarmed, gates and pairs gone; the
feature set is uncommitted. -/
def execPfFlr (s : State) : Out :=
  .next (
    if !s.ao.powered || s.ao.off || s.ao.perst || !s.ao.landed || s.fatal then s
    else
      let s := (List.range 17).foldl State.resetFn s
      let s := ((List.range 16).map (· + 1)).foldl (fun s t => if s.present t then s.removeTenant t else s) s
      let s := s.dropOwner.freeAll
      let s := (List.range 64).foldl (fun s i => if s.grpValid i then s.setField (rGrp i 0) 0 0 0 else s) s
      let s := (s.setField (rGate 0) 0 0 0).setGate false none
      let s := if s.tether.st = .none then s else s.tetherDissolve
      let s : State := { s with vfEn := false, pfOnly := decide (bits (s.reg rLinkInfo) 2 0 ≠ 3), feat := 0, groups := [], grants := []
                                aliasGate := none, launch := [], tablesLost := s.tablesLost.filter (fun t => t ≠ 0)
                                regs := s.regs.filter (fun r => !hostKey r.1) }
      (s.setField rFeatStatus 0 0 0).ideOff)

end Sys2Proof.Machine
end

