-- ==== Sys2Proof/Machine/Debug.lean ====
section
/-!
DEFINITION. Sys2Proof/Machine/Debug.lean: the fatal stop's rows, the debug cell window, halts, snapshots and signals set by
hand, the trace copy, JTAG and the SMBus interface (ch. 24, R672).
-/
namespace Sys2Proof.Machine
open Sys2Proof

/-! ### The fatal stop (R641) -/

/-- WATCHDOG_EXPIRE: a hub microcontroller has not reported progress for `silentMs`. -/
def execWatchdogExpire (silentMs : Nat) (s : State) : Out :=
  .next (if s.ao.landed ∧ s.ao.powered ∧ 100 ≤ silentMs then s.fatalStop 2 else s)

/-- FATAL_STOP: an uncorrectable error in the hub's state; the other causes come with their own rows. -/
def execFatalStop (s : State) : Out := .next (if s.ao.landed ∧ s.ao.powered then s.fatalStop 1 else s)

/-! ### Registers of the debug block (R660) -/

def rDbgSel : Nat := 0xB0000
def rDbgBase : Nat := 0xB0004
def rDbgStatus : Nat := 0xB0008
def rSigSel : Nat := 0xB0100
def rSigVal : Nat := 0xB0104
def rSigStatus : Nat := 0xB010C
def rTraceStatus : Nat := 0xB0208
def rTraceDrop : Nat := 0xB0218
def rTraceAddr : Nat := 0xB0220

/-- The debug block is readable: from Stage 3 on, and in a fatal stop (R611, R641). -/
def State.dbgBlock (s : State) : Bool := s.ao.powered && !s.ao.perst && s.ao.landed && decide (3 ≤ s.stage)

/-- DBG_CELL_SEL.cell. -/
def State.dbgCell (s : State) : Nat := bits (s.reg rDbgSel) 11 0

/-! ### Halting cells (R653) -/

/-- A write of DBG_HALT_CTL acts: the lock state grants it and the selected cell is good; with scope 1 it lies in a gallery. -/
def State.dbgMayHalt (s : State) (scope : Bool) : Bool :=
  s.bar 3 && s.dbgOpen && s.goodCell s.dbgCell && (!scope || (s.galleryOf s.dbgCell).isSome)

/-- The good cells a write with a scope concerns. -/
def State.dbgCells (s : State) (scope : Bool) : List Nat :=
  if scope then (List.range cellSites).filter (fun k => s.goodCell k && s.galleryOf k == s.galleryOf s.dbgCell) else [s.dbgCell]

/-- A DBG_HALT record: the cell, the scope, and 1 for a halt, 2 for a step, 3 for a resume. -/
def State.haltRecord (s : State) (cell : Nat) (scope : Bool) (code : Nat) : State :=
  s.record .dbgHalt { noRec with node := cell, unit := 0xD, gallery := if scope then s.galleryOf cell else none
                                 idx0 := scope.toNat, code := code }

/-- Cells halted, or running for the rest of a step. -/
def State.setHalt (s : State) (ks : List Nat) (on : Bool) (steps : Nat) : State :=
  ks.foldl (fun s k => s.setCell k { s.cell k with halted := on, stepLeft := steps
                                                   stepEnd := if steps = 0 then 0 else s.acycles (cellDie k) + steps }) s

/-- A write of DBG_HALT_CTL. -/
def State.haltWrite (s : State) (scope on : Bool) (steps code : Nat) : State :=
  if s.dbgMayHalt scope then (s.setHalt (s.dbgCells scope) on steps).haltRecord s.dbgCell scope code else s

/-- CELL_HALT (log 104). -/
def execCellHalt (scope : Bool) (s : State) : Out := .next (s.haltWrite scope true 0 1)

/-- CELL_RESUME. -/
def execCellResume (scope : Bool) (s : State) : Out := .next (s.haltWrite scope false 0 3)

/-- CELL_STEP: `count` A-cycles, then the cells halt again. -/
def execCellStep (scope : Bool) (count : Nat) (s : State) : Out :=
  .next (if 1 ≤ count ∧ count ≤ 65535 then s.haltWrite scope true count 2 else s)

/-- CELL_STEP_END: the die has made the A-cycles of the step, at whatever frequencies it ran meanwhile (R12, R653). -/
def execCellStepEnd (cell : Nat) (s : State) : Out :=
  .next (
    let c := s.cell cell
    if c.stepLeft = 0 ∨ s.acycles (cellDie cell) < c.stepEnd then s
    else (s.setHalt [cell] true 0).haltRecord cell false 1)

/-! ### Snapshots (R649) -/

/-- A cell's counters latched: its own, those of its tiles up to date, and by channel its channels' with their wait runs. -/
def Cell.latch (c : Cell) (f : ArrFeat) (elapsed : Nat) : Cell :=
  { c with snap := (c.clockUnits f elapsed 0).ctr, snapCh := c.chans.map (fun e => (e.1, e.2.counters ++ [e.2.waitRun])) }

/-- SNAPSHOT_TAKE: every good cell whose domain is ON. -/
def execSnapshotTake (s : State) : Out :=
  .next (
    if !s.bar 3 then s
    else
      let s := s.mapCells (fun k c => if s.cellOpen k then c.latch s.arrFeat (s.acycles (cellDie k) - c.since) else c)
      { s with dbg := { s.dbg with snapGc := s.gc, snapCyc := s.pwr.acyc }, flitsSnap := s.flits })

/-! ### The debug cell window (R650 to R652) -/

/-- The counters of what only timing within a cycle decides: they read as open values (log 50). -/
def CellCtr.timed : CellCtr → Bool
  | .vtCycDep | .memtCycWide | .memtCycWideEpi | .memtCycNarrow | .memtCycNarrowDeny | .memtEvtMerge | .meshCycNocredit | .meshCycLostarb
  | .meshCycSealidle | .cellEccCorr => true
  | _ => false

/-- The counters of space STATE by where their table begins, in the order of the table (R651). -/
def stateTables : List (Nat × List CellCtr) :=
  [(0x048, [.cellEccCorr, .cellEccUncorr]),
   (0x100, [.mtCycIssue, .mtCycPair, .mtCycLoad, .mtCycSwitch, .mtCycHeld, .mtCycLate, .mtCycWait, .mtCycIdle, .mtEvtKsteps
     , .mtEvtTiles, .mtEvtSwitches]),
   (0x200, [.vtCycIssue, .vtCycEpi, .vtCycSwitch, .vtCycDep, .vtCycLate, .vtCycWait, .vtCycIdle, .vtCycFtqFull, .vtEvtInstr
     , .vtEvtTiles, .vtEvtSwitches]),
   (0x300, [.memtCycWide, .memtCycWideEpi, .memtCycNarrow, .memtCycNarrowDeny, .memtCycStarve, .memtEvtRmw, .memtEvtMerge
     , .memtEccCorr, .memtEccUncorr])]
  ++ (List.range 6).map (fun p => (0x400 + 0x20 * p, [.meshEvtFlits, .meshCycNocredit, .meshCycLostarb, .meshCycSealidle]))
  ++ [(0x4C0, [.meshEvtLane1, .meshEvtBadnode]),
   (0x500, [.sigEvtOps, .sigEvtWakes, .sigEvtRetry, .sigEvtAbandon, .msgEvtTx, .msgEvtRx, .msgEvtNak, .msgEvtDrop, .msgCycNocredit]),
   (0x600, [.suEvtRec00, .suEvtRec01, .suCycCtl0, .suEvtRec10, .suEvtRec11, .suCycCtl1]),
   (0x640, [.swCycBusyN, .swCycBusyE, .swCycBusyS, .swCycBusyW, .swCycBusyL])]

/-- MT_CTX_STATE and VT_CTX_STATE (R651). -/
def ctxState (code : Nat) (job : Option Nat) (w : Option CtxWait) : Nat :=
  code + 16 * job.getD 0 + 65536 * (w.map CtxWait.sig).getD 0

/-- The code of a vector context's state (R117). -/
def VtSt.code (x : VtSt) : Nat := if x = .faulted then 7 else x.ctorIdx

/-- Contexts, flags and status of space STATE, always live: (offset, bytes, value). -/
def Cell.stateLive (c : Cell) (f : ArrFeat) : List (Nat × Nat × Nat) :=
  (List.range 4).flatMap (fun k =>
      let m := c.mtx k
      let v := c.vtx k
      [(0x000 + 4 * k, 4, ctxState m.st.ctorIdx m.job m.wait), (0x010 + 4 * k, 4, m.sticky),
       (0x020 + 4 * k, 4, ctxState (c.vtState f k).code v.job v.wait), (0x030 + 4 * k, 4, v.flags)])
    ++ [(0x040, 4, c.ready + 2 ^ 16 * c.owner + 2 ^ 21 * c.halted.toNat + 2 ^ 22 * c.fenced.toNat)]

/-- The counters of a channel by its role: an inbound one has no CH_CYC_CREDIT, CH_CYC_SLOT, CH_EVT_SUMP and CH_SUMP_WORDS, an
outbound one no CH_CYC_EMPTY (R222, R651). `vals` is in the order of Chan.counters, the wait run last. -/
def chanFields (ch role : Nat) (vals : List Nat) : List (Nat × Nat × Nat) :=
  let at_ := fun (i j : Nat) (b : Bool) => (0x800 + 0x40 * ch + 8 * i, 8, if b then vals.getD j 0 else 0)
  [at_ 0 0 (role != 0), at_ 1 1 (role == 2), at_ 2 2 (role == 2), at_ 3 3 (role == 1), at_ 4 6 (role != 0), at_ 5 4 (role == 2), at_ 6 5 (role == 2)]

/-- The counters of space STATE as they stand in `ctr`, the router's flits in `flits`, the channels' in `chs`; `free` gives the open
values. -/
def Cell.stateCtrs (c : Cell) (ctr : Tab Nat) (flits : Nat → Nat) (chs : Nat → List Nat) (free : Nat → Nat) : List (Nat × Nat × Nat) :=
  stateTables.flatMap (fun t => t.2.zipIdx.map (fun (k : CellCtr × Nat) =>
      (t.1 + 8 * k.2, 8, if k.1.timed then free (t.1 / 8 + k.2) else if k.1 = .meshEvtFlits then flits ((t.1 - 0x400) / 0x20)
        else Tab.get 0 ctr k.1.ctorIdx)))
    ++ (List.range 32).flatMap (fun ch => chanFields ch (bits (Tab.get 0 c.chanCfg ch) 1 0) (chs ch))

/-- The counters of a cell in space STATE: as they are now, or as they were latched last (R649, R651). -/
def State.cellCtrs (s : State) (cell : Nat) (snap : Bool) (free : Nat → Nat) : List (Nat × Nat × Nat) :=
  let c := s.cell cell
  let die := cellDie cell
  if snap then
    c.stateCtrs (({ c with ctr := c.snap } : Cell).clockUnits s.arrFeat (Tab.get 0 s.dbg.snapCyc die / 5000 - c.since) 0).ctr
      (fun p => Tab.get 0 s.flitsSnap (8 * cell + p)) (fun ch => Tab.get [] c.snapCh ch) free
  else
    c.stateCtrs (c.clockUnits s.arrFeat (s.acycles die - c.since) 0).ctr (fun p => Tab.get 0 s.flits (8 * cell + p))
      (fun ch => (c.chan ch).counters ++ [(c.chan ch).waitRun]) free

/-- Space CONFIG: CELL_CTRL, SWITCH, and the record numbers of SU0 and SU1 as two 32-bit words (log 50). -/
def Cell.configFields (c : Cell) : List (Nat × Nat × Nat) :=
  c.ctrlWords.zipIdx.map (fun (w : Nat × Nat) => (4 * w.2, 4, w.1))
    ++ (List.range 40).map (fun i => (0x100 + 2 * i, 2, Tab.get 0 c.slots i))
    ++ (List.range 32).map (fun i => (0x150 + 4 * i, 4, Tab.get 0 c.chanCfg i))
    ++ [(0x1D0, 4, c.su0.w0), (0x1D4, 4, c.su0.w1), (0x1D8, 4, c.su1.w0), (0x1DC, 4, c.su1.w1)]
    ++ [(0x200, 4, c.su0.recNo), (0x204, 4, c.su1.recNo)]

/-- A byte of a layout of fields; 0 where none lies. -/
def fieldByte (fs : List (Nat × Nat × Nat)) (a : Nat) : Byte :=
  match fs.find? (fun f => decide (f.1 ≤ a) && decide (a < f.1 + f.2.1)) with
  | some f => BitVec.ofNat 8 (f.2.2 / 256 ^ (a - f.1))
  | none => 0#8

/-- The finished tile in a buffer, row-major bytes (R146). -/
def Cell.tbTile (c : Cell) (buf : Nat) : Option (List Word) :=
  match c.ftq.find? (fun q => q.buf == buf) with
  | some q => some q.tile
  | none => if buf = 1 then (c.ftq.find? (fun q => q.lo.isSome)).bind FtqEntry.lo else none

/-- A byte of a list of words, as they lie in a buffer. -/
def wordByte (ws : List Word) (a : Nat) : Byte := BitVec.ofNat 8 ((ws.getD (a / 4) 0#32).toNat / 256 ^ (a % 4))

/-- A list of words with one byte changed; an empty one stands for a tile of zeros. -/
def setWordByte (ws : List Word) (a : Nat) (b : Byte) : List Word :=
  let ws := if ws = [] then zeroTile else ws
  ws.set (a / 4) (BitVec.ofNat 32 (setBits (ws.getD (a / 4) 0#32).toNat (8 * (a % 4) + 7) (8 * (a % 4)) b.toNat))

/-- A byte of space LOCAL (R119). -/
def Cell.winLocal (c : Cell) (a : Nat) : Byte :=
  if 0x10000 ≤ a ∧ a < 0x20000 then
    (match c.tbTile (a / 0x8000 - 2) with | some t => wordByte t (a % 0x8000) | none => c.loc.read a)
  else c.loc.read a

/-- A byte of space VREG (R114): V0 to V7, then M0 to M3. -/
def Cell.winVreg (c : Cell) (a : Nat) : Byte :=
  if a < 0x20000 then BitVec.ofNat 8 ((Tab.get 0#32 c.vr (a / 4)).toNat / 256 ^ (a % 4))
  else
    let i := 8 * (a - 0x20000)
    BitVec.ofNat 8 ((List.range 8).foldl (fun n k => n + (Tab.get false c.vm (i + k)).toNat * 2 ^ k) 0)

/-- A byte of space ACC: the lo word of a pair lies with its PARTNER. -/
def Cell.winAcc (c : Cell) (a : Nat) : Byte :=
  let k := a / 0x8000
  wordByte (if (c.mtx k).st = .partner then (c.mtx (k - 1)).lo else (c.mtx k).acc) (a % 0x8000)

/-- A byte of spaces LOCAL, VREG or ACC written. -/
def Cell.winPut (c : Cell) (space a : Nat) (b : Byte) : Cell :=
  match space with
  | 3 =>
    if 0x10000 ≤ a ∧ a < 0x20000 ∧ (c.tbTile (a / 0x8000 - 2)).isSome then
      let n := a / 0x8000 - 2
      if c.ftq.any (fun q => q.buf == n) then
        { c with ftq := c.ftq.map (fun (q : FtqEntry) => if q.buf = n then { q with tile := setWordByte q.tile (a % 0x8000) b } else q) }
      else { c with ftq := c.ftq.map (fun (q : FtqEntry) => { q with lo := q.lo.map (fun t => setWordByte t (a % 0x8000) b) }) }
    else c.putLocal a [b]
  | 4 =>
    if a < 0x20000 then
      { c with vr := Tab.put 0#32 c.vr (a / 4)
                          (BitVec.ofNat 32 (setBits (Tab.get 0#32 c.vr (a / 4)).toNat (8 * (a % 4) + 7) (8 * (a % 4)) b.toNat)) }
    else { c with vm := (List.range 8).foldl (fun t k => Tab.put false t (8 * (a - 0x20000) + k) (bit b.toNat k)) c.vm }
  | _ =>
    let k := a / 0x8000
    if (c.mtx k).st = .partner then
      c.setMtx (k - 1) { c.mtx (k - 1) with lo := setWordByte (c.mtx (k - 1)).lo (a % 0x8000) b }
    else c.setMtx k { c.mtx k with acc := setWordByte (c.mtx k).acc (a % 0x8000) b }

/-- The sizes of the spaces (R650); 6 and 7 are reserved. -/
def spaceSize : Nat → Nat
  | 0 => 0x1000 | 1 => 0x1000 | 2 => 0x100000 | 3 => 0x30000 | 4 => 0x22000 | 5 => 0x20000 | _ => 0

/-- The lock state and the halt grant an access (R650); spaces STATE and CONFIG take no write. -/
def State.winGrants (s : State) (cell space : Nat) (write : Bool) : Bool :=
  s.cellOpen cell && (space == 0 || s.dbgOpen) && (!write || (decide (2 ≤ space) && (space == 2 || (s.cell cell).halted)))

/-- A window access as the mesh carries it: source class HOST, tenant 0 (R652). -/
def winPacket (cell a : Nat) : Packet :=
  { src := hubN, dst := cell, tenant := 0, cls := .host, share := 16, tag := 0, body := .rd a 8 }

/-- The bytes of a window read. -/
def State.winRead (s : State) (cell space a n : Nat) (snap : Bool) : State :=
  let (k, s) := s.drawFree
  let c := s.cell cell
  let put := fun (s : State) (bs : List Byte) => ({ s with dbg := { s.dbg with win := bs } } : State)
  let each := fun (f : Nat → Byte) => (List.range n).map (fun i => f (a + i))
  match space with
  | 0 =>
    let fs := c.stateLive s.arrFeat ++ s.cellCtrs cell snap (fun i => Config.freeNat k / 2 ^ (48 * i) % 2 ^ 48)
    put s (each (fieldByte fs))
  | 1 => put s (each (fieldByte c.configFields))
  | 2 =>
    let (st, bs, s) := s.memtRead cell (winPacket cell a) a n true
    put s (if st = .poison then Config.freeBytes k n else bs)
  | 3 => put s (if (c.localBad a n).isSome then Config.freeBytes k n else each c.winLocal)
  | 4 => put s (each c.winVreg)
  | _ => put s (each c.winAcc)

/-- DBG_WINDOW_ACCESS: a read, or a write of `data`, of 4 or 8 bytes at `off` of the window. -/
def execDbgWindowAccess (write : Bool) (off : Nat) (wide : Bool) (data : Nat) (s : State) : Out :=
  .next (
    let n := if wide then 8 else 4
    let cell := s.dbgCell
    let space := bits (s.reg rDbgSel) 18 16
    let a := bits (s.reg rDbgBase) 20 0 + off
    let zeros := { s with dbg := { s.dbg with win := List.replicate n 0#8 } }
    if !(if write then s.bar 3 else s.dbgBlock) || decide (off % n ≠ 0) || decide (0x8000 < off + n) then s
    else if !s.winGrants cell space write then
      (if write then s else zeros).setField rDbgStatus 9 9 1
    else if spaceSize space < a + n then (if write then s else zeros)
    else if !write then s.winRead cell space a n (bit (s.reg rDbgSel) 31)
    else if space = 2 then (s.memtWrite cell (winPacket cell a) a (leBytes n data) true).2
    else s.setCell cell ((leBytes n data).zipIdx.foldl (fun c (b : Byte × Nat) => c.winPut space (a + b.2) b.1) (s.cell cell)))

/-! ### Signals set by hand (R654) -/

/-- SIGNAL_HAND_SET: SET DBG_SIG_VAL on the signal of DBG_SIG_SEL. -/
def execSignalHandSet (s : State) : Out :=
  .next (
    let n := bits (s.reg rSigSel) 13 0
    let v := s.reg rSigVal % 2 ^ 32
    let g := s.signal n
    if !s.bar 3 then s
    else if !s.dbgOpen && s.sigTenant n != 0 then s.setField rSigStatus 2 2 1
    else
      (s.hubSignal .set n v 0 .host { node := hubN, unit := 0xF, tag := 0 }).record .dbgSignalSet
        { noRec with node := hubN, unit := 0xD, idx0 := n, code := v, extra0 := recPair g.counter g.st.ctorIdx })

/-! ### Trace (R656, R657) -/

/-- A trace entry's 32 bytes. -/
def TraceRec.bytes (r : TraceRec) : List Byte :=
  leBytes 8 r.gc ++ leBytes 4 (r.kind + 2 ^ 8 * r.tenant + 2 ^ 15 * r.lost.toNat + 2 ^ 16 * r.job)
    ++ (List.range 5).flatMap (fun i => leBytes 4 (r.data.getD i 0))

/-- TRACE_COPY: the ring, oldest entry first, and zeros behind it, go to TRACE_COPY_ADDR in PF host memory. -/
def execTraceCopy (s : State) : Out :=
  .next (
    if !s.bar 3 || s.trace.copying then s
    else
      let s := s.traceFlush
      let a := s.reg rTraceAddr
      let m := (Tab.get [] s.host 0).filter (fun e => !(decide (a ≤ e.1) && decide (e.1 < a + 32 * traceSize)))
      let s := ({ s with host := Tab.put [] s.host 0 m } : State).hostWrite 0 a (s.trace.ring.flatMap TraceRec.bytes)
      { s.acctHost 0 (32 * traceSize) with trace := { s.trace with copying := true } })

/-- TRACE_COPY_DONE. -/
def execTraceCopyDone (s : State) : Out :=
  .next (if s.fatal then s else { s with trace := { s.trace with copying := false } })

/-- TRACE_ENTRY_DROP: the entry that waits could not be written within 16 µs. -/
def execTraceEntryDrop (s : State) : Out :=
  .next (
    match s.trace.wait with
    | none => s
    | some r =>
      if s.gc < r.gc + 16000 then s
      else ({ s with trace := { s.trace with wait := none, lost := true } } : State).regAdd rTraceDrop 1)

/-! ### Sideband (R658, R672) -/

/-- PLDM_EVENT_READ: SMBALERT# is asserted while an event is pending. -/
def execPldmEventRead (s : State) : Out :=
  .next (if s.ao.powered then s.updAo (fun a => { a with events := a.events - 1 }) else s)

/-- SMBALERT# is asserted. -/
def State.smbAlert (s : State) : Bool := s.ao.powered && decide (0 < s.ao.events)

/-- SMBUS_ARP: the address kept until the next power-on. -/
def execSmbusArp (addr : Nat) (s : State) : Out :=
  .next (if s.ao.powered then s.updAo (fun a => { a with smbus := addr % 128 }) else s)

/-- The opcodes of R658; every other selects BYPASS, as does an internal scan the lock state does not grant (R588). -/
def State.jtagSelect (s : State) (op : Nat) : Nat :=
  if op = 0x01 ∨ op = 0x02 ∨ op = 0x03 ∨ op = 0x04 ∨ op = 0x05 then op
  else if 0x80 ≤ op ∧ op ≤ 0x8F ∧ s.sec.dbg = 2 then op
  else 0xFF

/-- What the test access port does now: EXTEST, CLAMP and HIGHZ act while PERST# is asserted and as BYPASS else; internal scan
in VENDOR_DEBUG. -/
def State.jtagNow (s : State) : Nat :=
  let op := s.jtagSelect s.ao.jtag
  if 3 ≤ op ∧ op ≤ 5 ∧ !s.ao.perst then 0xFF else op

/-- The code IDCODE shifts out (R658). -/
def State.idcode (s : State) : Nat :=
  let id := s.reg rDevIdent
  1 + 2 * bits id 42 32 + 2 ^ 12 * 0x9A20 + 2 ^ 28 * (if bits id 23 16 = 0xA1 then 1 else 2)

/-- JTAG_INSTRUCTION: `op` shifted into the instruction register. -/
def execJtagInstruction (op : Nat) (s : State) : Out :=
  .next (if s.ao.powered then s.updAo (fun a => { a with jtag := s.jtagSelect op }) else s)

end Sys2Proof.Machine
end

