-- ==== Sys2Proof/Machine/Patrol.lean ====
section
/-!
DEFINITION. Sys2Proof/Machine/Patrol.lean: what HBM does on its own account (ch. 14): patrol, the migration of failing
pages, reduced mode and the failure of a stack (R642).
-/
namespace Sys2Proof.Machine
open Sys2Proof

/-- HBM_PATROL (R385): a stack's controller reads its next page; `found` lists the units of it that show an error and
whether the code can only detect it. -/
def execHbmPatrol (stack : Nat) (found : List (Nat × Bool)) (s : State) : Out :=
  .next (
    if 8 ≤ stack ∨ s.stage < 1 ∨ s.sag ≠ 0 ∨ s.pwr.mode ≠ 0 ∨ s.stackMode stack = 2 ∨ s.fatal then s
    else
      let p := s.patrolOf stack
      let s := s.hbmFound (pageSize * (32768 * stack + p.pos)) (found.filter (fun f => f.1 < 65536)) true
      let p := s.patrolOf stack
      s.setPatrol stack (if p.pos + 1 = 32768 then { prev := p.cur } else { p with pos := p.pos + 1 }))

/-! ### Migration (R386, R387) -/

/-- Every use of a page goes over to another: level-2 entries, spill and save areas, level-2 tables. -/
def State.rehome (s : State) (old new : Nat) : State :=
  let one := fun (p : Nat) => if p = old then new else p
  { s with
      pt := Tab.update 0 s.pt (fun _ e => if bit e 0 ∧ bits e 25 8 = old then setBits e 25 8 new else e)
      gals := Tab.update none s.gals (fun _ g => g.map (fun (g : Gallery) =>
        { g with spillPages := g.spillPages.map one, savePages := g.savePages.map one }))
      l2 := Tab.update 0 s.l2 (fun _ v => if v ≠ 0 ∧ v / pageSize = old then v % pageSize + pageSize * new else v) }

/-- A page's contents and poison copied to another. -/
def State.copyPage (s : State) (old new : Nat) : State :=
  let s := (s.flushPage old).zeroPage new
  let lines := (s.hbmPoison.filter (fun e => 128 * e.1 / pageSize = old ∧ e.2)).map (fun e => e.1 - pageSize / 128 * old + pageSize / 128 * new)
  { s with
      hbm := (s.hbm.filter (fun e => e.1 / pageSize == old)).foldl (fun (m : Memory) (e : Host.Cell) => m.writeBytes (e.1 - pageSize * old + pageSize * new) [e.2]) s.hbm
      hbmPoison := lines.foldl (fun (t : Tab Bool) l => Tab.put false t l true) s.hbmPoison }

/-- PAGE_MIGRATE: a marked page in use is copied and its translation replaced; with no page free anywhere it stays. -/
def execPageMigrate (ppn : Nat) (s : State) : Out :=
  .next (
    if s.pageSt ppn ≠ .marked ∨ s.fatal then s
    else
      let st := stackOfPage ppn
      let tag := Tab.get 0 s.pageTag ppn
      match s.sparePage ppn with
      | none => (s.setPage ppn .deferred).record .hbmRetireDeferred { noRec with node := sliceNode st, unit := 8, idx0 := st, addr := ppn, code := tag }
      | some (new, s) =>
        let s := ((s.givePage new tag).2.copyPage ppn new).rehome ppn new
        (s.retirePage ppn).record .hbmPageRetired
          { noRec with node := sliceNode st, unit := 8, idx0 := st, code := tag, extra0 := recPair ppn new })

/-! ### Reduced mode and failure (R388, R389, R642) -/

/-- A tenant's or the owner's tables lie on a stack. -/
def State.tablesOn (s : State) (t st : Nat) : Bool :=
  Config.l1On s.bootCount t st || s.l2.any (fun e => e.1 / 16384 == t && e.2 != 0 && stackOf e.2 == st)

/-- A tenant's page tables are lost. -/
def State.loseTables (s : State) (seq t : Nat) : State :=
  let n := s.nextSeq
  let s := s.record .tenantTablesLost { noRec with node := hubN, unit := 0xB, tenant := t, causeSeq := seq }
  let s : State := { s with tablesLost := s.tablesLost ++ [t] }
  (List.range 4096).foldl (fun s k => if s.jobTenant k = t then s.stopJob (some k) .memUncorrectable n else s) s

/-- The pairs of loader buffers on a stack are lost, and with them the loads that use them. -/
def State.losePairs (s : State) (lost : List Nat) : State :=
  let hit := (List.range s.loads.length).filter (fun i => match s.load? i with
    | some (l : Load) => l.started && !l.unload && l.result.isNone && !l.committed && lost.contains l.pair
    | none => false)
  let s := hit.reverse.foldl (fun s i => match s.load? i with
    | some l => s.refuseLoad i rFormat l.plain 0xFFFF 0
    | none => s) s
  { s with pairs := s.pairs.filter (fun p => !lost.contains p) }

/-- A stack has failed: HBM_STACK_FAILED and its consequences. -/
def State.stackFails (s : State) (st : Nat) : State :=
  let moved := Config.faultBufOn s.bootCount st
  let s : State := if moved then { s with log := { s.log with ring := [] } } else s
  let seq := s.nextSeq
  let s := (s.setReg (rStack st) (setBits (setBits (s.reg (rStack st)) 1 0 2) 21 16 0)).record .hbmStackFailed
    { noRec with node := sliceNode st, unit := 8, idx0 := st }
  let ts := (List.range 17).filter (fun t => (t = 0 ∨ s.present t) ∧ !s.tablesLost.contains t ∧ s.tablesOn t st)
  let s := ts.foldl (fun s t => s.loseTables seq t) s
  let s := s.losePairs (s.pairs.filter (fun p => Config.pairOn s.bootCount p st))
  let s := if moved then s.record .faultBufMoved { noRec with node := hubN, unit := 8, causeSeq := seq } else s
  let s : State := if Config.traceBufOn s.bootCount st ∧ s.trace.ring ≠ [] then
      { s with regs := (s.regAdd 0xB0218 s.trace.ring.length).regs, trace := { s.trace with ring := [], lost := true } } else s
  let s := s.bwRecompute .failed seq
  if (List.range 8).all (fun n => s.stackMode n = 2) then s.fatalStop 4 else s

/-- REDUCED_MODE_ENTRY: a stack retrains at 4.0 Gb/s; `ok` says it succeeds. A stack in reduced mode whose retries exceed
the bound again trains at 4.0 Gb/s no further. -/
def execReducedModeEntry (stack : Nat) (ok : Bool) (s : State) : Out :=
  .next (
    if 8 ≤ stack ∨ s.stage < 1 ∨ s.fatal ∨ s.stackMode stack ≠ 0 then s
    else if ok then
      let seq := s.nextSeq
      ((s.setField (rStack stack) 1 0 1).record .hbmReduced { noRec with node := sliceNode stack, unit := 8, idx0 := stack }).bwRecompute .reduced seq
    else s.stackFails stack)

end Sys2Proof.Machine
end

