-- ==== Sys2Proof/Machine/Timeouts.lean ====
section
/-!
DEFINITION. Sys2Proof/Machine/Timeouts.lean: the command timeout (R521, R645, R647).
-/
namespace Sys2Proof.Machine
open Sys2Proof

/-- A cell holds one of a job's contexts. -/
def Cell.holdsJob (c : Cell) (slot : Nat) : Bool :=
  (List.range 4).any (fun k => (c.mtx k).job == some slot || (c.vtx k).job == some slot)

/-- A message is a job's. -/
def State.msgOf (s : State) (slot : Nat) (o : OutMsg) : Bool := s.ownerJob o.owner == some slot

/-- A record is attributable to a job: it names a port or a destination that carries its traffic, a cell that holds one of its
contexts, its gallery, a stack it has accessed, or an engine that holds one of its active commands. -/
def State.attributable (s : State) (slot : Nat) (j : Job) (r : FaultRec) : Bool :=
  let port := r.kind == .ferIdMismatch || r.kind == .ferRetrain || r.kind == .ferPortFailed
  let dev := r.kind == .ferUnreachable || r.kind == .ferRefused
  (r.unit == 7 && port && s.carries r.idx0 slot)
    || (r.unit == 7 && dev && s.fer.out.any (fun o => s.msgOf slot o && o.m.dst == r.idx0))
    || (decide (r.node < cellSites) && (s.cell r.node).holdsJob slot)
    || (r.gallery.isSome && r.gallery == j.gallery)
    || (r.unit == 8 && j.hbmStacks.contains r.idx0)
    || (r.unit == 6 && (Tab.get [] s.engines r.idx0).any (fun c => c.jobOf == some slot && c.active))

/-- What an engine command waits for: 1 a signal, 2 a CE grant, 4 its queue. -/
def EngCmd.waitsFor (c : EngCmd) : Option (Nat × Nat) :=
  if c.fin.isSome then none
  else if !c.active then (if c.ready then some (4, 0) else some (1, c.waitSig))
  else if c.coll.isSome then some (2, 0)
  else none

/-- What a context waits for: 1 a signal, 3 a LATE region. -/
def Cell.ctxWaits (c : Cell) (slot i : Nat) : List (Nat × Nat) :=
  (List.range 4).filterMap (fun k =>
      let x := c.mtx k
      if x.job ≠ some slot ∨ x.task ≠ i then none
      else match x.wait with | some w => some (1, w.sig) | none => if x.st = .late then some (3, 0) else none)
    ++ (List.range 4).filterMap (fun k =>
      let x := c.vtx k
      if x.job ≠ some slot ∨ x.task ≠ i then none
      else match x.wait with | some w => some (1, w.sig) | none => if x.st = .late then some (3, 0) else none)

/-- What a task waits for, with the signal: 5 a resource held by another job, 6 a bind (R647). -/
def State.taskWaits (s : State) (slot : Nat) (j : Job) (i : Nat) (t : Task) : Option (Nat × Nat) :=
  match t.st with
  | .done => none
  | .waiting => none
  | .ready => some (if s.taskFree slot j t then 6 else 5, 0)
  | .bound =>
    ((s.engines.flatMap (fun e => e.2.filterMap (fun c => if c.jobOf = some slot ∧ c.task = i then c.waitsFor else none)))
      ++ s.cells.flatMap (fun e => e.2.ctxWaits slot i)).head?

/-- The lowest waiting task: its index, what it waits for, the signal; a job none of whose tasks waits so is taken to wait for
the bind of its first unfinished task (log 52). -/
def State.lowestWait (s : State) (slot : Nat) (j : Job) : Nat × Nat × Nat :=
  (j.tasks.zipIdx.findSome? (fun (t, i) => (s.taskWaits slot j i t).map (fun w => (i, w)))).getD
    ((j.tasks.findIdx? (fun t => t.st != .done)).getD 0, 6, 0)

/-- The cause of a job's timeout, in the order of R647. -/
def State.timeoutCause (s : State) (slot : Nat) (j : Job) : State :=
  let stop := fun (s : State) (seq : Nat) => s.stopJob (some slot) .timeout seq
  match s.log.latest j.admitGc (s.attributable slot j) with
  | some r => stop s r.seq
  | none =>
    match s.fer.out.find? (fun o => s.msgOf slot o && decide (1 ≤ o.retx)) with
    | some o =>
      let t := s.jobFault .ferUnreachable (some slot) .timeout { noRec with unit := 7, idx0 := o.m.dst, code := o.retx }
      t.updFer (fun f => { f with out := f.out.filter (fun x => !(s.msgOf slot x && x.m.dst == o.m.dst))
                                  wait := f.wait.filter (fun x => !(s.msgOf slot x && x.m.dst == o.m.dst)) })
    | none =>
      match s.fer.out.find? (fun o => s.msgOf slot o && o.due.isSome && !o.full) with
      | some o => s.jobFault .ferRefused (some slot) .timeout
          { noRec with unit := 7, idx0 := o.m.dst, idx1 := o.m.tc, addr := o.m.seq, code := nBusy }
      | none =>
        let (i, code, sig) := s.lowestWait slot j
        s.jobFault .cmdTimeout (some slot) .timeout { noRec with node := hubN, unit := 0xC, idx0 := i, idx1 := sig, code := code }

/-- CMD_TIMEOUT_EXPIRE: the command timeout of a consumed entry has passed and does not pause. A load whose checks have not all passed
is interrupted, and leaves what a refused one leaves (R287, R290, R292, log 86). -/
def execCmdTimeoutExpire (id : Nat) (s : State) : Out :=
  .next (
    if s.fatal then s else
    match s.cmds.find? (fun c => c.id == id) with
    | none => s
    | some c =>
      let due := match c.expires with | some e => decide (e ≤ s.gc) | none => false
      if !due || c.st ≠ .running then s
      else if jobOp c.op then
        match c.job with
        | none => s
        | some k =>
          match s.job? k with
          | none => s
          | some j =>
            if j.suspended || j.stop.isSome || (List.range 16).any (s.pausedBy k) then s
            else s.timeoutCause k j
      else if c.op = 8 then (s.dropWaiters (fun i => i.node == hubN && i.unit == 0xF && i.tag == c.id % 65536)).finish c .timeout 0
      else if c.op = 9 then s.finish c .timeout 0
      else if c.op = 3 then
        match s.loads.findIdx? (fun l => l.cmd == some id) with
        | some i => (match s.load? i with
          | some l => if l.committed || l.result.isSome || (l.txOnly && l.started) || (l.fenced && s.arrayHeld) then s else s.abortLoad i .timeout 0
          | none => s)
        | none => s.finish c .timeout 0
      else if c.op = 0xF ∧ s.tether.st = .forming ∧ s.tether.cmd = some id then
        let s := s.updFer (fun f => { f with out := f.out.filter (fun o => o.owner != .copy), wait := f.wait.filter (fun o => o.owner != .copy) })
        ({ s with tether := {} } : State).finish c .timeout 0
      else s)

end Sys2Proof.Machine
end

