-- ==== Sys2Proof/Machine/Registers.lean ====
section
/-!
DEFINITION. Sys2Proof/Machine/Registers.lean: writes of BAR0 registers that have no behaviour of their own (R7 to R10, R680).
A write that has a row of its own in the table of commands comes as that row's command and does nothing here (log 53).
-/
namespace Sys2Proof.Machine
open Sys2Proof

/-- Which of `n` registers, `stride` apart from `base` up, an offset is. -/
def regIdx (base stride n off : Nat) : Option Nat :=
  if base ≤ off ∧ (off - base) % stride = 0 ∧ (off - base) / stride < n then some ((off - base) / stride) else none

/-- The offset of a ring's register within its ring, with the ring (R493, R494, R497). -/
def ringOff (fn off : Nat) : Option (Nat × Nat) :=
  let base := if fn = 0 then 0x10000 else 0x1000
  if base ≤ off ∧ off < base + 0x800 then some ((off - base) / 0x100, (off - base) % 0x100) else none

/-- A 64-bit register begins at an offset. -/
def regWide (fn off : Nat) : Bool :=
  (match ringOff fn off with | some (_, o) => o == 0x08 || o == 0x10 || o == 0x18 | none => false)
    || (fn == 0 && ([0x20, 0x28, 0x50, 0x30010, 0x30040, 0x40C00, 0x60450, 0x60460, 0x60470, 0xA0010, 0xB0220].contains off
      || (regIdx 0x31000 0x20 64 off).isSome || (regIdx 0x61010 0x20 64 off).isSome))
    || (fn != 0 && off == 0x5010)

/-- The stage from which the block of an offset works (R611): fault records from Stage 1 on. -/
def regStage (fn off : Nat) : Nat :=
  if fn ≠ 0 then (if off < 0x1000 then 0 else if (0x3000 ≤ off ∧ off < 0x4000) ∨ (0x5000 ≤ off ∧ off < 0x5100) then 1 else 3)
  else if off < 0x2000 then 0
  else if 0x30000 ≤ off ∧ off < 0x40000 then 1
  else if 0x70000 ≤ off ∧ off < 0x80000 then 0
  else if 0x80000 ≤ off ∧ off < 0x90000 then 1
  else if 0xA0000 ≤ off ∧ off < 0xB0000 then 1
  else 3

/-- The key of a function's register. -/
def regKey (fn off : Nat) : Nat := if fn = 0 then off else vfKey fn off

/-- The fields `mask` of a register set where `ok` says they are in range. -/
def State.putFields (s : State) (k mask v : Nat) (ok : Bool) : State := if ok then s.setReg k (v &&& mask) else s

/-- Bits that a write of 1 clears (R7). -/
def State.w1c (s : State) (k mask v : Nat) : State := s.setReg k (s.reg k - (s.reg k &&& (mask &&& v)))

/-- A register of a ring (R497): bases and sizes only while the ring is DISABLED; RING_CTL here only where it leaves the ring
DISABLED. -/
def State.putRing (s : State) (fn k off v : Nat) : State :=
  let r := s.ring fn k
  let off' := decide (r.st = .disabled)
  match off with
  | 0x00 => if off' && !bit v 0 then s.setRing fn k { r with ctl := v % 16 } else s
  | 0x08 => if off' then s.setRing fn k { r with sqBase := v } else s
  | 0x10 => if off' then s.setRing fn k { r with cqBase := v } else s
  | 0x18 => if off' then s.setRing fn k { r with dbAddr := v } else s
  | 0x20 => if off' then s.setRing fn k { r with size := v &&& 0x1F1F } else s
  | 0x24 => s.setRing fn k { r with poll := max 1 (v % 2 ^ 16) }
  | 0x28 => s.setRing fn k { r with tmoDef := max 1 (v % 2 ^ 32) }
  | 0x2C => if bits v 8 0 ≤ 256 then s.setRing fn k { r with irq := max 1 (bits v 8 0) + 2 ^ 16 * bits v 25 16 } else s
  | _ => s

/-- An entry of a function's MSI-X table (R685); a mask bit that is cleared comes as MSIX_UNMASK. -/
def State.putMsix (s : State) (fn v off x : Nat) : State :=
  let k := rMsix fn v
  match off with
  | 0 => s.setReg k (setBits (s.reg k) 31 0 (x - x % 4))
  | 4 => s.setReg k (setBits (s.reg k) 63 32 x)
  | 8 => s.setReg (k + 8) (x % 2 ^ 32)
  | 12 => if bit x 0 then s.setReg (k + 12) 1 else s
  | _ => s

/-- A register of a tenant's group (R532, R535, R686): a value outside its range, or a class that would break the seal, is refused. -/
def State.putTen (s : State) (t off v : Nat) : State :=
  let put := fun (m hi : Nat) => if v &&& m ≤ hi then s.setReg (rTen t off) (v &&& m) else s.tenRefuse t
  match off with
  | 0x04 => s.w1c (rTenStatus t) 4 v
  | 0x08 => put 0x1FFF 4096
  | 0x0C => put 0x3FFFF 261632
  | 0x10 => put 0xFFF 2112
  | 0x14 => put 0x3F 32
  | 0x1C => put 0x3FFF 14000
  | 0x20 =>
    if t = 0 then s
    else if s.sealed && s.tenants.contains t && !sealOk s.tenants (fun u => if u = t then v % 16 else Tab.get 0 s.shareClass u) s.shareW then
      s.tenRefuse t
    else s.setReg (rTen t 0x20) (v % 16)
  | _ => s

/-- SYNC_CTL (R556, R562): the role SLAVE is refused while pps_en is 1; a change of role or master begins anew. -/
def State.putSync (s : State) (v : Nat) : State :=
  let role := v % 4
  let dev := bits v 27 16
  let ms := bits v 41 32
  let t := s.time
  if role = 3 ∨ ms = 0 ∨ 1000 < ms ∨ (role = 2 ∧ t.ppsEn) then s
  else if role = t.role ∧ dev = t.master then s.updTime (fun t => { t with interval := ms })
  else s.updTime (fun t => { t with role := role, master := dev, interval := ms, sync := if role = 2 then .acquiring else .off, reqN := 0, reqGc := 0
                                    req := none, exch := none, group := [], seen := 0, empty := 0, syncSmall := 0, since := s.gc })

/-- A register of a launch slot: ignored while it is ARMED (R565). -/
def State.putLaunch (s : State) (k off v : Nat) : State :=
  if (Tab.get {} s.launch k).st = 1 then s
  else match off with
    | 0x00 => s.setReg (rLaunch k 0x00) v
    | 0x08 => s.putFields (rLaunch k 0x08) 0x1FFFFF v (decide (bits v 20 16 ≤ 16))
    | 0x0C => s.setReg (rLaunch k 0x0C) (v % 2 ^ 32)
    | _ => s

/-- FER_TC_BUF (R439, R692): 16 to 1,024 flits with a sum of at most 1,024. -/
def State.putTcBuf (s : State) (c v : Nat) : State :=
  let x := bits v 10 0
  let rest := (((List.range 8).filter (fun d => d != c)).map (fun d => s.reg (rTcBuf d))).sum
  if 16 ≤ x ∧ x ≤ 1024 ∧ x + rest ≤ 1024 then s.setReg (rTcBuf c) x else s.setReg rFerStatus 1

/-- A setting of the step gate: ignored while gate_en is 1 (R412, R693). -/
def State.putGate (s : State) (off v : Nat) : State :=
  if s.gate.isSome then s
  else match off with
    | 0x00 => if bit v 0 then s else s.setReg (rGate 0) (v &&& 0x71F00)
    | 0x04 => s.setReg (rGate 0x04) (v % 2 ^ 16)
    | 0x08 => s.setReg (rGate 0x08) (v % 2 ^ 12)
    | 0x0C => s.setReg (rGate 0x0C) (v % 2 ^ 5)
    | 0x50 => s.setReg (rGate 0x50) v
    | 0x58 => s.setReg (rGate 0x58) (v % 2 ^ 16)
    | 0x5C => s.setReg (rGate 0x5C) (v % 2 ^ 16)
    | 0x60 => s.setReg (rGate 0x60) (v % 2 ^ 48)
    | 0x68 => s.setReg (rGate 0x68) (v &&& 0x3FFF3FFF)
    | 0x70 => s.setReg (rGate 0x70) (v % 2 ^ 48)
    | 0x78 => s.setReg (rGate 0x78) (v % 2 ^ 32)
    | o => match regIdx 0x10 4 16 o with
      | some _ => s.setReg (rGate o) (v % 2 ^ 12)
      | none => s

/-- A setting of a collective group: ignored while grp_valid is 1 (R694). -/
def State.putGrp (s : State) (i off v : Nat) : State :=
  if off = 0 then s.w1c (rGrp i 0) 4 v
  else if bit (s.reg (rGrp i 0)) 0 then s
  else match off with
    | 0x04 => s.putFields (rGrp i 0x04) 0x1FFFFF v (decide (bits v 20 16 ≤ 16))
    | 0x08 => s.putFields (rGrp i 0x08) 0xFFF1FFF v (decide (1 ≤ bits v 12 0) && decide (bits v 12 0 ≤ 4096) && decide (bits v 27 16 < bits v 12 0))
    | 0x10 => s.putFields (rGrp i 0x10) (2 ^ 64 - 1) v (v % 64 == 0)
    | _ => s

/-- FR_STATUS.lost of a function cleared (R637, R659). -/
def State.clearLost (s : State) (fn : Nat) : State :=
  if fn = 0 then { s with log := { s.log with lostSticky := false } }
  else { s with log := { s.log with tlostSticky := s.log.tlostSticky.filter (fun t => t != fn) } }

/-- A 32-bit register, or a 64-bit register whole, of the PF written. -/
def State.putPf (s : State) (off v : Nat) : State :=
  match off with
  | 0x00020 => if bit (s.reg rFeatStatus) 0 then s else s.setReg rFeatAccept (v % 2 ^ 16)
  | 0x00050 => s.w1c rFeatStatus 2 v
  | 0x01100 => if bit v 0 then s else s.setReg rPwrCtl (v &&& 2)
  | 0x01120 => s.putFields rPwrCap 0xFFF v (decide (1000 ≤ bits v 11 0) && decide (bits v 11 0 ≤ 3600))
  | 0x21044 => s.w1c rShareStatus 1 v
  | 0x21084 => s.w1c rSealStatus 4 v
  | 0x30010 => s.wallBaseWrite v
  | 0x30018 => if bit v 1 then s.updTime (fun t => { t with refused := false }) else s
  | 0x30028 => if bit v 0 = s.time.ppsEn then s.updTime (fun t => { t with stepEn := bit v 1, delay := bits v 31 16 }) else s
  | 0x30040 => s.putSync v
  | 0x40400 => s.setReg rFmCtl (v % 2)
  | 0x40C00 => s.putFields 0x40C00 0xFFFFFFE0001F v (decide (bits v 4 0 ≤ 16))
  | 0x60004 => s.setReg rFerCtl (v % 4)
  | 0x60090 => s.w1c rFerStatus 1 v
  | 0x70068 => s.setReg rSecPolicy (v % 2 ^ 17)
  | 0x93100 => s.putFields rBillPeriod 0x1FFFF v (decide (60 ≤ bits v 16 0) && decide (bits v 16 0 ≤ 86400))
  | 0x93800 => s.setReg 0x93800 (v &&& 0xF1F)
  | 0xA0010 => s.setReg 0xA0010 v
  | 0xA0018 => if bit v 1 then s.clearLost 0 else s
  | 0xA0028 => s.setReg (rLevelMin 0) (v % 8)
  | 0xA0140 => if bit v 0 then s.updAo (fun a => { a with crash := none }) else s
  | 0xA0204 => s.w1c 0xA0204 2 v
  | 0xB0000 => s.putFields rDbgSel 0x80070FFF v (decide (bits v 11 0 < cellSites) && decide (bits v 18 16 ≤ 5))
  | 0xB0004 => s.putFields rDbgBase 0x1FFFFF v (bits v 20 0 % 0x8000 == 0)
  | 0xB0008 => s.w1c rDbgStatus 0x200 v
  | 0xB0100 => s.setReg rSigSel (v % 2 ^ 14)
  | 0xB0104 => s.setReg rSigVal (v % 2 ^ 32)
  | 0xB010C => s.w1c rSigStatus 4 v
  | 0xB0200 => s.setReg rTraceCtl (v &&& 0x1FF0003)
  | 0xB0204 => s.setReg rTraceMask (v % 2 ^ 17)
  | 0xB0208 => if bit v 0 then { s with trace := { s.trace with full := false } } else s
  | 0xB0220 => s.putFields rTraceAddr (2 ^ 64 - 1) v (v % 4096 == 0)
  | o =>
    if 0x1200 ≤ o ∧ o < 0x1400 then
      (let d := (o - 0x1200) / 0x80
       let w := (o - 0x1200) % 0x80 / 4
       if 17 ≤ w then s else s.setReg (rDroopMap d) (setBits (s.reg (rDroopMap d)) (32 * w + 31) (32 * w)
         (bits (s.reg (rDroopMap d)) (32 * w + 31) (32 * w) &&& (v % 2 ^ 32 ^^^ (2 ^ 32 - 1)))))
    else if 0x18000 ≤ o ∧ o < 0x18090 then s.putMsix 0 ((o - 0x18000) / 16) (o % 16) v
    else if 0x20000 ≤ o ∧ o < 0x20440 then s.putTen ((o - 0x20000) / 0x40) (o % 0x40) v
    else if 0x31000 ≤ o ∧ o < 0x31800 then s.putLaunch ((o - 0x31000) / 0x20) (o % 0x20) v
    else if 0x60400 ≤ o ∧ o < 0x60480 then s.putGate (o - 0x60400) v
    else if 0x61000 ≤ o ∧ o < 0x61800 then s.putGrp ((o - 0x61000) / 0x20) (o % 0x20) v
    else match regIdx 0x21000 4 16 o, regIdx 0x40000 0x10 17 o, regIdx 0x40004 0x10 17 o, regIdx 0x40200 0x10 32 o with
      | some c, _, _, _ => s.putFields (rShareW c) 0x3F v (decide (bits v 5 0 ≤ 60))
      | _, some t, _, _ => if v % 2 ^ 32 = 0 then s else s.setReg (rFmDl t) (v % 2 ^ 32)
      | _, _, some t, _ => s.putFields (rFmPlace t) 7 v (bits v 2 0 == 1 || decide (4 ≤ bits v 2 0))
      | _, _, _, some g => if (s.gallery? g).isSome then s.setReg (rGalCtl g) (v &&& 0xFFFFF01) else s
      | _, _, _, _ =>
        match regIdx 0x60010 4 8 o, regIdx 0x60030 4 7 o, regIdx 0x70100 4 64 o, regIdx 0x93200 4 15 o with
        | some c, _, _, _ => s.putTcBuf c v
        | _, some c, _, _ => s.putFields (rTcWeight c) 0x7F v (decide (1 ≤ bits v 6 0) && decide (bits v 6 0 ≤ 64))
        | _, _, some _, _ => s.setReg o (v % 2 ^ 32)
        | _, _, _, some i => s.setReg (rAcctW i) (v % 2 ^ 16)
        | _, _, _, _ => s

/-- A register of VF `fn` written: only those its view does not mark RO (R494, R682). -/
def State.putVf (s : State) (fn off v : Nat) : State :=
  match off with
  | 0x4100 => s.setReg (vfKey fn 0x4100) (v % 16)
  | 0x5010 => s.setReg (vfKey fn 0x5010) v
  | 0x5018 => if bit v 1 then s.clearLost fn else s
  | 0x5028 => s.setReg (rLevelMin fn) (v % 8)
  | 0x5100 => s.setReg (vfKey fn 0x5100) (v % 2 ^ 12)
  | o => if 0x8000 ≤ o ∧ o < 0x8090 then s.putMsix fn ((o - 0x8000) / 16) (o % 16) v else s

/-- A register written whole. -/
def State.putReg (s : State) (fn off v : Nat) : State :=
  match ringOff fn off with
  | some (k, o) => s.putRing fn k o v
  | none => if fn = 0 then s.putPf off v else s.putVf fn off v

/-- The value a 64-bit register of R10 holds. -/
def State.wideNow (s : State) (fn off : Nat) : Nat :=
  match ringOff fn off with
  | some (k, o) =>
    let r := s.ring fn k
    if o = 0x08 then r.sqBase else if o = 0x10 then r.cqBase else r.dbAddr
  | none =>
    if fn = 0 ∧ off = 0x30010 then twos 64 s.time.base
    else if fn = 0 ∧ off = 0x30040 then s.time.role + 2 ^ 16 * s.time.master + 2 ^ 32 * s.time.interval
    else s.reg (regKey fn off)

/-- A 32-bit write: the low half of a 64-bit register is staged, the high half puts both into effect (R10). -/
def State.write32 (s : State) (fn off v : Nat) : State :=
  let v := v % 2 ^ 32
  if regWide fn off then { s with staged := Tab.put none s.staged (regKey fn off) (some v) }
  else if off % 8 = 4 ∧ regWide fn (off - 4) then
    let k := regKey fn (off - 4)
    let lo := (Tab.get none s.staged k).getD (s.wideNow fn (off - 4) % 2 ^ 32)
    ({ s with staged := Tab.put none s.staged k none } : State).putReg fn (off - 4) (lo + 2 ^ 32 * v)
  else s.putReg fn off v

/-- The function takes writes of its BAR0 at an offset. -/
def State.regOpen (s : State) (fn off : Nat) : Bool := s.fnExists fn && s.bar (regStage fn off) && (fn == 0 || decide (off < 0x10000))

/-- REGISTER_WRITE: a write of `size` bytes; one that is not of 4 or 8 bytes, or not naturally aligned, is discarded (R9); 64 bits
that are no 64-bit register are two writes of 32, the lower first (log 53). -/
def execRegisterWrite (fn off size value : Nat) (s : State) : Out :=
  .next (
    if (size ≠ 4 ∧ size ≠ 8) ∨ off % size ≠ 0 ∨ s.regOpen fn off = false then s
    else if size = 4 then s.write32 fn off value
    else if regWide fn off then s.putReg fn off (value % 2 ^ 64)
    else (s.putReg fn off (value % 2 ^ 32)).putReg fn (off + 4) (value / 2 ^ 32 % 2 ^ 32))

end Sys2Proof.Machine
end

