-- ==== Sys2Proof/Machine/Responses.lean ====
section
/-!
DEFINITION. Sys2Proof/Machine/Responses.lean: responses and wakes that reach the unit that asked (R236, R238, R262, R264,
R269), at a cell, at Hub N and at Hub S.
-/
namespace Sys2Proof.Machine
open Sys2Proof

/-- A response taken at its requester. A cell whose domain is off takes nothing. -/
def State.respArrive (s : State) (p : Packet) (f : State → State) : State :=
  if s.goodCell p.dst ∧ !s.cellOpen p.dst then s else s.arrive p f

/-- RD_DATA: the data reach the unit that read; no unit of the state keeps a read open, so nothing else changes. -/
def execRdData (p : Packet) (s : State) : Out :=
  .next (if s.fatal then s else match p.body with | .rdData .. => s.respArrive p id | _ => s)

/-- WR_ACK: with status OK, one write of an epilogue is acknowledged at its destination; its tag names context and tile
(R130, R236). -/
def execWrAck (p : Packet) (s : State) : Out :=
  .next (
    if s.fatal then s else
    match p.body with
    | .wrAck st =>
      s.respArrive p (fun s =>
        if s.goodCell p.dst ∧ st = .ok ∧ p.cls = .cell then s.epiAck p.dst (p.tag % 4) (p.tag / 4) else s)
    | _ => s)

/-- OP_DONE: the request is done; what depends on it looks at the request itself. -/
def execOpDone (p : Packet) (s : State) : Out :=
  .next (if s.fatal then s else match p.body with | .opDone _ => s.respArrive p id | _ => s)

/-- SIG_WAKE reaches its issuer: a context, an engine's command or a host entry (R264). -/
def execSigWake (p : Packet) (s : State) : Out :=
  .next (
    if s.fatal then s else
    match p.body with
    | .wake o sig count iss =>
      s.respArrive p (fun s =>
        if s.goodCell p.dst then (if iss.unit < 8 then s.ctxWake p.dst iss.unit sig iss.tag o else s)
        else if p.dst = hubS ∧ iss.unit = 0xE then s.engWake iss.tag o
        else if p.dst = hubN ∧ iss.unit = 0xF then s.hostWake iss.tag count o
        else s)
    | _ => s)

/-- A DMA engine's message was not taken: resent up to 4 times, then dropped; refused for ACCESS the command fails (R359). -/
def State.engNak (s : State) (tag : Nat) (st : MStatus) : State :=
  match s.engById tag with
  | none => s
  | some (e, c) =>
    if !c.sent || c.fin.isSome then s
    else if st = .queueFull then
      if c.tries < 4 then s.updEng e c.id (fun c => { c with again := true })
      else (s.engFin e c.id .ok 0 1 0).regAdd (rEng e 6) 1
    else s.engFin e c.id .badCommand 0 0 0

/-- MSG_NAK at the sender (R269, R359). -/
def execMsgNak (p : Packet) (s : State) : Out :=
  .next (
    if s.fatal then s else
    match p.body with
    | .msgNak st =>
      s.respArrive p (fun s =>
        if s.goodCell p.dst then s.msgRefusedAt p.dst p
        else if p.dst = hubS then s.engNak p.tag st
        else s)
    | _ => s)

/-- An engine's refused message sent again. -/
def State.engResend (s : State) : State :=
  match s.engines.findSome? (fun e => (e.2.find? (fun c => c.again)).map (fun c => (e.1, c))) with
  | some (e, c) => (s.updEng e c.id (fun c => { c with tries := c.tries + 1 })).engMsg e c
  | none => s

/-- MSG_RESEND: 256 M-cycles after a refusal the message is sent again, by a cell or by an engine of Hub S. -/
def execMsgResend (cell : Nat) (s : State) : Out := .next (if s.fatal then s else if cell = hubS then s.engResend else s.cellResend cell)

/-- A host entry's WAIT sent again. -/
def State.hostRetry (s : State) (id : Nat) : State :=
  match s.cmds.find? (fun c => c.id == id && c.retry) with
  | some c =>
    let s := { s with cmds := s.cmds.map (fun (x : Cmd) => if x.id = id then { x with retry := false } else x) }
    s.hubSignal .wait (c.w 8) (c.w 9) c.fn .host c.issuer
  | none => s

/-- An engine command's WAIT sent again. -/
def State.engRetry (s : State) (id : Nat) : State :=
  match s.engines.findSome? (fun e => (e.2.find? (fun c => c.id == id && c.retry)).map (fun c => (e.1, c))) with
  | some (e, c) => (s.updEng e c.id (fun c => { c with retry := false })).engWait c
  | none => s

/-- WAIT_RETRY: a WAIT answered RETRY is sent again (R262), by a context of a cell, or by the host entry (Hub N) or the
engine command (Hub S) with the identity `ctx`. -/
def execWaitRetry (cell ctx : Nat) (s : State) : Out :=
  .next (if s.fatal then s else if cell = hubN then s.hostRetry ctx else if cell = hubS then s.engRetry ctx else s.ctxRetry cell ctx)

end Sys2Proof.Machine
end

