-- ==== Sys2Proof/Machine/Dispatch.lean ====
section
/-!
DEFINITION. Sys2Proof/Machine/Dispatch.lean: one arm per command, a direct call of its meaning.
-/
namespace Sys2Proof.Machine
open Sys2Proof

/-- The effect of a command on everything but the queue. -/
def exec (i : Instr) (s : State) : Host.Outcome State Fault Refusal :=
  match i with
  | .jobLaunch fn ring h => Sys2Proof.Machine.execJobLaunch fn ring h s
  | .jobCancel fn ring => Sys2Proof.Machine.execJobCancel fn ring s
  | .cfgLoad fn ring h => Sys2Proof.Machine.execCfgLoad fn ring h s
  | .cfgUnload fn ring => Sys2Proof.Machine.execCfgUnload fn ring s
  | .engineCmd fn ring h => Sys2Proof.Machine.execEngineCmd fn ring h s
  | .signalSet fn ring => Sys2Proof.Machine.execSignalSet fn ring s
  | .signalAdd fn ring => Sys2Proof.Machine.execSignalAdd fn ring s
  | .signalWait fn ring => Sys2Proof.Machine.execSignalWait fn ring s
  | .fence fn ring => Sys2Proof.Machine.execFence fn ring s
  | .exportShard fn ring h => Sys2Proof.Machine.execExportShard fn ring h s
  | .importShard fn ring h => Sys2Proof.Machine.execImportShard fn ring h s
  | .reserveBwSet fn ring => Sys2Proof.Machine.execReserveBwSet fn ring s
  | .reserveBwRelease fn ring => Sys2Proof.Machine.execReserveBwRelease fn ring s
  | .timeQuery fn ring => Sys2Proof.Machine.execTimeQuery fn ring s
  | .settingsStore fn ring h => Sys2Proof.Machine.execSettingsStore fn ring h s
  | .tetherForm fn ring h => Sys2Proof.Machine.execTetherForm fn ring h s
  | .tetherDissolve fn ring h => Sys2Proof.Machine.execTetherDissolve fn ring h s
  | .tetherAdopt fn ring h => Sys2Proof.Machine.execTetherAdopt fn ring h s
  | .tetherResync fn ring h => Sys2Proof.Machine.execTetherResync fn ring h s
  | .tetherRelease fn ring h => Sys2Proof.Machine.execTetherRelease fn ring h s
  | .consumeEntry fn ring h => Sys2Proof.Machine.execConsumeEntry fn ring h s
  | .doorbellWrite fn off size value => Sys2Proof.Machine.execDoorbellWrite fn off size value s
  | .doorbellPoll fn ring h => Sys2Proof.Machine.execDoorbellPoll fn ring h s
  | .doorbellSnoop fn ring h => Sys2Proof.Machine.execDoorbellSnoop fn ring h s
  | .cqLineEvict fn ring addr => Sys2Proof.Machine.execCqLineEvict fn ring addr s
  | .cqLineSnoop fn ring addr inv => Sys2Proof.Machine.execCqLineSnoop fn ring addr inv s
  | .evictResponse fn ring addr drop => Sys2Proof.Machine.execEvictResponse fn ring addr drop s
  | .ringEnable fn ring ctl => Sys2Proof.Machine.execRingEnable fn ring ctl s
  | .ringDisable fn ring => Sys2Proof.Machine.execRingDisable fn ring s
  | .ringDrainEnd fn ring => Sys2Proof.Machine.execRingDrainEnd fn ring s
  | .irqDelayExpire fn ring => Sys2Proof.Machine.execIrqDelayExpire fn ring s
  | .cmdTimeoutExpire id => Sys2Proof.Machine.execCmdTimeoutExpire id s
  | .vfFlr fn => Sys2Proof.Machine.execVfFlr fn s
  | .pfFlr => Sys2Proof.Machine.execPfFlr s
  | .featCommit value => Sys2Proof.Machine.execFeatCommit value s
  | .registerWrite fn off size value => Sys2Proof.Machine.execRegisterWrite fn off size value s
  | .tenantCreate t => Sys2Proof.Machine.execTenantCreate t s
  | .tenantRemove t => Sys2Proof.Machine.execTenantRemove t s
  | .sigRangeWrite t base count => Sys2Proof.Machine.execSigRangeWrite t base count s
  | .shareCommit => Sys2Proof.Machine.execShareCommit s
  | .sealCtlWrite en => Sys2Proof.Machine.execSealCtlWrite en s
  | .sealApply => Sys2Proof.Machine.execSealApply s
  | .billingPeriodClose => Sys2Proof.Machine.execBillingPeriodClose s
  | .energyInterval uj counts => Sys2Proof.Machine.execEnergyInterval uj counts s
  | .wallBaseWrite v => Sys2Proof.Machine.execWallBaseWrite v s
  | .wallSlewWrite v => Sys2Proof.Machine.execWallSlewWrite v s
  | .ppsEnWrite ctl => Sys2Proof.Machine.execPpsEnWrite ctl s
  | .ppsEdge => Sys2Proof.Machine.execPpsEdge s
  | .ppsLost => Sys2Proof.Machine.execPpsLost s
  | .syncRequestSend => Sys2Proof.Machine.execSyncRequestSend s
  | .timeSyncReq port m => Sys2Proof.Machine.execTimeSyncReq port m s
  | .timeSyncResp port m => Sys2Proof.Machine.execTimeSyncResp port m s
  | .launchArm k => Sys2Proof.Machine.execLaunchArm k s
  | .launchDisarm k => Sys2Proof.Machine.execLaunchDisarm k s
  | .launchFire k => Sys2Proof.Machine.execLaunchFire k s
  | .deepIdleRequest ctl => Sys2Proof.Machine.execDeepIdleRequest ctl s
  | .deepIdleEnter => Sys2Proof.Machine.execDeepIdleEnter s
  | .deepIdleExit => Sys2Proof.Machine.execDeepIdleExit s
  | .apGateWrite v => Sys2Proof.Machine.execApGateWrite v s
  | .domainGate n => Sys2Proof.Machine.execDomainGate n s
  | .powerCapEval mean now => Sys2Proof.Machine.execPowerCapEval mean now s
  | .sagStageEnter samples => Sys2Proof.Machine.execSagStageEnter samples s
  | .sagStageExit low mv => Sys2Proof.Machine.execSagStageExit low mv s
  | .sagS5Enter samples n => Sys2Proof.Machine.execSagS5Enter samples n s
  | .overvoltage samples n => Sys2Proof.Machine.execOvervoltage samples n s
  | .thermSample temps n => Sys2Proof.Machine.execThermSample temps n s
  | .droopTrip cell => Sys2Proof.Machine.execDroopTrip cell s
  | .droopStepRise die => Sys2Proof.Machine.execDroopStepRise die s
  | .refclkLoss => Sys2Proof.Machine.execRefclkLoss s
  | .powerOn low high => Sys2Proof.Machine.execPowerOn low high s
  | .perstAssert => Sys2Proof.Machine.execPerstAssert s
  | .perstDeassert => Sys2Proof.Machine.execPerstDeassert s
  | .devReset trig => Sys2Proof.Machine.execDevReset trig s
  | .landing => Sys2Proof.Machine.execLanding s
  | .stage1 fwOk hbm => Sys2Proof.Machine.execStage1 fwOk hbm s
  | .stage2 fwOk bad => Sys2Proof.Machine.execStage2 fwOk bad s
  | .stage3 fwOk engines => Sys2Proof.Machine.execStage3 fwOk engines s
  | .nvEraseComplete ok => Sys2Proof.Machine.execNvEraseComplete ok s
  | .firmwareUpdate svn valid => Sys2Proof.Machine.execFirmwareUpdate svn valid s
  | .pldmSettingsWrite image => Sys2Proof.Machine.execPldmSettingsWrite image s
  | .svnCommit v => Sys2Proof.Machine.execSvnCommit v s
  | .debugUnlock => Sys2Proof.Machine.execDebugUnlock s
  | .debugLock => Sys2Proof.Machine.execDebugLock s
  | .slotClear slot => Sys2Proof.Machine.execSlotClear slot s
  | .ferKeyRetire slot => Sys2Proof.Machine.execFerKeyRetire slot s
  | .previousKeyExpire slot => Sys2Proof.Machine.execPreviousKeyExpire slot s
  | .setKey session req => Sys2Proof.Machine.execSetKey session req s
  | .getMeasurements index nonce sign => Sys2Proof.Machine.execGetMeasurements index nonce sign s
  | .getCertificate slot off len => Sys2Proof.Machine.execGetCertificate slot off len s
  | .keyProg session set key => Sys2Proof.Machine.execKeyProg session set key s
  | .kSetGo session set => Sys2Proof.Machine.execKSetGo session set s
  | .kSetStop session set => Sys2Proof.Machine.execKSetStop session set s
  | .ideQuery session => Sys2Proof.Machine.execIdeQuery session s
  | .mma cell ctx arrayErr => Sys2Proof.Machine.execMma cell ctx arrayErr s
  | .mtWait cell ctx => Sys2Proof.Machine.execMtWait cell ctx s
  | .mtPost cell ctx => Sys2Proof.Machine.execMtPost cell ctx s
  | .mtLoop cell ctx => Sys2Proof.Machine.execMtLoop cell ctx s
  | .mtEnd cell ctx => Sys2Proof.Machine.execMtEnd cell ctx s
  | .mtContextReady cell ctx => Sys2Proof.Machine.execMtContextReady cell ctx s
  | .mtContextSwitch cell => Sys2Proof.Machine.execMtContextSwitch cell s
  | .tileHandover cell ctx => Sys2Proof.Machine.execTileHandover cell ctx s
  | .mmaRetire cell ctx => Sys2Proof.Machine.execMmaRetire cell ctx s
  | .vtEnd cell ctx => Sys2Proof.Machine.execVtEnd cell ctx s
  | .vtWait cell ctx => Sys2Proof.Machine.execVtWait cell ctx s
  | .vtPost cell ctx => Sys2Proof.Machine.execVtPost cell ctx s
  | .vtLoop cell ctx => Sys2Proof.Machine.execVtLoop cell ctx s
  | .setvl cell ctx => Sys2Proof.Machine.execSetvl cell ctx s
  | .aset cell ctx => Sys2Proof.Machine.execAset cell ctx s
  | .aadd cell ctx => Sys2Proof.Machine.execAadd cell ctx s
  | .srseed cell ctx => Sys2Proof.Machine.execSrseed cell ctx s
  | .flclr cell ctx => Sys2Proof.Machine.execFlclr cell ctx s
  | .epilogue cell ctx arrayErr => Sys2Proof.Machine.execEpilogue cell ctx arrayErr s
  | .epilogueEnd cell ctx => Sys2Proof.Machine.execEpilogueEnd cell ctx s
  | .xfence cell ctx => Sys2Proof.Machine.execXfence cell ctx s
  | .vld cell ctx arrayErr => Sys2Proof.Machine.execVld cell ctx arrayErr s
  | .vst cell ctx => Sys2Proof.Machine.execVst cell ctx s
  | .vldb cell ctx arrayErr => Sys2Proof.Machine.execVldb cell ctx arrayErr s
  | .vstq cell ctx => Sys2Proof.Machine.execVstq cell ctx s
  | .mld cell ctx arrayErr => Sys2Proof.Machine.execMld cell ctx arrayErr s
  | .mst cell ctx => Sys2Proof.Machine.execMst cell ctx s
  | .vrecv cell ctx => Sys2Proof.Machine.execVrecv cell ctx s
  | .vsend cell ctx => Sys2Proof.Machine.execVsend cell ctx s
  | .xfer cell ctx => Sys2Proof.Machine.execXfer cell ctx s
  | .xferComplete cell ctx => Sys2Proof.Machine.execXferComplete cell ctx s
  | .fadd cell ctx => Sys2Proof.Machine.execFadd cell ctx s
  | .fsub cell ctx => Sys2Proof.Machine.execFsub cell ctx s
  | .fmul cell ctx => Sys2Proof.Machine.execFmul cell ctx s
  | .ffma cell ctx => Sys2Proof.Machine.execFfma cell ctx s
  | .fdiv cell ctx => Sys2Proof.Machine.execFdiv cell ctx s
  | .fsqrt cell ctx => Sys2Proof.Machine.execFsqrt cell ctx s
  | .fmin cell ctx => Sys2Proof.Machine.execFmin cell ctx s
  | .fmax cell ctx => Sys2Proof.Machine.execFmax cell ctx s
  | .fminnum cell ctx => Sys2Proof.Machine.execFminnum cell ctx s
  | .fmaxnum cell ctx => Sys2Proof.Machine.execFmaxnum cell ctx s
  | .fabs cell ctx => Sys2Proof.Machine.execFabs cell ctx s
  | .fneg cell ctx => Sys2Proof.Machine.execFneg cell ctx s
  | .frnd cell ctx => Sys2Proof.Machine.execFrnd cell ctx s
  | .fexp2 cell ctx => Sys2Proof.Machine.execFexp2 cell ctx s
  | .flog2 cell ctx => Sys2Proof.Machine.execFlog2 cell ctx s
  | .frsqrt cell ctx => Sys2Proof.Machine.execFrsqrt cell ctx s
  | .ftanh cell ctx => Sys2Proof.Machine.execFtanh cell ctx s
  | .fsigm cell ctx => Sys2Proof.Machine.execFsigm cell ctx s
  | .ferf cell ctx => Sys2Proof.Machine.execFerf cell ctx s
  | .fcmpeq cell ctx => Sys2Proof.Machine.execFcmpeq cell ctx s
  | .fcmpne cell ctx => Sys2Proof.Machine.execFcmpne cell ctx s
  | .fcmplt cell ctx => Sys2Proof.Machine.execFcmplt cell ctx s
  | .fcmple cell ctx => Sys2Proof.Machine.execFcmple cell ctx s
  | .fcmpgt cell ctx => Sys2Proof.Machine.execFcmpgt cell ctx s
  | .fcmpge cell ctx => Sys2Proof.Machine.execFcmpge cell ctx s
  | .fsel cell ctx => Sys2Proof.Machine.execFsel cell ctx s
  | .fqnt cell ctx => Sys2Proof.Machine.execFqnt cell ctx s
  | .f2i cell ctx => Sys2Proof.Machine.execF2i cell ctx s
  | .i2f cell ctx => Sys2Proof.Machine.execI2f cell ctx s
  | .iadd cell ctx => Sys2Proof.Machine.execIadd cell ctx s
  | .isub cell ctx => Sys2Proof.Machine.execIsub cell ctx s
  | .imul cell ctx => Sys2Proof.Machine.execImul cell ctx s
  | .imin cell ctx => Sys2Proof.Machine.execImin cell ctx s
  | .imax cell ctx => Sys2Proof.Machine.execImax cell ctx s
  | .iand cell ctx => Sys2Proof.Machine.execIand cell ctx s
  | .ior cell ctx => Sys2Proof.Machine.execIor cell ctx s
  | .ixor cell ctx => Sys2Proof.Machine.execIxor cell ctx s
  | .ishl cell ctx => Sys2Proof.Machine.execIshl cell ctx s
  | .isra cell ctx => Sys2Proof.Machine.execIsra cell ctx s
  | .isrl cell ctx => Sys2Proof.Machine.execIsrl cell ctx s
  | .icmpeq cell ctx => Sys2Proof.Machine.execIcmpeq cell ctx s
  | .icmplt cell ctx => Sys2Proof.Machine.execIcmplt cell ctx s
  | .frsum cell ctx => Sys2Proof.Machine.execFrsum cell ctx s
  | .frmax cell ctx => Sys2Proof.Machine.execFrmax cell ctx s
  | .frmin cell ctx => Sys2Proof.Machine.execFrmin cell ctx s
  | .irsum cell ctx => Sys2Proof.Machine.execIrsum cell ctx s
  | .vmov cell ctx => Sys2Proof.Machine.execVmov cell ctx s
  | .vbcast cell ctx => Sys2Proof.Machine.execVbcast cell ctx s
  | .viota cell ctx => Sys2Proof.Machine.execViota cell ctx s
  | .vperm cell ctx => Sys2Proof.Machine.execVperm cell ctx s
  | .mand cell ctx => Sys2Proof.Machine.execMand cell ctx s
  | .mor cell ctx => Sys2Proof.Machine.execMor cell ctx s
  | .mxor cell ctx => Sys2Proof.Machine.execMxor cell ctx s
  | .mnot cell ctx => Sys2Proof.Machine.execMnot cell ctx s
  | .mcnt cell ctx => Sys2Proof.Machine.execMcnt cell ctx s
  | .vtContextSwitch cell => Sys2Proof.Machine.execVtContextSwitch cell s
  | .mtOpFill p => Sys2Proof.Machine.execMtOpFill p s
  | .mtOpCopy p => Sys2Proof.Machine.execMtOpCopy p s
  | .fillCopyComplete cell => Sys2Proof.Machine.execFillCopyComplete cell s
  | .memtScrub cell found => Sys2Proof.Machine.execMemtScrub cell found s
  | .widePortYield cell => Sys2Proof.Machine.execWidePortYield cell s
  | .readyBitSet p => Sys2Proof.Machine.execReadyBitSet p s
  | .readyBitClear p => Sys2Proof.Machine.execReadyBitClear p s
  | .regionFence p => Sys2Proof.Machine.execRegionFence p s
  | .contextBind p => Sys2Proof.Machine.execContextBind p s
  | .rd p found => Sys2Proof.Machine.execRd p found s
  | .wr p => Sys2Proof.Machine.execWr p s
  | .engCmd p => Sys2Proof.Machine.execEngCmd p s
  | .cfg p => Sys2Proof.Machine.execCfg p s
  | .rdData p => Sys2Proof.Machine.execRdData p s
  | .wrAck p => Sys2Proof.Machine.execWrAck p s
  | .opDone p => Sys2Proof.Machine.execOpDone p s
  | .streamWordArrive cell port slot chan => Sys2Proof.Machine.execStreamWordArrive cell port slot chan s
  | .splitRecord cell su => Sys2Proof.Machine.execSplitRecord cell su s
  | .mergeRecord cell su => Sys2Proof.Machine.execMergeRecord cell su s
  | .sumpProbeSend cell chan => Sys2Proof.Machine.execSumpProbeSend cell chan s
  | .probe p => Sys2Proof.Machine.execProbe p s
  | .probeOpenRequest p => Sys2Proof.Machine.execProbeOpenRequest p s
  | .sumpClose cell chan => Sys2Proof.Machine.execSumpClose cell chan s
  | .sumpExhausted cell chan => Sys2Proof.Machine.execSumpExhausted cell chan s
  | .sigSet p => Sys2Proof.Machine.execSigSet p s
  | .sigAdd p => Sys2Proof.Machine.execSigAdd p s
  | .sigWait p => Sys2Proof.Machine.execSigWait p s
  | .sigWake p => Sys2Proof.Machine.execSigWake p s
  | .waitRetry cell ctx => Sys2Proof.Machine.execWaitRetry cell ctx s
  | .msgEntrySend cell => Sys2Proof.Machine.execMsgEntrySend cell s
  | .msg p => Sys2Proof.Machine.execMsg p s
  | .msgNak p => Sys2Proof.Machine.execMsgNak p s
  | .msgResend cell => Sys2Proof.Machine.execMsgResend cell s
  | .segmentApply load h => Sys2Proof.Machine.execSegmentApply load h s
  | .commitApply load => Sys2Proof.Machine.execCommitApply load s
  | .loadFenceDrop load => Sys2Proof.Machine.execLoadFenceDrop load s
  | .partialFenceFall load => Sys2Proof.Machine.execPartialFenceFall load s
  | .cfgMcast port m => Sys2Proof.Machine.execCfgMcast port m s
  | .mcastGapFetch load => Sys2Proof.Machine.execMcastGapFetch load s
  | .holdWindowClose load => Sys2Proof.Machine.execHoldWindowClose load s
  | .slipwayRecord gallery => Sys2Proof.Machine.execSlipwayRecord gallery s
  | .taskBind => Sys2Proof.Machine.execTaskBind s
  | .taskComplete job task => Sys2Proof.Machine.execTaskComplete job task s
  | .jobComplete job tag => Sys2Proof.Machine.execJobComplete job tag s
  | .jobStop job => Sys2Proof.Machine.execJobStop job s
  | .pageZeroingDone page => Sys2Proof.Machine.execPageZeroingDone page s
  | .phaseBegin job task => Sys2Proof.Machine.execPhaseBegin job task s
  | .phaseInPlace job task => Sys2Proof.Machine.execPhaseInPlace job task s
  | .cacheWarm job task => Sys2Proof.Machine.execCacheWarm job task s
  | .galleryPark gallery => Sys2Proof.Machine.execGalleryPark gallery s
  | .galleryRestore gallery => Sys2Proof.Machine.execGalleryRestore gallery s
  | .engineActivate engine => Sys2Proof.Machine.execEngineActivate engine s
  | .engineChunk engine h => Sys2Proof.Machine.execEngineChunk engine h s
  | .engineComplete engine => Sys2Proof.Machine.execEngineComplete engine s
  | .dmaCopy engine h => Sys2Proof.Machine.execDmaCopy engine h s
  | .copy2d engine h => Sys2Proof.Machine.execCopy2d engine h s
  | .scatter engine h => Sys2Proof.Machine.execScatter engine h s
  | .convert engine h => Sys2Proof.Machine.execConvert engine h s
  | .dmaFill engine h => Sys2Proof.Machine.execDmaFill engine h s
  | .dmaMsg engine h => Sys2Proof.Machine.execDmaMsg engine h s
  | .allReduce engine h => Sys2Proof.Machine.execAllReduce engine h s
  | .reduceScatter engine h => Sys2Proof.Machine.execReduceScatter engine h s
  | .allGather engine h => Sys2Proof.Machine.execAllGather engine h s
  | .broadcast engine h => Sys2Proof.Machine.execBroadcast engine h s
  | .allToAll engine h => Sys2Proof.Machine.execAllToAll engine h s
  | .reduce engine h => Sys2Proof.Machine.execReduce engine h s
  | .gather engine h => Sys2Proof.Machine.execGather engine h s
  | .bag engine h => Sys2Proof.Machine.execBag engine h s
  | .sort engine h => Sys2Proof.Machine.execSort engine h s
  | .topk engine h => Sys2Proof.Machine.execTopk engine h s
  | .rand engine h => Sys2Proof.Machine.execRand engine h s
  | .compress engine h => Sys2Proof.Machine.execCompress engine h s
  | .decompress engine h => Sys2Proof.Machine.execDecompress engine h s
  | .gcmEnc engine h => Sys2Proof.Machine.execGcmEnc engine h s
  | .gcmDec engine h => Sys2Proof.Machine.execGcmDec engine h s
  | .sha384 engine h => Sys2Proof.Machine.execSha384 engine h s
  | .update engine h => Sys2Proof.Machine.execUpdate engine h s
  | .gateEnable ctl => Sys2Proof.Machine.execGateEnable ctl s
  | .gateDisable => Sys2Proof.Machine.execGateDisable s
  | .gateVoteForm al => Sys2Proof.Machine.execGateVoteForm al s
  | .gateVote port m => Sys2Proof.Machine.execGateVote port m s
  | .gateTimeout al => Sys2Proof.Machine.execGateTimeout al s
  | .gateDecision port m => Sys2Proof.Machine.execGateDecision port m s
  | .gateReport port m => Sys2Proof.Machine.execGateReport port m s
  | .heartbeatSend => Sys2Proof.Machine.execHeartbeatSend s
  | .heartbeat port m => Sys2Proof.Machine.execHeartbeat port m s
  | .partnerDeclare => Sys2Proof.Machine.execPartnerDeclare s
  | .claimRetry => Sys2Proof.Machine.execClaimRetry s
  | .aliasClaimResponse granted => Sys2Proof.Machine.execAliasClaimResponse granted s
  | .catchUpDone => Sys2Proof.Machine.execCatchUpDone s
  | .portEnable mask => Sys2Proof.Machine.execPortEnable mask s
  | .ident port dev enc credits => Sys2Proof.Machine.execIdent port dev enc credits s
  | .portTrainingEnd port ok => Sys2Proof.Machine.execPortTrainingEnd port ok s
  | .dataFlit port f => Sys2Proof.Machine.execDataFlit port f s
  | .replayBudgetExpire port => Sys2Proof.Machine.execReplayBudgetExpire port s
  | .replayTimeRetrain port => Sys2Proof.Machine.execReplayTimeRetrain port s
  | .portRetrainEnd port ok => Sys2Proof.Machine.execPortRetrainEnd port ok s
  | .fdomWrite tenant dom => Sys2Proof.Machine.execFdomWrite tenant dom s
  | .put port m => Sys2Proof.Machine.execPut port m s
  | .get port m => Sys2Proof.Machine.execGet port m s
  | .getResp port m => Sys2Proof.Machine.execGetResp port m s
  | .atomic port m => Sys2Proof.Machine.execAtomic port m s
  | .atomicResp port m => Sys2Proof.Machine.execAtomicResp port m s
  | .signal port m => Sys2Proof.Machine.execSignal port m s
  | .qmsg port m => Sys2Proof.Machine.execQmsg port m s
  | .collFragReduce port m => Sys2Proof.Machine.execCollFragReduce port m s
  | .collFragGather port m => Sys2Proof.Machine.execCollFragGather port m s
  | .collGrant port m => Sys2Proof.Machine.execCollGrant port m s
  | .ack port m => Sys2Proof.Machine.execAck port m s
  | .nak port m => Sys2Proof.Machine.execNak port m s
  | .retransmitTimeout al dst tc seq => Sys2Proof.Machine.execRetransmitTimeout al dst tc seq s
  | .busyRetry al dst tc seq => Sys2Proof.Machine.execBusyRetry al dst tc seq s
  | .queueFullRetry al dst tc seq => Sys2Proof.Machine.execQueueFullRetry al dst tc seq s
  | .rxBufferTimeout port m => Sys2Proof.Machine.execRxBufferTimeout port m s
  | .grpCommit g h => Sys2Proof.Machine.execGrpCommit g h s
  | .grpClear g => Sys2Proof.Machine.execGrpClear g s
  | .hbmPatrol stack found => Sys2Proof.Machine.execHbmPatrol stack found s
  | .pageMigrate ppn => Sys2Proof.Machine.execPageMigrate ppn s
  | .reducedModeEntry stack ok => Sys2Proof.Machine.execReducedModeEntry stack ok s
  | .cellRetirement cell write => Sys2Proof.Machine.execCellRetirement cell write s
  | .watchdogExpire silentMs => Sys2Proof.Machine.execWatchdogExpire silentMs s
  | .fatalStop => Sys2Proof.Machine.execFatalStop s
  | .cellHalt scope => Sys2Proof.Machine.execCellHalt scope s
  | .cellResume scope => Sys2Proof.Machine.execCellResume scope s
  | .cellStep scope count => Sys2Proof.Machine.execCellStep scope count s
  | .cellStepEnd cell => Sys2Proof.Machine.execCellStepEnd cell s
  | .snapshotTake => Sys2Proof.Machine.execSnapshotTake s
  | .signalHandSet => Sys2Proof.Machine.execSignalHandSet s
  | .dbgWindowAccess write off wide data => Sys2Proof.Machine.execDbgWindowAccess write off wide data s
  | .traceCopy => Sys2Proof.Machine.execTraceCopy s
  | .traceCopyDone => Sys2Proof.Machine.execTraceCopyDone s
  | .traceEntryDrop => Sys2Proof.Machine.execTraceEntryDrop s
  | .streamCreditReturn circuit => Sys2Proof.Machine.execStreamCreditReturn circuit s
  | .ferLossOfLock port => Sys2Proof.Machine.execFerLossOfLock port s
  | .pcieLinkRetrain rate width cxl => Sys2Proof.Machine.execPcieLinkRetrain rate width cxl s
  | .sqLineSnoop fn ring addr => Sys2Proof.Machine.execSqLineSnoop fn ring addr s
  | .atsInvalidate fn pages => Sys2Proof.Machine.execAtsInvalidate fn pages s
  | .d3hotTransition fn d3 => Sys2Proof.Machine.execD3hotTransition fn d3 s
  | .vfEnable on => Sys2Proof.Machine.execVfEnable on s
  | .msixUnmask fn vec => Sys2Proof.Machine.execMsixUnmask fn vec s
  | .keyExchange chain nonce => Sys2Proof.Machine.execKeyExchange chain nonce s
  | .challenge slot nonce => Sys2Proof.Machine.execChallenge slot nonce s
  | .endSession session => Sys2Proof.Machine.execEndSession session s
  | .keyUpdate session => Sys2Proof.Machine.execKeyUpdate session s
  | .pldmEventRead => Sys2Proof.Machine.execPldmEventRead s
  | .smbusArp addr => Sys2Proof.Machine.execSmbusArp addr s
  | .jtagInstruction op => Sys2Proof.Machine.execJtagInstruction op s
  | .refclkReturn => Sys2Proof.Machine.execRefclkReturn s
  | .powerLoss => Sys2Proof.Machine.execPowerLoss s
  | .quiesceTimeout load => Sys2Proof.Machine.execQuiesceTimeout load s
  | .shareBusyClear => Sys2Proof.Machine.execShareBusyClear s
  | .droopStretchEnd die => Sys2Proof.Machine.execDroopStretchEnd die s
  | .wallSlewEnd => Sys2Proof.Machine.execWallSlewEnd s

end Sys2Proof.Machine
end

