-- ==== Sys2Proof/Machine/RegRead.lean ====
section
/-!
DEFINITION. Sys2Proof/Machine/RegRead.lean: what reads of BAR0 and BAR2 return (R7 to R10, R513, R680 to R696). The table of
commands has no row for a read: State.busRead is what a function's read answers, with the latch that R10 gives it (log 101).
-/
namespace Sys2Proof.Machine
open Sys2Proof

/-- Two 32-bit registers that share an aligned 64-bit word. -/
def pairOf (lo hi : Nat) : Nat := lo % 2 ^ 32 + 2 ^ 32 * (hi % 2 ^ 32)

/-- An aligned 64-bit word of the registers that are plain storage. -/
def State.plainWord (s : State) (k : Nat) : Nat := (s.reg k + 2 ^ 32 * s.reg (k + 4)) % 2 ^ 64

/-- Eight bytes of a list, from an offset on. -/
def wordAt (bs : List Byte) (off : Nat) : Nat := leAt bs off 8

/-- Word `w` of the cell map: bit i is 1 where cell 32w + i is good (R18). -/
def State.cellMapWord (s : State) (w : Nat) : Nat :=
  (List.range 32).foldl (fun n i => n + (s.goodCell (32 * w + i)).toNat * 2 ^ i) 0

/-! ### Fault records (R632, R637, R659) -/

/-- The 64 bytes of a record: `seq`, `cause` and `lost` as the reader's numbering has them. -/
def FaultRec.image (r : FaultRec) (seq cause : Nat) (lost : Bool) : List Byte :=
  leBytes 4 (r.kind.code + 2 ^ 12 * r.level + 2 ^ 15 * lost.toNat + 2 ^ 16 * r.tenant)
    ++ leBytes 4 (match r.job with | some j => j + 2 ^ 12 + 2 ^ 16 * r.status | none => 0)
    ++ leBytes 8 seq ++ leBytes 8 r.gc
    ++ leBytes 4 (r.node + 2 ^ 12 * r.unit + (match r.gallery with | some g => 2 ^ 16 * g + 2 ^ 21 | none => 0))
    ++ leBytes 8 cause ++ leBytes 4 (r.idx0 % 2 ^ 16 + 2 ^ 16 * (r.idx1 % 2 ^ 16)) ++ leBytes 8 r.addr ++ leBytes 4 r.code
    ++ leBytes 8 r.extra0 ++ leBytes 4 r.extra1

/-- A record as the PF reads it. -/
def FaultRec.bytes (r : FaultRec) : List Byte := r.image r.seq r.causeSeq r.lost

/-- The position in tenant `t`'s index of the record numbered `seq`: 0 where it names another tenant (R637). -/
def State.tenantSeq (s : State) (t seq : Nat) : Nat :=
  match s.log.ring.find? (fun r => r.seq == seq) with
  | some r => if r.tenant = t then r.tseq else 0
  | none => 0

/-- The records a function sees: the PF all, a VF the last 4,096 that name its tenant. -/
def State.seenRecs (s : State) (fn : Nat) : List FaultRec :=
  if fn = 0 then s.log.ring
  else let l := s.log.ring.filter (fun r => r.tenant == fn); l.drop (l.length - 4096)

/-- A record's number in a function's view. -/
def seqIn (fn : Nat) (r : FaultRec) : Nat := if fn = 0 then r.seq else r.tseq

/-- The record that FR_SEL selects. -/
def State.selRec (s : State) (fn : Nat) : Option FaultRec :=
  (s.seenRecs fn).find? (fun r => seqIn fn r == s.reg (if fn = 0 then 0xA0010 else vfKey fn 0x5010))

/-- Registers FR_SEQ_NEXT to FR_DATA, by their offset in the block (R659). -/
def State.frWord (s : State) (fn o : Nat) : Nat :=
  match o with
  | 0x00 => if fn = 0 then s.nextSeq else Tab.get 0 s.log.tcount fn + 1
  | 0x08 => match s.seenRecs fn with | r :: _ => seqIn fn r | [] => 0
  | 0x10 => s.reg (if fn = 0 then 0xA0010 else vfKey fn 0x5010)
  | 0x18 => (s.selRec fn).isSome.toNat + 2 * (if fn = 0 then s.log.lostSticky else s.log.tlostSticky.contains fn).toNat
  | 0x28 => s.reg (rLevelMin fn)
  | o =>
    if 0x40 ≤ o ∧ o < 0x80 then
      match s.selRec fn with
      | some r => wordAt (if fn = 0 then r.bytes else r.image r.tseq (s.tenantSeq fn r.causeSeq) r.tlost) (o - 0x40)
      | none => 0
    else 0

/-! ### The blocks (R683 to R696) -/

/-- Identification (R630, R683): the cell map and count are valid from Stage 2 on, the fingerprint's mode bits from the commit. -/
def State.identWord (s : State) (fn o : Nat) : Nat :=
  match o with
  | 0x00 => if fn = 0 then s.reg rDevIdent else setBits (s.reg rDevIdent) 63 48 0x9A21
  | 0x08 => s.reg rLinkInfo
  | 0x10 => s.reg rFeatOffered
  | 0x20 => if fn = 0 then s.reg rFeatAccept else 0
  | 0x30 => s.feat
  | 0x40 => s.stage + 2 ^ 3 * s.ao.halt.isSome.toNat + 2 ^ 8 * s.ao.halt.getD 0
  | 0x50 => if fn = 0 then s.reg rFeatStatus else 0
  | 0x58 => s.fingerprint
  | 0x60 => if 2 ≤ s.stage then s.cellCount else 0
  | o =>
    if 0x100 ≤ o ∧ o < 0x208 ∧ 2 ≤ s.stage then pairOf (s.cellMapWord ((o - 0x100) / 4)) (s.cellMapWord ((o - 0x100) / 4 + 1))
    else 0

/-- AP_STATE: 0 ON, 1 RETENTION, 2 GATED (R595, R609). -/
def State.apState (s : State) (n : Nat) : Nat := if s.gated.contains n then 2 else if s.arrayHeld then 1 else 0

/-- DOM_STATE: slice arrays are off in deep idle and S4, the Ferier SerDes where no port is enabled (R594, R609). -/
def State.domState (s : State) : Nat :=
  let cp := if decide (s.pwr.mode = 2) || decide (4 ≤ s.sag) then 1 else 0
  (List.range 4).foldl (fun n d => n + cp * 4 ^ d) 0 + 4 ^ 6 * (if s.reg rPortEn = 0 then 2 else 0)

/-- Reset and power control (R609, R630). -/
def State.powerWord (s : State) (o : Nat) : Nat :=
  match o with
  | 0x000 => pairOf 0 s.ao.cause
  | 0x100 => pairOf (s.reg rPwrCtl) (s.pwr.mode + 2 ^ 2 * s.pwr.stage + 2 ^ 5 * s.pwr.trip.toNat
      + 2 ^ 6 * (decide (0 < s.pwr.capStep)).toNat + 2 ^ 7 * s.pwr.capShort.toNat)
  | 0x108 => s.reg rApGate
  | 0x110 => (List.range 32).foldl (fun n i => n + s.apState i * 4 ^ i) 0
  | 0x118 => s.domState
  | 0x120 => pairOf (s.reg rPwrCap) (s.pwr.mv % 2 ^ 16)
  | 0x128 => s.pwr.mw % 2 ^ 32
  | 0x130 => s.pwr.energyUj / 1000 % 2 ^ 64
  | 0x140 => pairOf (s.aclk 0) (s.aclk 1)
  | 0x148 => pairOf (s.aclk 2) (s.aclk 3)
  | o =>
    if 0x160 ≤ o ∧ o < 0x180 then s.plainWord (0x1000 + o)
    else if 0x200 ≤ o ∧ o < 0x400 then
      let w := (o - 0x200) % 0x80
      bits (s.reg (rDroopMap ((o - 0x200) / 0x80))) (8 * w + 63) (8 * w) % 2 ^ (544 - 8 * w)
    else if 0x400 ≤ o ∧ o < 0x4E8 then
      pairOf (twos 16 (Tab.get 0 s.pwr.therm ((o - 0x400) / 4))) (twos 16 (Tab.get 0 s.pwr.therm ((o - 0x400) / 4 + 1)))
    else if 0x500 ≤ o ∧ o < 0x528 then Tab.get 0 s.ao.sagEvt ((o - 0x500) / 8 + 1)
    else 0

/-- A ring's registers (R497). -/
def Ring.word (r : Ring) (o : Nat) : Nat :=
  match o with
  | 0x00 => pairOf r.ctl (r.st.ctorIdx + 2 ^ 8 * r.err)
  | 0x08 => r.sqBase
  | 0x10 => r.cqBase
  | 0x18 => r.dbAddr
  | 0x20 => pairOf r.size r.poll
  | 0x28 => pairOf r.tmoDef r.irq
  | 0x30 => pairOf r.sqHead r.cqTail
  | 0x38 => pairOf r.dbTail r.dbHead
  | _ => 0

/-- GB/s that a tenant has reserved, over its stacks. -/
def State.useBw (s : State) (t : Nat) : Nat :=
  ((s.reserves.filter (fun r => r.tenant == t)).map (fun r => r.rate * ((List.range 8).filter (fun k => bit r.mask k)).length)).sum

/-- A tenant's registers (R686). -/
def State.tenWord (s : State) (t o : Nat) : Nat :=
  let r := fun (x : Nat) => s.reg (rTen t x)
  match o with
  | 0x00 => pairOf 0 (r 0x04)
  | 0x08 => pairOf (r 0x08) (r 0x0C)
  | 0x10 => pairOf (r 0x10) (r 0x14)
  | 0x18 => pairOf (if t = 0 then 0 else r 0x18) (r 0x1C)
  | 0x20 => if t = 0 then 0 else r 0x20
  | 0x28 => pairOf (s.jobsOf t) (s.pagesUsed t)
  | 0x30 => pairOf (s.cellsUsed t) (s.gals.filter (fun e => match e.2 with | some g => g.tenant == t | none => false)).length
  | 0x38 => s.useBw t
  | _ => 0

/-- The time block (R556, R565, R689). -/
def State.timeWord (s : State) (o : Nat) : Nat :=
  let t := s.time
  match o with
  | 0x00 => s.gc % 2 ^ 64
  | 0x08 => if t.valid then twos 64 s.wallNow else 0
  | 0x10 => twos 64 t.base
  | 0x18 => t.valid.toNat + 2 * t.refused.toNat + 4 * t.slewing.toNat
  | 0x28 => t.ppsEn.toNat + 2 * t.stepEn.toNat + 2 ^ 16 * t.delay
  | 0x30 => pairOf t.pps.ctorIdx (twos 32 t.lastErr)
  | 0x38 => t.edgeGc % 2 ^ 64
  | 0x40 => t.role + 2 ^ 16 * t.master + 2 ^ 32 * t.interval
  | 0x48 => pairOf t.sync.ctorIdx (twos 32 t.lastOff)
  | 0x50 => twos 32 t.freq
  | 0x58 => s.reg rPpsReject
  | o =>
    if 0x1000 ≤ o ∧ o < 0x1800 then
      let k := (o - 0x1000) / 0x20
      let l := Tab.get ({} : LaunchSlot) s.launch k
      match o % 0x20 with
      | 0x00 => s.reg (rLaunch k 0)
      | 0x08 => pairOf (s.reg (rLaunch k 8)) (s.reg (rLaunch k 0xC))
      | 0x10 => pairOf 0 l.st
      | _ => l.fired % 2 ^ 64
    else 0

/-- FM_GAL_STATUS (R690). -/
def State.galStatus (s : State) (n : Nat) : Nat :=
  match s.gallery? n with
  | none => 0
  | some g =>
    let st := if g.loading then 1 else if g.busy then 5 else if g.broken then 4 else if g.resident then 2 else 3
    st + 2 ^ 4 * g.tenant + 2 ^ 16 * g.x0 + 2 ^ 22 * g.y0 + 2 ^ 32 * g.x1 + 2 ^ 38 * g.y1 + 2 ^ 48 * (s.galCells g).length

/-- Ferryman's block (R690), with the page-table view through which the owner reads any tenant's tables (R316). -/
def State.fmWord (s : State) (o : Nat) : Nat :=
  let sel := s.reg 0x40C00
  let t := bits sel 4 0
  let tva := 2 ^ 21 * bits sel 47 21
  let l1 := Tab.get 0 s.l2 (l1Key t tva) % 2 ^ 39
  if o = 0xC08 then l1
  else if o = 0xC10 then (if bit l1 0 then s.ptEntry t tva else 0)
  else match regIdx 0x208 0x10 32 o with
    | some g => s.galStatus g
    | none => s.plainWord (0x40000 + o)

/-- External memory (R691): the entries of the retired page list that lie in a stack stand in HBM_STACK_STATUS. -/
def State.hbmWord (s : State) (o : Nat) : Nat :=
  if o < 0x40 then
    let pages := ((s.bank 0).pages ++ (s.bank 1).pages).eraseDups
    s.reg (rStack (o / 8)) + 2 ^ 32 * (pages.filter (fun p => stackOfPage p == o / 8)).length
  else if 0x80 ≤ o ∧ o < 0xA0 then pairOf (s.rsvSum ((o - 0x80) / 4)) (s.rsvSum ((o - 0x80) / 4 + 1))
  else s.plainWord (0x50000 + o)

/-- Ferier ports, gate, groups and tether (R692 to R695). -/
def State.ferWord (s : State) (o : Nat) : Nat :=
  match o with
  | 0x098 => s.fer.devId + 2 ^ 12 * s.fer.idValid.toNat + 2 ^ 16 * s.fer.alias_.getD 0 + 2 ^ 28 * s.fer.alias_.isSome.toNat
      + 2 ^ 32 * s.fer.epoch
  | 0x480 => (match s.gate with | some g => g.c | none => 0) % 2 ^ 64
  | 0x488 => (match s.gate with | some g => g.v | none => 0) % 2 ^ 64
  | 0x490 => (match s.gate with | some g => g.detached.toNat + 2 * (s.gateRoot false g).toNat | none => 0) + 4 * s.aliasGate.isSome.toNat
  | 0x1800 => s.tether.st.ctorIdx + 2 ^ 4 * s.tether.tenant + 2 ^ 16 * s.tether.partner
  | 0x1808 => s.tether.lastStep % 2 ^ 64
  | 0x1810 => s.tether.partnerStep % 2 ^ 64
  | o => match regIdx 0x100 8 16 o with
    | some p => (s.port p).st.ctorIdx + 2 ^ 4 * (s.port p).peerEnc.toNat
    | none => s.plainWord (0x60000 + o)

/-- SEC_SLOT_INFO of a general key slot. -/
def State.slotInfo (s : State) (k : Nat) : Nat :=
  match Tab.get none s.keySlots k with
  | some x => 1 + 2 ^ 4 * x.tenant + 2 ^ 16 * x.usage
  | none => 0

/-- The security block (R593): the mailbox and the doorbells read as zero. -/
def State.secWord (s : State) (o : Nat) : Nat :=
  match o with
  | 0x00 => s.sec.recovery.toNat + 2 * s.sec.bank + 4 * s.sec.fallback.toNat + 8 * s.sec.fwSigned.toNat
  | 0x08 => s.sec.svnFloor + 2 ^ 8 * s.sec.svnRun
  | 0x10 => wordAt Config.serial 0
  | 0x18 => wordAt Config.serial 8
  | 0x20 => s.sec.dbg + 4 * s.sec.unlocked.toNat
  | 0x60 => pairOf 0 s.sec.result
  | 0x68 => s.reg rSecPolicy
  | o =>
    if 0x40 ≤ o ∧ o < 0x60 then wordAt s.nonceNow (o - 0x40)
    else if 0x200 ≤ o ∧ o < 0x400 then pairOf (s.slotInfo ((o - 0x200) / 4)) (s.slotInfo ((o - 0x200) / 4 + 1))
    else 0

/-- Non-volatile memory and settings (R630): an erase that a read suspends has no row of its own, so `suspended` reads 0. -/
def State.nvWord (s : State) (o : Nat) : Nat :=
  match o with
  | 0x00 => (s.nv.ops.any (fun x => x.begun.isSome)).toNat + 4 * s.sec.bank
  | 0x08 => pairOf (s.bank 0).seq (s.bank 1).seq
  | 0x10 => pairOf s.nv.active.1 (if s.newest = s.nv.active.2 then 0 else 1)
  | 0x18 => s.bootCount
  | 0x20 => s.reg rNvErase
  | 0x28 => s.reg rNvRecover
  | 0x30 => ((s.bank 0).pages ++ (s.bank 1).pages).eraseDups.length
  | o =>
    if 0x1000 ≤ o ∧ o < 0x1400 then wordAt (s.nv.active.2.bytes s.nv.active.1) (o - 0x1000)
    else if 0x1400 ≤ o ∧ o < 0x1800 then wordAt (s.newest.bytes (s.bank s.newestBank).seq) (o - 0x1400)
    else 0

/-- A tenant's accounting (R696): the counters of the open period, BILL_SEQ and the period's index. -/
def State.acctWord (s : State) (t o : Nat) : Nat :=
  if o < 0x98 then s.reg (rAcct t o) else if o = 0x98 then (s.billOf t).seq else if o = 0xA0 then s.periodIndex else 0

/-- A word of a record slot of a tenant's stream; zeros where it holds none. -/
def State.billWord (s : State) (t slot o : Nat) : Nat := (Tab.get [] (s.billOf t).slots slot).getD (o / 8) 0 % 2 ^ 64

/-- Telemetry and accounting (R696): ENG_TICK_BUSY counts what timing within a chunk decides, `free` its value. -/
def State.telemWord (s : State) (o free : Nat) : Nat :=
  if o < 0x1200 then (if o % 0x80 = 0x10 then free else if o % 0x80 < 0x48 then s.reg (0x90000 + o) else 0)
  else if 0x2000 ≤ o ∧ o < 0x3100 then s.acctWord ((o - 0x2000) / 0x100) (o % 0x100)
  else if 0x3900 ≤ o ∧ o < 0x3A00 then s.billWord (bits (s.reg 0x93800) 4 0) (bits (s.reg 0x93800) 11 8) (o - 0x3900)
  else s.plainWord (0x90000 + o)

/-- Fault records (R659). -/
def State.faultWord (s : State) (o : Nat) : Nat :=
  match o with
  | 0x20 => s.log.evtLost
  | 0x30 => s.fatal.toNat + (if s.fatal then 2 ^ 8 * (match s.ao.crash with | some r => r.code | none => 0) else 0)
  | 0x140 => s.ao.crash.isSome.toNat
  | 0x200 => pairOf 0 (s.reg 0xA0204)
  | o =>
    if o < 0x80 then s.frWord 0 o
    else if 0x100 ≤ o ∧ o < 0x140 then (match s.ao.crash with | some r => wordAt r.bytes (o - 0x100) | none => 0)
    else if 0x1000 ≤ o ∧ o < 0x9000 then Tab.get 0 s.jobCause ((o - 0x1000) / 8)
    else 0

/-- Debug (R660): the signal that DBG_SIG_SEL names reads in any lock state (R654). -/
def State.debugWord (s : State) (o : Nat) : Nat :=
  let k := s.dbgCell
  let g := s.signal (bits (s.reg rSigSel) 13 0)
  match o with
  | 0x000 => pairOf (s.reg rDbgSel) (s.reg rDbgBase)
  | 0x008 => (s.goodCell k).toNat + 2 * s.apState (apDomain k) + 2 ^ 3 * (s.cell k).owner + 2 ^ 8 * (s.cell k).halted.toNat
      + (bits (s.reg rDbgStatus) 9 9) * 2 ^ 9
  | 0x020 => s.dbg.snapGc
  | 0x100 => pairOf (s.reg rSigSel) (s.reg rSigVal)
  | 0x108 => pairOf 0 (g.st.ctorIdx + 4 * bits (s.reg rSigStatus) 2 2 + 2 ^ 16 * g.waiters.length)
  | 0x110 => pairOf g.counter g.owner
  | 0x200 => pairOf (s.reg rTraceCtl) (s.reg rTraceMask)
  | 0x208 => s.trace.full.toNat
  | 0x210 => s.trace.head
  | 0x218 => s.reg rTraceDrop
  | 0x220 => s.reg rTraceAddr
  | 0x228 => 2 * s.trace.copying.toNat
  | _ => 0

/-! ### The maps (R681, R682) -/

/-- Stage and fatal stop allow a read of an offset (R611, R641): fault and debug blocks stay readable in a fatal stop. -/
def State.readOpen (s : State) (fn off : Nat) : Bool :=
  s.fnExists fn && s.ao.powered && !s.ao.perst && s.ao.landed && decide (regStage fn off ≤ s.stage)
    && (!s.fatal || (fn == 0 && decide (0xA0000 ≤ off) && decide (off < 0xC0000)))

/-- The share and seal registers (R687). -/
def State.shareWord (s : State) (o : Nat) : Nat :=
  match o with
  | 0x40 => pairOf 0 (s.reg rShareStatus)
  | 0x80 => pairOf (s.reg rSealCtl) (s.reg rSealStatus)
  | o => if o < 0x40 then s.plainWord (0x21000 + o) else 0

/-- The aligned 64-bit word of the PF's BAR0 at an offset; 0 where no register lies (R680, R681). -/
def State.pfWord (s : State) (o free : Nat) : Nat :=
  if o < 0x208 then s.identWord 0 o
  else if 0x1000 ≤ o ∧ o < 0x1528 then s.powerWord (o - 0x1000)
  else if 0x10000 ≤ o ∧ o < 0x10800 then (s.ring 0 ((o - 0x10000) / 0x100)).word (o % 0x100)
  else if 0x20000 ≤ o ∧ o < 0x20440 then s.tenWord ((o - 0x20000) / 0x40) (o % 0x40)
  else if 0x21000 ≤ o ∧ o < 0x21088 then s.shareWord (o - 0x21000)
  else if 0x30000 ≤ o ∧ o < 0x32000 then s.timeWord (o - 0x30000)
  else if 0x40000 ≤ o ∧ o < 0x40C18 then s.fmWord (o - 0x40000)
  else if 0x50000 ≤ o ∧ o < 0x50400 then s.hbmWord (o - 0x50000)
  else if 0x60000 ≤ o ∧ o < 0x63028 then s.ferWord (o - 0x60000)
  else if 0x70000 ≤ o ∧ o < 0x70400 then s.secWord (o - 0x70000)
  else if 0x80000 ≤ o ∧ o < 0x81800 then s.nvWord (o - 0x80000)
  else if 0x90000 ≤ o ∧ o < 0x93A00 then s.telemWord (o - 0x90000) free
  else if 0xA0000 ≤ o ∧ o < 0xA9000 then s.faultWord (o - 0xA0000)
  else if 0xB0000 ≤ o ∧ o < 0xB8000 then s.debugWord (o - 0xB0000)
  else if (0x10800 ≤ o ∧ o < 0x10A18) ∨ (0x18000 ≤ o ∧ o < 0x18090) ∨ o = 0x1C000 then s.plainWord o
  else 0

/-- The same of a VF: the tenant-level subset (R494, R682). -/
def State.vfWord (s : State) (fn o : Nat) : Nat :=
  if o < 0x208 then s.identWord fn o
  else if 0x1000 ≤ o ∧ o < 0x1800 then (s.ring fn ((o - 0x1000) / 0x100)).word (o % 0x100)
  else if 0x2000 ≤ o ∧ o < 0x2040 then (if o = 0x2000 then 2 ^ 32 * s.reg (rTenStatus fn) else s.tenWord fn (o - 0x2000))
  else if o = 0x2040 then s.reg (rShareW (Tab.get 0 s.shareClass fn))
  else if o = 0x3000 ∨ o = 0x3008 ∨ o = 0x3018 ∨ o = 0x3030 then s.timeWord (o - 0x3000)
  else if 0x4000 ≤ o ∧ o < 0x40A8 then s.acctWord fn (o - 0x4000)
  else if o = 0x4100 ∨ o = 0x5100 then s.reg (vfKey fn o)
  else if 0x4200 ≤ o ∧ o < 0x4300 then s.billWord fn (bits (s.reg (vfKey fn 0x4100)) 3 0) (o - 0x4200)
  else if 0x5000 ≤ o ∧ o < 0x5080 then s.frWord fn (o - 0x5000)
  else if o = 0x5108 then
    let k := bits (s.reg (vfKey fn 0x5100)) 11 0
    if Tab.get 0 s.jobLast k = fn then s.tenantSeq fn (Tab.get 0 s.jobCause k) else 0
  else if (0x1800 ≤ o ∧ o < 0x1A18) ∨ (0x8000 ≤ o ∧ o < 0x8090) ∨ o = 0xC000 then s.plainWord (vfKey fn o)
  else 0

/-- An aligned 64-bit word of a function's BAR0 as it stands. -/
def State.word64 (s : State) (fn o free : Nat) : Nat :=
  if s.readOpen fn o then (if fn = 0 then s.pfWord o free else if o < 0x10000 then s.vfWord fn o else 0) else 0

/-! ### Reads (R7 to R10) -/

/-- One 64-bit register, not two of 32 bits, lies in an aligned 64-bit word: its low half latches its high half (R10). -/
def readWide (fn o : Nat) : Bool :=
  let ring := fun (x : Nat) => x == 0x08 || x == 0x10 || x == 0x18 || x == 0x38
  match ringOff fn o with
  | some (_, x) => ring x
  | none =>
    if fn = 0 then
      !(decide (0x100 ≤ o) && decide (o < 0x208)) && !(decide (0x18000 ≤ o) && decide (o < 0x18090))
        && !(decide (0x20000 ≤ o) && decide (o < 0x22000)) && !List.contains [0x1000, 0x1100, 0x1108, 0x1118, 0x1120, 0x1128, 0x1140, 0x1148] o
        && !(decide (0x1200 ≤ o) && decide (o < 0x14E8)) && !((regIdx 0x31008 0x20 64 o).isSome || (regIdx 0x31010 0x20 64 o).isSome)
        && !(regIdx 0x40000 0x10 32 o).isSome && !(decide (0x50080 ≤ o) && decide (o < 0x500A0))
        && !(decide (0x60000 ≤ o) && decide (o < 0x60098)) && !(decide (0x60400 ≤ o) && decide (o < 0x60450))
        && !List.contains [0x60458, 0x60468, 0x60478, 0x70008, 0x70060, 0x70068, 0xA0200, 0xB0000, 0xB0008, 0xB0100, 0xB0108, 0xB0110, 0xB0200] o
        && !((regIdx 0x61000 0x20 64 o).isSome || (regIdx 0x61008 0x20 64 o).isSome || (regIdx 0x61018 0x20 64 o).isSome)
        && !(decide (0x70200 ≤ o) && decide (o < 0x70400)) && !(decide (0x93100 ≤ o) && decide (o < 0x93900))
    else !(decide (0x100 ≤ o) && decide (o < 0x208)) && !(decide (0x2000 ≤ o) && decide (o < 0x2040))
        && !(decide (0x8000 ≤ o) && decide (o < 0x8090))

/-- A read of the debug cell window (R650): what DBG_WINDOW_ACCESS returns. -/
def State.windowRead (s : State) (off size : Nat) : Nat × State :=
  match execDbgWindowAccess false off (size == 8) 0 s with
  | .next t => (leNat t.dbg.win, t)
  | _ => (0, s)

/-- A read of BAR0 by a function: the value, and the state with what R10 latches. A read that is not of 4 or 8 bytes, or not
naturally aligned, returns zero (R9). -/
def State.bar0Read (s : State) (fn off size : Nat) : Nat × State :=
  if (size ≠ 4 ∧ size ≠ 8) ∨ off % size ≠ 0 then (0, s)
  else if fn = 0 ∧ 0xB8000 ≤ off ∧ off < 0xC0000 then s.windowRead (off - 0xB8000) size
  else
    let (k, t) := if fn = 0 ∧ 0x90000 ≤ off ∧ off < 0x91200 ∧ off % 0x80 / 8 = 2 then s.drawFree else (0, s)
    let w := s.word64 fn (off / 8 * 8) (Config.freeNat k % 2 ^ 64)
    let key := regKey fn (off / 8 * 8)
    if size = 8 then (w, t)
    else if off % 8 = 0 then
      (w % 2 ^ 32, if readWide fn off then { t with latched := Tab.put none t.latched key (some (w / 2 ^ 32 % 2 ^ 32)) } else t)
    else match Tab.get none s.latched key with
      | some v => (v, { t with latched := Tab.put none t.latched key none })
      | none => (w / 2 ^ 32 % 2 ^ 32, t)

/-- A read of BAR2: the counts a ring has taken last (R513). -/
def State.bar2Read (s : State) (fn off size : Nat) : Nat :=
  if (size ≠ 4 ∧ size ≠ 8) ∨ off % size ≠ 0 ∨ 0x8000 ≤ off ∨ !s.fnExists fn ∨ !s.bar 3 ∨ 8 ≤ off % 0x1000 then 0
  else
    let r := s.ring fn (off / 0x1000)
    let w := pairOf r.dbTail r.dbHead
    if size = 8 then w else if off % 8 = 0 then w % 2 ^ 32 else w / 2 ^ 32

/-- A read of BAR 0 or 2 by a function. -/
def State.busRead (s : State) (fn bar off size : Nat) : Nat × State :=
  if bar = 0 then s.bar0Read fn off size else if bar = 2 then (s.bar2Read fn off size, s) else (0, s)

end Sys2Proof.Machine
end

