-- ==== Sys2Proof/Safety.lean ====
section
/-!
DEFINITION. Sys2Proof/Safety.lean: the words the statements are written in: when a unit stands at a command, what a result
is, and the invariants.
-/
namespace Sys2Proof.Machine
open Sys2Proof

/-! ### Vector tiles -/

/-- Vector context `k` of a cell is the selected one, may issue, and the instruction it has in hand or fetches now is `e.i`, whose
packing its VL fits (R117, R121, R125, R127, R603); `e.c` is the cell with the fetch's own reading of its code done. -/
def State.vtAt (s : State) (cell k : Nat) (e : VEnv) : Prop :=
  s.fatal = false ∧ s.cellRuns cell = true ∧ s.sag < 3 ∧ e.x = (s.cell cell).vtx k ∧ e.c = (s.cell cell).vtSense e.x
    ∧ e.fp32Native = s.feature 0 ∧ (s.cell cell).vtSel = k ∧ e.x.epi = none ∧ e.x.stopping = false
    ∧ (e.x.st = .active ∨ e.x.st = .ready ∨ e.x.st = .late) ∧ e.c.vtFetched s.arrFeat e.x = .instr e.i ∧ vlOk e.x.vl e.i = true

/-- An instruction has retired: its cell is `c`, its context `x` goes on, the counters of R154 have counted it, and its A-cycles are
charged to the job's tenant (R545). -/
def State.vtDone (s : State) (cell k : Nat) (c : Cell) (x : VtCtx) (occ : Nat) : State :=
  (s.acctCyc 8 x.job occ).setCell cell (((c.count .vtCycIssue occ).count .vtEvtInstr 1).setVtx k { x with st := .active, instr := none })

/-- What element `j` of a destination becomes, from what it holds and what the operation gives (R128). -/
def VEnv.chosen {α : Type} (e : VEnv) (j : Nat) (old new zero : α) : α :=
  if e.active j then new else if e.i.mmode = 2 then zero else old

/-- The sticky flags after an instruction: those set before, and those any active element below VL raises. -/
def VEnv.raised (e : VEnv) (g : Nat → Nat) (fl : Nat) : Prop :=
  ∀ b, fl.testBit b = (e.x.flags.testBit b || (List.range e.x.vl).any (fun j => e.active j && (g j).testBit b))

/-- The context after an instruction of class M or A with flags `fl` (R143). -/
def VEnv.next (e : VEnv) (fl : Nat) : VtCtx :=
  { e.x with idx := e.x.idx + 1, flags := fl, srCtr := if e.i.rnd = 2 then (e.x.srCtr + (e.x.vl + 1) / 2) % 2 ^ 64 else e.x.srCtr }

/-- The command of opcode `op` is an element-wise operation into register vd (R122, R126, R128): where the context stands at
it and `ok` holds, element `j` below VL becomes `g e j` (value, flags) modulo 2^32 where it is active; every other physical
element of the registers, everything else of the cell but the context's place and the counters, and everything else of the state
stays. `k` is its occupancy of the datapath per group of 64 elements (R149), `d` its fixed part. -/
def VElementwise (cmd : Nat → Nat → Instr) (op k d : Nat) (ok : VEnv → Prop) (g : VEnv → Nat → Nat × Nat) : Prop :=
  ∀ (s : State) (cell ctx : Nat) (e : VEnv), s.vtAt cell ctx e → e.i.op = op → ok e →
    ∃ (vr : Tab Word) (fl : Nat),
      exec (cmd cell ctx) s = .next (s.vtDone cell ctx { e.c with vr := vr } (e.next fl) (k * ((e.x.vl + 63) / 64) + d))
      ∧ (∀ key, Tab.get 0#32 vr key =
          if 4096 * e.i.vd + e.x.part.vrBase ≤ key ∧ key < 4096 * e.i.vd + e.x.part.vrBase + e.x.vl then
            let j := key - (4096 * e.i.vd + e.x.part.vrBase)
            e.chosen j (Tab.get 0#32 e.c.vr key) (BitVec.ofNat 32 (g e j).1) 0#32
          else Tab.get 0#32 e.c.vr key)
      ∧ e.raised (fun j => (g e j).2) fl

/-- As `VElementwise`, into mask md. -/
def VMaskwise (cmd : Nat → Nat → Instr) (op : Nat) (ok : VEnv → Prop) (g : VEnv → Nat → Bool × Nat) : Prop :=
  ∀ (s : State) (cell ctx : Nat) (e : VEnv), s.vtAt cell ctx e → e.i.op = op → ok e →
    ∃ (vm : Tab Bool) (fl : Nat),
      exec (cmd cell ctx) s = .next (s.vtDone cell ctx { e.c with vm := vm } (e.next fl) ((e.x.vl + 63) / 64))
      ∧ (∀ key, Tab.get false vm key =
          if 4096 * (e.i.vd % 4) + e.x.part.vrBase ≤ key ∧ key < 4096 * (e.i.vd % 4) + e.x.part.vrBase + e.x.vl then
            let j := key - (4096 * (e.i.vd % 4) + e.x.part.vrBase)
            e.chosen j (Tab.get false e.c.vm key) (g e j).1 false
          else Tab.get false e.c.vm key)
      ∧ e.raised (fun j => (g e j).2) fl

/-- The command of opcode `op` reduces vs1 into element 0 of vd: `r e` is the value and its flags; no other element changes
(R129, R141, R142). `d` is its fixed occupancy (R149). -/
def VReducing (cmd : Nat → Nat → Instr) (op d : Nat) (r : VEnv → Nat × Nat) : Prop :=
  ∀ (s : State) (cell ctx : Nat) (e : VEnv), s.vtAt cell ctx e → e.i.op = op →
    ∃ vr : Tab Word,
      exec (cmd cell ctx) s = .next (s.vtDone cell ctx { e.c with vr := vr } (e.next (e.x.flags ||| (r e).2)) ((e.x.vl + 63) / 64 + d))
      ∧ ∀ key, Tab.get 0#32 vr key =
          if key = 4096 * e.i.vd + e.x.part.vrBase then BitVec.ofNat 32 (r e).1 else Tab.get 0#32 e.c.vr key

/-- The command of opcode `op` stores VL elements of `w e` bits from local address `ea` on, packed as R42: element `j` is
`g e j` (value, flags) where it is active; a byte outside the span, and the bits of its last byte past the last element, stay
(R127, R128). A granule of the local space written whole is good again (R636). -/
def VStoring (cmd : Nat → Nat → Instr) (op : Nat) (w : VEnv → Nat) (align : VEnv → Nat) (g : VEnv → Nat → Nat × Nat) : Prop :=
  ∀ (s : State) (cell ctx : Nat) (e : VEnv), s.vtAt cell ctx e → e.i.op = op →
    e.ea % align e = 0 → e.x.inWindow e.ea ((w e * e.x.vl + 7) / 8) = true → e.x.xferOverlaps e.ea ((w e * e.x.vl + 7) / 8) = false →
    ∃ (loc : Memory) (bad : Tab Bool) (fl : Nat),
      exec (cmd cell ctx) s = .next (s.vtDone cell ctx { e.c with loc := loc, locBad := bad } (e.next fl) ((e.x.vl + 63) / 64))
      ∧ (∀ a, a < e.ea ∨ e.ea + (w e * e.x.vl + 7) / 8 ≤ a → loc.read a = e.c.loc.read a)
      ∧ (∀ b, w e * e.x.vl ≤ b → b < 8 * ((w e * e.x.vl + 7) / 8) →
          (loc.read (e.ea + b / 8)).toNat.testBit (b % 8) = (e.c.loc.read (e.ea + b / 8)).toNat.testBit (b % 8))
      ∧ (∀ j, j < e.x.vl → ∀ b, b < w e →
          (loc.read (e.ea + (w e * j + b) / 8)).toNat.testBit ((w e * j + b) % 8) =
            e.chosen j ((e.c.loc.read (e.ea + (w e * j + b) / 8)).toNat.testBit ((w e * j + b) % 8)) ((g e j).1.testBit b) false)
      ∧ (∀ x, x ∈ bad ↔ x ∈ e.c.locBad ∧ ¬ (e.ea ≤ 8 * x.1 ∧ 8 * x.1 + 8 ≤ e.ea + (w e * e.x.vl + 7) / 8))
      ∧ e.raised (fun j => (g e j).2) fl

/-- A control instruction of opcode `op` only changes its context, to `g e` (R130). -/
def VControl (cmd : Nat → Nat → Instr) (op : Nat) (g : VEnv → VtCtx) : Prop :=
  ∀ (s : State) (cell ctx : Nat) (e : VEnv), s.vtAt cell ctx e → e.i.op = op →
    exec (cmd cell ctx) s = .next (s.vtDone cell ctx e.c (g e) 1)

/-! ### Matrix tiles -/

/-- A cell with matrix context `k`'s reading of its next command done (R86, R195). -/
def State.mtCell (s : State) (cell k : Nat) : Cell := (s.cell cell).mtSense ((s.cell cell).mtx k)

/-- Matrix context `k` of a cell is the selected one, may issue, and the command it has in hand or fetches now has opcode `op` and
words `w` (R84, R86, R92, R603). -/
def State.mtAt (s : State) (cell k op : Nat) (w : List Nat) : Prop :=
  s.fatal = false ∧ s.cellRuns cell = true ∧ s.sag < 3 ∧ (s.cell cell).mtSel = k ∧ ((s.cell cell).mtx k).finished = false
    ∧ (((s.cell cell).mtx k).st = .active ∨ ((s.cell cell).mtx k).st = .ready ∨ ((s.cell cell).mtx k).st = .late)
    ∧ (s.mtCell cell k).mtFetched s.arrFeat ((s.cell cell).mtx k) = .cmd op w

/-! ### Packets -/

/-- Packet `p` arrives now at a good cell that accepts mesh accesses (R200, R248, R595). -/
def State.cellMeets (s : State) (p : Packet) : Prop :=
  s.fatal = false ∧ s.goodCell p.dst = true ∧ s.cellTakes p = true ∧ s.mayArrive p = true

/-- Packet `p` arrives now at its requester (R238, R248, R595). -/
def State.respMeets (s : State) (p : Packet) : Prop :=
  s.fatal = false ∧ (s.goodCell p.dst = true → s.cellOpen p.dst = true) ∧ s.mayArrive p = true

/-! ### Host entries -/

/-- `c` is the next entry of the ring `ring` of function `fn`, has opcode `op`, and breaks no rule that is checked before its
execution (R491, R501, R502, R505). -/
def State.entryAt (s : State) (fn ring op : Nat) (c : Cmd) : Prop :=
  s.fatal = false ∧ ring < 8 ∧ s.nextCmd fn ring op = some c ∧ c.breaks = none ∧ (inlineOp op = true → op ≠ 0xC → c.inlineBad = false)

/-- Beside `entryAt`, for an opcode with a pointer payload of `n` bytes: what the host stored by then is in place, giving `t`, and
the payload is `bs` (R487, R503). -/
def State.entryPayAt (s : State) (fn ring op n : Nat) (h : HostIn) (c : Cmd) (bs : List Byte) (t : State) : Prop :=
  s.entryAt fn ring op c ∧ (s.hostStores fn h).payload c h c.payPtr n = .ok bs ∧ t = (s.hostStores fn h).acctPay c c.payPtr n

/-! ### Ferier messages -/

/-- The sequenced message `m` may be taken from the port `port` now and lies in its stream's window, as `c` in clear; it is performed
in the state `u` (R440 to R445, R448, R455). -/
def State.msgAt (s : State) (port : Nat) (m : FMsg) (c : RxCtx) (u : State) : Prop :=
  s.fatal = false ∧ s.ferOpen port = true ∧ u.stray port m = false ∧ u.ferMine m = true ∧ u.lowPower = false
    ∧ Tab.get 0 u.fer.epochs m.src = m.epoch
    ∧ (∃ r, s.rxEntry port m = some r ∧ u = s.updFer (fun f => { f with rx := f.rx.erase r }) ∧ c.again = r.tried)
    ∧ (u.rxStream m).base ≤ m.seq ∧ (u.rxStream m).marked.contains m.seq = false ∧ m.seq < (u.rxStream m).base + 4096
    ∧ ((u.rxStream m).marked ≠ [] ∨ m.seq = (u.rxStream m).base) ∧ msgShape m = true ∧ u.tenantOf m.fdom = some c.t
    ∧ (m.tc = 7 → c.t = 0) ∧ (c.al = true → u.tether.st ≠ .catchingUp) ∧ u.openMsg c.t m = some c.m ∧ c.al = u.refAlias m
    ∧ c.first = (m.seq == (u.rxStream m).base) ∧ c.port = port

/-- A performed message marked, acknowledged and its flits credited (R445, R446, R437). -/
def State.msgDone (s : State) (port t : Nat) (m : FMsg) : State :=
  ((((s.regAdd (rAcct t 0x68) m.bytes.length).setStream ((s.rxStream m).mark m.seq)).sendAck m).rxCredit port m.tc).ferPump

/-- A refused message answered with a NAK, its flits credited (R448). -/
def State.msgRefused (s : State) (port reason : Nat) (m : FMsg) : State := (s.sendNak m reason).rxCredit port m.tc

/-! ### The fatal stop -/

/-- The commands that end a fatal stop: power on or off, and a fundamental or device reset (R641); of the temperatures, a critical one,
which powers the module down (R607). -/
def endsFatal : Instr → Bool
  | .powerOn _ _ => true
  | .perstAssert => true
  | .devReset _ => true
  | .refclkLoss => true
  | .sagS5Enter _ _ => true
  | .overvoltage _ _ => true
  | .powerLoss => true
  | .thermSample ts _ => ts.length == 58 && (List.range 14).any (fun g => decide (tripAt g + 80 ≤ groupTemp ts g))
  | _ => false

/-- The module is stopped: no job, load, entry or engine command is left, and no waiting command ends the stop (R641). -/
def State.Stopped (s : State) : Prop :=
  s.fatal = true ∧ s.jobs = [] ∧ s.loads = [] ∧ s.cmds = [] ∧ s.engines = [] ∧ ∀ c ∈ s.pending, endsFatal c = false

end Sys2Proof.Machine
end

