-- ==== Sys2Proof/Certificates/Slice0/Obligations.lean ====
section
/-!
DEFINITION. Sys2Proof/Certificates/Slice0/Obligations.lean: the statements for the provers.
-/
open Sys2Proof Sys2Proof.Machine

/-! ### The block -/

/-- A step performs the command at the front of the queue and leaves the rest of it waiting. -/
def Obligations.StepRunsFrontCommand : Prop :=
  ∀ (c : Instr) (s : State) (rest : List Instr),
    Machine.step { s with pending := c :: rest } = exec c { s with pending := rest }

/-- The model's choice (log 5): a step on an empty queue is one tick of time. Where the time base does not run nothing changes. Where it runs
the GC goes on by one and changes nothing but what time alone drives: the time base, the A-clocks' counts, the cells' counters, counter
registers, tokens, held ticks of jobs, and the clocks that stand while a port stands still. In a fatal stop nothing but the GC and the
time base changes. -/
def Obligations.IdleStepIsOneTick : Prop :=
  ∀ s : State, s.pending = [] → Machine.step s = .next s.tick
    ∧ (s.time.running = false → s.tick = s)
    ∧ (s.time.running = true → s.tick.gc = s.gc + 1)
    ∧ (s.time.running = true → s.tick = { s with gc := s.tick.gc, time := s.tick.time, pwr := s.tick.pwr, cells := s.tick.cells
                                                 regs := s.tick.regs, tokens := s.tick.tokens, jobs := s.tick.jobs, fer := s.tick.fer
                                                 cmds := s.tick.cmds, gate := s.tick.gate, aliasGate := s.tick.aliasGate })
    ∧ (s.time.running = true → s.fatal = true → s.tick = { s with gc := s.tick.gc, time := s.tick.time })

/-- Every command answers a next state in every state: none ends in a fault or a refusal. -/
def Obligations.EveryCommandAnswersANextState : Prop :=
  ∀ (c : Instr) (s : State), ∃ t : State, exec c s = .next t

/-- Right after reset: the GC is 0 (R555), wall time is invalid, no stage is complete (R610), no feature set is committed (R495), debug is
LOCKED (R615), every ring is DISABLED (R497) and every port (R615), no job, load, entry, engine command or packet exists, every MSI-X
vector is masked, BW_FACTOR is 1024 and no tenant but tenant 0 is PRESENT (R529). -/
def Obligations.ResetState : Prop :=
  State.reset.pending = [] ∧ State.reset.gc = 0 ∧ State.reset.time.valid = false ∧ State.reset.stage = 0 ∧ State.reset.feat = 0
    ∧ State.reset.sec.dbg = 0 ∧ State.reset.fatal = false ∧ State.reset.jobs = [] ∧ State.reset.loads = [] ∧ State.reset.cmds = []
    ∧ State.reset.engines = [] ∧ State.reset.flight = [] ∧ State.reset.gate = none ∧ State.reset.tether.st = .none
    ∧ (∀ fn k, (State.reset.ring fn k).st = .disabled ∧ (State.reset.ring fn k).window = []) ∧ (∀ p, (State.reset.port p).st = .disabled)
    ∧ (∀ fn v, fn ≤ 16 → v < 9 → State.reset.reg (rMsix fn v + 12) = 1) ∧ State.reset.reg rBwFactor = 1024
    ∧ (∀ n, 1 ≤ n → n ≤ 16 → State.reset.present n = false) ∧ State.reset.present 0 = true

/-- A stopped module stays stopped: no step brings back a job, a load, an entry or an engine command, and only a power event or a reset ends
the stop (R641). -/
def Obligations.FatalStopLasts : Prop :=
  ∀ s t : State, s.Stopped → Machine.step s = .next t → t.Stopped

/-- A fatal stop is recorded in AO too, ends all work without a completion, and the ports with it (R641). -/
def Obligations.FatalStopEndsAllWork : Prop :=
  ∀ (s : State) (code : Nat), s.fatal = false → (s.fatalStop code).fatal = true ∧ (s.fatalStop code).jobs = [] ∧ (s.fatalStop code).loads = []
    ∧ (s.fatalStop code).cmds = [] ∧ (s.fatalStop code).rings = [] ∧ (s.fatalStop code).engines = [] ∧ (s.fatalStop code).flight = []
    ∧ (s.fatalStop code).fer.ports = [] ∧ (s.fatalStop code).stage = s.stage
    ∧ ∃ r : FaultRec, (s.fatalStop code).ao.crash = some r ∧ r.kind = .fatal ∧ r.code = code ∧ r.gc = s.gc
    ∧ ((∀ c ∈ s.pending, endsFatal c = false) → (s.fatalStop code).Stopped)

/-! ### Vector tiles (ch. 05, 06) -/

/-- FADD to FRND (R126, R128, R136, R39, R40, R149) and FEXP2, FLOG2, FRSQRT, FTANH, FSIGM and FERF (R137, R138) write their elements and
nothing else. -/
def Obligations.VectorFloatingPoint : Prop :=
  VElementwise .fadd 0x20 1 0 (fun _ => True) (fun e j => fadd32 e.i.mode e.i.sat (e.r16 j) (e.s1 j) (e.s2 j))
  ∧ VElementwise .fsub 0x21 1 0 (fun _ => True) (fun e j => fsub32 e.i.mode e.i.sat (e.r16 j) (e.s1 j) (e.s2 j))
  ∧ VElementwise .fmul 0x22 1 0 (fun _ => True) (fun e j => fmul32 e.i.mode e.i.sat (e.r16 j) (e.s1 j) (e.s2 j))
  ∧ VElementwise .ffma 0x23 1 0 (fun _ => True) (fun e j => ffma32 e.i.mode e.i.sat (e.r16 j) (e.s1 j) (e.s2 j) (e.s3 j))
  ∧ VElementwise .fdiv 0x24 4 0 (fun _ => True) (fun e j => fdiv32 e.i.mode e.i.sat (e.s1 j) (e.s2 j))
  ∧ VElementwise .fsqrt 0x25 4 0 (fun _ => True) (fun e j => fsqrt32 e.i.mode e.i.sat (e.s1 j))
  ∧ VElementwise .fmin 0x26 1 0 (fun _ => True) (fun e j => (fmin32 e.fp32Native (e.s1 j) (e.s2 j),
      (snanCond (FVal.decode .fp32 (e.s1 j)) (FVal.decode .fp32 (e.s2 j))).toBits))
  ∧ VElementwise .fmax 0x27 1 0 (fun _ => True) (fun e j => (fmax32 e.fp32Native (e.s1 j) (e.s2 j),
      (snanCond (FVal.decode .fp32 (e.s1 j)) (FVal.decode .fp32 (e.s2 j))).toBits))
  ∧ VElementwise .fminnum 0x28 1 0 (fun _ => True) (fun e j => (fminNum32 (e.s1 j) (e.s2 j),
      (snanCond (FVal.decode .fp32 (e.s1 j)) (FVal.decode .fp32 (e.s2 j))).toBits))
  ∧ VElementwise .fmaxnum 0x29 1 0 (fun _ => True) (fun e j => (fmaxNum32 (e.s1 j) (e.s2 j),
      (snanCond (FVal.decode .fp32 (e.s1 j)) (FVal.decode .fp32 (e.s2 j))).toBits))
  ∧ VElementwise .fabs 0x2A 1 0 (fun _ => True) (fun e j => fabs32 (e.s1 j))
  ∧ VElementwise .fneg 0x2B 1 0 (fun _ => True) (fun e j => fneg32 (e.s1 j))
  ∧ VElementwise .frnd 0x2C 1 0 (fun _ => True) (fun e j => frnd32 e.i.mode (e.r16 j) (e.s1 j))
  ∧ VElementwise .fexp2 0x30 4 0 (fun _ => True) (fun e j => fexp2 (e.s1 j))
  ∧ VElementwise .flog2 0x31 4 0 (fun _ => True) (fun e j => flog2 (e.s1 j))
  ∧ VElementwise .frsqrt 0x32 4 0 (fun _ => True) (fun e j => frsqrt (e.s1 j))
  ∧ VElementwise .ftanh 0x33 4 0 (fun _ => True) (fun e j => ftanh (e.s1 j))
  ∧ VElementwise .fsigm 0x34 4 0 (fun _ => True) (fun e j => fsigm (e.s1 j))
  ∧ VElementwise .ferf 0x35 4 0 (fun _ => True) (fun e j => ferf (e.s1 j))

/-- IADD to ICMPLT treat elements as INT32 and wrap modulo 2^32, shifts take the count modulo 32; each writes its elements, or mask bits,
and nothing else and raises no condition; rnd and sat are fixed at 0, and sc replaces vs2 by imm (R140). -/
def Obligations.VectorIntegerOperations : Prop :=
  VElementwise .iadd 0x48 1 0 (fun _ => True) (fun e j => (e.s1 j + e.s2 j, 0))
  ∧ VElementwise .isub 0x49 1 0 (fun _ => True) (fun e j => (e.s1 j + (2 ^ 32 - e.s2 j % 2 ^ 32), 0))
  ∧ VElementwise .imul 0x4A 1 0 (fun _ => True) (fun e j => (e.s1 j * e.s2 j, 0))
  ∧ VElementwise .imin 0x4B 1 0 (fun _ => True) (fun e j => (if sext 32 (e.s2 j) ≤ sext 32 (e.s1 j) then e.s2 j else e.s1 j, 0))
  ∧ VElementwise .imax 0x4C 1 0 (fun _ => True) (fun e j => (if sext 32 (e.s1 j) ≤ sext 32 (e.s2 j) then e.s2 j else e.s1 j, 0))
  ∧ VElementwise .iand 0x4D 1 0 (fun _ => True) (fun e j => (e.s1 j &&& e.s2 j, 0))
  ∧ VElementwise .ior 0x4E 1 0 (fun _ => True) (fun e j => (e.s1 j ||| e.s2 j, 0))
  ∧ VElementwise .ixor 0x4F 1 0 (fun _ => True) (fun e j => (e.s1 j ^^^ e.s2 j, 0))
  ∧ VElementwise .ishl 0x50 1 0 (fun _ => True) (fun e j => (e.s1 j * 2 ^ (e.s2 j % 32), 0))
  ∧ VElementwise .isra 0x51 1 0 (fun _ => True) (fun e j => (twos 32 (sext 32 (e.s1 j) / (2 ^ (e.s2 j % 32) : Nat)), 0))
  ∧ VElementwise .isrl 0x52 1 0 (fun _ => True) (fun e j => (e.s1 j / 2 ^ (e.s2 j % 32), 0))
  ∧ VMaskwise .icmpeq 0x53 (fun _ => True) (fun e j => (decide (e.s1 j % 2 ^ 32 = e.s2 j % 2 ^ 32), 0))
  ∧ VMaskwise .icmplt 0x54 (fun _ => True) (fun e j => (decide (sext 32 (e.s1 j) < sext 32 (e.s2 j)), 0))
  ∧ (∀ (s : State) (cell ctx : Nat) (e : VEnv), s.vtAt cell ctx e → 0x48 ≤ e.i.op → e.i.op ≤ 0x54 → e.i.rnd = 0 ∧ e.i.sat = false)
  ∧ (∀ (e : VEnv) (j : Nat), e.s2 j = if e.i.sc then e.i.imm else e.reg e.i.vs2 j)

/-- VMOV, VBCAST, VIOTA and VPERM copy bits, MAND, MOR, MXOR and MNOT act on masks, MCNT counts the set bits of M[ms1] at active positions
below VL into element 0 of vd, whatever the mask; none changes anything else or raises a condition, and the fields they fix are 0
(R142). -/
def Obligations.VectorMovesAndMasks : Prop :=
  VElementwise .vmov 0x60 1 0 (fun _ => True) (fun e j => (e.s1 j, 0))
  ∧ VElementwise .vbcast 0x61 1 0 (fun _ => True) (fun e _ => (e.i.imm, 0))
  ∧ VElementwise .viota 0x62 1 0 (fun _ => True) (fun _ j => (j, 0))
  ∧ VElementwise .vperm 0x63 1 2 (fun _ => True) (fun e j => (e.s1 (e.s2 j % e.x.vl), 0))
  ∧ VMaskwise .mand 0x68 (fun _ => True) (fun e j => (e.maskBit (e.i.vs1 % 4) j && e.maskBit (e.i.vs2 % 4) j, 0))
  ∧ VMaskwise .mor 0x69 (fun _ => True) (fun e j => (e.maskBit (e.i.vs1 % 4) j || e.maskBit (e.i.vs2 % 4) j, 0))
  ∧ VMaskwise .mxor 0x6A (fun _ => True) (fun e j => (e.maskBit (e.i.vs1 % 4) j ^^ e.maskBit (e.i.vs2 % 4) j, 0))
  ∧ VMaskwise .mnot 0x6B (fun _ => True) (fun e j => (!e.maskBit (e.i.vs1 % 4) j, 0))
  ∧ VReducing .mcnt 0x6C 2 (fun e => (((List.range e.x.vl).filter (fun j => e.active j && e.maskBit (e.i.vs1 % 4) j)).length, 0))
  ∧ (∀ (s : State) (cell ctx : Nat) (e : VEnv), s.vtAt cell ctx e → 0x60 ≤ e.i.op → e.i.op ≤ 0x6C →
      e.i.rnd = 0 ∧ e.i.sat = false ∧ (0x68 ≤ e.i.op → e.i.vs1 < 4 ∧ e.i.vs2 < 4) ∧ (0x68 ≤ e.i.op → e.i.op < 0x6C → e.i.vd < 4))

/-- FCMPEQ to FCMPGE write their mask bits (R38, R139); FSEL, whose selector is M[mk] whatever mmode (R129), FQNT, F2I and I2F write their
elements (R139); nothing else changes. -/
def Obligations.VectorComparesAndConversions : Prop :=
  (∀ p ∈ [(Instr.fcmpeq, 0x38, Cmp.eq), (.fcmpne, 0x39, .ne), (.fcmplt, 0x3A, .lt), (.fcmple, 0x3B, .le), (.fcmpgt, 0x3C, .gt),
      (.fcmpge, 0x3D, .ge)],
    VMaskwise p.1 p.2.1 (fun _ => True) (fun e j =>
      ((p.2.2.run (FVal.decode .fp32 (e.s1 j)) (FVal.decode .fp32 (e.s2 j))).1,
        (p.2.2.run (FVal.decode .fp32 (e.s1 j)) (FVal.decode .fp32 (e.s2 j))).2.toBits)))
  ∧ VElementwise .fsel 0x3E 1 0 (fun _ => True) (fun e j => (if e.maskBit e.i.mreg j then e.s1 j else e.s2 j, 0))
  ∧ VElementwise .fqnt 0x40 1 0 (fun _ => True) (fun e j =>
      ((rne32 (FVal.decode e.f (Fmt.fp32.convert e.f e.i.mode e.i.sat (e.r16 j) (e.s1 j)).1)).1,
        (Fmt.fp32.convert e.f e.i.mode e.i.sat (e.r16 j) (e.s1 j)).2.toBits))
  ∧ VElementwise .f2i 0x41 1 0 (fun _ => True) (fun e j =>
      ((Fmt.fp32.convert .int32 e.i.mode false (e.r16 j) (e.s1 j)).1, (Fmt.fp32.convert .int32 e.i.mode false (e.r16 j) (e.s1 j)).2.toBits))
  ∧ VElementwise .i2f 0x42 1 0 (fun _ => True) (fun e j =>
      ((Fmt.int32.convert .fp32 e.i.mode false (e.r16 j) (e.s1 j)).1, (Fmt.int32.convert .fp32 e.i.mode false (e.r16 j) (e.s1 j)).2.toBits))

/-- FRSUM, FRMAX and FRMIN combine the active elements in the order R141 fixes; IRSUM is their sum modulo 2^32. Each writes element 0 of vd,
whatever the mask, and no other. -/
def Obligations.VectorReductions : Prop :=
  VReducing .frsum 0x58 6 (fun e => ((e.reduced (fun a b => ((accAdd a (FVal.decode .fp32 b)).1,
      (accAdd a (FVal.decode .fp32 b)).2.toBits ||| (snanCond (FVal.decode .fp32 a) (FVal.decode .fp32 b)).toBits))).1.getD 0,
    (e.reduced (fun a b => ((accAdd a (FVal.decode .fp32 b)).1,
      (accAdd a (FVal.decode .fp32 b)).2.toBits ||| (snanCond (FVal.decode .fp32 a) (FVal.decode .fp32 b)).toBits))).2))
  ∧ VReducing .frmax 0x59 6 (fun e =>
      ((e.reduced (fun a b => (fmax32 e.fp32Native a b, (snanCond (FVal.decode .fp32 a) (FVal.decode .fp32 b)).toBits))).1.getD 0,
        (e.reduced (fun a b => (fmax32 e.fp32Native a b, (snanCond (FVal.decode .fp32 a) (FVal.decode .fp32 b)).toBits))).2))
  ∧ VReducing .frmin 0x5A 6 (fun e =>
      ((e.reduced (fun a b => (fmin32 e.fp32Native a b, (snanCond (FVal.decode .fp32 a) (FVal.decode .fp32 b)).toBits))).1.getD 0,
        (e.reduced (fun a b => (fmin32 e.fp32Native a b, (snanCond (FVal.decode .fp32 a) (FVal.decode .fp32 b)).toBits))).2))
  ∧ VReducing .irsum 0x5B 6 (fun e => ((((List.range e.x.vl).filter e.active).map e.s1).sum, 0))

/-- LOOP, SETVL, ASET, AADD, SRSEED and FLCLR retire with the new context given here, the counters and the accounting (R90, R126, R130,
R143, R145). With every earlier instruction retired END releases the context and gives its flags to its job's condition summary and POST
retires and sends its ADD; with every XFER complete XFENCE retires; else each of the three waits (R130, R145). WAIT makes the context
wait and sends its WAIT. -/
def Obligations.VectorControlInstructions : Prop :=
  (VControl .vtLoop 0x03 (fun e =>
      let n := (if e.x.loopCtr = 0 then e.i.imm else e.x.loopCtr) - 1
      { e.x with loopCtr := n, idx := if n ≠ 0 then bits e.i.lo 20 8 else e.x.idx + 1 })
  ∧ VControl .setvl 0x04 (fun e => { e.x with idx := e.x.idx + 1, vl := e.i.imm })
  ∧ VControl .aset 0x05 (fun e => { e.x with idx := e.x.idx + 1 }.setA (bits e.i.lo 9 8) (e.i.imm % 2 ^ 20))
  ∧ VControl .aadd 0x06 (fun e => { e.x with idx := e.x.idx + 1 }.setA (bits e.i.lo 9 8)
      ((e.areg (bits e.i.lo 9 8) + e.i.imm) % 2 ^ 20))
  ∧ VControl .srseed 0x07 (fun e => { e.x with idx := e.x.idx + 1, srCtr := 0, srSeed := if bit e.i.lo 8
      then e.x.srSeed % 2 ^ 32 + 2 ^ 32 * e.i.imm else e.x.srSeed / 2 ^ 32 * 2 ^ 32 + e.i.imm })
  ∧ VControl .flclr 0x08 (fun e => { e.x with idx := e.x.idx + 1, flags := 0 }))
  ∧ (∀ (s : State) (cell ctx : Nat) (e : VEnv), s.vtAt cell ctx e →
    (e.i.op = 0x00 → e.x.retired = true →
      (∀ j, e.x.job = some j → exec (.vtEnd cell ctx) s =
        .next ((s.setCell cell ((e.c.vtRelease ctx).count .vtEvtInstr 1)).updJob j (fun b => { b with cond := b.cond ||| e.x.flags })))
      ∧ (e.x.job = none → exec (.vtEnd cell ctx) s = .next (s.setCell cell ((e.c.vtRelease ctx).count .vtEvtInstr 1))))
    ∧ (e.i.op = 0x00 → e.x.retired = false → exec (.vtEnd cell ctx) s = .next (s.setCell cell (e.c.setVtx ctx (e.x.holding e.i .wait))))
    ∧ (e.i.op = 0x01 → exec (.vtWait cell ctx) s =
        .next ((s.setCell cell (e.c.setVtx ctx { e.x.holding e.i .wait with wait := some { sig := bits e.i.lo 21 8, value := e.i.imm } })).cellSignal
          cell (4 + ctx) .wait (bits e.i.lo 21 8) e.i.imm e.x.bindTag))
    ∧ (e.i.op = 0x02 → e.x.retired = true → exec (.vtPost cell ctx) s =
        .next ((s.vtDone cell ctx e.c { e.x with idx := e.x.idx + 1 } 1).cellSignal cell (4 + ctx) .add (bits e.i.lo 21 8) e.i.imm e.x.bindTag))
    ∧ (e.i.op = 0x02 → e.x.retired = false → exec (.vtPost cell ctx) s = .next (s.setCell cell (e.c.setVtx ctx (e.x.holding e.i .wait))))
    ∧ (e.i.op = 0x0A → e.x.xfers = [] → exec (.xfence cell ctx) s = .next (s.vtDone cell ctx e.c { e.x with idx := e.x.idx + 1 } 1))
    ∧ (e.i.op = 0x0A → e.x.xfers ≠ [] → exec (.xfence cell ctx) s = .next (s.setCell cell (e.c.setVtx ctx (e.x.holding e.i .wait)))))

/-- VLD, VLDB and MLD of a range that is aligned, in the window, free of pending XFERs and of uncorrectable errors load their elements
exactly and change nothing else (R55, R120, R131, R132); an uncorrectable error that arises first is remembered (R636). VST and MST
store their elements and change no other bit of the local space (R127, R128, R131, R132). -/
def Obligations.VectorLoadsAndStores : Prop :=
  (VElementwise (fun c k => .vld c k none) 0x10 1 0
      (fun e => e.ea % e.elAlign = 0 ∧ e.x.inWindow e.ea (e.span e.f.width) = true ∧ e.x.xferOverlaps e.ea (e.span e.f.width) = false
        ∧ e.c.localBad e.ea (e.span e.f.width) = none)
      (fun e j => (loadElem e.f (streamElem (e.c.loc.readBytes e.ea (e.span e.f.width)) e.f.width j), 0))
  ∧ VElementwise (fun c k => .vldb c k none) 0x12 1 0
      (fun e => e.ea % 64 = 0 ∧ e.x.inWindow e.ea (e.span e.f.width) = true ∧ e.x.xferOverlaps e.ea (e.span e.f.width) = false
        ∧ e.c.localBad e.ea (e.span e.f.width) = none ∧ e.sa % 64 = 0 ∧ e.x.inWindow e.sa (e.x.vl / e.blk) = true
        ∧ e.x.xferOverlaps e.sa (e.x.vl / e.blk) = false ∧ e.c.localBad e.sa (e.x.vl / e.blk) = none)
      (fun e j => let v := rne32 (blockElem e.f (byteAt (e.c.loc.readBytes e.sa (e.x.vl / e.blk)) (j / e.blk))
          (streamElem (e.c.loc.readBytes e.ea (e.span e.f.width)) e.f.width j))
        (v.1, v.2.toBits))
  ∧ VMaskwise (fun c k => .mld c k none) 0x14
      (fun e => e.x.inWindow e.ea (e.span 1) = true ∧ e.x.xferOverlaps e.ea (e.span 1) = false ∧ e.c.localBad e.ea (e.span 1) = none)
      (fun e j => ((e.c.loc.read (e.ea + j / 8)).toNat.testBit (j % 8), 0))
  ∧ (∀ (s : State) (cell k a : Nat), s.fatal = false →
      exec (.vld cell k (some a)) s = exec (.vld cell k none) (s.localErr cell (some a))
      ∧ exec (.vldb cell k (some a)) s = exec (.vldb cell k none) (s.localErr cell (some a))
      ∧ exec (.mld cell k (some a)) s = exec (.mld cell k none) (s.localErr cell (some a))))
  ∧ (VStoring .vst 0x11 (fun e => e.f.width) (fun e => e.elAlign) (fun e j => storeElem e.f e.i.mode e.i.sat (e.r16 j) (e.reg e.i.vd j))
  ∧ VStoring .mst 0x15 (fun _ => 1) (fun _ => 1) (fun e j => ((e.maskBit (e.i.vd % 4) j).toNat, 0)))

/-- VSTQ, VRECV, VSEND and XFER where nothing holds them back: VSTQ quantises its blocks into the elements and scales (R57, R58, R131);
VRECV, once the stream words it needs are there, takes them, owes their credits and loads its elements (R133); VSEND, where all its
words can be staged, stages them and retires (R133); XFER is issued with at most three pending (R134). XFER_COMPLETE moves the bytes of
the oldest pending XFER, in either direction, retires it and lets a context that waited for it go on (R130, R134). -/
def Obligations.VectorBlocksStreamsAndXfer : Prop :=
  ((∀ (s : State) (cell ctx : Nat) (e : VEnv), s.vtAt cell ctx e → e.i.op = 0x13 →
    e.localCheck e.ea (e.span e.f.width) 64 false = .done → e.localCheck e.sa (e.x.vl / e.blk) 64 false = .done →
    ∃ qs : List (Nat × List Nat × Cond), qs.length = e.x.vl / e.blk
      ∧ (∀ b, b < e.x.vl / e.blk → qs[b]? = some (quantBlock e.f e.i.smode e.i.mode e.i.sat (fun j => e.r16 (b * e.blk + j))
          ((List.range e.blk).map (fun j => if e.active (b * e.blk + j) then FVal.decode .fp32 (e.reg e.i.vd (b * e.blk + j)) else FVal.zero))))
      ∧ exec (.vstq cell ctx) s = .next (s.vtDone cell ctx
          ((e.c.putLocal e.ea (packElems e.f.width (qs.flatMap (fun q => q.2.1)))).putLocal e.sa (qs.map (fun q => BitVec.ofNat 8 q.1)))
          (e.next (e.x.flags ||| (qs.foldl (fun a q => a.or q.2.2) Cond.none).toBits)) (2 * ((e.x.vl + 63) / 64))))
  ∧ (∀ (s : State) (cell ctx : Nat) (e : VEnv) (c : Cell) (rx : List Byte) (cr : List Nat), s.vtAt cell ctx e → e.i.op = 0x16 →
    e.c.takeStream (e.i.imm % 32) e.x.rx (128 * ceilDiv (e.span e.f.width) 128) (min 2 (ceilDiv (e.span e.f.width) 128)) = (c, rx, cr) →
    128 * ceilDiv (e.span e.f.width) 128 ≤ rx.length →
    ∃ vr : Tab Word, exec (.vrecv cell ctx) s =
        .next ((s.owe cr).vtDone cell ctx { c with vr := vr } { e.next e.x.flags with rx := [] } ((e.x.vl + 63) / 64))
      ∧ ∀ key, Tab.get 0#32 vr key =
          if 4096 * e.i.vd + e.x.part.vrBase ≤ key ∧ key < 4096 * e.i.vd + e.x.part.vrBase + e.x.vl then
            let j := key - (4096 * e.i.vd + e.x.part.vrBase)
            e.chosen j (Tab.get 0#32 e.c.vr key) (BitVec.ofNat 32 (loadElem e.f (streamElem rx e.f.width j))) 0#32
          else Tab.get 0#32 e.c.vr key)
  ∧ (∀ (s : State) (cell ctx : Nat) (e : VEnv) (c : Cell), (s.roomCell cell).vtAt cell ctx e → e.i.op = 0x17 → e.x.sending = false →
    ∀ ws : List SWord, ws = toWords (32 * cell + e.i.imm % 32) e.x.job (packElems e.f.width ((List.range e.x.vl).map (fun j =>
        e.chosen j 0 (storeElem e.f e.i.mode e.i.sat (e.r16 j) (e.reg e.i.vd j)).1 0))) →
    stageWords ws.length e.c (ws.map (fun w => (e.i.imm % 32, w))) = (c, []) →
    ∃ fl, e.raised (fun j => (storeElem e.f e.i.mode e.i.sat (e.r16 j) (e.reg e.i.vd j)).2) fl
      ∧ exec (.vsend cell ctx) s =
        .next (((s.roomCell cell).vtDone cell ctx c { e.next fl with tx := [] } ((e.x.vl + 63) / 64)).settleSumps cell))
  ∧ (∀ (s : State) (cell ctx : Nat) (e : VEnv), s.vtAt cell ctx e → e.i.op = 0x18 → e.x.xfers.length < 4 →
    ∀ t : Xfer, t = { local_ := e.areg e.i.ar, memt := e.areg (e.i.ar ^^^ 1), len := 64 * (e.i.imm % 512 + 1), toMem := e.i.dir } →
    e.xferCheck t = .done →
    exec (.xfer cell ctx) s = .next ((s.acctCyc 8 e.x.job 1).setCell cell (((e.c.count .vtCycIssue 1).count .vtEvtInstr 0).setVtx ctx
      { e.next e.x.flags with xfers := e.x.xfers ++ [t], st := .active, instr := none }))))
  ∧ (∀ (s : State) (cell ctx : Nat) (t : Xfer) (ts : List Xfer), s.fatal = false → s.cellOpen cell = true →
    ((s.cell cell).vtx ctx).xfers = t :: ts →
    (t.toMem = true → (s.cell cell).localBad t.local_ t.len = none → exec (.xferComplete cell ctx) s =
      .next (s.setCell cell (((((s.cell cell).setVtx ctx { (s.cell cell).vtx ctx with xfers := ts }).memWrite t.memt
        ((s.cell cell).loc.readBytes t.local_ t.len)).count .vtEvtInstr 1).vtUnblock ctx)))
    ∧ (t.toMem = false → ∀ (b l : Nat) (c : Cell), (b, l) = wideSpan t.memt t.len →
      c = ((s.cell cell).setVtx ctx { (s.cell cell).vtx ctx with xfers := ts }).sense b l → c.poisoned b l = [] →
      exec (.xferComplete cell ctx) s = .next (s.setCell cell (((c.putLocal t.local_ (c.mem.readBytes t.memt t.len)).count
        .vtEvtInstr 1).vtUnblock ctx))))

/-- EPILOGUE takes the oldest finished tile of its own matrix context that none has taken; where its run of the menu ends well and a path
carries each of its PEER puts, the tile is marked taken, the CELL writes and PEER puts are sent and the context stays at it until they
are counted off; with no such tile the context is LATE (R147, R160 to R172). EPILOGUE_END, once the last word is staged, frees the queue
entry and goes on, or stops where its job is being stopped (R148, R153). VT_CONTEXT_SWITCH selects the next READY context, which costs 2
A-cycles, when the selected one is neither READY nor ACTIVE and runs no EPILOGUE (R151). -/
def Obligations.EpilogueAndVectorSwitch : Prop :=
  (∀ (s : State) (cell ctx : Nat) (e : VEnv) (q : FtqEntry) (o : EpiOut) (ps : List Packet) (n : Nat) (c : Cell), s.vtAt cell ctx e →
    e.i.op = 0x09 → e.c.ftq.find? (fun q => q.mctx == ctx && !q.taken) = some q →
    epilogueRun cell s.arrFeat (s.epiTarget cell) q e.c e.x (e.i.imm % 65536) = o → o.fin = .done →
    (∀ r, r ∈ o.peers → s.ferGood (s.cell cell).owner r.tc (if r.data.length % 16 = 0 ∧ r.tva % 16 = 0 then 0 else 1) = true) →
    ps = s.cellWrites cell (ctx + 4 * (q.id % 2 ^ 14)) o.cells →
    n = ps.length + (o.peers.map (fun r => (putPieces r.tva r.data).length)).sum →
    c = ((({ o.c with ftq := o.c.ftq.map (fun (r : FtqEntry) => if r.id = q.id then { r with taken := true } else r) } : Cell).count
      .vtCycEpi (epiCost q.epi)).updMma ctx q.mma (fun r => { r with acks := r.acks + n })).setVtx ctx { o.x with
        st := .active, instr := none, epi := some q.id, epis := o.x.epis ++ [{ tile := q.id, mma := q.mma, acks := n }] } →
    exec (.epilogue cell ctx none) s = .next (o.peers.foldl (fun t r =>
        t.ferPut (.epilogue cell ctx q.id o.x.job) (t.cell cell).owner r.tc r.dev r.tva r.sigEn r.sig r.data)
      ((((s.setCell cell c).acctCyc 8 o.x.job (epiCost q.epi)).epiPartial cell o.own).sendAll ps)))
  ∧ (∀ (s : State) (cell ctx : Nat) (e : VEnv), s.vtAt cell ctx e → e.i.op = 0x09 →
    e.c.ftq.find? (fun q => q.mctx == ctx && !q.taken) = none →
    exec (.epilogue cell ctx none) s = .next (s.setCell cell (e.c.setVtx ctx (e.x.holding e.i .late))))
  ∧ (∀ (s : State) (cell ctx a : Nat), s.fatal = false →
    exec (.epilogue cell ctx (some a)) s = exec (.epilogue cell ctx none) (s.localErr cell (some a)))
  ∧ (∀ (s t : State) (cell ctx id : Nat) (x : VtCtx) (c d : Cell), s.fatal = false → t = s.roomCell cell → t.cellOpen cell = true →
    x = (t.cell cell).vtx ctx → x.epi = some id → stageWords x.tx.length (t.cell cell) x.tx = (c, []) →
    d = ((({ c with ftq := c.ftq.filter (fun q => q.id != id) } : Cell).updMma ctx
        (match c.ftq.find? (fun q => q.id == id) with | some q => q.mma | none => 0) (fun r => { r with inEpi := r.inEpi - 1 })).setVtx ctx
        { x with epi := none, tx := [], idx := x.idx + 1 } |>.count .vtEvtTiles 1).updEpi ctx id (fun r => { r with ended := true }) →
    exec (.epilogueEnd cell ctx) s =
      .next ((t.setCell cell (if x.stopping then d.vtStop ctx else d.vtSettle ctx (d.vtx ctx))).settleSumps cell))
  ∧ (∀ (s : State) (cell k : Nat), s.fatal = false → s.cellRuns cell = true →
    ((s.cell cell).vtx (s.cell cell).vtSel).epi = none →
    (s.cell cell).vtState s.arrFeat (s.cell cell).vtSel ≠ .ready → (s.cell cell).vtState s.arrFeat (s.cell cell).vtSel ≠ .active →
    nextCtx (s.cell cell).vtSel (fun k => (s.cell cell).vtState s.arrFeat k == .ready) = some k →
    exec (.vtContextSwitch cell) s = .next (s.setCell cell
      ((({ (s.cell cell).setVtx k { (s.cell cell).vtx k with st := .active } with vtSel := k } : Cell).count .vtCycSwitch 2).count
        .vtEvtSwitches 1)))

/-! ### Matrix tiles (ch. 04) -/

/-- MT_WAIT, MT_POST, MT_LOOP and MT_END (R87, R89, R90, R108): WAIT makes the context wait and sends its WAIT; with no MMA of the context
unretired POST goes on and sends its ADD and END releases the context and gives its sticky flags to the job's condition summary, else
the context waits; LOOP loads its counter where it is 0, decrements it and continues at the target while it is not 0. -/
def Obligations.MatrixControlCommands : Prop :=
  ∀ (s : State) (cell ctx : Nat) (w : List Nat) (c : Cell) (x : MtCtx), c = s.mtCell cell ctx → x = (s.cell cell).mtx ctx →
    (s.mtAt cell ctx 2 w → exec (.mtWait cell ctx) s =
      .next ((s.setCell cell (c.setMtx ctx { x with st := .wait, wait := some { sig := bits (w.getD 0 0) 21 8, value := w.getD 1 0 } })).cellSignal
        cell ctx .wait (bits (w.getD 0 0) 21 8) (w.getD 1 0) x.bindTag))
    ∧ (s.mtAt cell ctx 3 w → x.mmas = [] → exec (.mtPost cell ctx) s =
      .next ((s.setCell cell (c.mtSettle s.arrFeat ctx x.advance)).cellSignal cell ctx .add (bits (w.getD 0 0) 21 8) (w.getD 1 0) x.bindTag))
    ∧ (s.mtAt cell ctx 3 w → x.mmas ≠ [] → exec (.mtPost cell ctx) s = .next (s.setCell cell (c.setMtx ctx { x with st := .wait })))
    ∧ (s.mtAt cell ctx 4 w → ((if x.loopCtr = 0 then w.getD 1 0 else x.loopCtr) - 1 ≠ 0) → exec (.mtLoop cell ctx) s =
      .next (s.setCell cell (c.mtSettle s.arrFeat ctx { x.advance with
        loopCtr := (if x.loopCtr = 0 then w.getD 1 0 else x.loopCtr) - 1, ptr := bits (w.getD 0 0) 19 8 })))
    ∧ (s.mtAt cell ctx 4 w → ((if x.loopCtr = 0 then w.getD 1 0 else x.loopCtr) - 1 = 0) → exec (.mtLoop cell ctx) s =
      .next (s.setCell cell (c.mtSettle s.arrFeat ctx { x.advance with loopCtr := 0 })))
    ∧ (s.mtAt cell ctx 0 w → x.mmas = [] → ∀ j, x.job = some j → exec (.mtEnd cell ctx) s =
      .next ((s.setCell cell (c.mtRelease ctx)).updJob j (fun b => { b with cond := b.cond ||| x.sticky })))
    ∧ (s.mtAt cell ctx 0 w → x.mmas = [] → x.job = none → exec (.mtEnd cell ctx) s = .next (s.setCell cell (c.mtRelease ctx)))
    ∧ (s.mtAt cell ctx 0 w → x.mmas ≠ [] → exec (.mtEnd cell ctx) s = .next (s.setCell cell (c.setMtx ctx { x with st := .wait })))

/-- MMA runs to the boundary of its output tile: the tile is finished and waits to be handed over, or, with epi 0xFF, it is kept and the
context goes to its next command; where its operands are not there it is LATE (R82, R87, R94, R103, R108); the credits of the stream
words it took are owed and its cycles charged. TILE_HANDOVER puts a finished tile at the end of the queue where it has room, else the
context is HELD (R106, R146, R167). MMA_RETIRE takes the oldest MMA away once its tiles are handed over, their epilogues ended and their
writes acknowledged (R87). MT_CONTEXT_READY stages a LATE context's operands and, once they are there, makes it READY, or ACTIVE where it
is selected (R104, R105). MT_CONTEXT_SWITCH selects the next READY context, which costs 2 A-cycles (R105, R112). -/
def Obligations.MatrixTilesComputedAndHandedOver : Prop :=
  (∀ (s u : State) (cell ctx : Nat) (w : List Nat) (fa fb : Fmt) (la lb : Layout) (c : Cell) (x : MtCtx) (e : TileEnd) (cr : List Nat)
      (draw : Nat), s.mtAt cell ctx 1 w → (Mma.ofWords w).types s.arrFeat.mx16 = some (fa, fb, la, lb) →
    (((s.cell cell).mtx ctx).take 1 w).cannotRun (Mma.ofWords w) = false →
    s.raceDraw (((s.cell cell).mtx ctx).take 1 w) = (draw, u) →
    (s.mtCell cell ctx).mmaTile (Mma.ofWords w) fa fb la lb { ((s.cell cell).mtx ctx).take 1 w with st := .active } draw = (c, x, e, cr) →
    ∀ t : State, t = (u.owe cr).acctCyc 0 x.job (mtSpent (s.mtCell cell ctx) c) → x.stopping = false →
    (e = .done → (Mma.ofWords w).epi ≠ 0xFF → exec (.mma cell ctx none) s = .next (t.setCell cell (c.setMtx ctx { x with finished := true })))
    ∧ (e = .done → (Mma.ofWords w).epi = 0xFF → exec (.mma cell ctx none) s =
      .next (t.setCell cell (c.mtSettle t.arrFeat ctx
        { ({ x with holds := true, sticky := x.sticky ||| x.tag } : MtCtx).advance with holds := true })))
    ∧ (e = .late → exec (.mma cell ctx none) s = .next ((t.setCell cell (c.setMtx ctx { x with st := .late })).shortCell cell)))
  ∧ (∀ (s : State) (cell ctx : Nat) (w : List Nat) (c : Cell) (x : MtCtx) (m : Mma), s.fatal = false → s.cellRuns cell = true →
    c = s.cell cell → x = c.mtx ctx → m = Mma.ofWords w → x.cmd = some w → x.finished = true → (c.vtx ctx).st ≠ .faulted →
    (c.vtx ctx).stopping = false →
    (2 < c.ftqUsed + (if m.pair && bit m.epi 6 then 2 else 1) →
      exec (.tileHandover cell ctx) s = .next (s.setCell cell (c.setMtx ctx { x with st := .held })))
    ∧ (c.ftqUsed + (if m.pair && bit m.epi 6 then 2 else 1) ≤ 2 → ∃ (q : FtqEntry) (y : MtCtx),
      exec (.tileHandover cell ctx) s =
        .next (s.setCell cell (({ c with ftq := c.ftq ++ [q], ftqCount := c.ftqCount + 1 }.count .mtEvtTiles 1).mtSettle s.arrFeat ctx y))
      ∧ q.id = c.ftqCount ∧ q.mctx = ctx ∧ q.tile = x.acc ∧ q.lo = (if m.pair && bit m.epi 6 then some x.lo else none) ∧ q.tag = x.tag
      ∧ q.epi = m.epi ∧ q.cmd = w ∧ q.job = x.job ∧ q.taken = false
      ∧ q.rowBlk = m.rFirst + ((visitOrder m.rCount m.cCount).getD x.visit (0, 0)).1 * m.rStep
      ∧ q.colBlk = m.cFirst + ((visitOrder m.rCount m.cCount).getD x.visit (0, 0)).2
      ∧ y.sticky = x.sticky ||| x.tag ∧ y.acc = [] ∧ y.lo = [] ∧ y.finished = false ∧ y.holds = false ∧ y.job = x.job
      ∧ (if x.visit + 1 < m.rCount * m.cCount then y.ptr = x.ptr ∧ y.visit = x.visit + 1 else y.ptr = x.ptr + 1 ∧ y.visit = 0)))
  ∧ (∀ (s : State) (cell ctx : Nat) (c : Cell) (x : MtCtx) (r : MmaRec) (rs : List MmaRec), s.fatal = false → c = s.cell cell →
    x = c.mtx ctx → x.mmas = r :: rs → r.toHand = 0 → r.inEpi = 0 → r.acks = 0 →
    exec (.mmaRetire cell ctx) s = .next (s.setCell cell
      (if rs = [] ∧ x.st = .wait ∧ x.wait = none then c.mtSettle s.arrFeat ctx { x with mmas := rs } else c.setMtx ctx { x with mmas := rs })))
  ∧ (∀ (s u : State) (cell ctx draw : Nat) (c : Cell) (x : MtCtx) (e : TileEnd) (cr : List Nat), s.fatal = false → s.cellRuns cell = true →
    ((s.cell cell).mtx ctx).st = .late → s.raceDraw ((s.cell cell).mtx ctx) = (draw, u) →
    (s.mtCell cell ctx).mtStage u.arrFeat ((s.cell cell).mtx ctx) draw = (c, x, e, cr) →
    (e = .done → exec (.mtContextReady cell ctx) s = .next (((u.owe cr).setCell cell (c.setMtx ctx
      { x with st := if c.mtSel = ctx then .active else .ready })).shortCell cell))
    ∧ (e = .late → exec (.mtContextReady cell ctx) s = .next (((u.owe cr).setCell cell (c.setMtx ctx x)).shortCell cell)))
  ∧ (∀ (s : State) (cell k : Nat), s.fatal = false → s.cellRuns cell = true →
    ((s.cell cell).mtx (s.cell cell).mtSel).st ≠ .ready → ((s.cell cell).mtx (s.cell cell).mtSel).st ≠ .active →
    nextCtx (s.cell cell).mtSel (fun k => ((s.cell cell).mtx k).st == .ready) = some k →
    exec (.mtContextSwitch cell) s = .next (s.setCell cell
      ((({ (s.cell cell).setMtx k { (s.cell cell).mtx k with st := .active } with mtSel := k } : Cell).count .mtCycSwitch 2).count
        .mtEvtSwitches 1)))

/-! ### Memory tiles, control requests and responses (ch. 07, 09) -/

/-- An RD that a memory tile's owner check admits, within the tile and aligned, answers the bytes with OK where no granule of them is
poisoned once the code has checked them; a WR stores its bytes and answers OK (R185, R189, R190, R195, R238). An access the owner check
does not allow is recorded, stores nothing and is answered ACCESS, whatever its range (R189). A slice that serves the access answers
as the slice's own read or write does. A cell's write puts its bytes at their offsets and leaves every other byte. -/
def Obligations.MemoryTileReadsAndWrites : Prop :=
  (∀ (s t u : State) (p : Packet) (a n : Nat) (found : List (Nat × Bool)), s.cellMeets p → p.body = .rd a n →
    t = (s.setCell p.dst ((s.cell p.dst).arise a found)).arrived p →
    (t.ownerAdmits p.dst p = true → meshRangeOk a n = true → u = t.memtSense p.dst a n → (u.cell p.dst).poisoned a n = [] →
      exec (.rd p found) s = .next (u.send (u.respTo p (.rdData .ok ((u.cell p.dst).mem.readBytes a n)))).loadTables)
    ∧ (t.ownerAdmits p.dst p = false →
      u = t.record .memtAccess { noRec with node := p.dst, unit := 2, tenant := p.tenant, addr := a, idx0 := p.src, extra1 := p.cls.ctorIdx } →
      exec (.rd p found) s = .next (u.send (u.respTo p (.rdData .access (List.replicate n 0#8)))).loadTables))
  ∧ (∀ (s t u : State) (p : Packet) (a : Nat) (bs : List Byte), s.cellMeets p → p.body = .wr a bs → t = s.arrived p →
    (t.ownerAdmits p.dst p = true → meshRangeOk a bs.length = true → u = t.memtStore p.dst a bs →
      exec (.wr p) s = .next (u.send (u.respTo p (.wrAck .ok))).loadTables)
    ∧ (t.ownerAdmits p.dst p = false →
      u = t.record .memtAccess { noRec with node := p.dst, unit := 2, tenant := p.tenant, addr := a, idx0 := p.src, extra1 := p.cls.ctorIdx } →
      exec (.wr p) s = .next (u.send (u.respTo p (.wrAck .access))).loadTables))
  ∧ (∀ (s t : State) (p : Packet) (a n : Nat) (bs : List Byte) (st : MStatus), s.fatal = false → s.goodCell p.dst = false →
    s.goodNode p.dst = true → s.mayArrive p = true →
    (p.body = .rd a n → s.sliceServes p a n = true → ((s.arrived p).sliceFound a []).sliceRead p a n = (st, bs, t) →
      (0x900 ≤ p.dst ∧ p.dst = 0x900 + stackOf a ∧ a < 2 ^ 39 ∧ 0 < n ∧ n ≤ 256) →
      exec (.rd p []) s = .next (t.send (t.respTo p (.rdData st bs))).loadTables)
    ∧ (p.body = .wr a bs → s.sliceServes p a bs.length = true → (s.arrived p).sliceWrite p a bs = (st, t) →
      exec (.wr p) s = .next (t.send (t.respTo p (.wrAck st))).loadTables))
  ∧ (∀ (c : Cell) (a : Nat) (bs : List Byte) (x : Nat), (c.memWrite a bs).mem.read x =
      if a ≤ x ∧ x < a + bs.length then bs.getD (x - a) 0#8 else c.mem.read x)

/-- FILL writes the pattern bytes by their offset modulo 8 and COPY the bytes the source held before it, overlapping ranges included (R192). -/
def Obligations.FillAndCopyBytes : Prop :=
  (∀ (c : Cell) (dst len pat x : Nat), (c.fill dst len pat).mem.read x =
    if dst ≤ x ∧ x < dst + len then BitVec.ofNat 8 (pat / 2 ^ (8 * (x % 8))) else c.mem.read x)
  ∧ (∀ (c : Cell) (dst src len x : Nat), (c.copy dst src len).mem.read x =
    if dst ≤ x ∧ x < dst + len then c.mem.read (src + (x - dst)) else c.mem.read x)

/-- An admitted MT_OP_FILL or MT_OP_COPY waits behind those in progress, at most four waiting (R193). FILL_COPY_COMPLETE performs the one at
the head and answers it OK, a COPY where no granule of its source is poisoned once the code has checked them, and adds to its signal
where sig_en is set (R191, R194). -/
def Obligations.FillAndCopyOperations : Prop :=
  (∀ (s t : State) (p : Packet) (b : List Byte), s.cellMeets p → p.body = .mtOp b → (s.cell p.dst).mtOps.length < 5 → t = s.arrived p →
    t.ownerAdmits p.dst p = true → fillCopyOk b = true →
    ((FillCopy.ofBytes b).op = 1 → exec (.mtOpFill p) s =
      .next (t.setCell p.dst { t.cell p.dst with mtOps := (t.cell p.dst).mtOps ++ [p] }).loadTables)
    ∧ ((FillCopy.ofBytes b).op = 2 → exec (.mtOpCopy p) s =
      .next (t.setCell p.dst { t.cell p.dst with mtOps := (t.cell p.dst).mtOps ++ [p] }).loadTables))
  ∧ (∀ (s u v w : State) (cell : Nat) (p q : Packet) (rest : List Packet) (b : List Byte) (f : FillCopy), s.fatal = false →
    s.cellOpen cell = true → (s.cell cell).mtOps = p :: rest → p.body = .mtOp b → f = FillCopy.ofBytes b →
    ((f.op = 1 ∧ u = s ∧ v = u.setCell cell { (u.cell cell).fill f.dst f.len f.pat with mtOps := rest })
      ∨ (f.op = 2 ∧ u = s.memtSense cell f.src f.len ∧ (u.cell cell).poisoned f.src f.len = []
        ∧ v = u.setCell cell { (u.cell cell).copy f.dst f.src f.len with mtOps := rest })) →
    w = v.send (u.respTo p (.opDone .ok)) →
    q = { src := cell, dst := if Tab.get 0 (u.cell cell).route f.sig = 0 then hubN else Tab.get 0 (u.cell cell).route f.sig - 1
          tenant := p.tenant, cls := p.cls, share := p.share, tag := 0
          body := .sig .add f.sig f.sigVal { node := cell, unit := 0xF, tag := 0 } } →
    exec (.fillCopyComplete cell) s = .next (if f.sigEn then w.send q else w))

/-- READY_BIT_SET and READY_BIT_CLEAR change one ready bit (R188), REGION_FENCE sets or clears the fence and its owner tag (R293, R294), and
halts a cell or lets it go on (R236), CONTEXT_BIND binds the enabled IDLE contexts it names (R118, R324): each from a class that may send
control requests, answered OK; from another class it changes no cell and is answered ACCESS (R237). MEMT_SCRUB reads one 64-byte word
where no error is found and goes on to the next, beginning a new pass after the last (R197). WIDE_PORT_YIELD performs the narrow port's
head request once it has been refused for 64 A-cycles, at the cost of one withheld A-cycle (R183, R201). -/
def Obligations.ControlRequestsScrubAndYield : Prop :=
  (∀ (s t : State) (p : Packet) (c : Cell), s.cellMeets p → t = s.arrived p → c = t.cell p.dst →
    (ctrlClass p.cls = true →
      (∀ r, p.body = .ctrl (.readySet r) → exec (.readyBitSet p) s = .next (State.loadTables ((t.setCell p.dst
        { c with ready := setBit c.ready (r % 16) true }).send (t.respTo p (.opDone .ok)))))
      ∧ (∀ r, p.body = .ctrl (.readyClear r) → exec (.readyBitClear p) s = .next (State.loadTables ((t.setCell p.dst
        { c with ready := setBit c.ready (r % 16) false }).send (t.respTo p (.opDone .ok)))))
      ∧ (p.body = .ctrl .fence → exec (.regionFence p) s = .next (State.loadTables ((t.setCell p.dst
        { c with fenced := true, owner := fenceTag, ownerSaved := if c.fenced then c.ownerSaved else c.owner }).send
          (t.respTo p (.opDone .ok)))))
      ∧ (∀ o, p.body = .ctrl (.unfence o) → exec (.regionFence p) s = .next (State.loadTables ((t.setCell p.dst
        { c with fenced := false, owner := o }).send (t.respTo p (.opDone .ok)))))
      ∧ (∀ on, p.body = .ctrl (.halt on) → exec (.regionFence p) s = .next (State.loadTables ((t.setCell p.dst
        { c with halted := on, stepLeft := 0, stepEnd := 0 }).send (t.respTo p (.opDone .ok)))))
      ∧ (∀ k mt vt pair ms vs job task d e, p.body = .ctrl (.bind k mt vt pair ms vs job task) →
        d = (if mt = true ∧ c.cmdCount ≠ 0 ∧ (c.mtx k).st = .idle then c.bindMt t.arrFeat k job task ms pair else c) →
        e = (if vt = true ∧ (Tab.get {} d.parts k).vrCap ≠ 0 ∧ (d.vtx k).st = .idle then d.bindVt k job task vs else d) →
        exec (.contextBind p) s = .next (State.loadTables (((t.setCell p.dst e).markOpen p.dst).send (t.respTo p (.opDone .ok))))))
    ∧ (ctrlClass p.cls = false → ∀ q : CtrlReq, p.body = .ctrl q →
      (∀ r, q = .readySet r → exec (.readyBitSet p) s = .next (t.send (t.respTo p (.opDone .access))).loadTables)
      ∧ (∀ r, q = .readyClear r → exec (.readyBitClear p) s = .next (t.send (t.respTo p (.opDone .access))).loadTables)
      ∧ (q = .fence → exec (.regionFence p) s = .next (t.send (t.respTo p (.opDone .access))).loadTables)
      ∧ (∀ k mt vt pair ms vs job task, q = .bind k mt vt pair ms vs job task →
        exec (.contextBind p) s = .next (t.send (t.respTo p (.opDone .access))).loadTables)))
  ∧ (∀ (s : State) (cell : Nat) (c : Cell), s.cellOpen cell = true → s.scrubStopped = false → c = s.cell cell →
    c.memErr.filter (fun g => granIn (64 * c.scrubPos) 64 g.1) = [] →
    exec (.memtScrub cell []) s = .next (State.memtSense (s.setCell cell
      (if c.scrubPos + 1 = 16384 then { c with scrubPos := 0, scrubCur := [], scrubPrev := c.scrubCur } else { c with scrubPos := c.scrubPos + 1 }))
        cell (64 * c.scrubPos) 64))
  ∧ (∀ (s t : State) (cell : Nat) (p : Packet), s.fatal = false → s.cellOpen cell = true → 64 ≤ (s.cell cell).narrowRefused →
    t = s.setCell cell ({ s.cell cell with narrowRefused := 0 }.count .memtCycStarve 1) → t.narrowHead cell = some p →
    (∀ a n, p.body = .rd a n → exec (.widePortYield cell) s = .next (t.memtRd p a n))
    ∧ (∀ a bs, p.body = .wr a bs → exec (.widePortYield cell) s = .next (t.memtWr p a bs)))

/-- RD_DATA and OP_DONE leave flight; an OK WR_ACK of an epilogue's write is counted off its EPILOGUE and its MMA, found by its tag (R130,
R236). A SIG_WAKE satisfied that carries its context's binding and signal moves the waiting context past its WAIT (R262, R264). A MSG_NAK
of a message held marks it for its resend where it has been resent fewer than four times (R269), at an engine the same for its command
(R359); MSG_RESEND sends a marked message again. WAIT_RETRY sends again a WAIT that was answered RETRY, of a context, a host entry or an
engine's command (R262). -/
def Obligations.ResponsesReachTheirRequester : Prop :=
  (∀ (s : State) (p : Packet) (st : MStatus) (d : List Byte), s.respMeets p → p.body = .rdData st d →
    exec (.rdData p) s = .next (s.arrived p).loadTables)
  ∧ (∀ (s : State) (p : Packet) (st : MStatus), s.respMeets p → p.body = .opDone st → exec (.opDone p) s = .next (s.arrived p).loadTables)
  ∧ (∀ (s t : State) (p : Packet) (r : EpiRec), s.respMeets p → p.body = .wrAck .ok → s.goodCell p.dst = true → p.cls = .cell →
    t = s.arrived p → ((t.cell p.dst).vtx (p.tag % 4)).epis.find? (fun r => r.tile % 2 ^ 14 == p.tag / 4 % 2 ^ 14 && r.acks != 0) = some r →
    exec (.wrAck p) s = .next (State.loadTables (t.setCell p.dst
      ((((t.cell p.dst).updEpi (p.tag % 4) r.tile (fun r => { r with acks := r.acks - 1 })).updMma (p.tag % 4) r.mma
        (fun m => { m with acks := m.acks - 1 })).vtUnblock (p.tag % 4)))))
  ∧ (∀ (s t : State) (p : Packet) (sig count unit tag node : Nat) (w : CtxWait), s.respMeets p → s.goodCell p.dst = true →
    p.body = .wake .satisfied sig count { node := node, unit := unit, tag := tag } → w.sig = sig → t = s.arrived p →
    (∀ x : MtCtx, unit < 4 → x = (t.cell p.dst).mtx unit → x.wait = some w → x.bindTag = tag → exec (.sigWake p) s =
      .next (t.setCell p.dst ((t.cell p.dst).mtSettle t.arrFeat unit { x.advance with wait := none })).loadTables)
    ∧ (∀ x : VtCtx, 4 ≤ unit → unit < 8 → x = (t.cell p.dst).vtx (unit - 4) → x.wait = some w → x.bindTag = tag → exec (.sigWake p) s =
      .next (t.setCell p.dst (((t.cell p.dst).vtSettle (unit - 4) { x with wait := none, instr := none, idx := x.idx + 1 }).count
        .vtEvtInstr 1)).loadTables))
  ∧ (∀ (s t : State) (p : Packet) (st : MStatus) (m : MsgLogic) (h : Packet × Nat × Bool), s.respMeets p → s.goodCell p.dst = true →
    p.body = .msgNak st → t = s.arrived p → (t.cell p.dst).msg = some m →
    m.held.find? (fun h => h.1.tag == p.tag && h.1.dst == p.src) = some h → h.2.1 < 4 →
    exec (.msgNak p) s = .next (t.updMsg p.dst (fun m => { m with held := m.held.map (fun h =>
      if h.1.tag == p.tag && h.1.dst == p.src then (h.1, h.2.1, true) else h) })).loadTables)
  ∧ (∀ (s t : State) (p : Packet) (e : Nat) (c : EngCmd), s.respMeets p → p.dst = hubS → p.body = .msgNak .queueFull → t = s.arrived p →
    t.engById p.tag = some (e, c) → c.sent = true → c.fin = none → c.tries < 4 →
    exec (.msgNak p) s = .next (t.updEng e c.id (fun c => { c with again := true })).loadTables)
  ∧ (∀ (s : State) (cell : Nat) (m : MsgLogic) (h : Packet × Nat × Bool), s.fatal = false → s.cellOpen cell = true →
    (s.cell cell).msg = some m → m.held.find? (fun h => h.2.2) = some h →
    exec (.msgResend cell) s = .next ((s.updMsg cell (fun m => { m with held := m.held.map (fun k =>
      if k = h then (h.1, h.2.1 + 1, false) else k) })).send h.1))
  ∧ (∀ (s : State) (e : Nat) (c : EngCmd), s.fatal = false →
    s.engines.findSome? (fun e => (e.2.find? (fun c => c.again)).map (fun c => (e.1, c))) = some (e, c) →
    exec (.msgResend hubS) s = .next ((s.updEng e c.id (fun c => { c with tries := c.tries + 1 })).engMsg e c))
  ∧ (∀ (s : State) (cell ctx : Nat) (w : CtxWait), s.fatal = false → s.cellOpen cell = true → w.retry = true →
    (ctx < 4 → ((s.cell cell).mtx ctx).wait = some w →
      exec (.waitRetry cell ctx) s = .next ((s.setCell cell ((s.cell cell).setMtx ctx { (s.cell cell).mtx ctx with
        wait := some { w with retry := false } })).cellSignal cell ctx .wait w.sig w.value ((s.cell cell).mtx ctx).bindTag))
    ∧ (4 ≤ ctx → ctx < 8 → ((s.cell cell).vtx (ctx - 4)).wait = some w →
      exec (.waitRetry cell ctx) s = .next ((s.setCell cell ((s.cell cell).setVtx (ctx - 4) { (s.cell cell).vtx (ctx - 4) with
        wait := some { w with retry := false } })).cellSignal cell ctx .wait w.sig w.value ((s.cell cell).vtx (ctx - 4)).bindTag)))
  ∧ (∀ (s : State) (id : Nat) (c : Cmd), s.fatal = false → s.cmds.find? (fun c => c.id == id && c.retry) = some c →
    exec (.waitRetry hubN id) s = .next (State.hubSignal { s with cmds := s.cmds.map (fun (x : Cmd) =>
      if x.id = id then { x with retry := false } else x) } .wait (c.w 8) (c.w 9) c.fn .host c.issuer))
  ∧ (∀ (s : State) (id e : Nat) (c : EngCmd), s.fatal = false →
    s.engines.findSome? (fun e => (e.2.find? (fun c => c.id == id && c.retry)).map (fun c => (e.1, c))) = some (e, c) →
    exec (.waitRetry hubS id) s = .next ((s.updEng e c.id (fun c => { c with retry := false })).engWait c))

/-! ### The stream network (ch. 08) -/

/-- STREAM_WORD_ARRIVE forwards the word at the head of a link by the slot table of the cycle in which it is due: to the output whose entry
names its input, from which it goes on to the neighbour, due one cycle later on the same die (R203), and behind the crossing of a
boundary else (R214); to the FIFO of the entry's channel at LOCAL; a word with no entry is misrouted (R205). A word staged at a channel
with a credit leaves in the next of its slots and uses the credit (R209); with the channel's Sump open, spilled words are fetched back.
STREAM_CREDIT_RETURN gives the outbound channel its credit. Where a link's word moved, or a credit came back, spilled words of that
circuit are then fetched back as far as its credits allow. -/
def Obligations.StreamWordsForwardedAndCreditsReturned : Prop :=
  (∀ (s t : State) (cell port slot chan : Nat) (l : LinkWord), s.fatal = false → s.cellOpen cell = true → slot < 8 → port < 4 →
    s.linkHead cell port slot = some l → t = State.reach { s with links := s.links.erase l } (cellDie cell) l.due →
    (∀ o n, (s.cell cell).outputFor port slot 0 = some o → o < 4 → neighbour cell o = some n → cellDie n = cellDie cell →
      exec (.streamWordArrive cell port slot chan) s = .next
        (State.refill { t.setCell cell ((s.cell cell).count (busyCtr o) 1) with
          links := s.links.erase l ++ [{ cell := n, port := oppPort o, due := l.due + 1, crossed := false, word := l.word }] }
          160 l.word.circuit))
    ∧ (∀ o n, (s.cell cell).outputFor port slot 0 = some o → o < 4 → neighbour cell o = some n → cellDie n ≠ cellDie cell →
      (s.crossing n (oppPort o)).length < 16 →
      exec (.streamWordArrive cell port slot chan) s = .next
        (State.refill { t.setCell cell ((s.cell cell).count (busyCtr o) 1) with
          links := s.links.erase l ++ [{ cell := n, port := oppPort o, crossed := true, word := l.word
                                         due := (t.setCell cell ((s.cell cell).count (busyCtr o) 1)).crossDue (cellDie cell) n (oppPort o) }] }
          160 l.word.circuit))
    ∧ ((s.cell cell).outputFor port slot 0 = some 4 → exec (.streamWordArrive cell port slot chan) s = .next
        (((t.setCell cell ((s.cell cell).count (busyCtr 4) 1)).deliver cell (bits ((s.cell cell).slotEntry 4 slot) 13 9) l.word).refill
          160 l.word.circuit))
    ∧ ((s.cell cell).outputFor port slot 0 = none → exec (.streamWordArrive cell port slot chan) s = .next
        ((t.misroute cell port slot l.word).refill 160 l.word.circuit)))
  ∧ (∀ (s t : State) (cell slot ch n : Nat) (w : SWord) (ws : List SWord), s.fatal = false → s.cellOpen cell = true → slot < 8 → ch < 32 →
    ((s.cell cell).chan ch).staging = w :: ws → ((s.cell cell).chan ch).credits ≠ 0 → ((s.cell cell).chan ch).withheld = false →
    ((s.cell cell).chan ch).sump = none → ((s.cell cell).outputFor 4 slot ch).isSome = true →
    n = nextSlot (max (s.acycles (cellDie cell)) ((s.cell cell).chan ch).sentAt) slot → s.firstDue (cellDie cell) n = true →
    s.crossFull cell 4 n ch = false →
    t = s.setCell cell ((s.cell cell).setChan ch { (s.cell cell).chan ch with
      staging := ws, credits := ((s.cell cell).chan ch).credits - 1, waitRun := 0, cycRec := false, sentAt := n + 1
      evtWords := (((s.cell cell).chan ch).evtWords + 1) % 2 ^ 48 }) →
    exec (.streamWordArrive cell 4 slot ch) s = .next ((t.reach (cellDie cell) n).forward cell 4 n ch w))
  ∧ (∀ (s : State) (cell slot ch : Nat), s.fatal = false → s.cellOpen cell = true → ch < 32 → ((s.cell cell).chan ch).sump.isSome = true →
    exec (.streamWordArrive cell 4 slot ch) s = .next (s.refill 160 (32 * cell + ch)))
  ∧ (∀ (s : State) (circuit : Nat), s.fatal = false → circuit ∈ s.creditFlight →
    exec (.streamCreditReturn circuit) s = .next
      ((({ s with creditFlight := s.creditFlight.erase circuit } : State).setCell (circuit / 32) ((s.cell (circuit / 32)).setChan (circuit % 32)
        { (s.cell (circuit / 32)).chan (circuit % 32) with credits := ((s.cell (circuit / 32)).chan (circuit % 32)).credits + 1 })).refill
        160 circuit))

/-- A SPLIT or a MERGE moves its words, in order and whole, from its input to its outputs as far as each output takes them, and owes the
credits of what it removed (R216, R218, R219): of a record already begun, or of one that begins now by the unit's condition: COUNT's side,
DUP's both, a whole control record's selector, ARRIVAL's input with words (the other than the last where both have; of two inputs with words before any
record, a free value). A MERGE's selector of 2 or 3 is a fault (R220). Probes and the Sump (R225 to R229): SUMP_PROBE_SEND brings the wait
run to its next multiple of 8,192 and sends a probe with one edge; PROBE goes on along every edge that has waited 8,192 A-cycles, one edge
longer, and a probe that meets its origin's circuit has found the cycle; PROBE_OPEN_REQUEST opens the Sump of the lowest circuit; SUMP_CLOSE
closes an empty one whose producer holds a credit; SUMP_EXHAUSTED, after a producer has stood 8,192 A-cycles before a full region, stops the
cycle's jobs with OVERFLOW_FAULT. -/
def Obligations.SteeringUnitsProbesAndTheSump : Prop :=
  ((∀ (s b : State) (cell su inCh k : Nat) (c : Cell) (cr : List Nat), s.fatal = false → su < 2 → s.cellRuns cell = true →
    ((s.cell cell).steer su).kind = 1 → (s.cell cell).suChan su 1 0 = some inCh →
    ((((s.cell cell).steer su).cur.isSome = true ∧ b = s)
      ∨ (((s.cell cell).steer su).cur = none ∧ ((s.cell cell).steer su).cond ≠ 1 ∧ ((s.cell cell).chan inCh).fifo ≠ []
        ∧ ∃ side, side = (if ((s.cell cell).steer su).cond = 2 then 3 else ((s.cell cell).steer su).countSide)
          ∧ b = s.setCell cell ((s.cell cell).beginRecord su side (splitSides side)))
      ∨ (((s.cell cell).steer su).cur = none ∧ ((s.cell cell).steer su).cond = 1
        ∧ ∃ t sel w, s.control cell su = (t, some (sel, w)) ∧ b = t.setCell cell ((t.cell cell).beginRecord su sel (splitSides sel)))) →
    (((b.roomCell cell).cell cell).steer su).cur = some k →
    moveRecord 128 cell ((b.roomCell cell).cell cell) su inCh ((splitSides k).filterMap (((b.roomCell cell).cell cell).suChan su 2)) [] = (c, cr) →
    exec (.splitRecord cell su) s = .next ((((b.roomCell cell).owe cr).setCell cell c).settleSumps cell))
  ∧ (∀ (s b : State) (cell su in0 in1 out k : Nat) (c : Cell) (cr : List Nat), s.fatal = false → su < 2 → s.cellRuns cell = true →
    ((s.cell cell).steer su).kind = 2 → (s.cell cell).suChan su 1 0 = some in0 → (s.cell cell).suChan su 1 1 = some in1 →
    (s.cell cell).suChan su 2 0 = some out →
    ((((s.cell cell).steer su).cur.isSome = true ∧ b = s)
      ∨ (((s.cell cell).steer su).cur = none ∧ ∃ t n, b = t.setCell cell ((t.cell cell).beginRecord su n [n])
        ∧ ((((s.cell cell).steer su).cond = 1 ∧ ∃ w, s.control cell su = (t, some (n, w)) ∧ n < 2)
          ∨ (((s.cell cell).steer su).cond = 3 ∧ ((s.cell cell).chan in0).fifo ≠ [] ∧ ((s.cell cell).chan in1).fifo ≠ []
            ∧ ((((s.cell cell).steer su).lastIn = 2 ∧ n = Config.freePick s.freeCtr 2 ∧ t = { s with freeCtr := s.freeCtr + 1 })
              ∨ (((s.cell cell).steer su).lastIn ≠ 2 ∧ n = 1 - ((s.cell cell).steer su).lastIn ∧ t = s)))
          ∨ (((s.cell cell).steer su).cond = 3 ∧ t = s ∧ ((((s.cell cell).chan in0).fifo ≠ [] ∧ ((s.cell cell).chan in1).fifo = [] ∧ n = 0)
            ∨ (((s.cell cell).chan in0).fifo = [] ∧ ((s.cell cell).chan in1).fifo ≠ [] ∧ n = 1)))
          ∨ (((s.cell cell).steer su).cond ≠ 1 ∧ ((s.cell cell).steer su).cond ≠ 3 ∧ t = s ∧ n = ((s.cell cell).steer su).countSide
            ∧ ((s.cell cell).chan (if n = 0 then in0 else in1)).fifo ≠ [])))) →
    (((b.roomCell cell).cell cell).steer su).cur = some k →
    moveRecord 128 cell ((b.roomCell cell).cell cell) su (if k = 0 then in0 else in1) [out] [] = (c, cr) →
    exec (.mergeRecord cell su) s = .next ((((b.roomCell cell).owe cr).setCell cell c).settleSumps cell))
  ∧ (∀ (s t u : State) (cell su in0 in1 out sel : Nat) (w : SWord), s.fatal = false → su < 2 → s.cellRuns cell = true →
    ((s.cell cell).steer su).kind = 2 → (s.cell cell).suChan su 1 0 = some in0 → (s.cell cell).suChan su 1 1 = some in1 →
    (s.cell cell).suChan su 2 0 = some out → ((s.cell cell).steer su).cur = none → ((s.cell cell).steer su).cond = 1 →
    s.control cell su = (t, some (sel, w)) → 2 ≤ sel →
    u = (t.jobFault .steerCtrl w.job .badCommand { noRec with node := cell, unit := 3, idx0 := su, code := sel }).roomCell cell →
    ((u.cell cell).steer su).cur = none → exec (.mergeRecord cell su) s = .next u)
  ∧ (∀ u : Steer, 0 < u.n0 + u.n1 → u.countSide = if u.recNo % (u.n0 + u.n1) < u.n0 then 0 else 1))
  ∧ ((∀ (s : State) (cell ch n : Nat) (e : WaitEdge) (es : List WaitEdge), s.fatal = false → s.cellOpen cell = true → ch < 32 →
    s.runFrozen cell ch = false →
    (List.range 10).flatMap (fun n => ((s.cell cell).nodeEdges s.arrFeat n).filter (fun e => e.chan == ch)) = e :: es →
    ∀ t : State, t = s.setCell cell ((s.cell cell).setChan ch { (s.cell cell).chan ch with
        waitRun := (((s.cell cell).chan ch).waitRun / 8192 + 1) * 8192 }) →
    t.edgeCircuit cell e = some n → exec (.sumpProbeSend cell ch) s = .next (t.sendProbe cell e n noCircuit 1))
  ∧ (∀ (s t : State) (p : Packet) (origin lowest edges : Nat) (es : List WaitEdge), s.fatal = false → s.cellOpen p.dst = true →
    s.mayArrive p = true → p.body = .probe origin lowest edges false → t = s.arrived p →
    (((t.cell p.dst).nodesOf (p.tag % 32)).flatMap ((t.cell p.dst).nodeEdges t.arrFeat)).filter
      (fun e => decide (8192 ≤ ((t.cell p.dst).chan e.chan).waitRun)) = es →
    ((∀ e ∈ es, t.edgeCircuit p.dst e ≠ some origin) → edges < 255 →
      exec (.probe p) s = .next (es.foldl (fun s e => s.sendProbe p.dst e origin lowest (edges + 1)) t).loadTables)
    ∧ (∀ e, es.find? (fun e => t.edgeCircuit p.dst e == some origin) = some e →
      exec (.probe p) s = .next (t.cycleFound p.dst e origin lowest edges).loadTables))
  ∧ (∀ (s : State) (p : Packet) (origin lowest edges : Nat), s.fatal = false → s.cellOpen p.dst = true → s.mayArrive p = true →
    p.body = .probe origin lowest edges true → s.feature 7 = true → lowest / 32 = p.dst →
    exec (.probeOpenRequest p) s = .next ((s.arrived p).openSump lowest edges).loadTables)
  ∧ (∀ (s : State) (cell ch : Nat) (u : Sump), s.fatal = false → s.cellOpen cell = true → ch < 32 →
    ((s.cell cell).chan ch).sump = some u → u.spill = [] → 0 < ((s.cell cell).chan ch).credits →
    exec (.sumpClose cell ch) s = .next (s.closeSump cell ch))
  ∧ (∀ (s t : State) (cell ch : Nat) (u : Sump), s.fatal = false → ch < 32 → t = s.roomCell cell → ((t.cell cell).chan ch).sump = some u →
    u.room = 0 → u.stalled = true → 8192 ≤ ((t.cell cell).chan ch).waitRun → t.runFrozen cell ch = false →
    exec (.sumpExhausted cell ch) s = .next (u.jobs.foldl (fun x j => x.stopJob (some j) .overflowFault t.nextSeq)
      (t.record .sumpExhausted { noRec with node := cell, unit := 3, gallery := t.galleryOf cell, idx0 := ch, job := u.jobs.head?
                                            tenant := (t.cell cell).owner, status := Status.overflowFault.code } (!u.jobs.isEmpty)))))

/-! ### Signals and message queues (ch. 10) -/

/-- SIG_SET, SIG_ADD and SIG_WAIT at the signal's home (R255): SET gives the counter its value, ADD adds and stops at 2^32 − 1, and each
releases the waiters whose value is reached; an ABANDONED signal takes neither, but for a SET of class HOST, which frees it (R256). A WAIT
that holds is answered, one that does not is queued while the home has room for it and answered RETRY else (R262), one on an ABANDONED
signal is answered ABANDONED. No other signal changes. -/
def Obligations.SignalOperationsAtTheirHome : Prop :=
  ∀ (s t : State) (p : Packet) (op : SigOp) (sig v : Nat) (iss : Issuer) (g : Signal), s.fatal = false → s.goodNode p.dst = true →
    (s.goodCell p.dst = true → s.cellOpen p.dst = true) → s.mayArrive p = true → Tab.wf {} s.sigs = true →
    p.body = .sig op sig v iss → sig < 16384 → g = s.signal sig → t = (s.arrived p).countHome g.home 0 1 →
    ((p.dst = hubN ∧ g.home = 0) ∨ p.dst + 1 = g.home) → (p.tenant = 0 ∨ p.tenant = s.sigTenant sig) →
    (op = .set → g.st ≠ .abandoned → ∃ u, exec (.sigSet p) s = .next u
      ∧ u.signal sig = { g with counter := v, satRec := false, waiters := g.waiters.filter (fun w => decide (v < w.value)) }
      ∧ ∀ n, n ≠ sig → u.signal n = s.signal n)
    ∧ (op = .set → g.st = .abandoned → p.cls = .host → ∃ u, exec (.sigSet p) s = .next u
      ∧ u.signal sig = { g with counter := v, owner := 0, st := .free, satRec := false
                                waiters := g.waiters.filter (fun w => decide (v < w.value)) }
      ∧ ∀ n, n ≠ sig → u.signal n = s.signal n)
    ∧ (op = .set → g.st = .abandoned → p.cls ≠ .host → exec (.sigSet p) s = .next t.loadTables)
    ∧ (op = .add → g.st ≠ .abandoned → ∃ u, exec (.sigAdd p) s = .next u
      ∧ u.signal sig = { g with counter := min (g.counter + v) 0xFFFFFFFF, satRec := g.satRec || decide (0xFFFFFFFF < g.counter + v),
                                waiters := g.waiters.filter (fun w => decide (min (g.counter + v) 0xFFFFFFFF < w.value)) }
      ∧ ∀ n, n ≠ sig → u.signal n = s.signal n)
    ∧ (op = .add → g.st = .abandoned → exec (.sigAdd p) s = .next t.loadTables)
    ∧ (op = .wait → g.st = .abandoned → exec (.sigWait p) s =
        .next (((t.countHome g.home 1 1).countHome g.home 3 1).wake g.home sig g.counter iss .abandoned).loadTables)
    ∧ (op = .wait → g.st ≠ .abandoned → v ≤ g.counter → exec (.sigWait p) s =
        .next ((t.countHome g.home 1 1).wake g.home sig g.counter iss .satisfied).loadTables)
    ∧ (op = .wait → g.st ≠ .abandoned → g.counter < v → t.poolFull g.home p.tenant = false → exec (.sigWait p) s =
        .next (t.setSignal sig { g with waiters := g.waiters ++ [{ value := v, tenant := p.tenant, iss := iss }] }).loadTables)
    ∧ (op = .wait → g.st ≠ .abandoned → g.counter < v → t.poolFull g.home p.tenant = true → exec (.sigWait p) s =
        .next ((t.countHome g.home 2 1).wake g.home sig g.counter iss .retry).loadTables)

/-- A signal operation of a tenant outside the signal's range changes no signal: it is recorded and its issuer is answered REFUSED (R259);
at a node that is not the home it goes on toward the home (R261, R263). MSG reaching an owned queue of its tenant is put into the inbox where
it is credited, or uncredited with fewer than 16 entries taken or reserved, and refused QUEUE_FULL else (R269, R270); at a cell with no
owner, or fenced, it is refused QUEUE_FULL, at another tenant's or one with no queue ACCESS, with a record (R271). MSG_ENTRY_SEND sends the
next due entry, a credited one while its credit allows, and passes over an entry whose destination is not a good cell of its own tenant, or a credited one
with no credit entry, with a record (R267, R268). -/
def Obligations.SignalRefusalsAndMessages : Prop :=
  (∀ (s : State) (p : Packet) (op : SigOp) (sig v : Nat) (iss : Issuer), s.fatal = false → s.goodNode p.dst = true →
    (s.goodCell p.dst = true → s.cellOpen p.dst = true) → s.mayArrive p = true → p.body = .sig op sig v iss → sig < 16384 →
    (((p.dst = hubN ∧ (s.signal sig).home = 0) ∨ p.dst + 1 = (s.signal sig).home) → p.tenant ≠ 0 → p.tenant ≠ s.sigTenant sig →
      ∀ t job, job = (s.arrived p).issuerJob iss → t = (s.arrived p).record .sigAccess { noRec with
          node := p.src, unit := 5, tenant := p.tenant, idx0 := sig, extra1 := p.cls.ctorIdx, job := job
          status := if job.isSome then Status.badCommand.code else 0 } job.isSome →
      exec (match op with | .set => .sigSet p | .add => .sigAdd p | .wait => .sigWait p) s = .next
        (t.wake (s.signal sig).home sig (s.signal sig).counter iss .refused).loadTables)
    ∧ (p.dst = hubN → (s.signal sig).home ≠ 0 → p.dst + 1 ≠ (s.signal sig).home →
      exec (match op with | .set => .sigSet p | .add => .sigAdd p | .wait => .sigWait p) s = .next
        ((s.arrived p).send { p with dst := (s.signal sig).home - 1 }).loadTables)
    ∧ (p.dst ≠ hubN → p.dst + 1 ≠ (s.signal sig).home →
      exec (match op with | .set => .sigSet p | .add => .sigAdd p | .wait => .sigWait p) s = .next
        ((s.arrived p).send { p with dst := hubN }).loadTables))
  ∧ (∀ (s t : State) (p : Packet) (csig peerDev : Nat) (credited peer : Bool) (body : List Byte), s.fatal = false →
    s.cellOpen p.dst = true → s.mayArrive p = true → p.body = .msg csig credited peerDev peer body → t = s.arrived p →
    (((t.cell p.dst).owner = 0 ∨ (t.cell p.dst).owner = fenceTag) → exec (.msg p) s = .next (t.msgNak p .queueFull).loadTables)
    ∧ ((t.cell p.dst).owner ≠ 0 → (t.cell p.dst).owner ≠ fenceTag →
      ((p.tenant ≠ 0 ∧ p.tenant ≠ (t.cell p.dst).owner) ∨ (t.cell p.dst).msg = none) →
      exec (.msg p) s = .next ((t.record .msgRefused { noRec with node := p.dst, unit := 5, tenant := p.tenant, idx0 := p.src
                                                                  extra1 := p.cls.ctorIdx }).msgNak p .access).loadTables)
    ∧ (∀ m, (t.cell p.dst).owner ≠ 0 → (t.cell p.dst).owner ≠ fenceTag → (p.tenant = 0 ∨ p.tenant = (t.cell p.dst).owner) →
      (t.cell p.dst).msg = some m →
      ((credited = true ∨ (m.inbox.filter (fun e => !e.2.2)).length + t.reserved p.dst < 16) →
        exec (.msg p) s = .next ((t.msgAccept p.dst m p csig credited peerDev peer body).msgTaken p).loadTables)
      ∧ (credited = false → 16 ≤ (m.inbox.filter (fun e => !e.2.2)).length + t.reserved p.dst →
        exec (.msg p) s = .next (t.msgNak p .queueFull).loadTables)))
  ∧ (∀ (s : State) (cell a dst : Nat) (credited : Bool) (c : Cell) (m : MsgLogic), s.fatal = false → s.cellOpen cell = true →
    c = s.cell cell → c.msg = some m → m.due ≠ 0 → m.stands = false → a = m.outboxBase + 32 * (m.nS % 16) →
    dst = bits (c.mem.readLe a 4) 11 0 → credited = bit (c.mem.readLe a 4) 12 →
    ((s.goodCell dst = false ∨ (s.cell dst).owner ≠ c.owner ∨ (credited = true ∧ m.creditFor dst = none)) →
      exec (.msgEntrySend cell) s = .next ((s.updMsg cell (fun m => { m with nS := m.nS + 1, due := m.due - 1 })).record .msgBadEntry
        { noRec with node := cell, unit := 5, tenant := c.owner, idx0 := m.nS % 16 }))
    ∧ (s.goodCell dst = true → (s.cell dst).owner = c.owner →
      ∀ t : State, t = (s.setCell cell (c.sense a 32)).memtPoison cell ((c.sense a 32).poisoned a 32) none →
      (∀ e p u, credited = true → m.creditFor dst = some e → e.sent < e.count + (s.signal e.sig).counter →
        p = t.cellPacket cell dst (m.nS % 2 ^ 16) (.msg e.sig true 0 false ((c.sense a 32).mem.readBytes (a + 4) 28)) →
        u = t.updMsg cell (fun m => { m with nS := m.nS + 1, due := m.due - 1, held := m.held ++ [(p, 0, false)]
                                             credits := m.credits.map (fun e => if e.dst = dst then { e with sent := e.sent + 1 } else e) }) →
        exec (.msgEntrySend cell) s = .next ((u.setCell cell ((u.cell cell).count .msgEvtTx 1)).send p))
      ∧ (∀ p u, credited = false →
        p = t.cellPacket cell dst (m.nS % 2 ^ 16) (.msg 0 false 0 false ((c.sense a 32).mem.readBytes (a + 4) 28)) →
        u = t.updMsg cell (fun m => { m with nS := m.nS + 1, due := m.due - 1, held := m.held ++ [(p, 0, false)] }) →
        exec (.msgEntrySend cell) s = .next ((u.setCell cell ((u.cell cell).count .msgEvtTx 1)).send p))))

/-! ### The configuration loader (ch. 11) -/

/-- CFG_LOAD of a well-formed descriptor, whatever its source and sending bits, gives the load its place at the loader, the last of those
there, and tries its admission (R286, R287). An attempt at admission that finds the header fit for it admits a FULL load with its gallery number
and rectangle taken and its cells fenced, and a PARTIAL or a sending-only one as started (R287, R291); one that finds it unfit refuses it with the
reason, or a quota with REFUSED_QUOTA; one that finds galleries to be parked first leaves it waiting. CFG_UNLOAD takes its place likewise; behind an earlier load or unload of its number
it waits; else it ends with BAD_COMMAND where the number names no gallery, or another tenant's, and it cancels the jobs of the gallery where it stands still; a CFG_UNLOAD
of its ring after those jobs have ended takes the gallery away and completes with OK (R287, R298). -/
def Obligations.LoadsAdmittedAndUnloaded : Prop :=
  (∀ (s t u : State) (fn k : Nat) (h : HostIn) (c : Cmd) (bs : List Byte) (w : Nat → Nat), s.entryPayAt fn k 3 64 h c bs t →
    w = (fun i => (words bs).getD i 0) → (fn ≠ 0 ∨ (bit (w 0) 16 = true ∧ bit (w 0) 17 = true)) → bits (w 0) 7 7 = 0 → bits (w 0) 31 18 = 0 →
    bits (w 0) 6 5 ≠ 3 → (bit (w 0) 17 = true → bit (w 0) 16 = true) → bits (w 4) 31 28 = 0 → bits (w 5) 31 16 = 0 →
    (∀ i, i < 10 → w (6 + i) = 0) → (bits (w 0) 6 5 = 1 → w 2 < 2 ^ 16) → (bits (w 0) 6 5 = 2 → w 1 + 2 ^ 32 * w 2 = 0 ∧ w 3 = 0) →
    (bit (w 0) 16 = true → 1 ≤ w 5 ∧ w 5 ≤ 60000) →
    u = { t.running c with loads := (t.running c).loads ++ [{ cmd := some c.id, tenant := fn, gallery := bits (w 0) 4 0, src := bits (w 0) 6 5,
                                                              addr := w 1 + 2 ^ 32 * w 2, length := w 3, keySlot := bits (w 0) 15 8,
                                                              group := bits (w 4) 15 0, mcSrc := bits (w 4) 27 16, tx := bit (w 0) 16
                                                              txOnly := bit (w 0) 17, holdMs := bits (w 5) 15 0, lastGc := t.gc }] } →
    exec (.cfgLoad fn k h) s = .next (u.tryAdmit t.loads.length h))
  ∧ (∀ (s t : State) (i : Nat) (h : HostIn) (l m : Load) (hdr : List Byte), s.load? i = some l → l.started = false → l.unload = false →
    s.behind i l = false → s.loadSlot = true → s.streamRead l h 0 64 = .ok hdr →
    m = { l with header := hdr, full := hKind hdr == 1 } → t = s.setLoad i m →
    (t.admits m hdr = .ok → m.full = true → l.txOnly = false →
      (s.tryAdmit i h).gallery? l.gallery = some { x0 := hX0 hdr, y0 := hY0 hdr, x1 := hX1 hdr, y1 := hY1 hdr, tenant := l.tenant, loading := true,
                                                   spill := 2 * 2 ^ 20 * spillPages hdr }
      ∧ (s.tryAdmit i h).load? i = some { m with started := true, lastGc := s.gc, pair := t.freePair, fenced := true,
                                                 key := if hEnc hdr = 1 then (t.streamKey m).getD [] else [] })
    ∧ (t.admits m hdr = .ok → (m.full = false ∨ l.txOnly = true) →
      s.tryAdmit i h = t.setLoad i { m with started := true, lastGc := s.gc, pair := t.freePair
                                            key := if hEnc hdr = 1 then (t.streamKey m).getD [] else [] })
    ∧ (∀ r, t.admits m hdr = .refuse r → s.tryAdmit i h = t.refuseLoad i r 0 0xFFFF 0)
    ∧ (∀ d, t.admits m hdr = .quota d → s.tryAdmit i h = t.abortLoad i .refusedQuota d)
    ∧ (t.admits m hdr = .wait → s.tryAdmit i h = t))
  ∧ (∀ (s t : State) (fn k n : Nat) (c : Cmd) (l : Load), s.entryAt fn k 4 c → s.unloadRing fn k = none →
    l = { cmd := some c.id, unload := true, tenant := fn, gallery := c.w 8 } → n = s.loads.length →
    t = { s.running c with loads := s.loads ++ [l] } →
    (t.behind n l = true → exec (.cfgUnload fn k) s = .next t)
    ∧ (t.behind n l = false → t.gallery? (c.w 8) = none →
      exec (.cfgUnload fn k) s = .next ((t.dropLoad n).loadCompletes l .badCommand detMalformed))
    ∧ (∀ g, t.behind n l = false → t.gallery? (c.w 8) = some g →
      (fn ≠ 0 → g.tenant ≠ fn → exec (.cfgUnload fn k) s = .next ((t.dropLoad n).loadCompletes l .badCommand detFunction))
      ∧ ((fn = 0 ∨ g.tenant = fn) → (g.busy || g.loading || (g.resident && t.arrayHeld)) = true → exec (.cfgUnload fn k) s = .next t)
      ∧ ((fn = 0 ∨ g.tenant = fn) → (g.busy || g.loading || (g.resident && t.arrayHeld)) = false → exec (.cfgUnload fn k) s = .next
        (((t.galJobs (c.w 8)).foldl (fun s j => s.stopJob (some j) .cancelled 0) t).setLoad n { l with started := true }))))
  ∧ (∀ (s t : State) (fn k i : Nat) (c : Cmd) (g : Gallery) (l : Load), s.fatal = false → k < 8 →
    s.load? i = some l → l.unload = true → l.cmd = some c.id → s.cmds.find? (fun x => x.id == c.id) = some c → c.fn = fn → c.ring = k →
    (∀ j m, j < i → s.load? j = some m → m.unload = false) → s.behind i l = false → s.gallery? l.gallery = some g →
    (l.tenant = 0 ∨ g.tenant = l.tenant) → (g.busy || g.loading || (g.resident && s.arrayHeld)) = false → l.started = true →
    s.galJobs l.gallery = [] → t = (s.removeGallery l.gallery g).traceEv 7 g.tenant 0 [l.gallery, 0] →
    exec (.cfgUnload fn k) s = .next ((t.dropLoad i).loadCompletes l .ok 0))

/-- SEGMENT_APPLY tries the admission of a load that waits for it, sends a sending load's next segment on, and applies the next segment of a
fenced load whose header, tag and sections are good: its sections in order, then on by its bytes; what is wrong with its header, its tag or a section
refuses the load with that reason, as does a last segment with no COMMIT (R278, R279, R289). CFG from the loader or the Slipway port, at a cell whose
owner tag admits it, writes its section's bytes there and answers OK; from any other source it is refused with ACCESS (R236).
PARTIAL_FENCE_FALL puts the quiet region under the fence's owner tag (R293). COMMIT_APPLY of a good configuration commits it, of a bad one
refuses it at the COMMIT section (R288, R289, R296). LOAD_FENCE_DROP opens the cells, takes a FULL load's spill pages, and ends the load with OK
(R296). -/
def Obligations.SegmentsAppliedAndCommitted : Prop :=
  (∀ (s t : State) (i : Nat) (h : HostIn) (l : Load), s.fatal = false → s.load? i = some l → t = s.hostStores l.tenant h →
    (l.started = false → exec (.segmentApply i h) s = .next (t.tryAdmit i h))
    ∧ (l.started = true → l.holdEnd = none → l.unload = false → (l.txOnly = true ∨ l.result.isSome = true) →
      exec (.segmentApply i h) s = .next (t.sendSegment i l h))
    ∧ (∀ sh, l.started = true → l.holdEnd = none → l.unload = false → l.txOnly = false → l.result = none → l.fenced = true →
      l.committed = false → l.got < hSegs l.header → t.sag < 3 → t.arrayHeld = false → t.streamRead l h l.off 32 = .ok sh →
      (∀ r, segmentFails l sh = some r → exec (.segmentApply i h) s = .next (t.refuseLoad i r l.plain 0xFFFF 0))
      ∧ (∀ n payload, segmentFails l sh = none → n = leAt sh 8 4 → t.streamRead l h (l.off + 32) n = .ok payload →
        (openSegment l sh payload = none → exec (.segmentApply i h) s = .next (t.refuseLoad i rAuth l.plain 0xFFFF 0))
        ∧ (∀ pt k m v, openSegment l sh payload = some (pt, k) →
          (∀ r off cell idx, (t.streamCost l (32 + n)).applySections l.plain (n / 64 + 1) 0 pt l = (m, v, some (r, off, cell, idx)) →
            exec (.segmentApply i h) s = .next ((v.setLoad i m).refuseLoad i r off cell idx))
          ∧ (∀ x, (t.streamCost l (32 + n)).applySections l.plain (n / 64 + 1) 0 pt l = (m, v, none) →
            x = (v.mcastSegment l (sh ++ payload)).setLoad i { m with
              got := l.got + 1, off := l.off + 32 + n, plain := l.plain + n, key := if k = [] then l.key else k
              holdEnd := if l.tx && decide (l.got + 1 = hSegs l.header) then some ((v.mcastSegment l (sh ++ payload)).gc + 1000000 * l.holdMs) else none } →
            ((l.got + 1 ≠ hSegs l.header ∨ m.ended = true) → exec (.segmentApply i h) s = .next x)
            ∧ (l.got + 1 = hSegs l.header → m.ended = false →
              exec (.segmentApply i h) s = .next (x.refuseLoad i rFormat (l.plain + n) 0xFFFF 0)))))))
  ∧ (∀ (s t : State) (p : Packet) (kind : Nat) (b : List Byte), s.fatal = false → p.body = .cfg kind b → s.goodCell p.dst = true →
    s.cellOpen p.dst = true → s.mayArrive p = true → t = s.arrived p →
    (∀ u, (p.cls = .loader ∨ p.cls = .slipway) → t.ownerAdmits p.dst p = true →
      u = t.setCell p.dst ((t.cell p.dst).cfgWrite kind (leAt b 0 4) (b.drop 4)) →
      exec (.cfg p) s = .next (u.send (u.respTo p (.wrAck .ok))).loadTables)
    ∧ (((p.cls ≠ .loader ∧ p.cls ≠ .slipway) ∨ t.ownerAdmits p.dst p = false) →
      exec (.cfg p) s = .next (t.send (t.respTo p (.wrAck .access))).loadTables))
  ∧ (∀ (s : State) (i : Nat) (l : Load) (g : Gallery), s.fatal = false → Tab.wf Cell.reset s.cells = true → s.load? i = some l →
    s.gallery? l.gallery = some g → l.started = true → l.full = false → l.fenced = false → l.result = none → l.txOnly = false →
    g.resident = true → g.busy = false → s.arrayHeld = false → (∀ n, n ∈ s.loadCells l → s.cellIdle n = true) →
    ∃ t : State, exec (.partialFenceFall i) s = .next t ∧ t.load? i = some { l with fenced := true }
      ∧ ∀ n, n ∈ s.loadCells l → (t.cell n).owner = fenceTag ∧ (t.cell n).fenced = true)
  ∧ (∀ (s : State) (i : Nat) (l : Load) (g : Gallery), s.fatal = false → s.load? i = some l → s.gallery? l.gallery = some g →
    l.ended = true → l.committed = false → l.result = none → l.got = hSegs l.header → s.arrayHeld = false →
    (∀ k n, k ∈ s.links → n ∈ s.loadCells l → n ≠ k.word.circuit / 32
      ∧ ∀ f, s.farEnd (k.word.circuit / 32) (k.word.circuit % 32) = some f → n ≠ f.1) →
    (s.configFails (s.applyConfig l) l g = none → exec (.commitApply i) s =
      .next (((s.applyConfig l).setLoad i { l with committed := true }).setGallery l.gallery
        (some { g with config := (g.config ++ l.granules).eraseDups, slip := if l.full then l.slipway.bind slipwayOf else g.slip })))
    ∧ (∀ r cell idx, s.configFails (s.applyConfig l) l g = some (r, cell, idx) →
      exec (.commitApply i) s = .next (s.refuseAt i l.commitAt.1 r l.commitAt.2 cell idx)))
  ∧ (∀ (s v : State) (i : Nat) (l : Load) (g : Gallery) (pages : List Nat), s.fatal = false → Tab.wf Cell.reset s.cells = true →
    s.load? i = some l → s.gallery? l.gallery = some g → l.committed = true → l.result = none → s.arrayHeld = false →
    (∀ p, p ∈ s.flight → p.cls = .loader → (∀ k b, p.body ≠ .cfg k b) ∧ ∀ st, p.body ≠ .wrAck st) →
    ((l.full = false ∧ pages = [] ∧ v = s)
      ∨ (l.full = true ∧ s.takePages l.tenant (4 + cellDie (cellIndex g.x0 g.y0)) (spillPages l.header) = some (pages, v))) →
    ∃ x : State, (∀ n, n ∈ v.loadCells l → (x.cell n).fenced = false)
      ∧ exec (.loadFenceDrop i) s = .next ((((((v.galCells g).foldl State.settleSumps x).setGallery l.gallery
          (some { g with spillPages := if l.full then pages else g.spillPages
                         residentGc := if l.full then ((v.galCells g).foldl State.settleSumps x).gc else g.residentGc })).traceEv 7 l.tenant 0
          [l.gallery, l.plain])).endLoad i .ok 0))

/-- CFG_MCAST bytes of a group and sender that continue what a waiting receiver holds are kept, bytes beyond them mark a gap, and bytes already held
change nothing; loads of another group or sender, or that wait for none, stay (R300, R454). Bytes late by 1 ms or passed over are fetched from the
sender by GET, at most 16,384 at once (R300). A sender's entry completes when its hold window has closed and its own load has ended, with that load's
status (R299). The Slipway port of a resident gallery starts the load of its next record, and answers a record with a reserved field, or one that
cannot be read, with BAD_COMMAND (R303, R304); it ends a load whose region does not go quiet in quiesce_ms with TIMEOUT (R305). -/
def Obligations.MulticastAndSlipwayLoads : Prop :=
  (∀ (s : State) (q : Nat) (m : FMsg), s.fatal = false → (s.port q).st.isUp = true → m.kind = kMcast → m.mcast = true →
    ∃ t, exec (.cfgMcast q m) s = .next t ∧ t = { s with loads := t.loads } ∧ t.loads.length = s.loads.length
      ∧ ∀ (i : Nat) (l : Load), s.loads[i]? = some l →
        ((l.src = 2 → l.group = m.dst → l.mcSrc = bits (m.w 7) 11 0 → l.reading = true →
          (m.addr = l.buf.length → t.loads[i]? = some { l with buf := l.buf ++ m.data, lastGc := s.gc, gap := false })
          ∧ (l.buf.length < m.addr → t.loads[i]? = some { l with gap := true })
          ∧ (m.addr < l.buf.length → t.loads[i]? = some l))
        ∧ ((l.src ≠ 2 ∨ l.group ≠ m.dst ∨ l.mcSrc ≠ bits (m.w 7) 11 0 ∨ l.reading = false) → t.loads[i]? = some l)))
  ∧ (∀ (s t : State) (i want : Nat) (l : Load), s.fatal = false → s.load? i = some l → l.src = 2 → l.reading = true →
    (l.ended = false ∨ l.result ≠ none) → (l.gap = true ∨ l.lastGc + 1000000 ≤ s.gc) →
    want = (if l.buf.length < 64 then 64 - l.buf.length else streamLength l.buf - l.buf.length) → want ≠ 0 →
    (∀ g, g ∈ s.fer.gets → g.use ≠ .mcast l.gallery l.buf.length) → s.ferGood l.tenant 0 0 = true →
    t = s.updFer (fun f => { f with reqTag := (s.fer.reqTag + 1) % 2 ^ 32,
                                    gets := f.gets ++ [{ tag := s.fer.reqTag, dst := l.mcSrc, use := .mcast l.gallery l.buf.length }] }) →
    exec (.mcastGapFetch i) s = .next (t.drawFree.2.ferSend false .none l.tenant kGet (Config.freePick t.drawFree.1 7) l.mcSrc l.buf.length
      (2 ^ 16) s.fer.reqTag (leBytes 4 (min want 16384) ++ leBytes 4 l.group ++ leBytes 8 0)))
  ∧ (∀ (s : State) (i e : Nat) (l : Load), s.fatal = false → s.load? i = some l → l.holdEnd = some e →
    (s.gc < e → exec (.holdWindowClose i) s = .next s)
    ∧ (e ≤ s.gc → l.txOnly = true → l.result = none → exec (.holdWindowClose i) s = .next ((s.dropLoad i).loadCompletes l .ok 0))
    ∧ (e ≤ s.gc → l.txOnly = false → l.result = none → exec (.holdWindowClose i) s = .next s)
    ∧ (e ≤ s.gc → ∀ st d, l.result = some (st.code, d) → st ∈ [.ok, .cfgRejected, .authFail, .timeout, .refusedQuota, .badCommand] →
      exec (.holdWindowClose i) s = .next ((s.dropLoad i).loadCompletes l st d)))
  ∧ (∀ (s t : State) (n k a : Nat) (rest : List Nat) (g : Gallery) (p : Slipway) (l : Load) (z : Nat → Nat), s.fatal = false →
    s.gallery? n = some g → g.slip = some p → p.queue = k :: rest → g.resident = true → g.busy = false → g.loading = false →
    g.broken = false → (∀ x, x ∈ s.loads → x.gallery = n → x.txOnly = false → x.result ≠ none) → s.loadSlot = true →
    t = s.setGallery n (some { g with slip := some { p with queue := rest } }) → a = p.tbl + 64 * k →
    l = { slip := some a, tenant := g.tenant, gallery := n, src := 1, keySlot := p.keySlot, expires := some (s.gc + 1000000 * p.quiesceMs) } →
    z = (fun i => (words (t.tvaBytes g.tenant a 64)).getD i 0) →
    (t.tvaCheck g.tenant a 64 false = .ok → z 0 % 64 = 0 → bits (z 1) 31 16 = 0 → bits (z 3) 31 15 = 0 → bits (z 4) 31 17 = 0 →
      (∀ i, i < 11 → z (5 + i) = 0) → ∀ u, u = t.tvaTouch g.tenant a 64 → exec (.slipwayRecord n) s =
        .next (State.tryAdmit { u with loads := u.loads ++ [{ l with addr := z 0 + 2 ^ 32 * z 1, length := z 2 }] } u.loads.length ⟨[], false⟩))
    ∧ (t.tvaCheck g.tenant a 64 false = .ok → (z 0 % 64 ≠ 0 ∨ bits (z 1) 31 16 ≠ 0 ∨ bits (z 3) 31 15 ≠ 0 ∨ bits (z 4) 31 17 ≠ 0
        ∨ ∃ i, i < 11 ∧ z (5 + i) ≠ 0) →
      exec (.slipwayRecord n) s = .next ((t.tvaTouch g.tenant a 64).slipDone l a Status.badCommand.code 0))
    ∧ (∀ e, t.tvaCheck g.tenant a 64 false = e → e ≠ .ok →
      exec (.slipwayRecord n) s = .next ((t.tvaFault none g.tenant 0xA e).slipDone l a Status.badCommand.code 0)))
  ∧ (∀ (s : State) (i e r : Nat) (l : Load), s.fatal = false → s.load? i = some l → l.expires = some e → l.slip = some r →
    (e ≤ s.gc → l.fenced = false → exec (.quiesceTimeout i) s = .next (s.endLoad i .timeout 0))
    ∧ ((s.gc < e ∨ l.fenced = true) → exec (.quiesceTimeout i) s = .next s))

/-! ### Jobs, tasks and paging (ch. 12) -/

/-- JOB_LAUNCH and ENGINE_CMD with a good payload enter their job for admission, in the slot its entry was given when it was consumed (R308 to
R311, R502); a launch on a BROKEN gallery is stopped at once with MEM_UNCORRECTABLE (R639). Admission of a job without map entries
claims its signals and puts it in its slot (R310). JOB_CANCEL of a job in flight stops it with CANCELLED and notes the cancel with the job; where its target is
no job in flight it waits for an entry of that tag that is still to be executed, and completes with OK where there is none (R329). -/
def Obligations.JobsLaunchedAndCancelled : Prop :=
  (∀ (s t u : State) (fn k : Nat) (h : HostIn) (c : Cmd) (bs tb mb : List Byte) (w : Nat → Nat) (tasks : List Task) (maps : List (List Nat))
      (sigs : List Nat) (gal : Option Nat) (g : Option Gallery), s.entryPayAt fn k 1 128 h c bs t → w = (fun i => (words bs).getD i 0) → bits (w 0) 31 25 = 0 →
    bits (w 0) 15 7 = 0 → bits (w 1) 7 6 = 0 → bits (w 1) 31 14 = 0 → (∀ i, i < 10 → w (6 + i) = 0) → 1 ≤ bits (w 0) 24 16 →
    bits (w 0) 24 16 ≤ 256 → bits (w 1) 5 0 ≤ 32 → bits (w 1) 13 8 ≤ 32 → (w 2 + 2 ^ 32 * w 3) % 64 = 0 → (w 4 + 2 ^ 32 * w 5) % 64 = 0 →
    sigs = (List.range (bits (w 1) 5 0)).map (fun i => bits (w (16 + i / 2)) (16 * (i % 2) + 15) (16 * (i % 2))) →
    (∀ i, i < 32 → bits (w (16 + i / 2)) (16 * (i % 2) + 15) (16 * (i % 2)) < 16384) → (∀ n, n ∈ sigs → u.fnSignal fn n = true) → t.payload c h (w 2 + 2 ^ 32 * w 3) (64 * bits (w 0) 24 16) = .ok tb →
    t.payload c h (w 4 + 2 ^ 32 * w 5) (16 * bits (w 1) 13 8) = .ok mb →
    u = (t.acctPay c (w 2 + 2 ^ 32 * w 3) (64 * bits (w 0) 24 16)).acctPay c (w 4 + 2 ^ 32 * w 5) (16 * bits (w 1) 13 8) →
    tasks = (List.range (bits (w 0) 24 16)).map (fun i => { words := words ((tb.drop (64 * i)).take 64), readyGc := u.gc }) →
    maps = (List.range (bits (w 1) 13 8)).map (fun i => words ((mb.drop (16 * i)).take 16)) →
    ((bit (w 0) 5 = false ∧ gal = none ∧ g = none)
      ∨ (bit (w 0) 5 = true ∧ fn ≠ 0 ∧ gal = some (bits (w 0) 4 0) ∧ ∃ x, g = some x ∧ u.gallery? (bits (w 0) 4 0) = g ∧ x.tenant = fn)) →
    (∀ i x, tasks[i]? = some x → x.ok i g = true ∧ u.rangesClear g x = true ∧ (x.phases = 0 ∨ u.feature 10 = true)) →
    (∀ m, m ∈ maps → mapOk m = true) →
    ∀ v, v = u.admitJob c (c.slot.getD 0) { u.newJob c with gallery := gal, noSuspend := bit (w 0) 6, sigs := sigs, tasks := tasks, maps := maps } →
      ((∀ x, g = some x → x.broken = false) → exec (.jobLaunch fn k h) s = .next v)
      ∧ (∀ x, g = some x → x.broken = true → exec (.jobLaunch fn k h) s = .next (v.stopJob (some (c.slot.getD 0)) .memUncorrectable 0)))
  ∧ (∀ (s t : State) (fn k : Nat) (h : HostIn) (c : Cmd) (bs : List Byte), s.entryPayAt fn k 5 64 h c bs t →
    bits (c.w 5) 5 0 < 36 →
    exec (.engineCmd fn k h) s = .next (t.admitJob c (c.slot.getD 0) { t.newJob c with
      tasks := [{ words := [1, 0, 0, 0, 0, 0, 0, 0, 0, 0, bits (c.w 5) 5 0 + 64 * (bit (c.w 5) 6).toNat], readyGc := t.gc }],
      shard := bs.map BitVec.toNat }))
  ∧ (∀ (s : State) (c : Cmd) (slot : Nat) (j : Job), s.tablesLost.contains j.tenant = false → j.maps = [] → j.sigs.Nodup →
    (∀ n, n ∈ j.sigs → (s.signal n).st ≠ .live) → s.pagesUsed j.tenant ≤ s.reg (rTen j.tenant 0x0C) % 2 ^ 18 → s.l2.length ≤ l2Pool →
    (s.admitJob c slot j).job? slot = some { j with dirty := [] }
    ∧ (∀ n, n ∈ j.sigs → ((s.admitJob c slot j).signal n).st = .live ∧ ((s.admitJob c slot j).signal n).owner = slot
        ∧ ((s.admitJob c slot j).signal n).counter = 0)
    ∧ (∀ n, n ∉ j.sigs → (s.admitJob c slot j).signal n = s.signal n)
    ∧ ((∀ n, n ∈ j.sigs → (s.signal n).waiters = []) → (s.admitJob c slot j).cells = s.cells ∧ (s.admitJob c slot j).hbm = s.hbm))
  ∧ (∀ (s : State) (fn k : Nat) (c : Cmd) (win : Option WinEntry), s.entryAt fn k 2 c →
    win = (s.ring fn (c.w 8)).window.reverse.find? (fun e => e.tag == c.w 9 && !e.dup) →
    (∀ e slot, win = some e → e.job = true → s.slotOf fn (c.w 8) (c.w 9) = some slot →
      exec (.jobCancel fn k) s = .next (((s.running c).stopJob (some slot) .cancelled 0).updJob slot
        (fun j => { j with cancelledBy := j.cancelledBy ++ [c.id] })))
    ∧ ((∀ e, win = some e → e.job = true → s.slotOf fn (c.w 8) (c.w 9) = none) →
      ((∀ x, x ∈ s.cmds → x.fn = fn → x.ring = c.w 8 → x.tag = c.w 9 → x.st = .fresh → x.id = c.id) →
        (c.w 8 = k ∨ s.unconsumed fn (c.w 8) (c.w 9) = false) → exec (.jobCancel fn k) s = .next (s.finish c .ok 0))
      ∧ (((∃ x, x ∈ s.cmds ∧ x.fn = fn ∧ x.ring = c.w 8 ∧ x.tag = c.w 9 ∧ x.st = .fresh ∧ x.id ≠ c.id)
          ∨ (c.w 8 ≠ k ∧ s.unconsumed fn (c.w 8) (c.w 9) = true)) → exec (.jobCancel fn k) s = .next s)))

/-- A job keeps the cause it was first stopped for (R328); stopping changes no other job, no cell, no signal and no page. -/
def Obligations.JobsKeepTheirFirstCause : Prop :=
  ∀ (s : State) (k seq : Nat) (st : Status) (j : Job), s.job? k = some j →
    (∀ c, j.stop = some c → s.stopJob (some k) st seq = s)
    ∧ (j.stop = none → ∃ c, c.status = st ∧ (s.stopJob (some k) st seq).job? k = some { j with stop := some c }
      ∧ (∀ i, i ≠ k → (s.stopJob (some k) st seq).job? i = s.job? i) ∧ (s.stopJob (some k) st seq).cells = s.cells
      ∧ (s.stopJob (some k) st seq).sigs = s.sigs ∧ (s.stopJob (some k) st seq).pages = s.pages
      ∧ ∀ st' seq', (s.stopJob (some k) st seq).stopJob (some k) st' seq' = s.stopJob (some k) st seq)

/-- TASK_BIND binds the first ready task in order whose turn it is and whose resources are free (R323, R324): a CONTEXT task's bind requests go to its cells,
an ENGINE task's command to Hub S. TASK_COMPLETE marks a task done whose contexts have ended, or whose engine holds its command no more (R325). JOB_STOP
stops a stopping job's contexts, queued commands and paging, and abandons its live signals once all of it is quiet (R327). JOB_COMPLETE of a
job all of whose tasks are done, or that has stopped, frees its live signals and its slot, posts the job's completion with its status, slowdown and times, and completes the cancels
that named it with OK (R326, R329). -/
def Obligations.TasksBoundAndJobsEnded : Prop :=
  (∀ (s t u : State) (slot i : Nat) (j : Job) (x : Task), s.fatal = false →
    s.readyTasks.find? (fun x => s.bindable x.1 x.2) = some (slot, i) → s.job? slot = some j → j.tasks[i]? = some x →
    t = ((s.updJob slot (fun j => j.updTask i (fun t => { t with st := .bound }))).regAdd (rFmEvt 2) 1).regAdd (rFmEvt 3) (s.gc - x.readyGc) →
    (x.isEngine = false → exec .taskBind s = .next ((t.bindContexts slot i j x).traceEv 3 j.tenant slot [i, x.w 2 % 2 ^ 24, x.w 0 % 2 ^ 7]))
    ∧ (x.isEngine = true → u = t.placeEngine slot i j x →
      exec .taskBind s = .next (u.traceEv 3 j.tenant slot [i, (t.pickEngine x j.tenant).getD 0])))
  ∧ (∀ (s : State) (slot i : Nat) (j : Job) (x : Task), s.fatal = false → s.job? slot = some j → j.tasks[i]? = some x → x.st = .bound →
    j.stop = none → j.suspended = false →
    ((x.isEngine = false ∧ s.taskLive slot i = false ∧ x.phase.current = none)
      ∨ (x.isEngine = true ∧ x.eng.isSome = true ∧ s.engineHolds slot i = false)) →
    exec (.taskComplete slot i) s = .next (s.taskDone slot i) ∧ ∃ j' x', (s.taskDone slot i).job? slot = some j' ∧ j'.tasks[i]? = some x'
      ∧ x'.st = .done)
  ∧ (∀ (s u : State) (slot : Nat) (j k : Job) (c : StopCause), s.fatal = false → s.job? slot = some j → j.stop = some c → j.abandoned = false →
    ((j.stopped = true ∧ u = s)
      ∨ (j.stopped = false ∧ u = (((((s.stopStreams slot).mapCells (fun _ c => c.stopOf slot)).stopPaging slot j).stopEngines slot).dropSaved slot).updJob
          slot (fun j => { j with stopped := true, suspended := false
                                  tasks := j.tasks.map (fun (t : Task) => if t.st = .waiting then { t with st := .done } else t) }))) →
    u.job? slot = some k →
    (u.jobQuiet slot k = false → exec (.jobStop slot) s = .next u)
    ∧ (∀ v, u.jobQuiet slot k = true →
      v = (k.sigs.filter (fun n => (u.signal n).owner == slot && (u.signal n).st == .live)).foldl State.abandonSignal u →
      exec (.jobStop slot) s = .next (v.updJob slot (fun j => { j with abandoned := true, endGc := v.gc }))))
  ∧ (∀ (s : State) (slot : Nat) (j : Job), s.fatal = false → Tab.wf none s.jobs = true → Tab.wf {} s.sigs = true → s.job? slot = some j →
    ((j.stop = none ∧ (∀ x, x ∈ j.tasks → x.st = .done) ∧ j.dirty = []) ∨ (j.stop ≠ none ∧ j.abandoned = true)) →
    ∃ u v : State, u.job? slot = none ∧ (∀ i, i ≠ slot → u.job? i = s.job? i) ∧ u.cells = s.cells ∧ u.cmds = s.cmds
      ∧ (∀ n, n ∈ j.sigs → (s.signal n).owner = slot → (s.signal n).st = .live → (u.signal n).st = .free)
      ∧ (j.cmdId.bind (fun n => s.cmds.find? (fun c => c.id == n)) = none → v = u)
      ∧ (∀ c, j.cmdId.bind (fun n => s.cmds.find? (fun c => c.id == n)) = some c → v = u.answer c
          { tag := c.tag, status := j.endStatus.code, opcode := c.op, late := decide (j.deadline < j.endGc), cond := j.cond,
            slow := slowdown j.heldTicks (j.endGc - j.admitGc), detail := j.detail.getD slot, start := j.admitGc, fin := j.endGc
            slot := some slot })
      ∧ exec (.jobComplete slot j.ref.tag) s = .next (j.cancelledBy.foldl (fun s n => match s.cmds.find? (fun c => c.id == n) with
          | some c => s.finish c .ok 0
          | none => s) v))

/-- PHASE_BEGIN of a released, good phase with staging room clears the ready bits of its regions; a phase that fails its check is not paged and stops the
job (R319, R320). PHASE_IN_PLACE, with every clear acknowledged, reads and writes the transfers and sets the bits again; once every
set is acknowledged too, the phase is in place and adds to its ready signal (R320). CACHE_WARM reads phase n + 2's sources through the cache and notes it
as warmed (R322). PAGE_ZEROING_DONE makes a dirty page CLEAN and zero, and lets admissions that waited for the page go on (R315, R317). -/
def Obligations.PhasesPagedAndPagesZeroed : Prop :=
  (∀ (s : State) (slot i n : Nat) (j : Job) (x : Task), s.fatal = false → s.job? slot = some j → j.tasks[i]? = some x →
    s.mayPage slot j i x = true → n = x.phase.next → s.released x n = true → s.sag < 4 →
    (∀ e, s.readPhase j.tenant x n = .error e → exec (.phaseBegin slot i) s = .next (s.tvaFault (some slot) j.tenant 0xB e))
    ∧ (∀ p, s.readPhase j.tenant x n = .ok p → s.phaseOk j x n p = false → exec (.phaseBegin slot i) s = .next (s.badPhase slot i n))
    ∧ (∀ p rs t, s.readPhase j.tenant x n = .ok p → s.phaseOk j x n p = true → rs = phaseRegions x n p.xfers →
      s.stagingRoom j.tenant rs.length = true →
      t = ((s.phaseTouch slot j.tenant x n p.xfers.length).updJob slot (fun j => j.updTask i (fun t =>
        { t with phase := t.phase.begin n p rs }))).traceEv 5 j.tenant slot [i, n, (p.xfers.map xferLen).sum] →
      exec (.phaseBegin slot i) s = .next (t.sendAll (rs.map (fun r => t.hubPacket .ferryman j.tenant r.1 n (.ctrl (.readyClear r.2)))))))
  ∧ (∀ (s : State) (slot i n : Nat) (j : Job) (x : Task) (p : Phase), s.fatal = false → s.job? slot = some j → j.tasks[i]? = some x →
    x.phase.current = some n → x.phase.held = some p → s.servable j x = true →
    (∀ t, x.phase.placed = true →
      t = (s.updJob slot (fun j => j.updTask i (fun t => { t with phase := { t.phase with
        current := none, held := none, regions := [], placed := false, next := n + 1 } }))).traceEv 5 j.tenant slot
        [i, n, (p.xfers.map xferLen).sum] →
      (p.rdyEn = false → exec (.phaseInPlace slot i) s = .next t)
      ∧ (p.rdyEn = true → exec (.phaseInPlace slot i) s = .next
        (t.hubSignal .add p.rdySig 1 j.tenant .ferryman { node := hubN, unit := 0xF, tag := 0 })))
    ∧ (∀ t u, x.phase.placed = false → s.servedFirst slot i j x = true → s.sourcesEnd j.tenant p = .ok →
      t = (if s.inDemand slot i x.phase.regions then s.regAdd (rFmEvt 5) 1 else s) →
      u = (t.pagePhase slot j.tenant x n p).updJob slot (fun j => j.updTask i (fun t => { t with phase := { t.phase with placed := true } })) →
      exec (.phaseInPlace slot i) s = .next
        (u.sendAll (x.phase.regions.map (fun r => u.hubPacket .ferryman j.tenant r.1 n (.ctrl (.readySet r.2))))))
    ∧ (∀ e, x.phase.placed = false → s.servedFirst slot i j x = true → s.sourcesEnd j.tenant p = e → e ≠ .ok →
      exec (.phaseInPlace slot i) s = .next (s.tvaFault (some slot) j.tenant 0xB e)))
  ∧ (∀ (s t : State) (slot i n : Nat) (j : Job) (x : Task), s.fatal = false → s.job? slot = some j → j.tasks[i]? = some x →
    bit (s.reg rFmCtl) 0 = true → s.sag = 0 → s.sealed = false → s.feature 5 = false → s.mayPage slot j i x = true → n = x.phase.next →
    s.released x n = false → n + 1 < x.phases →
    ((∃ e, s.readPhase j.tenant x (n + 1) = .error e ∧ t = s)
      ∨ ∃ p, s.readPhase j.tenant x (n + 1) = .ok p ∧ t = p.sources.foldl (fun (s : State) (r : Nat × Nat) =>
          if s.tvaCheck j.tenant r.1 r.2 false = TvaEnd.ok then s.touch (some slot) j.tenant r.1 r.2 else s)
        (s.phaseTouch slot j.tenant x (n + 1) p.xfers.length)) →
    exec (.cacheWarm slot i) s = .next (t.updJob slot (fun j => j.updTask i (fun t =>
      { t with phase := { t.phase with warmed := (t.phase.warmed.filter (fun k => k != n + 1)) ++ [n + 1] } }))))
  ∧ (∀ (s : State) (p : Nat), s.fatal = false → Tab.wf .clean s.pages = true →
    (s.pageSt p = .dirty → s.pageInFlight p = false → exec (.pageZeroingDone p) s = .next ((s.zeroPage p).setPage p .clean)
      ∧ ((s.zeroPage p).setPage p .clean).pageSt p = .clean ∧ ∀ a, a / pageSize = p → Memory.read (s.zeroPage p).hbm a = 0)
    ∧ (s.pageSt p ≠ .dirty → (∃ e j, e ∈ s.jobs ∧ e.2 = some j ∧ p ∈ j.dirty) →
      exec (.pageZeroingDone p) s = .next (s.mapJobs (fun _ j => { j with dirty := j.dirty.filter (fun q => q != p) }))))

/-- GALLERY_PARK of a gallery that may be parked and has its pages, or is already being parked, stops its no_suspend jobs with PREEMPTED and waits
while a job of it is stopping, one of its requests or words is on its way, or a context stands where it may not be saved; then it leaves the gallery
not resident, its good cells saved and cleared and its jobs suspended (R330, R331). GALLERY_RESTORE of a parked gallery that is wanted puts its
cells' saved state and its jobs back, issues their waits again and repeats their phases in place; a saved cell that has been retired stops its jobs instead (R334). -/
def Obligations.GalleriesParkedAndRestored : Prop :=
  (∀ (s v u : State) (n : Nat) (g : Gallery) (pages : List Nat), s.fatal = false → s.gallery? n = some g →
    (g.busy = true ∨ (s.mayPark n g = true ∧ s.myTurn g.tenant = true)) → g.resident = true → s.sag < 4 →
    ((g.savePages ≠ [] ∧ pages = g.savePages ∧ v = s) ∨ (g.savePages = []
      ∧ s.pagesUsed g.tenant + ceilDiv (3 * (s.galCells g).length) 4 ≤ bits (s.reg (rTen g.tenant 0x0C)) 17 0
      ∧ s.takePages g.tenant (4 + cellDie (cellIndex g.x0 g.y0)) (ceilDiv (3 * (s.galCells g).length) 4) = some (pages, v))) →
    u = (v.jobs.foldl (fun s e => match e.2 with
      | some j => if j.gallery == some n && j.noSuspend then s.stopJob (some e.1) .preempted 0 else s
      | none => s) v).setGallery n (some { g with busy := true, savePages := pages }) →
    (((∃ e j, e ∈ u.jobs ∧ e.2 = some j ∧ j.gallery = some n ∧ (j.stop ≠ none ∨ ∃ t r, t ∈ j.tasks ∧ r ∈ t.phase.regions ∧ u.readyPending r.1 r.2 = true))
        ∨ u.inTransit g = true ∨ (∃ k, k ∈ s.galCells g ∧ (u.cell k).savable = false) ∨ ∃ p, p ∈ u.flight ∧ g.holds p.dst = true ∧ p.dst < cellSites) →
      exec (.galleryPark n) s = .next u)
    ∧ ((∀ e j, e ∈ u.jobs → e.2 = some j → j.gallery = some n → j.stop = none
        ∧ ∀ t r, t ∈ j.tasks → r ∈ t.phase.regions → u.readyPending r.1 r.2 = false) →
      u.inTransit g = false → (∀ k, k ∈ s.galCells g → (u.cell k).savable = true) → (∀ p, p ∈ u.flight → g.holds p.dst = true → cellSites ≤ p.dst) →
      Tab.wf Cell.reset u.cells = true → Tab.wf none u.jobs = true → Tab.wf none u.gals = true →
      ∃ (t : State) (g' : Gallery), exec (.galleryPark n) s = .next t ∧ t.gallery? n = some g' ∧ g'.resident = false ∧ g'.busy = false
        ∧ g'.savePages = pages ∧ g'.saved = (s.galCells g).map (fun k => (k, u.savedCell g k))
        ∧ (∀ i j, u.job? i = some j → j.gallery = some n → ∃ j', t.job? i = some j' ∧ j'.suspended = true ∧ j'.susGc = u.gc)
        ∧ ∀ k, k ∈ s.galCells g → (t.cell k).mem = [] ∧ (t.cell k).owner = 0))
  ∧ (∀ (s : State) (n : Nat) (g : Gallery), s.fatal = false → s.gallery? n = some g → g.resident = false → s.myTurn g.tenant = true →
    s.sag < 4 → s.siteTaken n g = false → s.wants n ≠ [] →
    ((s.gals.filterMap (fun e => e.2)).map (fun (p : Gallery) => if p.resident && p.tenant == g.tenant then (s.galCells p).length else 0)).sum
      + g.saved.length ≤ bits (s.reg (rTen g.tenant 0x10)) 11 0 →
    ((∃ c, c ∈ g.saved ∧ s.goodCell c.1 = false) → exec (.galleryRestore n) s = .next (s.jobs.foldl (fun s e => match e.2 with
      | some j => if j.gallery = some n then s.stopJob (some e.1) .memUncorrectable 0 else s
      | none => s) s))
    ∧ ((∀ c, c ∈ g.saved → s.goodCell c.1 = true) → (g.saved.map Prod.fst).Nodup → Tab.wf Cell.reset s.cells = true →
      Tab.wf none s.jobs = true →
      ∃ x : State, x.gallery? n = some { g with resident := true, saved := [], residentGc := s.gc }
        ∧ (∀ c, c ∈ g.saved →
          x.cell c.1 = (s.cell c.1).restored c.2 (if c.2.fenced then fenceTag else g.tenant) (s.acycles (cellDie c.1)))
        ∧ (∀ i j, s.job? i = some j → j.gallery = some n → x.job? i = some { j with suspended := false })
        ∧ ∀ a b c : State, a = g.saved.foldl (fun s c => s.setCell c.1 ((s.cell c.1).waitAgain)) x →
          b = g.saved.foldl (fun s c => c.2.waitsOf.foldl (fun s w => s.cellSignal c.1 w.1 .wait w.2.1.sig w.2.1.value w.2.2) s) a →
          c = g.saved.foldl (fun s c => s.releaseEntries c.1 ((c.2.msg.map MsgLogic.freed).getD 0)) b →
          exec (.galleryRestore n) s = .next (((c.repeatPhases n).regAdd (rFmEvt 8) 1).traceEv 7 g.tenant 0
            [n, pageSize * g.savePages.length % 2 ^ 32, pageSize * g.savePages.length / 2 ^ 32])))

/-! ### Fixed-function engines (ch. 13) -/

/-- ENG_CMD with a good header is answered OK and places the command last in its engine's queue, a CE command with its group's next collective
number, ready where it waits for nothing and its WAIT sent else; with a bad header, or an opcode of class ZE without feature 14, it stops its job with BAD_COMMAND
(R338, R339, R342, R461). ENGINE_ACTIVATE of the first eligible command makes it active, with the status its body's check or its gate's lookup refuses it with, or none
(R339, R342). ENGINE_COMPLETE of the first command that has ended marks what a stopped one or a failed collective wrote as open, writes the record
where it has one, operates on its done_sig where it ended well, takes it out of the queue, and gives its conditions to its job, which it stops where it ended badly (R347 to R350). -/
def Obligations.EngineCommandsPlacedAndCompleted : Prop :=
  (∀ (s t : State) (p : Packet) (e job task : Nat) (cmd : List Byte) (c : EngCmd), s.fatal = false → p.body = .engCmd e job task cmd →
    p.dst = hubS → e < 36 → (s.job? job).isSome = true → s.mayArrive p = true → t = (s.arrived p).send ((s.arrived p).respTo p (.opDone .ok)) →
    c = { id := (s.arrived p).cmdCtr, job := job, task := task, cmd := cmd } →
    ((t.headerGood ((s.arrived p).jobTenant job) e c = false ∨ (opClass c.op = 5 ∧ t.feature 14 = false)) → ∀ u,
      u = (if opClass c.op = 5 ∧ t.feature 14 = false then t.updJob job (fun j => { j with detail := some detFeature }) else t) →
      exec (.engCmd p) s = .next (u.stopJob (some job) .badCommand 0).loadTables)
    ∧ (t.headerGood ((s.arrived p).jobTenant job) e c = true → (opClass c.op ≠ 5 ∨ t.feature 14 = true) → ∀ no u v d,
      ((∃ i, c.isColl = true ∧ t.grpFor ((s.arrived p).jobTenant job) c.group = some i ∧ no = t.reg (rGrp i 0x18) ∧ u = t.regAdd (rGrp i 0x18) 1)
        ∨ ((c.isColl = false ∨ t.grpFor ((s.arrived p).jobTenant job) c.group = none) ∧ no = 0 ∧ u = t)) →
      d = { c with ready := !c.waitEn, collNo := no } →
      v = State.setEngine { u with cmdCtr := u.cmdCtr + 1 } e (({ u with cmdCtr := u.cmdCtr + 1 } : State).engine e ++ [d]) →
      exec (.engCmd p) s = .next (if c.waitEn then v.engWait d else v).loadTables))
  ∧ (∀ (s t : State) (e : Nat) (c d : EngCmd) (bad : Option Status) (key : List Byte) (dec : Option Decision), s.fatal = false →
    (s.engine e).find? (fun c => c.ready && !c.active && c.fin.isNone && (s.engStopped c).isNone && s.activeRoom e c && s.collTurn c) = some c →
    s.engineHeld e = false →
    ((∃ st, (s.bodyCheck c (if c.isColl then s.ceGood c else s.oeGood c)) = (some st, key) ∧ bad = some st ∧ dec = c.decision)
      ∨ ((s.bodyCheck c (if c.isColl then s.ceGood c else s.oeGood c)) = (none, key)
        ∧ ((∃ st, s.gateLookup c = .error st ∧ bad = some st ∧ dec = none) ∨ (s.gateLookup c = .ok dec ∧ bad = none)))) →
    d = { c with active := true, order := s.cmdCtr, start := s.gc, key := key, decision := dec
                 fin := bad.map (fun st => (st.code, 0)), coll := if bad.isNone then s.collInit c else none } →
    t = (({ s with cmdCtr := s.cmdCtr + 1 } : State).updEng e c.id (fun _ => d)).traceEv 6 (s.engTenant c) c.job [e, c.op, 0] →
    exec (.engineActivate e) s = .next (if d.coll.isSome then t.collActivate e d else t))
  ∧ (∀ (s a b d f g : State) (e st detail fin : Nat) (c : EngCmd) (bad : EngEnd), s.fatal = false →
    (s.engine e).find? (fun c => (s.engEnding c).isSome) = some c → s.engEnding c = some (st, detail) →
    a = (if c.fin.isNone then (s.engSmear c).gateStopped c else if c.coll.isSome ∧ st ≠ 0 then s.engSmear c else s) →
    (b, bad) = (if c.recEn ∧ c.active then a.engWrite c 0 c.recTva (c.record e st detail a.gc) else (a, none)) →
    fin = (match bad with | some x => x.code | none => st) →
    d = (if (fin == Status.ok.code || fin == Status.stepSkipped.code) && c.doneEn then
        b.hubSignal (if c.doneSet then .set else .add) c.doneSig (c.w 3) (b.engTenant c) .engine { node := hubS, unit := 0xE, tag := c.id % 65536 }
      else b) →
    f = ((d.setEngine e ((d.engine e).filter (fun x => x.id != c.id))).regAdd (rEng e 0) 1).traceEv 6
      ((d.setEngine e ((d.engine e).filter (fun x => x.id != c.id))).engTenant c) c.job [e, c.op, fin] →
    g = State.mirrorPlace (match c.coll with
      | some k => { f with grants := f.grants.filter (fun g => !(g.1 == k.grp && g.2.1 == k.no)) }
      | none => f) →
    exec (.engineComplete e) s = .next (match c.mirror with
      | some m => g.mirrorDone m.2 fin
      | none => if fin == Status.ok.code || fin == Status.stepSkipped.code then g.updJob c.job (fun j => { j with cond := j.cond ||| c.cond })
          else (g.updJob c.job (fun j => { j with cond := j.cond ||| c.cond })).stopJob (some c.job) (statusOf fin) 0))

/-- ENGINE_CHUNK performs one chunk of the command an engine selects, where the stacks it reaches serve its tenant now, and passes the slot else (R343 to
R345, R398); the rows of the engine opcodes perform all the chunks left of such a command. A chunk of a MSG command sends its message, of a
collective starts it; a command whose gate decision is to skip ends with STEP_SKIPPED; any other chunk makes its part of the plan's writes, the first with the plan's reads counted, and
the last ends the command with the plan's status, detail, count and conditions; a write that is refused ends it with that status. -/
def Obligations.EngineCommandsPerformTheirChunks : Prop :=
  (∀ (s : State) (e : Nat) (h : HostIn), s.fatal = false →
    (s.chunkPick e = none → exec (.engineChunk e h) s = .next (s.chunkSlot e false))
    ∧ (∀ c, s.chunkPick e = some c → s.chunkServed c h = false → exec (.engineChunk e h) s = .next (s.chunkSlot e false))
    ∧ (∀ c, s.chunkPick e = some c → s.chunkServed c h = true → exec (.engineChunk e h) s =
      .next ((((s.hostStores (s.engFn c) h).chunkCount e c.id).chunkSlot e true).engChunk e c h)))
  ∧ (∀ x : (Nat → HostIn → Instr) × Nat, x ∈ [(Instr.dmaCopy, 0x10), (.copy2d, 0x11), (.scatter, 0x12), (.convert, 0x13), (.dmaFill, 0x14),
      (.dmaMsg, 0x15), (.allReduce, 0x20), (.reduceScatter, 0x21), (.allGather, 0x22), (.broadcast, 0x23), (.allToAll, 0x24), (.reduce, 0x25),
      (.gather, 0x30), (.bag, 0x31), (.sort, 0x40), (.topk, 0x41), (.rand, 0x50), (.compress, 0x60), (.decompress, 0x61), (.gcmEnc, 0x70),
      (.gcmDec, 0x71), (.sha384, 0x72), (.update, 0x80)] →
    ∀ (s t : State) (e n : Nat) (h : HostIn) (c : EngCmd), s.fatal = false → s.chunkPick e = some c → c.op = x.2 → s.chunkServed c h = true →
    t = ((s.hostStores (s.engFn c) h).chunkCount e c.id).chunkSlot e true →
    n = (if c.op = 0x15 ∨ c.isColl then 1 else (t.engPlan c h).size) →
    exec (x.1 e h) s = .next ((List.range n).foldl (fun s _ =>
      match (s.engine e).find? (fun d => d.id == c.id && s.canChunk e d && s.chunkServed d h) with
      | some d => s.engChunk e d h
      | none => s) t))
  ∧ (∀ (s t : State) (e : Nat) (h : HostIn) (c : EngCmd), t = s.regAdd (rEng e 1) 1 →
    (c.op = 0x15 → s.engChunk e c h = t.engMsg e c)
    ∧ (c.op ≠ 0x15 → c.isColl = true → s.engChunk e c h = t.collStart e c h)
    ∧ (∀ d, c.op ≠ 0x15 → c.isColl = false → c.decision = some d → d.skip = true → s.engChunk e c h = t.engFin e c.id .stepSkipped 0 0 0)
    ∧ (∀ (u v w : State) (n : Nat) (p : Plan) (bad : EngEnd), c.op ≠ 0x15 → c.isColl = false → (∀ d, c.decision = some d → d.skip = false) →
      p = t.engPlan c h → u = (if c.done = 0 ∨ p.fin ≠ .ok then p.s.regAdd (rEng e 7) p.taken else { t with freeCtr := p.s.freeCtr }) →
      u.engWrites c (p.part c.done) = (v, n, bad) → w = v.regAdd (rEng e 8) n →
      (∀ st, bad = some st → s.engChunk e c h = w.engFin e c.id st 0 0 0)
      ∧ (bad = none → c.done + 1 < p.size → s.engChunk e c h = w.updEng e c.id (fun c => { c with done := c.done + 1 }))
      ∧ (bad = none → p.size ≤ c.done + 1 → s.engChunk e c h =
        (w.updEng e c.id (fun c => { c with done := c.done + 1 })).engFin e c.id p.fin p.detail p.count p.cond)))

/-- What the engines write: COPY the bytes it read (R356), FILL its pattern by address (R356), GATHER the listed rows one behind the other
(R362), SHA384 the hash of its source (R371), GCM_ENC the ciphertext and the tag over it, GCM_DEC the plaintext where the tag matches
and AUTH_FAIL where it does not (R371). -/
def Obligations.EnginePlansWriteTheirResults : Prop :=
  ∀ (s t : State) (c : EngCmd) (h : HostIn) (bs : List Byte),
    (c.op = 0x10 → s.engRead c h (c.f 6 1 0) (c.a64 7) (c.w 11) = (t, none, bs) →
      (s.dmaPlan c h).writes = [(c.f 6 3 2, c.a64 9, bs)] ∧ (s.dmaPlan c h).count = bs.length ∧ (s.dmaPlan c h).fin = .ok)
    ∧ (c.op = 0x14 → ∃ w, (s.dmaPlan c h).writes = [(c.f 6 3 2, c.a64 9, w)] ∧ w.length = c.w 11
      ∧ ∀ k, k < c.w 11 → w[k]? = (leBytes 8 (c.a64 12))[(c.a64 9 + k) % 8]?)
    ∧ (c.op = 0x72 → s.engRead c h 0 (c.a64 7) (c.w 11) = (t, none, bs) →
      (s.kePlan c h).writes = [(0, c.a64 9, sha384 bs)] ∧ (s.kePlan c h).fin = .ok)
    ∧ (∀ (u v : State) (ab aad : List Byte), s.engRead c h 0 (c.a64 7) (c.w 11) = (t, none, bs) →
      t.engRead c h 0 (c.a64 12) 64 = (u, none, ab) → u.engRead c h 0 (c.a64 12 + 64) (leAt ab 12 4) = (v, none, aad) →
      zeros (ab.drop 32) = true →
      (c.op = 0x70 → (s.kePlan c h).writes = [(0, c.a64 9, gcmCrypt c.key (ab.take 12) bs),
          (0, c.a64 12 + 16, gcmTag c.key (ab.take 12) aad (gcmCrypt c.key (ab.take 12) bs))] ∧ (s.kePlan c h).fin = .ok)
      ∧ (c.op = 0x71 → gcmTag c.key (ab.take 12) aad bs = (ab.drop 16).take 16 →
        (s.kePlan c h).writes = [(0, c.a64 9, gcmCrypt c.key (ab.take 12) bs)] ∧ (s.kePlan c h).fin = .ok)
      ∧ (c.op = 0x71 → gcmTag c.key (ab.take 12) aad bs ≠ (ab.drop 16).take 16 → (s.kePlan c h).fin = .authFail))
    ∧ (∀ (u : State) (row : List Byte), c.op = 0x30 → c.w 11 = 1 → s.engRead c h 0 (c.a64 9) (if bit (c.w 6) 12 then 8 else 4) = (t, none, bs) →
      bs.length = (if bit (c.w 6) 12 then 8 else 4) → ∀ rb, rb = c.f 12 15 0 * ((Fmt.ofCode (c.f 6 5 2)).getD .fp32).width / 8 →
      t.engRead c h 0 (c.a64 7 + leAt bs 0 bs.length * rb) rb = (u, none, row) →
      (s.gePlan c h).writes = [(c.f 6 1 0, c.a64 13, row)])

/-- SORT and TOPK put a row's keys in order with their positions: every key once, none before one it must follow, and equal keys in the
order of their positions (R365). -/
def Obligations.SortsAreStable : Prop :=
  ∀ (f : Fmt) (desc : Bool) (keys : List Nat), (sortRow f desc keys).Perm keys.zipIdx
    ∧ (sortRow f desc keys).Pairwise (fun a b =>
        (if desc then f.sortKey b.1 < f.sortKey a.1 else f.sortKey a.1 < f.sortKey b.1) ∨ (f.sortKey a.1 = f.sortKey b.1 ∧ a.2 < b.2))

/-- AES-256-GCM undone: what a key and IV encrypt, the same key and IV turn back into the plaintext (R279, R371). -/
def Obligations.GcmDecryptsWhatItEncrypts : Prop :=
  ∀ (key iv bs : List Byte), key.length = 32 → gcmCrypt key iv (gcmCrypt key iv bs) = bs ∧ (gcmCrypt key iv bs).length = bs.length

/-! ### Start, security, faults and debug (ch. 14, 21, 23, 24) -/

/-- What a reset leaves is `State.lost` (R615, R616): POWER_ON, PERST# and a device reset lead to it and to a start event (R605, R610,
R616). Landing measures the firmware and chooses the bank: the one a failed stage forced, else the preferred bank, else the other as fallback, and where no bank
can run it halts or goes to recovery (R575, R610, R614). The stages complete in order, halt or go to the other bank's firmware (R610, R612 to R614).
A PF FLR removes every tenant and takes back the feature set (R617). -/
def Obligations.ResetsAndStages : Prop :=
  (∀ (s x : State) (low high : Nat), s.ao.qualified = false → 48000 ≤ low → high ≤ 60000 →
    x = { s.lost false with
          sag := if (s.lost false).pwr.trip then 4 else 0, arrayHeld := (s.lost false).pwr.trip
          pwr := { (s.lost false).pwr with stage := 0, mv := low }
          ao := { (s.lost false).ao with powered := true, qualified := true, off := false, inS5 := false, smbus := 0x64
                                         trigger := if s.ao.off then 5 else 0 } } →
    x.gc = 0 ∧ x.stage = 0 ∧ x.jobs = [] ∧ x.cells = [] ∧ x.fatal = false ∧ x.nv.banks = s.nv.banks ∧ x.host = s.host
      ∧ ∀ y, y = (if s.ao.inS5 then x.sagRecord 5 low false else x) →
        exec (.powerOn low high) s = .next (if s.ao.perst then y else y.startEvent))
  ∧ (∀ s : State, s.ao.perst = false →
    (s.ao.powered = true → s.ao.off = false → exec .perstAssert s = .next ((s.lost false).updAo (fun a => { a with perst := true, trigger := 1 })))
    ∧ ((s.ao.powered = false ∨ s.ao.off = true) → exec .perstAssert s = .next (s.updAo (fun a => { a with perst := true }))))
  ∧ (∀ s : State, s.ao.perst = true →
    (s.ao.powered = true → s.ao.qualified = true → s.ao.off = false →
      exec .perstDeassert s = .next (s.updAo (fun a => { a with perst := false })).startEvent)
    ∧ ((s.ao.powered = false ∨ s.ao.qualified = false ∨ s.ao.off = true) →
      exec .perstDeassert s = .next (s.updAo (fun a => { a with perst := false }))))
  ∧ (∀ (s : State) (trig : Nat), 2 ≤ trig → trig ≤ 4 → s.ao.powered = true → s.ao.off = false → s.ao.perst = false → s.ao.landed = true →
    exec (.devReset trig) s = .next (s.linkDisable trig).startEvent ∧ (s.linkDisable trig).gc = s.gc ∧ (s.linkDisable trig).stage = 0
      ∧ (s.linkDisable trig).fatal = false ∧ (s.linkDisable trig).cells = [])
  ∧ (∀ s t : State, s.ao.start = true → s.ao.landed = false → s.mayStage = true →
    t = (s.updAo (fun a => { a with start := false, landed := true, cause := a.trigger, force := none })).extend 1 (Config.romInput s.sec.svnFloor) →
    (s.bootRecord = none → exec .landing s = .next (t.halt 3))
    ∧ (∀ q p, s.bootRecord = some (q, p) → s.bootBank (p % 2) = none →
      exec .landing s = .next ((((t.extend 2 (Config.fwImage 2 0)).extend 3 (Config.fwImage 2 1)).extend 8 [0#8]).updSec (fun x => { x with recovery := true })))
    ∧ (∀ q p b fb u, s.bootRecord = some (q, p) → s.bootBank (p % 2) = some (b, fb) →
      u = (if fb ∧ s.ao.force = none then t.record .secBootFallback { noRec with node := hubN, unit := 0xD, idx0 := 1 - b } else t) →
      exec .landing s = .next ((((u.extend 2 (Config.fwImage b 0)).extend 3 (Config.fwImage b 1)).extend 8 [0#8]).updSec
        (fun x => { x with bank := b, fallback := fb, svnRun := (s.bundleOf b).getD 0 }))))
  ∧ (∀ (s t u : State) (fw : Bool) (hbm : List Nat), s.stage = 0 → s.ao.landed = true → s.sec.recovery = false → s.mayStage = true →
    t = s.recoverErases →
    u = (t.countBoot.chooseSettings.loadSettings.extend 7 t.countBoot.chooseSettings.loadSettings.nv.active.2.secBytes).loadRetired.trainHbm hbm →
    (t.bundleOf t.sec.bank = none → exec (.stage1 fw hbm) s = .next t.fwFail)
    ∧ (t.bundleOf t.sec.bank ≠ none → (∀ k, k < 8 → u.stackMode k = 2) → exec (.stage1 fw hbm) s = .next (u.halt 1))
    ∧ (∀ v, t.bundleOf t.sec.bank ≠ none → (∃ k, k < 8 ∧ u.stackMode k ≠ 2) →
      v = u.updSec (fun x => { x with hbmKeys := [0, 17].foldl (fun t n => Tab.put 0 t n (Tab.get 0 t n + 1)) x.hbmKeys }) →
      exec (.stage1 fw hbm) s = .next (if fw then ((v.extend 4 (Config.fwImage v.sec.bank 2)).drainAo).stageDone 1 else v.fwFail)))
  ∧ (∀ (s t u v : State) (bad : List Nat), s.stage = 1 → s.mayStage = true → t = s.extend 5 (Config.fwImage s.sec.bank 3) →
    u = (bad.eraseDups.filter ({ t with badCells := (t.nv.mfgBad ++ (t.bank 0).cells ++ (t.bank 1).cells).eraseDups, cells := [], gated := [] }
      : State).goodCell).foldl (fun s c => (s.mapOut c).record .cellRetired { noRec with node := c })
      { t with badCells := (t.nv.mfgBad ++ (t.bank 0).cells ++ (t.bank 1).cells).eraseDups, cells := [], gated := [] } →
    v = { u with routeBad := u.badCells, flits := [] } →
    exec (.stage2 false bad) s = .next s.fwFail
    ∧ (cutOff v.reached = false → (∀ c, c < cellSites → v.goodCell c = true → c ∈ v.reached) → exec (.stage2 true bad) s = .next (v.stageDone 2))
    ∧ ((cutOff v.reached = true ∨ ∃ c, c < cellSites ∧ v.goodCell c = true ∧ c ∉ v.reached) → exec (.stage2 true bad) s = .next (v.halt 2)))
  ∧ (∀ (s t : State) (fw : Bool) (e : Nat), s.stage = 2 → s.mayStage = true →
    ((s.ao.training = true ∧ t = s) ∨ (s.ao.training = false ∧ fw = true ∧ t = s.beginStage3 e)) →
    ((∀ p, p < 16 → (t.port p).st ≠ .training) → exec (.stage3 fw e) s = .next t.endStage3 ∧ t.endStage3.stage = 3 ∧ t.endStage3.sigs = [])
    ∧ ((∃ p, p < 16 ∧ (t.port p).st = .training) → exec (.stage3 fw e) s = .next t))
  ∧ (∀ (s : State) (e : Nat), s.stage = 2 → s.mayStage = true → s.ao.training = false → exec (.stage3 false e) s = .next s.fwFail)
  ∧ (∀ s : State, s.ao.powered = true → s.ao.off = false → s.ao.perst = false → s.ao.landed = true → s.fatal = false →
    ∃ t : State, exec .pfFlr s = .next t ∧ t.vfEn = false ∧ t.feat = 0 ∧ t.sigs = [] ∧ t.gate = none ∧ t.aliasGate = none ∧ t.launch = []
      ∧ t.groups = [])

/-- A settings store joins the controller's order (R628), board management's with it (R629); the erase done, the copy is programmed and the
other bank's follows (R622, R628); a firmware update goes into the bank that is not preferred, and both boot records name it (R575,
R620); the version floor only rises, to at most the running bundle's (R576). -/
def Obligations.NonVolatileStores : Prop :=
  (∀ (s t : State) (fn k : Nat) (h : HostIn) (c : Cmd) (bs : List Byte) (x : Settings), s.entryPayAt fn k 0xE 1024 h c bs t → settingsOf bs = some x →
    exec (.settingsStore fn k h) s = .next (((t.running c).updNv (fun n => { n with ops := n.ops ++ [{ val := x, cmd := some c.id }] })).nvStart))
  ∧ (∀ (s : State) (image : List Byte), s.ao.powered = true → s.stage ≠ 0 → image.length = 1024 →
    (({} : Settings).manage (settingsAt image)).inRange = true → exec (.pldmSettingsWrite image) s =
      .next ((s.updNv (fun n => { n with ops := n.ops ++ [{ val := settingsAt image, cmd := none, pldm := true }] })).nvStart))
  ∧ (∀ (s t : State) (o : NvOp) (rest : List NvOp) (n b : Nat) (ok : Bool), s.nv.ops = o :: rest → o.begun = some n → o.bank = some b →
    t = (s.endErase b 3 n).updBank b (fun x => { x with settings := if ok then some (o.seq, o.val) else none }) →
    (ok = true → o.more = true → exec (.nvEraseComplete ok) s =
      .next ((t.updNv (fun x => { x with ops := { o with bank := some (1 - b), more := false, begun := none } :: rest })).nvStart))
    ∧ (ok = true → o.more = false → exec (.nvEraseComplete ok) s = .next (((t.updNv (fun x => { x with ops := rest })).storeDone o .ok).nvStart))
    ∧ (ok = false → exec (.nvEraseComplete ok) s = .next (((t.updNv (fun x => { x with ops := rest })).storeDone o .memUncorrectable).nvStart)))
  ∧ (∀ (s : State) (svn q p : Nat) (valid : Bool), s.ao.powered = true → s.ao.landed = true → s.nv.ops = [] → s.bootRecord.getD (0, 1) = (q, p) → p < 2 →
    s.nv.banks.length = 2 → ∃ t : State, exec (.firmwareUpdate svn valid) s = .next t
      ∧ (t.bank (1 - p)).bundle = (if valid then some (svn % 128) else none) ∧ (t.bank p).bundle = (s.bank p).bundle
      ∧ (t.bank 0).boot = some (q + 1, 1 - p) ∧ (t.bank 1).boot = some (q + 1, 1 - p))
  ∧ (∀ (s : State) (v : Nat), s.bar 0 = true → v < 128 →
    (s.sec.svnFloor < v → v ≤ s.sec.svnRun → exec (.svnCommit v) s = .next ((s.updSec (fun x => { x with svnFloor := v })).secEvent))
    ∧ ((v ≤ s.sec.svnFloor ∨ s.sec.svnRun < v) → exec (.svnCommit v) s = .next s))

/-- A token whose checks pass unlocks a module not locked again since its start, any write of go takes a new nonce and notes the result (R588 to R591); DEBUG_LOCK
locks and ends every halt (R592, R653); key slots are cleared, retired and expire (R581, R584, R585), and set in a session of a provisioning root that may
set them (R582). The SPDM responder answers with its chain, its measurements, its signature, a session, or an error (R577 to R579); a session is opened among
at most four, ended and its keys renewed (R579); the link's key sets are programmed, used, stopped and asked for (R587). Each clause gives the
whole state after the command. -/
def Obligations.SecurityRequestsAnswered : Prop :=
  ((∀ s : State, s.bar 0 = true →
    (s.tokenResult = 1 → s.sec.relocked = false → exec .debugUnlock s = .next ((s.unlock (byteAt s.tokenBytes 5)).updSec (fun x =>
      { x with result := 1, nonceNo := x.nonceNo + 1 })))
    ∧ ((s.tokenResult ≠ 1 ∨ s.sec.relocked = true) → exec .debugUnlock s = .next { s with sec := { s.sec with result := s.tokenResult, nonceNo := s.sec.nonceNo + 1 } }))
  ∧ (∀ s : State, s.bar 0 = true → s.sec.dbg ≠ 0 → exec .debugLock s =
      .next ((((s.updSec (fun x => { x with dbg := 0, relocked := true })).extend 8 [0#8]).secEvent).endHalts)
    ∧ ∀ c, (((((s.updSec (fun x => { x with dbg := 0, relocked := true })).extend 8 [0#8]).secEvent).endHalts).cell c).halted = false)
  ∧ (∀ (s : State) (n : Nat), s.bar 0 = true →
    (n < 0x80 → exec (.slotClear n) s = .next { s with keySlots := Tab.put none s.keySlots n none })
    ∧ (n ≤ 16 → exec (.slotClear (0x80 + n)) s = .next { s with ferKeys := Tab.put {} s.ferKeys n {} })
    ∧ (n ≤ 16 → exec (.ferKeyRetire (0x80 + n)) s = .next { s with ferKeys := Tab.put {} s.ferKeys n { s.ferKey n with prev := none } }))
  ∧ (∀ (s : State) (n : Nat), n ≤ 16 → (s.ferKey n).prev.isSome = true → (s.ferKey n).since + 10000000000 ≤ s.gc →
    exec (.previousKeyExpire (0x80 + n)) s = .next { s with ferKeys := Tab.put {} s.ferKeys n { s.ferKey n with prev := none } })
  ∧ (∀ (s : State) (id r : Nat) (req : List Byte) (x : Session), s.spdmUp = true → s.session? id = some x → x.root = some r →
    (s.setKeyCode r req ≠ 0 → exec (.setKey id req) s = .next (s.answerSpdm (.setKey (s.setKeyCode r req))))
    ∧ (s.setKeyCode r req = 0 → byteAt req 0 < 0x80 → exec (.setKey id req) s = .next { s.answerSpdm (.setKey 0) with
        keySlots := Tab.put none s.keySlots (byteAt req 0) (some { tenant := byteAt req 1, usage := byteAt req 2, key := (req.drop 16).take 32 }) })
    ∧ (s.setKeyCode r req = 0 → 0x80 ≤ byteAt req 0 → exec (.setKey id req) s = .next { s.answerSpdm (.setKey 0) with
        ferKeys := Tab.put {} s.ferKeys (byteAt req 0 - 0x80)
          { cur := some ((req.drop 16).take 32), prev := (s.ferKey (byteAt req 0 - 0x80)).cur, since := s.gc } })))
  ∧ (∀ s : State, s.spdmUp = true →
    (∀ slot off len c, s.chainOf slot = some c → exec (.getCertificate slot off len) s = .next (s.answerSpdm (.chain ((c.drop off).take len))))
    ∧ (∀ slot off len, s.chainOf slot = none → exec (.getCertificate slot off len) s = .next (s.answerSpdm .error))
    ∧ (∀ i nonce sign ms, (i ≤ 10 ∨ i = 0xFF) → (sign = false ∨ s.sec.keysUp = true) →
      ms = (if i = 0xFF then [1, 2, 3, 4, 5, 6, 7, 8, 9, 10] else if i = 0 then [] else [i]).map (fun i => (i, s.meas i)) →
      exec (.getMeasurements i nonce sign) s =
        .next (s.answerSpdm (.measurements ms (if sign then some (s.aliasSign (nonce ++ ms.flatMap (fun m => m.2))) else none))))
    ∧ (∀ i nonce sign, ((10 < i ∧ i ≠ 0xFF) ∨ (sign = true ∧ s.sec.keysUp = false)) →
      exec (.getMeasurements i nonce sign) s = .next (s.answerSpdm .error))
    ∧ (∀ nonce, s.sec.keysUp = true → exec (.challenge 0 nonce) s = .next (s.answerSpdm (.signature (s.aliasSign nonce))))
    ∧ (∀ nonce, s.sec.keysUp = false → exec (.challenge 7 nonce) s = .next (s.answerSpdm (.signature (Config.aliasSign [] s.sec.mix nonce))))
    ∧ (∀ slot nonce, (slot ≠ 0 ∨ s.sec.keysUp = false) → (slot ≠ 7 ∨ s.sec.keysUp = true) →
      exec (.challenge slot nonce) s = .next (s.answerSpdm .error))
    ∧ (∀ chain nonce, ((List.range 4).find? (fun i => (s.session? i).isNone) = none ∨ s.sec.keysUp = false) →
      exec (.keyExchange chain nonce) s = .next (s.answerSpdm .error))
    ∧ (∀ nonce i, (List.range 4).find? (fun i => (s.session? i).isNone) = some i → s.sec.keysUp = true → exec (.keyExchange none nonce) s =
        .next ((s.updSec (fun x => { x with sessions := x.sessions ++ [{ id := i, root := none }] })).answerSpdm (.session i (s.aliasSign nonce))))
    ∧ (∀ nonce i chain hash, (List.range 4).find? (fun i => (s.session? i).isNone) = some i → s.sec.keysUp = true →
      Config.chainRoot chain = some hash → exec (.keyExchange (some chain) nonce) s =
        .next ((s.updSec (fun x => { x with sessions := x.sessions ++ [{ id := i, root := s.nv.active.2.roots.findIdx? (fun r => r.1 == hash && bit r.2 31) }]
          })).answerSpdm (.session i (s.aliasSign nonce))))
    ∧ (∀ id x, s.session? id = some x →
      exec (.endSession id) s = .next ((s.updSec (fun x => { x with sessions := x.sessions.filter (fun y => y.id != id) })).answerSpdm .ended)
      ∧ exec (.keyUpdate id) s = .next ((s.updSec (fun x =>
          { x with sessions := x.sessions.map (fun y => if y.id = id then { y with keys := y.keys + 1 } else y) })).answerSpdm .updated)
      ∧ exec (.ideQuery id) s = .next (s.answerSpdm (.ideState s.sec.ideOn (s.sec.ideSets.map (fun e => e.1))))
      ∧ ∀ n, n < 2 → (∀ key, exec (.keyProg id n key) s =
            .next ((s.updSec (fun x => { x with ideSets := Tab.put [] x.ideSets n key })).answerSpdm .ideAck))
        ∧ (Tab.get [] s.sec.ideSets n ≠ [] → bits (s.reg rLinkInfo) 2 0 ≠ 0 → exec (.kSetGo id n) s =
            .next (((s.updSec (fun x => { x with ideOn := some n })).setField rLinkInfo 10 10 1).answerSpdm .ideAck))
        ∧ (s.sec.ideOn ≠ some n → exec (.kSetStop id n) s =
            .next ((s.updSec (fun x => { x with ideSets := Tab.put [] x.ideSets n [] })).answerSpdm .ideAck))
        ∧ (s.sec.ideOn = some n → exec (.kSetStop id n) s =
            .next ((((s.updSec (fun x => { x with ideSets := Tab.put [] x.ideSets n [] })).updSec (fun x => { x with ideOn := none })).setField
              rLinkInfo 10 10 0).answerSpdm .ideAck)))
    ∧ (∀ id, s.session? id = none → exec (.endSession id) s = .next (s.answerSpdm .error) ∧ exec (.keyUpdate id) s = .next (s.answerSpdm .error)))

/-- Patrol reads a stack's next page (R385); a marked page is copied and replaced, or deferred where no page is free (R386, R387); a stack goes into reduced mode or fails
(R388, R389, R642); a good cell is retired on a write, or once a threshold finds it failing (R643, R644); a silent microcontroller and lost hub state stop the module (R641);
a FENCE's or WAIT's timeout completes it with TIMEOUT, a job's stops the job with the cause that is found, a load's that has not committed ends the load
and a forming pair's the forming (R521, R645, R647). -/
def Obligations.RecoveryFromFaults : Prop :=
  (∀ (s t : State) (n : Nat) (found : List (Nat × Bool)), n < 8 → 1 ≤ s.stage → s.sag = 0 → s.pwr.mode = 0 → s.stackMode n ≠ 2 →
    s.fatal = false → t = s.hbmFound (pageSize * (32768 * n + (s.patrolOf n).pos)) (found.filter (fun f => f.1 < 65536)) true →
    exec (.hbmPatrol n found) s = .next (t.setPatrol n (if (t.patrolOf n).pos + 1 = 32768 then { prev := (t.patrolOf n).cur }
      else { t.patrolOf n with pos := (t.patrolOf n).pos + 1 })))
  ∧ (∀ (s t : State) (p new : Nat), s.pageSt p = .marked → s.fatal = false → s.sparePage p = some (new, t) →
    exec (.pageMigrate p) s = .next ((((((t.givePage new (Tab.get 0 s.pageTag p)).2.copyPage p new).rehome p new).retirePage p).record .hbmPageRetired
      { noRec with node := sliceNode (stackOfPage p), unit := 8, idx0 := stackOfPage p, code := Tab.get 0 s.pageTag p, extra0 := recPair p new })))
  ∧ (∀ (s : State) (p : Nat), s.pageSt p = .marked → s.fatal = false → s.sparePage p = none →
    exec (.pageMigrate p) s = .next ((s.setPage p .deferred).record .hbmRetireDeferred
      { noRec with node := sliceNode (stackOfPage p), unit := 8, idx0 := stackOfPage p, addr := p, code := Tab.get 0 s.pageTag p }))
  ∧ (∀ (s : State) (n : Nat), n < 8 → 1 ≤ s.stage → s.fatal = false → s.stackMode n = 0 →
    exec (.reducedModeEntry n true) s = .next (((s.setField (rStack n) 1 0 1).record .hbmReduced
      { noRec with node := sliceNode n, unit := 8, idx0 := n }).bwRecompute .reduced s.nextSeq)
    ∧ exec (.reducedModeEntry n false) s = .next (s.stackFails n))
  ∧ (∀ (s : State) (c : Nat), s.bar 3 = true → (s.goodCell c = true → exec (.cellRetirement c true) s = .next (s.retireCell c 0))
    ∧ (s.goodCell c = false → exec (.cellRetirement c true) s = .next (s.setReg rRetireStatus (setBit (s.reg rRetireStatus) 1 true))))
  ∧ (∀ (s : State) (c q : Nat), s.goodCell c = true → s.fatal = false → 2 ≤ s.stage → s.failing? c = some q →
    exec (.cellRetirement c false) s = .next (s.retireCell c q))
  ∧ (∀ (s : State) (ms : Nat), s.ao.landed = true → s.ao.powered = true → 100 ≤ ms →
    exec (.watchdogExpire ms) s = .next (s.fatalStop 2) ∧ exec .fatalStop s = .next (s.fatalStop 1))
  ∧ (∀ (s : State) (id e : Nat) (c : Cmd), s.fatal = false → s.cmds.find? (fun c => c.id == id) = some c → c.expires = some e → e ≤ s.gc →
    c.st = .running →
    (c.op = 9 → exec (.cmdTimeoutExpire id) s = .next (s.finish c .timeout 0))
    ∧ (c.op = 8 → exec (.cmdTimeoutExpire id) s = .next ((s.dropWaiters (fun i => i.node == hubN && i.unit == 0xF && i.tag == c.id % 65536)).finish c
        .timeout 0))
    ∧ (∀ k j, jobOp c.op = true → c.job = some k → s.job? k = some j → j.suspended = false → j.stop = none →
      (∀ p, p < 16 → s.pausedBy k p = false) → exec (.cmdTimeoutExpire id) s = .next (s.timeoutCause k j))
    ∧ (∀ i l, c.op = 3 → s.loads.findIdx? (fun l => l.cmd == some id) = some i → s.load? i = some l → l.committed = false → l.result = none →
      (l.txOnly = false ∨ l.started = false) → (l.fenced = false ∨ s.arrayHeld = false) →
      exec (.cmdTimeoutExpire id) s = .next (s.abortLoad i .timeout 0))
    ∧ (∀ u, c.op = 0xF → s.tether.st = .forming → s.tether.cmd = some id →
      u = s.updFer (fun f => { f with out := f.out.filter (fun o => o.owner != .copy), wait := f.wait.filter (fun o => o.owner != .copy) }) →
      exec (.cmdTimeoutExpire id) s = .next (State.finish { u with tether := {} } c .timeout 0)))

/-- Cells are halted, stepped and resumed with their records, and halt again when their die has made a step's A-cycles (R653); SNAPSHOT_TAKE latches the
counters of every cell that stands open, up to date, and changes no memory tile (R649); the window reads and writes an open cell's spaces as the lock state and the
halt grant, and answers zeros and a note else (R650 to R652); a signal is set by hand and recorded (R654); the trace is copied, and an entry that
waits too long dropped (R656, R657). A REGISTER_WRITE of 4 or 8 aligned bytes takes the register's own effect, 64 bits that are no 64-bit register
as two writes of 32, the lower first (DEDUCED, log 53); one of another size or misaligned is discarded (R9). -/
def Obligations.DebugAndTraceCommands : Prop :=
  (∀ (s : State) (scope : Bool), s.dbgMayHalt scope = true →
    exec (.cellHalt scope) s = .next ((s.setHalt (s.dbgCells scope) true 0).haltRecord s.dbgCell scope 1)
    ∧ exec (.cellResume scope) s = .next ((s.setHalt (s.dbgCells scope) false 0).haltRecord s.dbgCell scope 3)
    ∧ (∀ n, 1 ≤ n → n ≤ 65535 → exec (.cellStep scope n) s = .next ((s.setHalt (s.dbgCells scope) true n).haltRecord s.dbgCell scope 2))
    ∧ (∀ k n on, Tab.wf Cell.reset s.cells = true → k ∈ s.dbgCells scope → ((s.setHalt (s.dbgCells scope) on n).cell k).halted = on
        ∧ ((s.setHalt (s.dbgCells scope) on n).cell k).stepLeft = n))
  ∧ (∀ (s : State) (c : Nat), (s.cell c).stepLeft ≠ 0 → (s.cell c).stepEnd ≤ s.acycles (cellDie c) →
    exec (.cellStepEnd c) s = .next ((s.setHalt [c] true 0).haltRecord c false 1))
  ∧ (∀ s : State, s.bar 3 = true → Tab.wf Cell.reset s.cells = true → ∃ t : State, exec .snapshotTake s = .next t ∧ t.dbg.snapGc = s.gc
    ∧ t.dbg.snapCyc = s.pwr.acyc ∧ t.flitsSnap = s.flits
    ∧ (∀ k c, (k, c) ∈ s.cells → s.cellOpen k = true → t.cell k = c.latch s.arrFeat (s.acycles (cellDie k) - c.since))
    ∧ ∀ k, (t.cell k).mem = (s.cell k).mem ∧ (t.cell k).ctr = (s.cell k).ctr)
  ∧ (∀ (s : State) (n v : Nat), s.bar 3 = true → n = bits (s.reg rSigSel) 13 0 → v = s.reg rSigVal % 2 ^ 32 →
    ((s.dbgOpen = true ∨ s.sigTenant n = 0) → exec .signalHandSet s = .next ((s.hubSignal .set n v 0 .host { node := hubN, unit := 0xF, tag := 0 }).record
      .dbgSignalSet { noRec with node := hubN, unit := 0xD, idx0 := n, code := v, extra0 := recPair (s.signal n).counter (s.signal n).st.ctorIdx }))
    ∧ (s.dbgOpen = false → s.sigTenant n ≠ 0 → exec .signalHandSet s = .next (s.setField rSigStatus 2 2 1)))
  ∧ (∀ (s : State) (off data cell space a n : Nat) (wide : Bool), cell = s.dbgCell → space = bits (s.reg rDbgSel) 18 16 →
    a = bits (s.reg rDbgBase) 20 0 + off → n = (if wide then 8 else 4) → off % n = 0 → off + n ≤ 0x8000 →
    (s.dbgBlock = true → s.winGrants cell space false = true → a + n ≤ spaceSize space →
      exec (.dbgWindowAccess false off wide data) s = .next (s.winRead cell space a n (bit (s.reg rDbgSel) 31)))
    ∧ (s.dbgBlock = true → s.winGrants cell space false = false → exec (.dbgWindowAccess false off wide data) s =
        .next (({ s with dbg := { s.dbg with win := List.replicate n 0#8 } } : State).setField rDbgStatus 9 9 1))
    ∧ (s.bar 3 = true → s.winGrants cell space true = false → exec (.dbgWindowAccess true off wide data) s = .next (s.setField rDbgStatus 9 9 1))
    ∧ (s.bar 3 = true → s.winGrants cell space true = true → a + n ≤ spaceSize space →
      (space = 2 → exec (.dbgWindowAccess true off wide data) s = .next (s.memtWrite cell (winPacket cell a) a (leBytes n data) true).2)
      ∧ (space ≠ 2 → exec (.dbgWindowAccess true off wide data) s =
        .next (s.setCell cell ((leBytes n data).zipIdx.foldl (fun c (b : Byte × Nat) => c.winPut space (a + b.2) b.1) (s.cell cell))))))
  ∧ (∀ s : State, s.bar 3 = true → s.trace.copying = false → ∃ t : State, exec .traceCopy s = .next t ∧ t.trace.copying = true
    ∧ t.trace.wait = none ∧ t.cells = s.cells)
  ∧ (∀ s : State, s.fatal = false → exec .traceCopyDone s = .next { s with trace := { s.trace with copying := false } })
  ∧ (∀ (s : State) (r : TraceRec), s.trace.wait = some r → r.gc + 16000 ≤ s.gc →
    exec .traceEntryDrop s = .next (State.regAdd { s with trace := { s.trace with wait := none, lost := true } } rTraceDrop 1))
  ∧ (∀ s : State, s.ao.powered = true → exec .pldmEventRead s = .next (s.updAo (fun a => { a with events := a.events - 1 }))
    ∧ (∀ a, exec (.smbusArp a) s = .next (s.updAo (fun x => { x with smbus := a % 128 })))
    ∧ (∀ op, exec (.jtagInstruction op) s = .next (s.updAo (fun x => { x with jtag := s.jtagSelect op }))))
  ∧ (∀ (s : State) (fn off size v : Nat),
    (s.regOpen fn off = true → off % 4 = 0 → exec (.registerWrite fn off 4 v) s = .next (s.write32 fn off v))
    ∧ (s.regOpen fn off = true → off % 8 = 0 → regWide fn off = true → exec (.registerWrite fn off 8 v) s = .next (s.putReg fn off (v % 2 ^ 64)))
    ∧ (s.regOpen fn off = true → off % 8 = 0 → regWide fn off = false → exec (.registerWrite fn off 8 v) s =
        .next ((s.putReg fn off (v % 2 ^ 32)).putReg fn (off + 4) (v / 2 ^ 32 % 2 ^ 32)))
    ∧ (((size ≠ 4 ∧ size ≠ 8) ∨ off % size ≠ 0) → exec (.registerWrite fn off size v) s = .next s))

/-! ### The step gate and the tethered pair (ch. 15, 17) -/

/-- GATE_ENABLE with good settings starts the gate at step_base, and changes nothing with bad ones; GATE_DISABLE ends it (R412, R414, R421). GATE_VOTE_FORM lowers
contrib_sig's counter and holds the vote of its records, of open value and not ok where the table cannot be read (log 3), pushed first in a pair; a vote for a step already decided is
recorded (R413, R414, R473); a vote, decision or report in its window is taken by the gate it is for, a report passed on toward the root by a gate that is not the root
(R415, R416, R418, R419); the root's timeout, with no port stalled, decides SKIP with cause TIMEOUT and the canonical NaN (R418). -/
def Obligations.GateStepsVotedAndDecided : Prop :=
  (∀ (s t : State) (ctl : Nat), s.fatal = false → bit ctl 0 = true → s.bar 3 = true → s.gate = none → s.feature 9 = true →
    t = s.setReg (rGate 0) (ctl % 2 + 2 ^ 8 * bits ctl 12 8 + 2 ^ 16 * bits ctl 18 16) →
    exec (.gateEnable ctl) s = .next (if t.gateSetOk t.gateSet then
      { t with gate := some { set := t.gateSet, c := t.gateSet.stepBase, v := t.gateSet.stepBase } } else s))
  ∧ (∀ s : State, s.fatal = false → s.bar 3 = true → exec .gateDisable s = .next { s.setField (rGate 0) 0 0 0 with gate := none })
  ∧ (∀ (s v t w x : State) (al ok : Bool) (g : Gate) (n a sum : Nat), s.fatal = false → s.gateOf al = some g → g.votes = true →
    n = g.set.contribCount → n ≤ (s.signal g.set.contribSig).counter → (s.sag < 3 ∨ s.tether.st ≠ .paired) →
    a = g.set.contribTva + 16 * (n * ((g.v + 2 ^ 64 - g.set.stepBase) % 2)) →
    ((∃ cs, s.tvaCheck g.set.tenant a (16 * n) false = .ok ∧ v = s.tvaTouch g.set.tenant a (16 * n)
        ∧ cs = (List.range n).map (fun k => contribution (((s.tvaBytes g.set.tenant a (16 * n)).drop (16 * k)).take 16))
        ∧ sum = cs.foldl (fun a (c : Bool × Nat) => (accAdd a (FVal.decode .fp32 c.2)).1) 0
        ∧ ok = (cs.all Prod.fst && (FVal.decode .fp32 sum).isFin)
        ∧ t = v.setSignal g.set.contribSig { v.signal g.set.contribSig with counter := (s.signal g.set.contribSig).counter - n })
      ∨ (s.tvaCheck g.set.tenant a (16 * n) false ≠ .ok ∧ v = s ∧ sum = Config.freeNat s.freeCtr % 2 ^ 32 ∧ ok = false
        ∧ t = { v.setSignal g.set.contribSig { v.signal g.set.contribSig with counter := (s.signal g.set.contribSig).counter - n } with
                freeCtr := s.freeCtr + 1 })) →
    w = t.setGate al (some { g with v := g.v + 1, own := if decide (g.v < g.c) then g.own
      else g.own ++ [({ step := g.v, ok := ok, voters := 1, sumsq := sum }, 0, false)] }) →
    x = (if !al && w.tether.st == .paired then w.tetherPush g.v else w) →
    exec (.gateVoteForm al) s = .next (if g.v < g.c then x.record .gateLateVote { noRec with tenant := g.set.tenant, extra0 := g.v } else x.gateGo al))
  ∧ (∀ (s u : State) (p : Nat) (m : FMsg) (c : RxCtx) (g : Gate), s.msgAt p m c u → u.gateOf c.al = some g →
    leAt c.m.data 0 2 = g.set.group →
    (m.kind = kVote → gateMsgOk c 32 = true → exec (.gateVote p m) s = .next ((u.gateVote c.al c.m.src
      { step := leAt c.m.data 8 8, ok := bit (leAt c.m.data 0 8) 16, voters := leAt c.m.data 4 2, sumsq := leAt c.m.data 16 4 }).msgDone p c.t m))
    ∧ (m.kind = kDecision → gateMsgOk c 32 = true → c.m.src = g.set.parent → u.gateRoot c.al g = false → leAt c.m.data 8 8 = g.c →
      exec (.gateDecision p m) s = .next (((u.gateDecided c.al g { step := g.c, skip := leAt c.m.data 4 1 != 0, cause := leAt c.m.data 5 1,
                                                                   voters := leAt c.m.data 6 2, gsumsq := leAt c.m.data 16 4 }).gateGo c.al).msgDone p c.t m))
    ∧ (m.kind = kReport → gateMsgOk c 64 = true → 1 ≤ leAt c.m.data 4 1 → leAt c.m.data 4 1 ≤ 17 → u.gateRoot c.al g = true →
      exec (.gateReport p m) s = .next ((u.gateSilent g ((List.range (leAt c.m.data 4 1)).map (fun i => leAt c.m.data (16 + 2 * i) 2))
        (leAt c.m.data 8 8)).msgDone p c.t m))
    ∧ (m.kind = kReport → gateMsgOk c 64 = true → 1 ≤ leAt c.m.data 4 1 → leAt c.m.data 4 1 ≤ 17 → u.gateRoot c.al g = false →
      exec (.gateReport p m) s = .next ((u.gateSend c.al g kReport g.set.parent c.m.data).msgDone p c.t m)))
  ∧ (∀ (s : State) (al : Bool) (g : Gate) (t : Nat), s.fatal = false → s.gateOf al = some g → g.start = some t → s.gateRoot al g = true →
    (∀ p, p < 16 → (s.port p).stalled = false) → t + 1000000 * g.set.timeoutMs ≤ s.gc →
    exec (.gateTimeout al) s = .next ((s.gateDecided al g { step := g.c, skip := true, cause := 3, voters := (g.present.map Vote.voters).sum,
                                                            gsumsq := canonNan }).gateGo al))

/-- A gate's decision on its combined vote: SKIP with NONFINITE where it is not ok, else SKIP with BOUND where gsumsq is NaN or above the
bound, else APPLY; it carries the vote's voters and gsumsq, for the open step (R417). Only the root decides: at another module a
complete vote goes to the parent and the open step stays (R415, R417). -/
def Obligations.OnlyTheRootDecides : Prop :=
  (∀ g : Gate, g.decide.step = g.c ∧ g.decide.voters = g.combined.voters ∧ g.decide.gsumsq = g.combined.sumsq
    ∧ (g.combined.ok = false → g.decide.skip = true ∧ g.decide.cause = 1)
    ∧ (g.combined.ok = true → ((FVal.decode .fp32 g.combined.sumsq).isNan = true ∨ (FVal.decode .fp32 g.set.gnormMax).isNan = true ∨
        (FVal.decode .fp32 g.set.gnormMax).lt (FVal.decode .fp32 g.combined.sumsq) = true) → g.decide.skip = true ∧ g.decide.cause = 2)
    ∧ (g.combined.ok = true → (FVal.decode .fp32 g.combined.sumsq).isNan = false → (FVal.decode .fp32 g.set.gnormMax).isNan = false →
      (FVal.decode .fp32 g.set.gnormMax).lt (FVal.decode .fp32 g.combined.sumsq) = false → g.decide.skip = false ∧ g.decide.cause = 0))
  ∧ (∀ (s : State) (g : Gate), s.gate = some g → g.set.parent ≠ s.ferId false → ∃ g', (s.gateGo false).gate = some g' ∧ g'.c = g.c
    ∧ g'.hist = g.hist)

/-- EXPORT_SHARD and IMPORT_SHARD with a good descriptor are admitted as a job and do their work in its slot; one that admission refuses
(R310, R314) only gives its completion. A malformed descriptor, or an export that asks for compression the module lacks, is refused
BAD_COMMAND (R423 to R427). -/
def Obligations.TrainingStateExportedAndImported : Prop :=
  ∀ (s t u : State) (fn k slot : Nat) (h : HostIn) (c : Cmd) (bs : List Byte), slot = c.slot.getD 0 → u = t.admitJob c slot (t.newJob c) →
    (s.entryPayAt fn (k % 8) 0xA 64 h c bs t →
      (∀ j, shardJob true bs = some j → (j.z = none ∨ t.feature 14 = true) →
        ((u.job? slot).isSome = true → exec (.exportShard fn k h) s = .next (u.exportRun slot j))
        ∧ (u.job? slot = none → exec (.exportShard fn k h) s = .next u))
      ∧ (∀ j, shardJob true bs = some j → j.z.isSome = true → t.feature 14 = false → exec (.exportShard fn k h) s = .next (t.bad c detFeature))
      ∧ (shardJob true bs = none → exec (.exportShard fn k h) s = .next (t.bad c detMalformed)))
    ∧ (s.entryPayAt fn (k % 8) 0xB 64 h c bs t →
      (∀ j, shardJob false bs = some j →
        ((u.job? slot).isSome = true → exec (.importShard fn k h) s = .next (u.importRun slot h j))
        ∧ (u.job? slot = none → exec (.importShard fn k h) s = .next u))
      ∧ (shardJob false bs = none → exec (.importShard fn k h) s = .next (t.bad c detMalformed)))

/-- TETHER_CTL: FORM sends every array of the mirror list to the partner (R471, R472), DISSOLVE ends the pair (R484), ADOPT gives the alias
gate its table and signals (R482), RESYNC reads the mirrors back (R483), RELEASE gives the alias up (R484). A module that sends heartbeats
sends one when hb_us have passed (R477); a PAIRED one whose partner is silent declares it failed (R478); the claim of its ID is made again
10 ms after a refusal (R480), and on a grant the module catches up and then holds the alias (R479, R480, R482); a heartbeat of the living
partner says what it carries (R477, R478). -/
def Obligations.TetheredPairOperations : Prop :=
  (∀ (s t : State) (fn k : Nat) (h : HostIn) (c : Cmd) (bs : List Byte) (w : Nat → Nat), s.entryPayAt fn k 0xF 64 h c bs t →
    w = (fun i => (words bs).getD i 0) → bs.length = 64 → t.feature 6 = true →
    (∀ es, bits (w 0) 2 0 = 0 → tethPlain 0 (words bs) = true → t.formGood (words bs) = true →
      t.mirrorList (bits (w 0) 12 8) (w 6 + 2 ^ 32 * w 7) (w 8) = .ok es →
      ∃ u : State, u = { (t.tvaTouch (bits (w 0) 12 8) (w 6 + 2 ^ 32 * w 7) (64 * w 8)).running c with
        tether := { st := .forming, tenant := bits (w 0) 12 8, partner := w 1, mirrorOff := w 2 + 2 ^ 32 * w 3,
                    sigOff := w 4, hbUs := if bits (w 5) 15 0 = 0 then 1000 else bits (w 5) 15 0,
                    hbMiss := if bits (w 5) 23 16 = 0 then 8 else bits (w 5) 23 16, tc := bits (w 5) 26 24,
                    list := es, reportTva := w 10 + 2 ^ 32 * w 11, reportSig := w 12, cmd := some c.id,
                    hbGc := t.gc } }
        ∧ exec (.tetherForm fn k h) s = .next (u.tetherPut .copy (es.flatMap (u.listRanges (bits (w 0) 12 8)))))
    ∧ (bits (w 0) 2 0 = 1 → tethPlain 1 (words bs) = true → exec (.tetherDissolve fn k h) s = .next (t.tetherDissolve.finish c .ok 0))
    ∧ (∀ (g : Gate) (x : GateSet), bits (w 0) 2 0 = 2 → tethPlain 2 (words bs) = true → t.tether.st = .holdingAlias → t.aliasGate = some g →
      x = { g.set with contribTva := w 6 + 2 ^ 32 * w 7, contribCount := w 8, contribSig := bits (w 9) 13 0, decideSig := bits (w 9) 29 16,
                       decideTva := w 10 + 2 ^ 32 * w 11 } → t.gateSetOk x = true →
      exec (.tetherAdopt fn k h) s = .next (State.finish { t with aliasGate := some { g with set := x, votes := true } } c .ok 0))
    ∧ (∀ u : State, bits (w 0) 2 0 = 3 → tethPlain 3 (words bs) = true → t.tether.st = .paired → t.tethUpdate = false → t.tether.resync = none →
      u = (t.running c).updTether (fun t => { t with resync := some c.id }) →
      exec (.tetherResync fn k h) s = .next ((((u.tether.list.flatMap (fun b => (u.listShard u.tether.tenant b).arrays (listCmd b).rule)).flatMap
        (fun r => (List.range (ceilDiv r.2 16384)).map (fun i => (r.1 + 16384 * i, min 16384 (roundUp r.2 16 - 16384 * i))))).foldl
          (fun s p => s.mirrorGet p.1 p.2) u).resyncCheck))
    ∧ (bits (w 0) 2 0 = 4 → tethPlain 4 (words bs) = true → (t.tether.st = .holdingAlias ∨ t.tether.st = .catchingUp) →
      exec (.tetherRelease fn k h) s =
        .next ((t.dropAlias.updTether (fun t => { t with st := .solo, claiming := false, refusedGc := none })).finish c .ok 0)))
  ∧ ((∀ s : State, s.fatal = false → s.tether.st.beats = true → s.tether.hbSent + 1000 * s.tether.hbUs ≤ s.gc →
    exec .heartbeatSend s = .next s.heartbeat)
  ∧ (∀ s : State, s.fatal = false → s.tether.st = .paired → s.sag < 3 → s.partnerSilent = true →
    exec .partnerDeclare s = .next s.declarePartner ∧ s.declarePartner.tether.st = .solo ∧ s.declarePartner.tether.claiming = true)
  ∧ (∀ (s t : State) (p : Nat) (m : FMsg), s.fatal = false → s.ferOpen p = true → m.kind = kHeartbeat → s.ferMine m = true →
    t = s.takeRx p m → t.stray p m = false → t.tether.st = .paired → m.src = t.tether.partner → m.len = 16 → m.data.length = 16 →
    leAt m.data 2 1 ≠ 1 → t.tether.peerEpoch = some (leAt m.data 4 2) → t.tether.failing = false →
    exec (.heartbeat p m) s = .next (t.updTether (fun x => { x with
      hbGc := t.gc, shedding := leAt m.data 2 1 == 2, peerLast := leAt m.data 4 2, peerStep := leAt m.data 8 8 })))
  ∧ (∀ (s : State) (e : Nat), s.fatal = false → s.tether.claiming = true → s.tether.refusedGc = none →
    e = (if s.tether.peerLast = 0 then s.tether.peerEpoch.getD 0 else s.tether.peerLast) →
    exec (.aliasClaimResponse true) s = .next ((s.updFer (fun f => { f with
      alias_ := some s.tether.partner, aliasEpoch := if 65535 ≤ e then 1 else e + 1, streams := f.streams.filter (fun x => x.dst != s.tether.partner),
      nextSeq := f.nextSeq.filter (fun e => decide (e.1 < 2 ^ 15)) })).updTether (fun t => { t with st := .catchingUp, claiming := false })))
  ∧ (∀ s : State, s.fatal = false → s.tether.claiming = true → s.tether.refusedGc = none →
    exec (.aliasClaimResponse false) s = .next ((s.updTether (fun t => { t with refusedGc := some s.gc })).record .tetherClaimRefused
      { noRec with unit := 7, tenant := s.tether.tenant, idx0 := s.tether.partner }))
  ∧ (∀ (s : State) (g : Nat), s.fatal = false → s.tether.refusedGc = some g → s.tether.claiming = true → g + 10000000 ≤ s.gc →
    exec .claimRetry s = .next (s.updTether (fun t => { t with refusedGc := none })))
  ∧ (∀ (s : State) (p : PeerInfo), s.fatal = false → s.tether.st = .catchingUp → s.tether.mirrors = [] → s.tether.peer = some p →
    exec .catchUpDone s = .next (((s.setGate true (p.gate.map (fun g =>
      { set := { g with tenant := s.tether.tenant }, c := p.c, v := p.v, votes := false }))).updTether (fun t => { t with st := .holdingAlias })).record
        .tetherTakeover { noRec with unit := 7, tenant := s.tether.tenant, idx0 := s.tether.partner })))

/-! ### The Ferier link (ch. 16) -/

/-- Ports train when enabled (R433, R439) and keep the ID the switch gives them (R433, R440, R441), a different ID failing the port while
another is UP; they come UP when their lanes hold and IDENT has come, or fail at 500 ms (R433); they retrain on loss of lock (R638), when a
replay has not ended after 64 µs (R436) and when replays fill more than 50 ms of a second (R646), and after retraining send every
unacknowledged flit again, or fail (R433). A flit with a bad CRC or an uncorrectable codeword is discarded; a good one gives its link
fields, and a DATA flit in order its messages, while one out of order is discarded (R434, R435). -/
def Obligations.FerierPortsTrainAndReplay : Prop :=
  (∀ (s : State) (mask : Nat), s.fatal = false → s.bar 3 = true → Tab.wf {} s.fer.ports = true → ∃ t : State, exec (.portEnable mask) s = .next t
    ∧ ∀ p, p < 16 → (bit mask p = true → bit (s.reg rPortEn) p = false → (t.port p).st = .training ∧ (t.port p).since = s.gc)
      ∧ (bit mask p = true → bit (s.reg rPortEn) p = true → t.port p = s.port p) ∧ (bit mask p = false → (t.port p).st = .disabled))
  ∧ (∀ (s t : State) (p dev : Nat) (enc : Bool) (cr : List Nat), s.fatal = false → p < 16 → (s.port p).st = .training →
    t = s.setPort p { s.port p with
      ident := true, peerEnc := enc,
      credits := cr.zipIdx.foldl (fun (t : Tab Nat) (x : Nat × Nat) => if x.2 < 8 then Tab.put 0 t x.2 x.1 else t) [] } →
    (s.fer.devId = dev % 4096 → exec (.ident p dev enc cr) s = .next t)
    ∧ (s.fer.devId ≠ dev % 4096 → (∀ q, q < 16 → (s.port q).st.isUp = false) →
      exec (.ident p dev enc cr) s = .next ((t.updFer (fun f => { f with devId := dev % 4096 })).newEpoch))
    ∧ (s.fer.devId ≠ dev % 4096 → (∃ q, q < 16 ∧ (s.port q).st.isUp = true) →
      exec (.ident p dev enc cr) s = .next (((s.setPort p { s.port p with st := .failed, since := s.gc }).record .ferIdMismatch
        { noRec with unit := 7, idx0 := p, idx1 := dev % 4096, extra0 := s.fer.devId }).record .ferPortFailed
          { noRec with unit := 7, idx0 := p, causeSeq := s.nextSeq })))
  ∧ (∀ (s t : State) (p : Nat), s.fatal = false → p < 16 → (s.port p).st = .training →
    ((s.port p).ident = true → s.gc ≤ (s.port p).since + 500000000 →
      t = s.setPort p { s.port p with st := if s.lowPower then .keepalive else .up, since := s.gc } →
      exec (.portTrainingEnd p true) s = .next (((t.updFer (fun f => { f with idValid := true })).ferPump).pumpPort p))
    ∧ exec (.portTrainingEnd p false) s = .next (s.portFail p)
    ∧ ((s.port p).since + 500000000 < s.gc → exec (.portTrainingEnd p true) s = .next (s.portFail p)))
  ∧ (∀ (s : State) (p : Nat), s.fatal = false → (s.port p).st.isUp = true →
    exec (.ferLossOfLock p) s = .next (s.drawFree.2.portRetrain p (Config.freeNat s.drawFree.1 % 2 ^ 32)))
  ∧ (∀ (s : State) (p : Nat) (buf : List Flit), s.fatal = false → (s.port p).st = .retrain →
    buf = (s.port p).buf.zipIdx.map (fun (x : Flit × Nat) => { x.1 with fseq := x.2 }) →
    (s.gc ≤ (s.port p).since + 20000000 → exec (.portRetrainEnd p true) s = .next (((s.setPort p { (s.port p).fresh with
      st := if s.lowPower then .keepalive else .up, since := s.gc, buf := buf, nextTx := buf.length % 4096,
      asm := (s.port p).asm, held := (s.port p).held, owed := (s.port p).owed }).regAdd (rPortCtr p 0) buf.length).pumpPort p))
    ∧ exec (.portRetrainEnd p false) s = .next (s.portFail p)
    ∧ ((s.port p).since + 20000000 < s.gc → exec (.portRetrainEnd p true) s = .next (s.portFail p)))
  ∧ (∀ (s : State) (p : Nat), s.fatal = false → (s.port p).st = .replay → (s.port p).since + 64000 ≤ s.gc →
    exec (.replayBudgetExpire p) s = .next (s.portRetrain p 0))
  ∧ (∀ (s : State) (p : Nat), s.fatal = false → (s.port p).st.isUp = true → ((s.port p).st = .replay ∨ (s.port p).nak = true) →
    50000000 < ((s.port p).spans.map (spanTicks s.gc)).sum → exec (.replayTimeRetrain p) s = .next (s.portRetrain p 1))
  ∧ (∀ (s t : State) (p : Nat) (f : Flit), s.fatal = false → p < 16 → (s.port p).st.isUp = true →
    t = (s.regAdd (rPortCtr p 2) f.corr).regAdd (rPortCtr p 3) f.uncorr →
    (flitGood f = false → exec (.dataFlit p f) s = .next ((t.setPort p { t.port p with nak := true }).regAdd (rPortCtr p 4) 1))
    ∧ (flitGood f = true → (f.ftype ≠ 1 ∨ ((t.flitLink p f).port p).st.isUp = false) →
      exec (.dataFlit p f) s = .next (((t.flitLink p f).pumpPort p).ferPump)))
  ∧ (∀ (s u : State) (p : Nat) (f : Flit), s.fatal = false → p < 16 → (s.port p).st.isUp = true → flitGood f = true → f.ftype = 1 →
    u = (((s.regAdd (rPortCtr p 2) f.corr).regAdd (rPortCtr p 3) f.uncorr).flitLink p f) → (u.port p).st.isUp = true →
    (f.fseq ≠ ((u.port p).rxSeq + 1) % 4096 → exec (.dataFlit p f) s =
      .next ((((u.setPort p { u.port p with nak := true }).regAdd (rPortCtr p 4) 1).pumpPort p).ferPump))
    ∧ (∀ (ms : List FMsg) (rest : List Byte), f.fseq = ((u.port p).rxSeq + 1) % 4096 →
      extractMsgs 16 (Tab.get [] (u.port p).asm f.tc ++ f.payload) = (ms, rest) →
      exec (.dataFlit p f) s = .next ((((((u.setPort p { u.port p with
        rxSeq := f.fseq, nak := false, asm := Tab.put [] (u.port p).asm f.tc rest,
        held := Tab.put 0 (u.port p).held f.tc (Tab.get 0 (u.port p).held f.tc + 1) }).regAdd (rPortCtr p 1) 1).updFer (fun r =>
          { r with rx := r.rx ++ ms.map (fun m => ({ port := p, m := m, since := u.gc } : RxMsg)) })).pumpPort p).ferPump))))

/-- A message in its window is performed, marked and acknowledged. PUT writes its bytes where the tenant's slices serve it, adds one to the
signal it names once every lower message is performed, and is refused where its bytes are not mapped; GET answers the bytes; GET_RESP goes
to the GET it answers, and does nothing where none waits; ATOMIC, first in its stream, writes its result and answers the old value, and
ATOMIC_RESP frees its slot; SIGNAL operates at the home; QMSG joins a cell's queue; a collective fragment is combined, a GRANT kept. SIGNAL,
ATOMIC and QMSG that are not first in their stream wait (R445, R446, R448, R450, R461, R466, R467). -/
def Obligations.FerierMessagesPerformed : Prop :=
  ∀ (s u : State) (p : Nat) (m : FMsg) (c : RxCtx), s.msgAt p m c u →
    (∀ (a n : Nat) (v : State), m.kind = kPut → a = u.rxTva c c.m.addr → c.m.addr % 16 = 0 → 16 ≤ c.m.len → bit (c.m.w 6) 31 = false →
      c.m.w 7 = 0 → c.m.fdom ≠ 0 → c.again = false → n = u.rxSig c (bits (c.m.w 6) 29 16) → v = u.tvaStore c.t a c.m.data →
      (bit (c.m.w 6) 30 = false → u.tvaCheck c.t a c.m.len true = .ok → u.tvaServed c.t a c.m.len = true →
        exec (.put p m) s = .next (v.msgDone p c.t m))
      ∧ (bit (c.m.w 6) 30 = true → u.fnSignal c.t n = true → n < 16384 → u.tvaCheck c.t a c.m.len true = .ok →
        u.tvaServed c.t a c.m.len = true → c.first = true →
        exec (.put p m) s = .next ((v.hubSignal .add n 1 c.t .engine { node := hubN, unit := 0xF, tag := 0 }).msgDone p c.t m))
      ∧ (bit (c.m.w 6) 30 = false → u.tvaCheck c.t a c.m.len true ≠ .ok → exec (.put p m) s = .next (u.msgRefused p nUnmapped m)))
    ∧ (∀ a n : Nat, m.kind = kGet → a = u.rxTva c c.m.addr → n = leAt c.m.data 0 4 → c.m.len = 16 → 16 ≤ n → n ≤ 16384 → n % 16 = 0 →
      bits (c.m.w 6) 31 16 = 0 → zeros (c.m.data.drop 8) = true → u.ferRoom c.m.src = true → u.tvaCheck c.t a n false = .ok →
      u.tvaServed c.t a n = true →
      exec (.get p m) s = .next (((u.tvaTouch c.t a n).ferSend c.al .none c.t kGetResp c.m.tc c.m.src 0 0 (c.m.w 7)
        (u.tvaBytes c.t a n)).msgDone p c.t m))
    ∧ (m.kind = kGetResp → u.fer.gets.find? (fun g => g.tag == c.m.w 7 && g.dst == c.m.src) = none →
      exec (.getResp p m) s = .next (u.msgDone p c.t m))
    ∧ (∀ (g : GetReq) (v : State), m.kind = kGetResp → u.fer.gets.find? (fun g => g.tag == c.m.w 7 && g.dst == c.m.src) = some g →
      v = u.updFer (fun f => { f with gets := f.gets.erase g }) →
      (∀ gal off, g.use = .mcast gal off → bits (c.m.w 5) 7 0 = 0 →
        exec (.getResp p m) s = .next ((v.mcastReply gal off (some c.m.data)).msgDone p c.t m))
      ∧ (∀ a, g.use = .mirror a → bits (c.m.w 5) 7 0 = 0 → v.tvaCheck v.tether.tenant a c.m.len true = .ok →
        exec (.getResp p m) s = .next (((v.tvaStore v.tether.tenant a c.m.data).resyncCheck).msgDone p c.t m)))
    ∧ (∀ (a : Nat) (old : List Byte) (x : AtomSlot) (new : Nat), m.kind = kAtomic → a = u.rxTva c c.m.addr → c.m.len = 16 → c.m.addr % 8 = 0 →
      bits (c.m.w 6) 19 16 < 4 → bits (c.m.w 6) 31 20 = 0 → bits (c.m.w 7) 31 4 = 0 → c.first = true → u.tvaCheck c.t a 8 true = .ok →
      u.tvaCheck c.t a 8 false = .ok → u.ferRoom c.m.src = true → u.tvaServed c.t a 8 = true → old = u.tvaBytes c.t a 8 →
      x = { seq := c.m.seq, old := old } → new = atomicOp (bits (c.m.w 6) 19 16) (leNat old) (leAt c.m.data 0 8) (leAt c.m.data 8 8) →
      exec (.atomic p m) s = .next (((((u.tvaTouch c.t a 8).tvaStore c.t a (leBytes 8 new)).updFer (fun f =>
        { f with atoms := Tab.put none f.atoms (16 * c.m.src + bits (c.m.w 7) 3 0) (some x) })).atomicReply c.m x).msgDone p c.t m))
    ∧ (m.kind = kAtomicResp → exec (.atomicResp p m) s = .next ((u.updFer (fun f =>
        { f with atomBusy := Tab.put false f.atomBusy (16 * c.m.src + bits (c.m.w 7) 3 0) false })).msgDone p c.t m))
    ∧ (∀ n, m.kind = kSignal → c.m.len = 0 → n = u.rxSig c (bits (c.m.w 5) 13 0) → bits (c.m.w 5) 17 16 < 2 → bits (c.m.w 5) 31 18 = 0 →
      bits (c.m.w 5) 15 14 = 0 → c.m.w 7 = 0 → u.fnSignal c.t n = true → n < 16384 → c.first = true →
      exec (.signal p m) s = .next ((u.hubSignal (if bits (c.m.w 5) 17 16 = 0 then .set else .add) n (c.m.w 6) c.t .engine
        { node := hubN, unit := 0xF, tag := 0 }).msgDone p c.t m))
    ∧ (∀ (n : Nat) (l : MsgLogic), m.kind = kQmsg → c.m.len = 32 → c.m.w 5 = n → n < 4096 → c.m.w 6 = 0 → c.m.w 7 = 0 → c.al = false →
      c.first = true → u.goodCell n = true → (u.cell n).owner ≠ 0 → (u.cell n).owner ≠ fenceTag → (c.t = 0 ∨ c.t = (u.cell n).owner) →
      (u.cell n).msg = some l → (l.inbox.filter (fun e => !e.2.2)).length + u.reserved n < 16 →
      exec (.qmsg p m) s = .next ((u.msgAccept n l { src := if c.port < 8 then hubN else hubS, dst := n, tenant := c.t, cls := .engine,
                                                     share := u.shareOf c.t, tag := 0, body := .msg 0 false c.m.src true ((c.m.data.drop 4).take 28) }
        0 false c.m.src true ((c.m.data.drop 4).take 28)).msgDone p c.t m))
    ∧ (∀ r, s.rxEntry p m = some r → c.first = false →
      ((m.kind = kSignal ∧ c.m.len = 0 ∧ bits (c.m.w 5) 17 16 < 2 ∧ bits (c.m.w 5) 31 18 = 0 ∧ bits (c.m.w 5) 15 14 = 0 ∧ c.m.w 7 = 0
        ∧ u.fnSignal c.t (u.rxSig c (bits (c.m.w 5) 13 0)) = true ∧ u.rxSig c (bits (c.m.w 5) 13 0) < 16384) →
        exec (.signal p m) s = .next (u.updFer (fun f => { f with rx := f.rx ++ [{ r with held := true, tried := true }] })))
      ∧ ((m.kind = kAtomic ∧ c.m.len = 16 ∧ c.m.addr % 8 = 0 ∧ bits (c.m.w 6) 19 16 < 4 ∧ bits (c.m.w 6) 31 20 = 0 ∧ bits (c.m.w 7) 31 4 = 0) →
        exec (.atomic p m) s = .next (u.updFer (fun f => { f with rx := f.rx ++ [{ r with held := true, tried := true }] })))
      ∧ ((m.kind = kQmsg ∧ c.m.len = 32 ∧ c.m.w 5 < 4096 ∧ c.m.w 6 = 0 ∧ c.m.w 7 = 0 ∧ c.al = false) →
        exec (.qmsg p m) s = .next (u.updFer (fun f => { f with rx := f.rx ++ [{ r with held := true, tried := true }] }))))
    ∧ (∀ (g e peer : Nat) (cm : EngCmd) (k : CollSt) (v : State), m.kind = kColl → u.grpOf (bits (c.m.w 5) 15 0) = some g →
      u.collOn g = some (e, cm, k) → collAgrees cm k c.m = true → u.engTenant cm = c.t → u.devRank g c.m.src = some peer →
      Tab.get 0 k.arrived peer < Tab.get 0 k.limitIn peer →
      collFragOk cm k peer (collPhase c.m) (bits (c.m.w 7) 11 0) (bits (c.m.w 7) 31 12) c.m.len = true → collPhase c.m = collPhase m →
      v = (u.regAdd (rEng e 1) 1).updColl e cm.id (fun x =>
        { x with arrived := Tab.put 0 x.arrived peer (Tab.get 0 k.arrived peer + 1), left := x.left - 1 }) →
      (∀ w, collPhase m = 0 → w = v.collReduce e cm k peer (bits (c.m.w 5) 28 28) (bits (c.m.w 7) 11 0) (bits (c.m.w 7) 31 12) c.m.data →
        exec (.collFragReduce p m) s = .next ((((w.collConsumed e cm.id peer).collPump e cm.id).collCheck e cm.id).msgDone p c.t m))
      ∧ (∀ w, collPhase m = 1 → w = v.collGather e cm k peer (bits (c.m.w 7) 11 0) (bits (c.m.w 7) 31 12) c.m.data →
        exec (.collFragGather p m) s = .next ((((w.collConsumed e cm.id peer).collPump e cm.id).collCheck e cm.id).msgDone p c.t m)))
    ∧ (∀ (g peer : Nat) (v : State), m.kind = kColl → collPhase m = 2 → u.grpOf (bits (c.m.w 5) 15 0) = some g →
      u.devRank g c.m.src = some peer → c.m.len = 0 → v = { u with grants := u.grants ++ [(g, c.m.w 6, peer, bits (c.m.w 7) 31 12)] } →
      (u.collOn g = none → exec (.collGrant p m) s = .next (v.msgDone p c.t m))
      ∧ (∀ (e : Nat) (cm : EngCmd) (k : CollSt), u.collOn g = some (e, cm, k) → (c.m.w 6 = k.no % 2 ^ 32 → collAgrees cm k c.m = true) →
        exec (.collGrant p m) s = .next (((v.collPump e cm.id).collCheck e cm.id).msgDone p c.t m)))

/-- ACK completes every outstanding message it covers (R446). NAK makes a BUSY one wait and go out again, its eighth time recorded and final
outside domain 0, a QUEUE_FULL one wait, its fifth time dropped, and ends one of another reason (R448). An unanswered message is sent again
250 µs after it left, in domain 0 without end, and is LINK_FAILED after eight times elsewhere (R446); a backoff that is over sends it
again, and a message whose job has gone is abandoned (R448, R647). A message that lay 16 µs in the buffer is refused BUSY (R448). FDOM_WRITE
binds a tenant to a domain, but not to one that another tenant has (R442); GRP_COMMIT makes a good group valid and records a bad one,
GRP_CLEAR invalid, and neither touches a group in use (R459, R694). -/
def Obligations.FerierRetriesAndSettings : Prop :=
  (∀ (s t : State) (p : Nat) (m : FMsg), s.fatal = false → s.ferOpen p = true → m.kind = kAck → s.ferMine m = true → t = s.takeRx p m →
    exec (.ack p m) s = .next (t.ferClose (fun o => o.alias_ == t.refAlias m && o.m.dst == m.src && o.m.tc == m.stc
      && o.m.epoch == bits (m.w 5) 15 0
      && (decide (o.m.seq < m.seq) || (decide (m.seq < o.m.seq) && bit (m.w 7) (o.m.seq - m.seq - 1) && decide (o.m.seq ≤ m.seq + 32)))) none))
  ∧ (∀ (s t : State) (p r : Nat) (m : FMsg) (hit : OutMsg → Bool) (o : OutMsg), s.fatal = false → s.ferOpen p = true → m.kind = kNak →
    s.ferMine m = true → t = (s.takeRx p m).regAdd (rFerCtr 3) 1 → r = bits (m.w 5) 3 0 →
    hit = (fun (o : OutMsg) => sameMsg (t.refAlias m) m.src m.stc m.seq o && o.m.epoch == bits (m.w 5) 31 16) → t.fer.out.find? hit = some o →
    (r = nBusy → (o.naks < 7 ∨ o.m.fdom = 0) → exec (.nak p m) s = .next (t.updOut hit (fun o =>
      { o with naks := o.naks + 1, full := false, due := some (t.gc + 1000 * min 1024 (8 * 2 ^ o.naks)) })))
    ∧ (∀ j, r = nBusy → 7 ≤ o.naks → o.m.fdom ≠ 0 → j = t.ownerJob o.owner → exec (.nak p m) s = .next ((t.record .ferRefused
      { noRec with unit := 7, tenant := o.tenant, idx0 := o.m.dst, idx1 := o.m.tc, addr := o.m.seq, code := r, job := j,
                   status := if j.isSome then Status.nakExhausted.code else 0 } j.isSome).ferClose hit (some .nakExhausted)))
    ∧ (r = nFull → o.fulls < 4 → exec (.nak p m) s = .next (t.updOut hit (fun o =>
      { o with fulls := o.fulls + 1, full := true, due := some (t.gc + 2000) })))
    ∧ (r = nFull → 4 ≤ o.fulls → exec (.nak p m) s = .next (t.ferClose hit none))
    ∧ (r ≠ nBusy → r ≠ nFull → exec (.nak p m) s = .next (t.ferClose hit (some (nakStatus r)))))
  ∧ (∀ (s : State) (al : Bool) (dst tc seq : Nat) (o : OutMsg), s.fatal = false → s.fer.out.find? (sameMsg al dst tc seq) = some o →
    s.lowPower = false →
    ((∀ q, o.port = some q → (s.port q).st ≠ .replay ∧ (s.port q).st ≠ .retrain) → o.due = none → o.sentGc + 250000 ≤ s.gc → s.ferOrphan o = false →
      ((o.retx < 8 ∨ (o.m.fdom = 0 ∧ o.retx ≠ 8)) →
        exec (.retransmitTimeout al dst tc seq) s = .next ((s.resend { o with retx := o.retx + 1 }).regAdd (rFerCtr 0) 1))
      ∧ (∀ (j : Option Nat) (u : State), o.retx = 8 → (∀ b, o.owner ≠ .gate b) → j = s.ownerJob o.owner → u = s.record .ferUnreachable
        { noRec with unit := 7, idx0 := dst, job := j, tenant := o.tenant, status := if j.isSome then Status.linkFailed.code else 0 } j.isSome →
        (o.m.fdom = 0 → exec (.retransmitTimeout al dst tc seq) s = .next ((u.resend { o with retx := 9 }).regAdd (rFerCtr 0) 1))
        ∧ (o.m.fdom ≠ 0 → exec (.retransmitTimeout al dst tc seq) s = .next (u.ferClose (sameMsg al dst tc seq) (some .linkFailed)))))
    ∧ (∀ t, o.due = some t → t ≤ s.gc →
      (o.full = false → s.ferOrphan o = false → exec (.busyRetry al dst tc seq) s = .next (s.resend o))
      ∧ (o.full = true → s.ferOrphan o = false → exec (.queueFullRetry al dst tc seq) s = .next (s.resend o))
      ∧ (o.full = false → s.ferOrphan o = true → exec (.busyRetry al dst tc seq) s = .next
        (s.updFer (fun f => { f with out := f.out.filter (fun x => !sameMsg al dst tc seq x) })))))
  ∧ (∀ (s : State) (p : Nat) (m : FMsg) (r : RxMsg), s.fatal = false → s.fer.rx.find? (fun r => r.port == p && r.m == m) = some r →
    r.since + 16000 ≤ s.gc → seqKind m.kind = true → (s.refAlias m = false ∨ s.tether.st ≠ .catchingUp) →
    exec (.rxBufferTimeout p m) s = .next ((s.updFer (fun f => { f with rx := f.rx.erase r })).msgRefused p nBusy m))
  ∧ (∀ (s : State) (t d : Nat), s.fatal = false → 1 ≤ t → t ≤ 16 → s.bar 3 = true → d < 65536 →
    ((d = 0 ∨ ∀ k, 1 ≤ k → k ≤ 16 → k ≠ t → s.reg (rFdom k) ≠ d) → exec (.fdomWrite t d) s = .next (s.setReg (rFdom t) d))
    ∧ (∀ k, 1 ≤ k → k ≤ 16 → k ≠ t → d ≠ 0 → s.reg (rFdom k) = d → exec (.fdomWrite t d) s = .next (s.setReg rFerStatus 1)))
  ∧ (∀ (s t : State) (i : Nat) (h : HostIn) (tbl : List Nat), s.fatal = false → i < 64 → s.bar 3 = true → s.grpUsed i = false →
    t = s.hostStores 0 h → tbl = (List.range (t.grpSize i)).map (fun r => leNat (t.hostRead 0 (t.reg (rGrp i 0x10) + 2 * r) 2)) →
    (∀ u : State, h.fail = false → 1 ≤ t.grpSize i → t.grpSize i ≤ 4096 → t.grpRank i < t.grpSize i → t.grpField i 4 20 16 ≤ 16 →
      t.reg (rGrp i 0x10) % 64 = 0 → tbl[t.grpRank i]? = some t.fer.devId → tbl.Nodup →
      (∀ j, j < 64 → j ≠ i → t.grpValid j = true → t.grpField j 4 15 0 ≠ t.grpField i 4 15 0) →
      u = ((t.acctHost 0 (2 * t.grpSize i)).setField (rGrp i 0) 0 0 1).setReg (rGrp i 0x18) 0 →
      exec (.grpCommit i h) s = .next { u with groups := Tab.put [] u.groups i tbl, grants := u.grants.filter (fun g => g.1 != i) })
    ∧ (∀ u : State, (h.fail = true ∨ t.grpSize i = 0 ∨ t.grpSize i ≤ t.grpRank i ∨ 16 < t.grpField i 4 20 16 ∨ t.reg (rGrp i 0x10) % 64 ≠ 0
        ∨ tbl[t.grpRank i]? ≠ some t.fer.devId) →
      u = (t.acctHost 0 (2 * t.grpSize i)).setField (rGrp i 0) 0 0 0 →
      exec (.grpCommit i h) s = .next (State.record { u with groups := Tab.put [] u.groups i [] } .collGroupReject
        { noRec with unit := 7, tenant := u.grpField i 4 20 16, idx0 := t.grpField i 4 15 0, idx1 := i })))
  ∧ (∀ (s : State) (i : Nat), s.fatal = false → i < 64 → s.bar 3 = true →
    (s.grpUsed i = false → exec (.grpClear i) s =
      .next { (s.setField (rGrp i 0) 0 0 0) with groups := Tab.put [] s.groups i [], grants := s.grants.filter (fun g => g.1 != i) })
    ∧ (s.grpUsed i = true → exec (.grpClear i) s = .next (s.grpRefuse i) ∧ ∀ h, exec (.grpCommit i h) s = .next (s.grpRefuse i)))

/-! ### The host interface (ch. 18) -/

/-- CONSUME_ENTRY of an ACTIVE ring that holds an entry, with the conditions of R504 met, takes the 64 bytes at sq_head, those of a cached
line where the ring has one, else of host memory, which in SNOOP mode are cached then; a failed read puts the ring in ERROR (R488, R490,
R504, R515). sq_head advances by one and a completion is owed; an entry whose tag is not in the window joins it and is kept for execution;
one whose tag is there is a duplicate: it is answered as the first was, or with it when that one completes (R504, R518, R520). -/
def Obligations.EntriesAreConsumed : Prop :=
  (∀ (s t : State) (fn k a : Nat) (h : HostIn) (bs : List Byte), s.fatal = false → k < 8 → s.fnExists fn = true → (s.ring fn k).st = .active →
    (s.ring fn k).sqHead ≠ (s.ring fn k).dbTail → t = s.hostStores fn h →
    a = (s.ring fn k).sqBase + 64 * ((s.ring fn k).sqHead % 2 ^ (s.ring fn k).sqLog2) → bs = t.entryBytes fn k →
    ((h.fail = false ∨ t.line? fn k .sq a ≠ none) → t.mayConsume fn k (byteAt bs 0) = true →
      ((s.ring fn k).mode ≠ 2 ∨ t.line? fn k .sq a ≠ none → exec (.consumeEntry fn k h) s = .next ((t.atsTouch fn a).consume fn k bs))
      ∧ ((s.ring fn k).mode = 2 → t.line? fn k .sq a = none →
        exec (.consumeEntry fn k h) s =
          .next (((t.addLine { fn := fn, ring := k, addr := a, kind := .sq, data := bs }).atsTouch fn a).consume fn k bs)))
    ∧ (h.fail = true → t.line? fn k .sq a = none → exec (.consumeEntry fn k h) s = .next (t.ringError fn k errReadFail)))
  ∧ (∀ (s : State) (fn k : Nat) (bs : List Byte) (r : Ring) (op tag : Nat), k < 8 → r = s.ring fn k → op = (words bs).getD 0 0 % 256 →
    tag = (words bs).getD 1 0 →
    (∀ w : WinEntry, 1 ≤ op → op ≤ 15 → r.window.reverse.find? (fun e => e.tag == tag) = none →
      w = { tag := tag, id := s.cmdCtr, job := jobOp op, dup := false, done := none } →
      ∃ c : Cmd, c.id = s.cmdCtr ∧ c.fn = fn ∧ c.ring = k ∧ c.tag = tag ∧ c.op = op ∧ c.words = words bs ∧ c.gcIn = s.gc ∧ c.st = .fresh
        ∧ ((words bs).getD 4 0 ≠ 0 → (words bs).getD 4 0 ≠ 0xFFFFFFFF → c.expires = some (s.gc + 1000000 * (words bs).getD 4 0))
        ∧ (s.consume fn k bs).cmds = s.cmds ++ [c] ∧ (s.consume fn k bs).cmdCtr = s.cmdCtr + 1
        ∧ (s.consume fn k bs).rings = Tab.put ({} : Ring) s.rings (8 * fn + k)
          (Ring.remember { r with sqHead := (r.sqHead + 1) % 2 ^ 32, owed := r.owed + 1 } w))
    ∧ (∀ (e : WinEntry) (t : State), r.window.reverse.find? (fun e => e.tag == tag) = some e →
      t = ((((s.regAdd (rRingCtr fn k 0) 1).acctHost fn 64).setRing fn k
        (Ring.remember { r with sqHead := (r.sqHead + 1) % 2 ^ 32, owed := r.owed + 1 } { e with dup := true })).regAdd (rRingCtr fn k 1) 1) →
      (∀ x, e.done = some x → s.consume fn k bs = t.postCompl fn k x true)
      ∧ (e.done = none → s.consume fn k bs = { t with cmds := t.cmds.map (fun x => if x.id = e.id then { x with dups := x.dups + 1 } else x) })))

/-- Counts not older than those held, that overrun neither queue, are taken (R512). A BAR2 write of 8 bytes gives an ACTIVE ring both counts,
one of 4 bytes its own; other writes of BAR2 are discarded (R9, R492, R513). A poll whose interval has passed, and a snoop of the doorbell
line, read both, or put the ring in ERROR where the read fails (R488, R514, R515). A completion line that is evicted waits in the
write-back buffer with its bytes; a host snoop gets the bytes and the device gives the line up, or, during its eviction, serves them from the
buffer; GO_WritePull writes them to host memory, GO_WritePull_Drop does not; a snooped submission line is invalidated (R515 to R517). -/
def Obligations.DoorbellsAndHostLines : Prop :=
  ((∀ (s : State) (fn k t hd : Nat), diff32 t (s.ring fn k).dbTail < 2 ^ 31 → diff32 hd (s.ring fn k).dbHead < 2 ^ 31 →
    t < 2 ^ 32 → hd < 2 ^ 32 → diff32 t (s.ring fn k).sqHead ≤ 2 ^ (s.ring fn k).sqLog2 →
    diff32 (s.ring fn k).cqTail hd ≤ 2 ^ (s.ring fn k).cqLog2 →
    s.takeCounts fn k (some t) (some hd) = s.setRing fn k { s.ring fn k with dbTail := t, dbHead := hd })
  ∧ (∀ (s : State) (fn k v : Nat), s.fatal = false → k < 8 → s.fnExists fn = true →
    ((s.ring fn k).st = .active →
      exec (.doorbellWrite fn (0x1000 * k) 8 v) s = .next (s.takeCounts fn k (some (v % 2 ^ 32)) (some (v / 2 ^ 32 % 2 ^ 32)))
      ∧ exec (.doorbellWrite fn (0x1000 * k) 4 v) s = .next (s.takeCounts fn k (some (v % 2 ^ 32)) none)
      ∧ exec (.doorbellWrite fn (0x1000 * k + 4) 4 v) s = .next (s.takeCounts fn k none (some (v % 2 ^ 32))))
    ∧ (∀ off n, (n ≠ 4 ∧ n ≠ 8 ∨ off % n ≠ 0 ∨ 8 ≤ off % 0x1000 ∨ 0x8000 ≤ off ∨ (s.ring fn (off / 0x1000)).st ≠ .active) →
      exec (.doorbellWrite fn off n v) s = .next s))
  ∧ (∀ (s t : State) (fn k : Nat) (h : HostIn), s.fatal = false → k < 8 → s.fnExists fn = true → (s.ring fn k).st = .active →
    ((s.ring fn k).mode = 1 → (s.ring fn k).pollGc ≤ s.gc →
      t = ((s.setRing fn k { s.ring fn k with pollGc := s.gc + 100 * (s.ring fn k).poll }).regAdd (rHif fn 1) 1).hostStores fn h →
      (h.fail = true → exec (.doorbellPoll fn k h) s = .next (t.ringError fn k errReadFail))
      ∧ (h.fail = false → exec (.doorbellPoll fn k h) s = .next (((t.acctHost fn 8).atsTouch fn (t.ring fn k).dbAddr).takeCounts fn k
        (some (leAt (t.hostRead fn (t.ring fn k).dbAddr 8) 0 4)) (some (leAt (t.hostRead fn (t.ring fn k).dbAddr 8) 4 4)))))
    ∧ ((s.ring fn k).mode = 2 → t = (s.regAdd (rHif fn 0) 1).hostStores fn h →
      (h.fail = true → exec (.doorbellSnoop fn k h) s = .next (t.ringError fn k errReadFail))
      ∧ (h.fail = false → exec (.doorbellSnoop fn k h) s = .next (((t.acctHost fn 8).atsTouch fn (t.ring fn k).dbAddr).takeCounts fn k
        (some (leAt (t.hostRead fn (t.ring fn k).dbAddr 8) 0 4)) (some (leAt (t.hostRead fn (t.ring fn k).dbAddr 8) 4 4)))))))
  ∧ (∀ (s : State) (fn k a : Nat) (l : HostLine), s.fatal = false → k < 8 →
    (s.line? fn k .cq a = some l → l.evict = false →
      exec (.cqLineEvict fn k a) s = .next { s with lines := s.lines.erase l ++ [{ l with evict := true }] }
      ∧ ∀ inv, exec (.cqLineSnoop fn k a inv) s = .next ((s.hostWrite fn l.addr l.data).dropLine l))
    ∧ (s.line? fn k .cq a = some l → l.evict = true →
      (∀ inv, exec (.cqLineSnoop fn k a inv) s = .next
        (State.regAdd { s.hostWrite fn l.addr l.data with lines := s.lines.erase l ++ [{ l with given := true }] } (rHif fn 2) 1))
      ∧ exec (.evictResponse fn k a false) s = .next (((s.dropLine l).hostWrite fn l.addr l.data).flushWait fn k)
      ∧ exec (.evictResponse fn k a true) s = .next ((s.dropLine l).flushWait fn k))
    ∧ (s.line? fn k .sq a = some l → exec (.sqLineSnoop fn k a) s = .next (s.dropLine l)))

/-- RING_ENABLE of a DISABLED ring with good registers makes it ACTIVE with its counts 0 and its window empty, its doorbell line pinned in
SNOOP mode, else puts it in ERROR with CONFIG (R498, R500, R515); on a ring that is not DISABLED only irq_en is taken. RING_DISABLE makes an
ACTIVE or ERROR ring DRAINING and releases its lines; RING_DRAIN_END makes it DISABLED once nothing is owed (R490, R499); IRQ_DELAY_EXPIRE
raises the ring's vector (R526); MSIX_UNMASK sends a pending vector's message (R526). -/
def Obligations.RingsAndTheirInterrupts : Prop :=
  (∀ (s t : State) (fn k ctl : Nat) (r : Ring), k < 8 → s.fnExists fn = true → s.bar 3 = true → bit ctl 0 = true →
    ((s.ring fn k).st = .disabled → r = { s.ring fn k with ctl := ctl % 16 } →
      (s.mayEnable fn r = true → t = s.setRing fn k
        { r with st := .active, err := 0, sqHead := 0, cqTail := 0, dbTail := 0, dbHead := 0, window := [], irqN := 0,
                 pollGc := s.gc + 100 * r.poll } →
        (r.mode ≠ 2 → exec (.ringEnable fn k ctl) s = .next t)
        ∧ (r.mode = 2 → exec (.ringEnable fn k ctl) s = .next (t.addLine { fn := fn, ring := k, addr := r.dbAddr, kind := .db, data := [] })))
      ∧ (s.mayEnable fn r = false → exec (.ringEnable fn k ctl) s = .next ((s.setRing fn k r).ringError fn k errConfig)))
    ∧ ((s.ring fn k).st ≠ .disabled →
      exec (.ringEnable fn k ctl) s = .next (s.setRing fn k { s.ring fn k with ctl := setBit (s.ring fn k).ctl 3 (bit ctl 3) })))
  ∧ (∀ (s : State) (fn k : Nat), k < 8 → s.fnExists fn = true → s.bar 3 = true → ((s.ring fn k).st = .active ∨ (s.ring fn k).st = .error) →
    exec (.ringDisable fn k) s = .next (((s.setRing fn k
      { s.ring fn k with ctl := setBit (s.ring fn k).ctl 0 false, st := .draining }).releaseLines fn k).flushWait fn k))
  ∧ (∀ (s : State) (fn k : Nat), s.fatal = false → k < 8 → (s.ring fn k).st = .draining → (s.ring fn k).owed = 0 →
    exec (.ringDrainEnd fn k) s = .next ((s.setRing fn k { s.ring fn k with st := .disabled }).releaseLines fn k))
  ∧ (∀ (s : State) (fn k : Nat), s.fatal = false → k < 8 → (s.ring fn k).irqEn = true → 0 < (s.ring fn k).irqN →
    (s.ring fn k).irqGc + 1000 * bits (s.ring fn k).irq 25 16 ≤ s.gc →
    exec (.irqDelayExpire fn k) s = .next ((s.setRing fn k { s.ring fn k with irqN := 0 }).raise fn k))
  ∧ (∀ (s t : State) (fn v : Nat), v < 9 → s.fnExists fn = true → s.bar 3 = true →
    t = s.setReg (rMsix fn v + 12) (setBit (s.reg (rMsix fn v + 12)) 0 false) →
    exec (.msixUnmask fn v) s = .next (if bit (t.reg (rPba fn)) v && (t.fnCfg fn).msix then
      (t.setReg (rPba fn) (setBit (t.reg (rPba fn)) v false)).msiSend fn v else t))

/-- VF_FLR and VF_ENABLE of a VF that vanishes reset the rings, entries, jobs and reservations of their functions (R485, R527);
D3HOT_TRANSITION needs every ring DISABLED (R485); ATS_INVALIDATE takes the named pages out of the function's cache; PCIE_LINK_RETRAIN below
64 GT/s leaves only the PF, at 64 GT/s changes LINK_INFO alone, and a link that goes down loses its IDE keys (R486, R489, R587);
FEAT_COMMIT commits an offered set whose dependencies hold, else sets its refused bit, and does nothing once committed (R495, R496). -/
def Obligations.FunctionsLinkAndFeatures : Prop :=
  (∀ (s : State) (fn : Nat), 1 ≤ fn → s.fnExists fn = true → exec (.vfFlr fn) s = .next (s.resetFn fn))
  ∧ (∀ s : State, s.pfOnly = false → s.stage ≠ 0 → exec (.vfEnable true) s = .next { s with vfEn := true })
  ∧ (∀ s : State, exec (.vfEnable false) s = .next { (List.range 17).tail.foldl State.resetFn s with vfEn := false })
  ∧ (∀ (s : State) (fn : Nat), s.fnExists fn = true → (∀ k, k < 8 → (s.ring fn k).st = .disabled) →
    exec (.d3hotTransition fn true) s = .next (s.setFnCfg fn { s.fnCfg fn with d3 := true }))
  ∧ (∀ (s : State) (fn : Nat), s.fnExists fn = true → exec (.d3hotTransition fn false) s = .next (s.setFnCfg fn { s.fnCfg fn with d3 := false }))
  ∧ (∀ (s : State) (fn k : Nat), k < 8 → (s.ring fn k).st ≠ .disabled → exec (.d3hotTransition fn true) s = .next s)
  ∧ (∀ (s : State) (fn : Nat) (ps : List Nat), exec (.atsInvalidate fn ps) s =
    .next (s.setFnCfg fn { s.fnCfg fn with atc := (s.fnCfg fn).atc.filter (fun p => !ps.contains p) }))
  ∧ (∀ (s : State) (rate width : Nat) (cxl : Bool), 1 ≤ rate → rate < 3 → width ∈ [4, 8, 16] → ∃ v, bits v 1 0 = rate ∧ bits v 8 4 = width
    ∧ bit v 9 = false ∧ bit v 10 = false
    ∧ exec (.pcieLinkRetrain rate width cxl) s =
      .next { (List.range 17).tail.foldl State.resetFn (s.setReg rLinkInfo v) with vfEn := false, pfOnly := true })
  ∧ (∀ (s : State) (width : Nat) (cxl : Bool), width ∈ [4, 8, 16] →
    (∃ v, bits v 1 0 = 3 ∧ bits v 8 4 = width ∧ exec (.pcieLinkRetrain 3 width cxl) s = .next (s.setReg rLinkInfo v))
    ∧ exec (.pcieLinkRetrain 0 width cxl) s = .next (s.setReg rLinkInfo 0).ideOff)
  ∧ (∀ (s : State) (value : Nat), bit value 0 = true → s.bar 3 = true → s.stage = 3 → bit (s.reg rFeatStatus) 0 = false →
    ((s.reg rFeatAccept &&& s.reg rFeatOffered) = s.reg rFeatAccept → featDeps (s.reg rFeatAccept) = true →
      ∃ t : State, t = { s.setReg rFeatStatus (setBit (s.reg rFeatStatus) 0 true) with feat := s.reg rFeatAccept }
        ∧ exec (.featCommit value) s = .next (t.extend 9 (leBytes 16 (s.reg rFeatAccept) ++ leBytes 8 t.fingerprint)))
    ∧ (¬ ((s.reg rFeatAccept &&& s.reg rFeatOffered) = s.reg rFeatAccept ∧ featDeps (s.reg rFeatAccept) = true) →
      exec (.featCommit value) s = .next (s.setReg rFeatStatus (setBit (s.reg rFeatStatus) 1 true))))
  ∧ (∀ (s : State) (value : Nat), bit (s.reg rFeatStatus) 0 = true → exec (.featCommit value) s = .next s)

/-- SIGNAL_SET, SIGNAL_ADD and SIGNAL_WAIT act at the home with the function's tenant; the first two complete at once, the WAIT stays
outstanding, a satisfied or abandoned wake completing it; a signal outside the function's range is refused with detail FUNCTION (R491, R510,
R522). FENCE completes once it alone is owed on its ring and, with scope 1, no earlier entry of its function is outstanding (R523).
RESERVE_BW_SET sets or replaces a reservation that the tenant's bw_max, the module (14.0 TB/s) and every stack whose sum it raises (1,750
GB/s and what degradation has left) can hold, and refuses any other with REFUSED_QUOTA, changing no reservation; RESERVE_BW_RELEASE takes it
away and recomputes BW_FACTOR (R395 to R397). -/
def Obligations.SignalEntriesFencesAndReservations : Prop :=
  ((∀ (s t : State) (fn k : Nat) (c : Cmd), s.entryAt fn k 6 c → t = s.hubSignal .set (c.w 8) (c.w 9) c.fn .host c.issuer →
    exec (.signalSet fn k) s = .next (if s.fnSignal c.fn (c.w 8) then t.finish c .ok 0 else t.bad c detFunction))
  ∧ (∀ (s t : State) (fn k : Nat) (c : Cmd), s.entryAt fn k 7 c → t = s.hubSignal .add (c.w 8) (c.w 9) c.fn .host c.issuer →
    exec (.signalAdd fn k) s = .next (if s.fnSignal c.fn (c.w 8) then t.finish c .ok 0 else t.bad c detFunction))
  ∧ (∀ (s t : State) (fn k : Nat) (c : Cmd), s.entryAt fn k 8 c → t = (s.running c).hubSignal .wait (c.w 8) (c.w 9) c.fn .host c.issuer →
    exec (.signalWait fn k) s = .next (if s.fnSignal c.fn (c.w 8) then t else t.bad c detFunction))
  ∧ (∀ (s t : State) (fn k : Nat) (c : Cmd), s.entryAt fn k 9 c → t = s.running c →
    t.cmds.find? (fun c => c.fn == fn && c.ring == k && c.op == 9 && c.st == .running) = some { c with st := .running } →
    ((t.ring fn k).owed = 1 → (bit (c.w 8) 0 = false ∨ t.cmds.all (fun x => x.fn != fn || decide (c.id ≤ x.id)) = true) →
      exec (.fence fn k) s = .next (t.finish { c with st := .running } .ok 0))
    ∧ (((t.ring fn k).owed ≠ 1 ∨ (bit (c.w 8) 0 = true ∧ t.cmds.all (fun x => x.fn != fn || decide (c.id ≤ x.id)) = false)) →
      exec (.fence fn k) s = .next t))
  ∧ (∀ (s : State) (tag n : Nat) (c : Cmd), s.cmds.find? (fun c => c.op == 8 && c.st == .running && c.id % 65536 == tag) = some c →
    s.hostWake tag n .satisfied = s.finish c .ok n ∧ s.hostWake tag n .abandoned = s.finish c .abandoned n))
  ∧ ((∀ (s t : State) (fn k mine : Nat) (c : Cmd), s.entryAt fn k 0xC c → bit (c.w 8) 4 = false → c.reserveOk = true → s.feature 13 = true →
    t = s.withReserve { tenant := fn, id := bits (c.w 8) 3 0, mask := bits (c.w 8) 15 8, rate := c.w 9 } →
    mine = ((t.reserves.filter (fun r => r.tenant == fn)).map (fun (r : Reserve) => r.rate * ((List.range 8).filter (bit r.mask)).length)).sum →
    (((List.range 8).map t.rsvSum).sum ≤ 14000 → mine ≤ bits (s.reg (rTen fn 0x1C)) 13 0 →
      (∀ n, n < 8 → t.rsvSum n ≤ s.rsvSum n ∨ (t.rsvSum n ≤ 1750 ∧ 8 * t.rsvSum n ≤ t.stackCap n)) →
      exec (.reserveBwSet fn k) s = .next (t.finish c .ok 0))
    ∧ ((14000 < ((List.range 8).map t.rsvSum).sum ∨ bits (s.reg (rTen fn 0x1C)) 13 0 < mine
        ∨ ∃ n, n < 8 ∧ s.rsvSum n < t.rsvSum n ∧ (1750 < t.rsvSum n ∨ t.stackCap n < 8 * t.rsvSum n)) →
      exec (.reserveBwSet fn k) s = .next (s.finish c .refusedQuota 3)))
  ∧ (∀ (s : State) (fn k : Nat) (c : Cmd), s.entryAt fn k 0xC c → bit (c.w 8) 4 = true → c.reserveOk = true → s.feature 13 = true →
    exec (.reserveBwRelease fn k) s = .next ((State.bwRecompute
      { s with reserves := s.reserves.filter (fun r => !(r.tenant == fn && r.id == bits (c.w 8) 3 0)) } .release).finish c .ok 0)))

/-! ### Tenants, time and power (ch. 19, 20, 22) -/

/-- TENANT_CREATE makes an ABSENT tenant PRESENT with its counters zero and a new HBM key, unless a seal's checks would break (R530, R539);
TENANT_REMOVE of a PRESENT tenant whose rings are DISABLED performs R531 and leaves it ABSENT; both set the refused bit of a tenant in
another state. A signal range is taken where every signal that enters or leaves it is FREE and it overlaps no other tenant's, and refused
where it ends past 16,383 (R534, R686). SHARE_COMMIT, held while the last one is being taken, and SEAL_CTL take effect through their status
bits (R535, R539, R688); a billing period closes at its boundary (R550); an energy interval of 1 ms takes the energy measured (R546, R608). -/
def Obligations.TenantsSharesAndBilling : Prop :=
  (∀ (s : State) (n : Nat), 1 ≤ n → n ≤ 16 → s.bar 3 = true → bits (s.reg (rTenStatus n)) 1 0 = 0 → s.stage = 3 →
    bit (s.reg rFeatStatus) 0 = true →
    (s.sealed = false ∨ sealOk (n :: s.tenants) (fun u => if u = n then s.shareReg n else Tab.get 0 s.shareClass u) s.shareW = true) →
    ∃ t : State, exec (.tenantCreate n) s = .next t ∧ t.present n = true ∧ (Tab.wf 0 s.regs = true → ∀ i, i < 19 → t.reg (rAcct n (8 * i)) = 0)
      ∧ t.sec.hbmKeys = Tab.put 0 s.sec.hbmKeys n (Tab.get 0 s.sec.hbmKeys n + 1)
      ∧ t.shareClass = Tab.put 0 s.shareClass n (bits (s.reg (rTen n 0x20)) 3 0) ∧ t.cells = s.cells ∧ t.jobs = s.jobs)
  ∧ (∀ (s : State) (n : Nat), 1 ≤ n → n ≤ 16 → s.bar 3 = true → bits (s.reg (rTenStatus n)) 1 0 = 1 →
    (∀ k, k < 8 → (s.ring n k).st = .disabled) → exec (.tenantRemove n) s = .next (s.removeTenant n))
  ∧ (∀ (s : State) (n : Nat), 1 ≤ n → n ≤ 16 → s.bar 3 = true →
    (bits (s.reg (rTenStatus n)) 1 0 ≠ 0 → exec (.tenantCreate n) s = .next (s.tenRefuse n))
    ∧ (bits (s.reg (rTenStatus n)) 1 0 ≠ 1 → exec (.tenantRemove n) s = .next (s.tenRefuse n)))
  ∧ (∀ (s : State) (n : Nat), 1 ≤ n → Tab.wf 0 s.regs = true → (s.tenState n 0).present n = false)
  ∧ (∀ (s : State) (n base count : Nat), 1 ≤ n → n ≤ 16 → s.bar 3 = true →
    (base < 16384 → base + count ≤ 16384 → (∀ u x, 1 ≤ u → u ≤ 16 → u ≠ n → inRange base count x = true →
        inRange (bits (s.reg (rTenSig u)) 13 0) (bits (s.reg (rTenSig u)) 30 16) x = false) →
      (∀ g, g ∈ s.sigs → inRange (bits (s.reg (rTenSig n)) 13 0) (bits (s.reg (rTenSig n)) 30 16) g.1 ≠ inRange base count g.1 → g.2.st = .free) →
      exec (.sigRangeWrite n base count) s = .next (s.setReg (rTenSig n) (base + 2 ^ 16 * count)))
    ∧ (16384 < base + count → exec (.sigRangeWrite n base count) s = .next (s.setReg (rTenStatus n) (setBit (s.reg (rTenStatus n)) 2 true))))
  ∧ (∀ s : State, s.bar 3 = true → exec .shareCommit s = .next (if bit (s.reg rShareStatus) 1 then { s with shareHeld := true } else s.shareApply))
  ∧ (∀ (s t : State), s.fatal = false → bit (s.reg rShareStatus) 1 = true → t = { s.setReg rShareStatus (setBit (s.reg rShareStatus) 1 false) with wheel := buildWheel s.shareW } →
    exec .shareBusyClear s = .next (if s.shareHeld then State.shareApply { t with shareHeld := false } else t))
  ∧ (∀ (s t : State) (en : Bool), s.bar 3 = true → s.feature 8 = true → t = s.setReg rSealCtl en.toNat →
    (en ≠ s.sealed ∨ bit (s.reg rSealStatus) 1 = true →
      exec (.sealCtlWrite en) s = .next (t.setReg rSealStatus (setBit (t.reg rSealStatus) 1 true)))
    ∧ (en = s.sealed → bit (s.reg rSealStatus) 1 = false → exec (.sealCtlWrite en) s = .next t))
  ∧ (∀ s : State, s.fatal = false → bit (s.reg rSealStatus) 1 = true → s.jobs.any (fun j => j.2.isSome) = false → s.shareHeld = false →
    exec .sealApply s = .next (if sealOk s.tenants (fun t => Tab.get 0 s.shareClass t) s.shareW then
        s.setReg rSealStatus (setBit (setBit (s.reg rSealStatus) 1 false) 0 (bit (s.reg rSealCtl) 0))
      else s.setReg rSealStatus (setBit (setBit (s.reg rSealStatus) 1 false) 2 true)))
  ∧ (∀ (s : State) (b : Int), s.fatal = false → s.bill.next = some b → s.time.valid = true → b ≤ s.wallNow →
    exec .billingPeriodClose s = .next (s.closePeriod b false) ∧ (s.closePeriod b false).bill.last = some b
      ∧ (s.closePeriod b false).bill.closed = (s.bill.closed + 1) % 2 ^ 32)
  ∧ (∀ (s : State) (uj : Nat) (counts : List (List Nat)), s.fatal = false → s.stage = 3 → s.bill.energyGc + 1000000 ≤ s.gc →
    ∃ t : State, exec (.energyInterval uj counts) s = .next t ∧ t.bill.energyGc = s.bill.energyGc + 1000000
      ∧ t.pwr.energyUj = s.pwr.energyUj + uj ∧ t.pwr.mw = uj ∧ t.gc = s.gc)

/-- Wall time is written and slewed, and a write that a time source or its range forbids sets the refused bit (R557, R558). A PPS edge in its
window corrects wall time, the first one anchors it, one outside is counted as rejected, and 1.5 s without one is HOLDOVER (R559 to R561).
A SLAVE asks its master, a module with a role answers, and a response gives the exchange its times (R562, R563); TIME_QUERY writes its
buffer (R564); a launch slot is armed or refused, disarmed, and fires at its instant (R565 to R567). -/
def Obligations.TimeDisciplinedAndLaunches : Prop :=
  (∀ (s : State) (v : Nat) (governed : Bool), s.bar 1 = true → governed = (s.time.ppsEn || (decide (s.time.role = 2) && s.time.sync == .locked)) →
    (governed = false ∨ sext 64 v % 1000000000 = 0 →
      exec (.wallBaseWrite v) s = .next (s.setBase (sext 64 v)) ∧ (s.setBase (sext 64 v)).time.base = sext 64 v)
    ∧ (governed = true → sext 64 v % 1000000000 ≠ 0 → exec (.wallBaseWrite v) s = .next { s with time := { s.time with refused := true } }))
  ∧ (∀ (s : State) (v : Nat), s.bar 1 = true →
    (s.time.ppsEn = false → s.time.role ≠ 2 → s.time.valid = true → -100000000 ≤ sext 32 v → sext 32 v ≤ 100000000 →
      exec (.wallSlewWrite v) s = .next { s with time := { s.time with slew := sext 32 v, slewGc := s.gc, slewing := true } })
    ∧ ((s.time.ppsEn = true ∨ s.time.role = 2 ∨ s.time.valid = false ∨ sext 32 v < -100000000 ∨ 100000000 < sext 32 v) →
      exec (.wallSlewWrite v) s = .next { s with time := { s.time with refused := true } }))
  ∧ (∀ s : State, s.time.slewing = true → s.time.slew = 0 → exec .wallSlewEnd s = .next { s with time := { s.time with slewing := false } })
  ∧ (∀ (s : State) (v : Nat), s.bar 1 = true → exec (.ppsEnWrite v) s = .next (s.ppsWrite v) ∧ (s.ppsWrite v).time.ppsEn = bit v 0)
  ∧ (∀ (s : State), s.time.ppsEn = true → s.time.pps ≠ .fault → s.time.running = true → s.stage ≠ 0 → s.time.refLost = false →
    (∀ (x e : Int) (t : State), x = ((s.gc : Int) - s.time.delay) % 1000000000 → e = (if x ≤ 500000000 then x else x - 1000000000) →
      (s.time.edge = true → s.time.pps ≠ .holdover → s.time.edgeGc + 999900000 ≤ s.gc → s.gc ≤ s.time.edgeGc + 1000100000 →
        t = { s with time := { s.time with lastErr := sat32 e, edgeGc := s.gc, edge := true, since := s.gc } } →
        exec .ppsEdge s = .next (t.correct false e (s.gc - s.time.edgeGc)))
      ∧ (s.time.edge = false → s.time.pps ≠ .holdover →
        t = { s with time := { s.time with lastErr := sat32 e, edgeGc := s.gc, edge := true, since := s.gc, prevErr := none } } →
        exec .ppsEdge s = .next (t.correct false e (s.gc - s.time.edgeGc)))
      ∧ (s.time.pps = .holdover → t = { s with time := { s.time with
          lastErr := sat32 e, edgeGc := s.gc, edge := true, since := s.gc, pps := .acquiring, small := 0, prevErr := none } } →
        exec .ppsEdge s = .next (t.correct false e (s.gc - s.time.edgeGc))))
    ∧ (s.time.edge = true → s.time.pps ≠ .holdover → (s.gc < s.time.edgeGc + 999900000 ∨ s.time.edgeGc + 1000100000 < s.gc) →
      exec .ppsEdge s = .next (s.regAdd rPpsReject 1)))
  ∧ (∀ (s : State), s.time.ppsEn = true → (s.time.pps = .acquiring ∨ s.time.pps = .locked ∨ s.time.pps = .slewing) → s.time.since + 1500000000 ≤ s.gc →
    exec .ppsLost s = .next (State.record { s with time := { s.time with pps := .holdover, small := 0 } } .ppsLost
      { noRec with node := hubN, addr := s.time.edgeGc }))
  ∧ (∀ (s t : State) (n : Nat), s.fatal = false → s.time.role = 2 → s.stage = 3 →
    (s.time.reqN = 0 ∨ s.time.reqGc + 1000000 * s.time.interval ≤ s.gc) →
    n = s.time.reqN + 1 → t = { s with time := { s.time with reqN := n, reqGc := s.gc, req := some { n := n % 65536, t1 := s.stamp } } } →
    exec .syncRequestSend s = .next (t.ferSend false (.timeReq (n % 65536)) 0 kTime 7 t.time.master 0 0 0 (syncBytes 0 0 (n % 65536) 0 0)))
  ∧ (∀ (s u : State) (p : Nat) (m : FMsg) (c : RxCtx) (valid : Bool), s.msgAt p m c u → m.kind = kTime → s.syncType m ≠ 1 → syncOk c 0 = true →
    u.time.role ≠ 0 → valid = (u.time.valid && (u.time.pps == .locked || u.time.sync == .locked)) →
    exec (.timeSyncReq p m) s = .next ((u.ferSend c.al (.timeResp c.m.src) 0 kTime 7 c.m.src 0 0 0
      (syncBytes 1 (valid.toNat + 2 * (Tab.get {} u.time.peers c.m.src).again.toNat) (leAt c.m.data 2 2) u.stamp
        (Tab.get {} u.time.peers c.m.src).t3)).msgDone p c.t m))
  ∧ (∀ (s u : State) (p : Nat) (m : FMsg) (c : RxCtx) (r : SyncEx), s.msgAt p m c u → m.kind = kTime → s.syncType m = 1 → syncOk c 1 = true →
    u.time.role = 2 → c.m.src = u.time.master → u.time.exch = none → u.time.req = some r → r.n = leAt c.m.data 2 2 →
    exec (.timeSyncResp p m) s = .next (State.msgDone { u with time := { u.time with
      req := none, exch := some { r with t2 := sext 64 (leAt c.m.data 8 8), t4 := u.stamp } } } p c.t m))
  ∧ (∀ (s : State) (fn k : Nat) (c : Cmd), s.entryAt fn k 0xD c →
    (c.payTva = true → s.tvaCheck fn c.payPtr 64 true = .ok → exec (.timeQuery fn k) s = .next ((s.tvaStore fn c.payPtr s.timeBytes).finish c .ok 0))
    ∧ (c.payTva = false → exec (.timeQuery fn k) s = .next (((s.hostWrite fn c.payPtr s.timeBytes).acctHost fn 64).finish c .ok 0)))
  ∧ (∀ (s : State) (k cfg t : Nat) (ok : Bool), k < 64 → s.bar 1 = true → cfg = s.reg (rLaunch k 8) → t = bits cfg 20 16 →
    ok = (decide (t ≤ 16) && s.present t && (t == 0 || s.sigTenant (bits cfg 13 0) == t) && (!bit cfg 15 || s.time.valid)) →
    ((s.slot k).st ≠ 1 → ok = true → exec (.launchArm k) s = .next (s.setSlot k { s.slot k with st := 1 }))
    ∧ ((s.slot k).st ≠ 1 → ok = false → exec (.launchArm k) s = .next (s.setSlot k { s.slot k with st := 4 }))
    ∧ ((s.slot k).st = 1 → exec (.launchDisarm k) s = .next (s.setSlot k { s.slot k with st := 0 })))
  ∧ (∀ (s : State) (k cfg : Nat) (now : Int), s.fatal = false → k < 64 → (s.slot k).st = 1 → cfg = s.reg (rLaunch k 8) →
    now = (if bit cfg 15 then s.wallNow else (s.gc : Int)) → (s.reg (rLaunch k 0) : Int) ≤ now →
    exec (.launchFire k) s = .next ((s.setSlot k
      { st := if (s.reg (rLaunch k 0) : Int) + 1000 < now then 3 else 2, fired := s.gc }).hubSignal
        (if bit cfg 14 then .add else .set) (bits cfg 13 0) (s.reg (rLaunch k 12)) (bits cfg 20 16) .mgmt { node := hubN, unit := 0xF, tag := 0 }))

/-- Deep idle is entered on a request once the module is idle, and left on a wake event (R598, R599); a granted domain gate loses what the
domain held (R595, R596); the power cap moves in steps of 100 MHz at most once a millisecond, and has no step while it is off (R601, R608);
supply-sag stages are entered and left one by one, S5 and an overvoltage power the module down (R603 to R605, R678), and a power loss leaves
only the non-volatile memory (R634). Temperatures set the levels; a critical one powers the module down, and a trip acts as stage S4 (R606,
R607). A detector's trip stretches its die's clock, which ends after 256 A-cycles without one, and the droop step rises after 1 s (R602);
the loss of REFCLK takes the link down, its return starts Landing again and PPS in ACQUIRING (R669). -/
def Obligations.PowerAndHeat : Prop :=
  ((∀ (s : State) (v : Nat), s.bar 0 = true → bit v 0 = true → exec (.deepIdleRequest v) s =
    .next ((s.setReg rPwrCtl (v % 4)).updPwr (fun p => { p with request := decide (p.mode = 0) })))
  ∧ (∀ s : State, s.pwr.request = true → bit (s.reg rPwrCtl) 0 = true → s.pwr.mode = 0 → s.stage = 3 → s.fatal = false → s.idleNow = true →
    exec .deepIdleEnter s = .next (State.restOrWake { s with pwr := { s.pwr with mode := 2, request := false, wake := false } }))
  ∧ (∀ s : State, s.pwr.mode = 2 → s.sag < 4 → s.fatal = false → (bit (s.reg rPwrCtl) 0 = false ∨ s.ringWaits = true ∨ s.pwr.wake = true) →
    exec .deepIdleExit s = .next (State.restOrWake { s with pwr := { s.pwr with mode := 0, wake := false } }))
  ∧ (∀ (s : State) (v : Nat), s.bar 0 = true →
    exec (.apGateWrite v) s = .next { s.setReg rApGate (v % 2 ^ 32) with gated := s.gated.filter (fun n => bit v n) })
  ∧ (∀ (s : State) (n : Nat), n < 32 → 2 ≤ s.stage → s.fatal = false → bit (s.reg rApGate) n = true → n ∉ s.gated → s.domainUsed n = false →
    ∃ t : State, exec (.domainGate n) s = .next t ∧ t.gated = s.gated ++ [n] ∧ (∀ c, apDomain c = n → t.cell c = Cell.reset)
      ∧ (∀ c, apDomain c ≠ n → t.cell c = s.cell c))
  ∧ (∀ (s t : State) (mean now cap : Nat), s.ao.powered = true → s.ao.off = false → t = { s with pwr := { s.pwr with mw := now } } →
    cap = 1000 * s.reg rPwrCap →
    (bit (s.reg rPwrCtl) 1 = false → exec (.powerCapEval mean now) s = .next { t with pwr := { t.pwr with capStep := 0, capShort := false } })
    ∧ (bit (s.reg rPwrCtl) 1 = true → s.gc < s.pwr.capGc + 1000000 → exec (.powerCapEval mean now) s = .next t)
    ∧ (bit (s.reg rPwrCtl) 1 = true → s.pwr.capGc + 1000000 ≤ s.gc → exec (.powerCapEval mean now) s = .next { t with pwr := { t.pwr with
        capGc := s.gc, capShort := decide (cap < mean) && decide (s.pwr.capStep = 10),
        capStep := if cap < mean then min 10 (s.pwr.capStep + 1) else if 100 * mean < 95 * cap then s.pwr.capStep - 1 else s.pwr.capStep } }))
  ∧ (∀ (s : State) (vs : List Nat) (n : Nat), s.shedding = true → n = s.pwr.stage + 1 → n ≤ 4 → sagFalls n vs = true →
    exec (.sagStageEnter vs) s = .next (((s.updPwr (fun p => { p with stage := n, mv := vs.getLastD s.pwr.mv })).sagRecord n
      (vs.getLastD s.pwr.mv) true).sagSet))
  ∧ (∀ (s : State) (low mv : Nat), s.shedding = true → 1 ≤ s.pwr.stage → s.pwr.stage ≤ 4 → sagMv s.pwr.stage + 1000 ≤ low →
    exec (.sagStageExit low mv) s = .next (((s.updPwr (fun p => { p with stage := s.pwr.stage - 1, mv := mv })).sagRecord s.pwr.stage mv false).sagSet))
  ∧ (∀ (s t : State) (vs : List Nat) (n : Nat), s.shedding = true →
    (s.pwr.stage = 4 → sagFalls 5 vs = true → t = { s with sag := 5, pwr := { s.pwr with stage := 5, mv := vs.getLastD s.pwr.mv } } →
      exec (.sagS5Enter vs n) s = .next (((t.sagRecord 5 (vs.getLastD s.pwr.mv) true).powerDown n).updAo (fun a => { a with inS5 := true })))
    ∧ (5 ≤ vs.length → (∀ v, v ∈ vs.drop (vs.length - 5) → 62000 < v) → t = { s with pwr := { s.pwr with mv := vs.getLastD s.pwr.mv } } →
      exec (.overvoltage vs n) s = .next (t.powerDown n)))
  ∧ (∀ s : State, s.ao.powered = true → exec .powerLoss s = .next { s.lost false with
      log := {}, sag := 0, arrayHeld := false, pwr := { mv := 0 }, ao := { powered := false, perst := s.ao.perst, qualified := false } }))
  ∧ ((∀ (s t : State) (ts : List Int) (n : Nat), s.ao.powered = true → s.ao.off = false → ts.length = 58 →
    t = ((List.range 14).take 12).foldl (fun s g => s.thermLevel g (groupTemp ts g)) (s.updPwr (fun p => { p with
      therm := ts.zipIdx.foldl (fun (t : Tab Int) (x : Int × Nat) => Tab.put 0 t x.2 x.1) [] })) →
    (∀ g, (List.range 14).find? (fun g => decide (tripAt g + 80 ≤ groupTemp ts g)) = some g → exec (.thermSample ts n) s =
      .next ((t.record .thermCritical { noRec with node := hubN, unit := 0xD, idx0 := g, code := twos 32 (groupTemp ts g) }).powerDown n))
    ∧ (∀ (g : Nat) (u : State), (∀ g, g < 14 → groupTemp ts g < tripAt g + 80) → u = t.updPwr (fun p => { p with
        tripN := (List.range 14).foldl (fun t g => Tab.put 0 t g (if tripAt g ≤ groupTemp ts g then Tab.get 0 t g + 1 else 0)) p.tripN,
        tripGc := if (List.range 14).any (fun g => decide (tripAt g - 160 < groupTemp ts g)) then t.gc else p.tripGc }) →
      (List.range 14).find? (fun g => decide (3 ≤ Tab.get 0 u.pwr.tripN g)) = some g → u.pwr.trip = false →
      exec (.thermSample ts n) s = .next (((u.updPwr (fun p => { p with trip := true })).record .thermTrip
        { noRec with node := hubN, unit := 0xD, idx0 := g, code := twos 32 (groupTemp ts g) }).sagSet))
    ∧ (Tab.wf 0 s.pwr.tripN = true → (∀ g, g < 14 → groupTemp ts g < tripAt g) → t.pwr.trip = false → ∃ u : State, exec (.thermSample ts n) s = .next u ∧ u.pwr.trip = false
      ∧ u.sag = t.sag ∧ u.pwr.level = t.pwr.level ∧ u.log = t.log))
  ∧ (∀ (s : State) (c : Nat), c < cellSites → 0 < s.gc → 2 ≤ s.stage → s.arrayHeld = false → s.cellGated c = false →
    ∃ t : State, exec (.droopTrip c) s = .next t ∧ Tab.get false t.pwr.stretched (cellDie c) = true ∧ Tab.get 0 t.pwr.droopGc (cellDie c) = s.gc
      ∧ bit (t.reg (rDroopMap (cellDie c))) (localNo c) = true)
  ∧ (∀ (s : State) (d : Nat), d < 4 → 0 < s.gc → Tab.wf false s.pwr.stretched = true → Tab.get false s.pwr.stretched d = true → Tab.get 0 s.pwr.droopGc d + ceilDiv (256 * 1250) (s.aclk d) ≤ s.gc →
    ∃ t : State, exec (.droopStretchEnd d) s = .next t ∧ Tab.get false t.pwr.stretched d = false ∧ Tab.get 0 t.pwr.calmGc d = s.gc)
  ∧ (∀ (s : State) (d : Nat), d < 4 → Tab.get 0 s.pwr.droop d ≠ 0 → Tab.get false s.pwr.stretched d = false →
    Tab.get 0 s.pwr.calmGc d + 1000000000 ≤ s.gc → exec (.droopStepRise d) s = .next (s.updPwr (fun p => { p with
      droop := Tab.put 0 p.droop d (Tab.get 0 s.pwr.droop d - 1), calmGc := Tab.put 0 p.calmGc d s.gc })))
  ∧ (∀ s : State, s.time.refLost = false → s.ao.powered = true → s.ao.off = false → s.ao.perst = false →
    exec .refclkLoss s = .next { s.linkDisable 2 with time := { (s.linkDisable 2).time with refLost := true } })
  ∧ (∀ (s : State) (on : Bool), s.time.refLost = true → s.ao.powered = true → s.ao.off = false → s.ao.perst = false →
    on = (s.time.ppsEn && s.time.pps != .fault) → exec .refclkReturn s = .next { s with
      ao := { s.ao with start := true },
      time := { s.time with
        refLost := false, pps := if on then .acquiring else s.time.pps, edge := if on then false else s.time.edge,
        small := if on then 0 else s.time.small, prevErr := if on then none else s.time.prevErr, since := if on then s.gc else s.time.since } }))

/-! ### Reads of registers (ch. 0, 26) -/

/-- What a read of a register answers: one of 4 or 8 bytes naturally aligned reads the aligned 64-bit word, another size or place reads zero and
changes nothing (R9); a read of the low half of a 64-bit register latches its high half, which the next read of the high half returns and
gives up (R10); a read of BAR2 gives the counts the ring has taken last (R513); the cell map's word w has bit i where cell 32w + i is good
(R18). The table has no command for a read: State.busRead is the model's own operation for it (log 101). -/
def Obligations.RegistersRead : Prop :=
  (∀ (s : State) (fn bar off n : Nat), ((n ≠ 4 ∧ n ≠ 8) ∨ off % n ≠ 0) → s.busRead fn bar off n = (0, s))
  ∧ (∀ (s : State) (fn off w : Nat), off % 8 = 0 → (fn ≠ 0 ∨ off < 0x90000 ∨ 0xC0000 ≤ off) → w = s.word64 fn off (Config.freeNat 0 % 2 ^ 64) →
    s.busRead fn 0 off 8 = (w, s)
    ∧ (readWide fn off = false → s.busRead fn 0 off 4 = (w % 2 ^ 32, s))
    ∧ (readWide fn off = true → ∃ t : State,
      t = { s with latched := Tab.put none s.latched (regKey fn off) (some (w / 2 ^ 32 % 2 ^ 32)) } ∧ s.busRead fn 0 off 4 = (w % 2 ^ 32, t)
      ∧ t.busRead fn 0 (off + 4) 4 = (w / 2 ^ 32 % 2 ^ 32, { t with latched := Tab.put none t.latched (regKey fn off) none })))
  ∧ (∀ (s : State) (fn k : Nat), k < 8 → s.fnExists fn = true → s.bar 3 = true →
    s.busRead fn 2 (0x1000 * k) 8 = ((s.ring fn k).dbTail % 2 ^ 32 + 2 ^ 32 * ((s.ring fn k).dbHead % 2 ^ 32), s))
  ∧ (∀ (s : State) (w i : Nat), i < 32 → (s.cellMapWord w).testBit i = s.goodCell (32 * w + i))
end

