-- ==== Sys2Proof/Laws/Entry.lean ====
section
/-!
SUPPORT. Sys2Proof/Laws/Entry.lean: where a unit stands at a command, an entry or a message, what it does is that one's
own effect.
-/
namespace Sys2Proof.Machine
open Sys2Proof

/-- The next entry of a ring that breaks no rule is executed. -/
theorem State.execute_at {s : State} {fn k op c} (run) (h : s.entryAt fn k op c) : s.execute fn k op ⟨[],false⟩ run = run c s := by
  obtain ⟨h1,h2,h3,h4,h5⟩ := h
  unfold State.execute
  rw [h3]; simp only [h4]
  by_cases hi : inlineOp op = true ∧ op ≠ 0xC
  · simp [h5 hi.1 hi.2]; rfl
  · rw [if_neg (by simp; intro a b; exact absurd ⟨a,b⟩ hi)]; rfl

/-- An entry with a pointer payload is executed on that payload. -/
theorem State.executePay_at {s : State} {fn k op n h c bs t} (run) (hh : s.entryPayAt fn k op n h c bs t) (ho : inlineOp op = false) : s.executePay fn k op n h run = run c bs t := by
  obtain ⟨⟨h1,h2,h3,h4,h5⟩, h6, rfl⟩ := hh
  unfold State.executePay State.execute
  simp only [h3, h4, h6, ho]
  simp

/-- A TETHER entry with a plain payload runs its operation. -/
theorem State.tethEntry_at {s : State} {fn k op h c bs t} (run) (hh : s.entryPayAt fn k 0xF 64 h c bs t) (hb : bs.length = 64) (hf : t.feature 6 = true)
  (ho : bits ((words bs).getD 0 0) 2 0 = op) (h5 : op < 5) (hp : tethPlain op (words bs) = true) : s.tethEntry fn k op h run = run c (words bs) t := by
  have hw : (words bs).getD 0 0 = leAt bs 0 4 := by simp [words, hb]
  unfold State.tethEntry
  simp only [hh.1.2.2.1, hh.1.2.2.2.1, hh.2.1]
  rw [← hw, ho]
  simp only [beq_self_eq_true, Bool.true_or, Bool.not_true]
  rw [if_neg (by simp)]
  rw [State.executePay_at _ hh (by decide)]
  have : ¬ 5 ≤ op := by omega
  simp only [hf, ho, this, hp]
  simp

/-- A matrix context at a command runs it. -/
theorem State.mtCommand_at {s : State} {cell k op w} (run) (h : s.mtAt cell k op w) :
    s.mtCommand cell k op run = run (s.mtCell cell k) (((s.cell cell).mtx k).take op w) w := by
  obtain ⟨h1, h2, h3, h4, h5, h6, h7⟩ := h
  unfold State.mtCommand
  simp only [State.mtCell] at *
  simp [h2, h4, h5, h6, h7, show ¬ 3 ≤ s.sag by omega]

/-- A message that may be performed is performed. -/
theorem State.ferReceive_at {s s0 : State} {p m c u} (want : FMsg → Bool) (perform) (h : s.msgAt p m c u) (hs : s0 = s) (hw : want m = true) :
   s.ferReceive p m want perform = match perform c u with
     | .refuse s k => s.msgRefused p k m | .hold s => s.updFer (fun f => { f with rx := f.rx ++ ((State.rxEntry s0 p m).toList.map (fun r => { r with held := true, tried := true })) })
     | .later s => s.updFer (fun f => { f with rx := f.rx ++ ((State.rxEntry s0 p m).toList.map (fun r => { r with held := true, tried := r.tried })) }) | .done s => s.msgDone p c.t m := by
  subst hs
  obtain ⟨h1,h2,h3,h4,h5,h6,⟨r,h7,h8,h9⟩,h10,h11,h12,h13,h14,h15,h16,h17,h18,h19,h20,h21⟩ := h
  unfold State.ferReceive
  simp only [h2, hw, Bool.and_self, if_true, h7, ← h8, h3, h4, h5]
  have h10' : ¬ m.seq < (u.rxStream m).base := by omega
  have h11' : m.seq ∉ (u.rxStream m).marked := by simpa using h11
  have e2 : ¬ ((u.rxStream m).base + 4096 ≤ m.seq) := by omega
  have e3 : ¬ ((u.rxStream m).marked = [] ∧ (u.rxStream m).base < m.seq ∧ 8192 ≤ (u.fer.streams.filter (fun y => y.marked != [])).length) := by
    rintro ⟨a,b,_⟩; rcases h13 with h13|h13; exact h13 a; omega
  have e4 : ¬ (m.tc = 7 ∧ c.t ≠ 0) := by rintro ⟨a,b⟩; exact b (h16 a)
  simp only [h6, h14, ← h19]
  have e5 : c = { t := c.t, al := c.al, first := m.seq == (u.rxStream m).base, again := r.tried, port := p, m := c.m } := by
    cases c; simp_all
  have e6 : ¬ (c.al = true ∧ u.tether.st = .catchingUp) := by rintro ⟨a,b⟩; exact h17 a b
  have e7 : ¬ (c.al = true ∧ u.tether.st = .catchingUp ∧ ¬ c.t = 0) := fun h => e6 ⟨h.1, h.2.1⟩
  simp [e6, h11', h10', e2, e3, h15, h18, e4, e7]
  rw [← e5]
  cases perform c u <;> rfl

end Sys2Proof.Machine
end

