-- ==== Sys2Proof/Laws/State.lean ====
section
/-!
SUPPORT. Sys2Proof/Laws/State.lean: what each update of one field of the state leaves of the state's fields, one lemma per field
and update.
-/
namespace Sys2Proof.Machine
open Sys2Proof

/-! ### State.setCell -/

@[simp] theorem State.setCell_pending (s : State) (i : Nat) (c : Cell) : (s.setCell i c).pending = s.pending := rfl
@[simp] theorem State.setCell_freeCtr (s : State) (i : Nat) (c : Cell) : (s.setCell i c).freeCtr = s.freeCtr := rfl
@[simp] theorem State.setCell_gc (s : State) (i : Nat) (c : Cell) : (s.setCell i c).gc = s.gc := rfl
@[simp] theorem State.setCell_feat (s : State) (i : Nat) (c : Cell) : (s.setCell i c).feat = s.feat := rfl
@[simp] theorem State.setCell_stage (s : State) (i : Nat) (c : Cell) : (s.setCell i c).stage = s.stage := rfl
@[simp] theorem State.setCell_cells (s : State) (i : Nat) (c : Cell) : (s.setCell i c).cells = Tab.put Cell.reset s.cells i c := rfl
@[simp] theorem State.setCell_badCells (s : State) (i : Nat) (c : Cell) : (s.setCell i c).badCells = s.badCells := rfl
@[simp] theorem State.setCell_routeBad (s : State) (i : Nat) (c : Cell) : (s.setCell i c).routeBad = s.routeBad := rfl
@[simp] theorem State.setCell_heldPkts (s : State) (i : Nat) (c : Cell) : (s.setCell i c).heldPkts = s.heldPkts := rfl
@[simp] theorem State.setCell_flits (s : State) (i : Nat) (c : Cell) : (s.setCell i c).flits = s.flits := rfl
@[simp] theorem State.setCell_flitsSnap (s : State) (i : Nat) (c : Cell) : (s.setCell i c).flitsSnap = s.flitsSnap := rfl
@[simp] theorem State.setCell_wheel (s : State) (i : Nat) (c : Cell) : (s.setCell i c).wheel = s.wheel := rfl
@[simp] theorem State.setCell_links (s : State) (i : Nat) (c : Cell) : (s.setCell i c).links = s.links := rfl
@[simp] theorem State.setCell_creditFlight (s : State) (i : Nat) (c : Cell) : (s.setCell i c).creditFlight = s.creditFlight := rfl
@[simp] theorem State.setCell_flight (s : State) (i : Nat) (c : Cell) : (s.setCell i c).flight = s.flight := rfl
@[simp] theorem State.setCell_sigs (s : State) (i : Nat) (c : Cell) : (s.setCell i c).sigs = s.sigs := rfl
@[simp] theorem State.setCell_jobs (s : State) (i : Nat) (c : Cell) : (s.setCell i c).jobs = s.jobs := rfl
@[simp] theorem State.setCell_gals (s : State) (i : Nat) (c : Cell) : (s.setCell i c).gals = s.gals := rfl
@[simp] theorem State.setCell_log (s : State) (i : Nat) (c : Cell) : (s.setCell i c).log = s.log := rfl
@[simp] theorem State.setCell_bootCount (s : State) (i : Nat) (c : Cell) : (s.setCell i c).bootCount = s.bootCount := rfl
@[simp] theorem State.setCell_shareClass (s : State) (i : Nat) (c : Cell) : (s.setCell i c).shareClass = s.shareClass := rfl
@[simp] theorem State.setCell_arrayHeld (s : State) (i : Nat) (c : Cell) : (s.setCell i c).arrayHeld = s.arrayHeld := rfl
@[simp] theorem State.setCell_regs (s : State) (i : Nat) (c : Cell) : (s.setCell i c).regs = s.regs := rfl
@[simp] theorem State.setCell_rings (s : State) (i : Nat) (c : Cell) : (s.setCell i c).rings = s.rings := rfl
@[simp] theorem State.setCell_cmds (s : State) (i : Nat) (c : Cell) : (s.setCell i c).cmds = s.cmds := rfl
@[simp] theorem State.setCell_cmdCtr (s : State) (i : Nat) (c : Cell) : (s.setCell i c).cmdCtr = s.cmdCtr := rfl
@[simp] theorem State.setCell_host (s : State) (i : Nat) (c : Cell) : (s.setCell i c).host = s.host := rfl
@[simp] theorem State.setCell_lines (s : State) (i : Nat) (c : Cell) : (s.setCell i c).lines = s.lines := rfl
@[simp] theorem State.setCell_fns (s : State) (i : Nat) (c : Cell) : (s.setCell i c).fns = s.fns := rfl
@[simp] theorem State.setCell_vfEn (s : State) (i : Nat) (c : Cell) : (s.setCell i c).vfEn = s.vfEn := rfl
@[simp] theorem State.setCell_pfOnly (s : State) (i : Nat) (c : Cell) : (s.setCell i c).pfOnly = s.pfOnly := rfl
@[simp] theorem State.setCell_hbm (s : State) (i : Nat) (c : Cell) : (s.setCell i c).hbm = s.hbm := rfl
@[simp] theorem State.setCell_hbmPoison (s : State) (i : Nat) (c : Cell) : (s.setCell i c).hbmPoison = s.hbmPoison := rfl
@[simp] theorem State.setCell_cache (s : State) (i : Nat) (c : Cell) : (s.setCell i c).cache = s.cache := rfl
@[simp] theorem State.setCell_tokens (s : State) (i : Nat) (c : Cell) : (s.setCell i c).tokens = s.tokens := rfl
@[simp] theorem State.setCell_pages (s : State) (i : Nat) (c : Cell) : (s.setCell i c).pages = s.pages := rfl
@[simp] theorem State.setCell_pageTag (s : State) (i : Nat) (c : Cell) : (s.setCell i c).pageTag = s.pageTag := rfl
@[simp] theorem State.setCell_tlb (s : State) (i : Nat) (c : Cell) : (s.setCell i c).tlb = s.tlb := rfl
@[simp] theorem State.setCell_pt (s : State) (i : Nat) (c : Cell) : (s.setCell i c).pt = s.pt := rfl
@[simp] theorem State.setCell_l2 (s : State) (i : Nat) (c : Cell) : (s.setCell i c).l2 = s.l2 := rfl
@[simp] theorem State.setCell_spreadPtr (s : State) (i : Nat) (c : Cell) : (s.setCell i c).spreadPtr = s.spreadPtr := rfl
@[simp] theorem State.setCell_dieAlt (s : State) (i : Nat) (c : Cell) : (s.setCell i c).dieAlt = s.dieAlt := rfl
@[simp] theorem State.setCell_reserves (s : State) (i : Nat) (c : Cell) : (s.setCell i c).reserves = s.reserves := rfl
@[simp] theorem State.setCell_loads (s : State) (i : Nat) (c : Cell) : (s.setCell i c).loads = s.loads := rfl
@[simp] theorem State.setCell_keySlots (s : State) (i : Nat) (c : Cell) : (s.setCell i c).keySlots = s.keySlots := rfl
@[simp] theorem State.setCell_ferKeys (s : State) (i : Nat) (c : Cell) : (s.setCell i c).ferKeys = s.ferKeys := rfl
@[simp] theorem State.setCell_engines (s : State) (i : Nat) (c : Cell) : (s.setCell i c).engines = s.engines := rfl
@[simp] theorem State.setCell_engWheel (s : State) (i : Nat) (c : Cell) : (s.setCell i c).engWheel = s.engWheel := rfl
@[simp] theorem State.setCell_fer (s : State) (i : Nat) (c : Cell) : (s.setCell i c).fer = s.fer := rfl
@[simp] theorem State.setCell_groups (s : State) (i : Nat) (c : Cell) : (s.setCell i c).groups = s.groups := rfl
@[simp] theorem State.setCell_grants (s : State) (i : Nat) (c : Cell) : (s.setCell i c).grants = s.grants := rfl
@[simp] theorem State.setCell_gate (s : State) (i : Nat) (c : Cell) : (s.setCell i c).gate = s.gate := rfl
@[simp] theorem State.setCell_aliasGate (s : State) (i : Nat) (c : Cell) : (s.setCell i c).aliasGate = s.aliasGate := rfl
@[simp] theorem State.setCell_tether (s : State) (i : Nat) (c : Cell) : (s.setCell i c).tether = s.tether := rfl
@[simp] theorem State.setCell_sag (s : State) (i : Nat) (c : Cell) : (s.setCell i c).sag = s.sag := rfl
@[simp] theorem State.setCell_fatal (s : State) (i : Nat) (c : Cell) : (s.setCell i c).fatal = s.fatal := rfl
@[simp] theorem State.setCell_shareW (s : State) (i : Nat) (c : Cell) : (s.setCell i c).shareW = s.shareW := rfl
@[simp] theorem State.setCell_gated (s : State) (i : Nat) (c : Cell) : (s.setCell i c).gated = s.gated := rfl
@[simp] theorem State.setCell_time (s : State) (i : Nat) (c : Cell) : (s.setCell i c).time = s.time := rfl
@[simp] theorem State.setCell_launch (s : State) (i : Nat) (c : Cell) : (s.setCell i c).launch = s.launch := rfl
@[simp] theorem State.setCell_billing (s : State) (i : Nat) (c : Cell) : (s.setCell i c).billing = s.billing := rfl
@[simp] theorem State.setCell_bill (s : State) (i : Nat) (c : Cell) : (s.setCell i c).bill = s.bill := rfl
@[simp] theorem State.setCell_sec (s : State) (i : Nat) (c : Cell) : (s.setCell i c).sec = s.sec := rfl
@[simp] theorem State.setCell_pwr (s : State) (i : Nat) (c : Cell) : (s.setCell i c).pwr = s.pwr := rfl
@[simp] theorem State.setCell_nv (s : State) (i : Nat) (c : Cell) : (s.setCell i c).nv = s.nv := rfl
@[simp] theorem State.setCell_ao (s : State) (i : Nat) (c : Cell) : (s.setCell i c).ao = s.ao := rfl
@[simp] theorem State.setCell_dbg (s : State) (i : Nat) (c : Cell) : (s.setCell i c).dbg = s.dbg := rfl
@[simp] theorem State.setCell_trace (s : State) (i : Nat) (c : Cell) : (s.setCell i c).trace = s.trace := rfl
@[simp] theorem State.setCell_jobCause (s : State) (i : Nat) (c : Cell) : (s.setCell i c).jobCause = s.jobCause := rfl
@[simp] theorem State.setCell_jobLast (s : State) (i : Nat) (c : Cell) : (s.setCell i c).jobLast = s.jobLast := rfl
@[simp] theorem State.setCell_patrol (s : State) (i : Nat) (c : Cell) : (s.setCell i c).patrol = s.patrol := rfl
@[simp] theorem State.setCell_pairs (s : State) (i : Nat) (c : Cell) : (s.setCell i c).pairs = s.pairs := rfl
@[simp] theorem State.setCell_tablesLost (s : State) (i : Nat) (c : Cell) : (s.setCell i c).tablesLost = s.tablesLost := rfl
@[simp] theorem State.setCell_shareHeld (s : State) (i : Nat) (c : Cell) : (s.setCell i c).shareHeld = s.shareHeld := rfl
@[simp] theorem State.setCell_staged (s : State) (i : Nat) (c : Cell) : (s.setCell i c).staged = s.staged := rfl
@[simp] theorem State.setCell_latched (s : State) (i : Nat) (c : Cell) : (s.setCell i c).latched = s.latched := rfl

/-! ### State.setReg -/

@[simp] theorem State.setReg_pending (s : State) (k v : Nat) : (s.setReg k v).pending = s.pending := rfl
@[simp] theorem State.setReg_freeCtr (s : State) (k v : Nat) : (s.setReg k v).freeCtr = s.freeCtr := rfl
@[simp] theorem State.setReg_gc (s : State) (k v : Nat) : (s.setReg k v).gc = s.gc := rfl
@[simp] theorem State.setReg_feat (s : State) (k v : Nat) : (s.setReg k v).feat = s.feat := rfl
@[simp] theorem State.setReg_stage (s : State) (k v : Nat) : (s.setReg k v).stage = s.stage := rfl
@[simp] theorem State.setReg_cells (s : State) (k v : Nat) : (s.setReg k v).cells = s.cells := rfl
@[simp] theorem State.setReg_badCells (s : State) (k v : Nat) : (s.setReg k v).badCells = s.badCells := rfl
@[simp] theorem State.setReg_routeBad (s : State) (k v : Nat) : (s.setReg k v).routeBad = s.routeBad := rfl
@[simp] theorem State.setReg_heldPkts (s : State) (k v : Nat) : (s.setReg k v).heldPkts = s.heldPkts := rfl
@[simp] theorem State.setReg_flits (s : State) (k v : Nat) : (s.setReg k v).flits = s.flits := rfl
@[simp] theorem State.setReg_flitsSnap (s : State) (k v : Nat) : (s.setReg k v).flitsSnap = s.flitsSnap := rfl
@[simp] theorem State.setReg_wheel (s : State) (k v : Nat) : (s.setReg k v).wheel = s.wheel := rfl
@[simp] theorem State.setReg_links (s : State) (k v : Nat) : (s.setReg k v).links = s.links := rfl
@[simp] theorem State.setReg_creditFlight (s : State) (k v : Nat) : (s.setReg k v).creditFlight = s.creditFlight := rfl
@[simp] theorem State.setReg_flight (s : State) (k v : Nat) : (s.setReg k v).flight = s.flight := rfl
@[simp] theorem State.setReg_sigs (s : State) (k v : Nat) : (s.setReg k v).sigs = s.sigs := rfl
@[simp] theorem State.setReg_jobs (s : State) (k v : Nat) : (s.setReg k v).jobs = s.jobs := rfl
@[simp] theorem State.setReg_gals (s : State) (k v : Nat) : (s.setReg k v).gals = s.gals := rfl
@[simp] theorem State.setReg_log (s : State) (k v : Nat) : (s.setReg k v).log = s.log := rfl
@[simp] theorem State.setReg_bootCount (s : State) (k v : Nat) : (s.setReg k v).bootCount = s.bootCount := rfl
@[simp] theorem State.setReg_shareClass (s : State) (k v : Nat) : (s.setReg k v).shareClass = s.shareClass := rfl
@[simp] theorem State.setReg_arrayHeld (s : State) (k v : Nat) : (s.setReg k v).arrayHeld = s.arrayHeld := rfl
@[simp] theorem State.setReg_regs (s : State) (k v : Nat) : (s.setReg k v).regs = Tab.put 0 s.regs k v := rfl
@[simp] theorem State.setReg_rings (s : State) (k v : Nat) : (s.setReg k v).rings = s.rings := rfl
@[simp] theorem State.setReg_cmds (s : State) (k v : Nat) : (s.setReg k v).cmds = s.cmds := rfl
@[simp] theorem State.setReg_cmdCtr (s : State) (k v : Nat) : (s.setReg k v).cmdCtr = s.cmdCtr := rfl
@[simp] theorem State.setReg_host (s : State) (k v : Nat) : (s.setReg k v).host = s.host := rfl
@[simp] theorem State.setReg_lines (s : State) (k v : Nat) : (s.setReg k v).lines = s.lines := rfl
@[simp] theorem State.setReg_fns (s : State) (k v : Nat) : (s.setReg k v).fns = s.fns := rfl
@[simp] theorem State.setReg_vfEn (s : State) (k v : Nat) : (s.setReg k v).vfEn = s.vfEn := rfl
@[simp] theorem State.setReg_pfOnly (s : State) (k v : Nat) : (s.setReg k v).pfOnly = s.pfOnly := rfl
@[simp] theorem State.setReg_hbm (s : State) (k v : Nat) : (s.setReg k v).hbm = s.hbm := rfl
@[simp] theorem State.setReg_hbmPoison (s : State) (k v : Nat) : (s.setReg k v).hbmPoison = s.hbmPoison := rfl
@[simp] theorem State.setReg_cache (s : State) (k v : Nat) : (s.setReg k v).cache = s.cache := rfl
@[simp] theorem State.setReg_tokens (s : State) (k v : Nat) : (s.setReg k v).tokens = s.tokens := rfl
@[simp] theorem State.setReg_pages (s : State) (k v : Nat) : (s.setReg k v).pages = s.pages := rfl
@[simp] theorem State.setReg_pageTag (s : State) (k v : Nat) : (s.setReg k v).pageTag = s.pageTag := rfl
@[simp] theorem State.setReg_tlb (s : State) (k v : Nat) : (s.setReg k v).tlb = s.tlb := rfl
@[simp] theorem State.setReg_pt (s : State) (k v : Nat) : (s.setReg k v).pt = s.pt := rfl
@[simp] theorem State.setReg_l2 (s : State) (k v : Nat) : (s.setReg k v).l2 = s.l2 := rfl
@[simp] theorem State.setReg_spreadPtr (s : State) (k v : Nat) : (s.setReg k v).spreadPtr = s.spreadPtr := rfl
@[simp] theorem State.setReg_dieAlt (s : State) (k v : Nat) : (s.setReg k v).dieAlt = s.dieAlt := rfl
@[simp] theorem State.setReg_reserves (s : State) (k v : Nat) : (s.setReg k v).reserves = s.reserves := rfl
@[simp] theorem State.setReg_loads (s : State) (k v : Nat) : (s.setReg k v).loads = s.loads := rfl
@[simp] theorem State.setReg_keySlots (s : State) (k v : Nat) : (s.setReg k v).keySlots = s.keySlots := rfl
@[simp] theorem State.setReg_ferKeys (s : State) (k v : Nat) : (s.setReg k v).ferKeys = s.ferKeys := rfl
@[simp] theorem State.setReg_engines (s : State) (k v : Nat) : (s.setReg k v).engines = s.engines := rfl
@[simp] theorem State.setReg_engWheel (s : State) (k v : Nat) : (s.setReg k v).engWheel = s.engWheel := rfl
@[simp] theorem State.setReg_fer (s : State) (k v : Nat) : (s.setReg k v).fer = s.fer := rfl
@[simp] theorem State.setReg_groups (s : State) (k v : Nat) : (s.setReg k v).groups = s.groups := rfl
@[simp] theorem State.setReg_grants (s : State) (k v : Nat) : (s.setReg k v).grants = s.grants := rfl
@[simp] theorem State.setReg_gate (s : State) (k v : Nat) : (s.setReg k v).gate = s.gate := rfl
@[simp] theorem State.setReg_aliasGate (s : State) (k v : Nat) : (s.setReg k v).aliasGate = s.aliasGate := rfl
@[simp] theorem State.setReg_tether (s : State) (k v : Nat) : (s.setReg k v).tether = s.tether := rfl
@[simp] theorem State.setReg_sag (s : State) (k v : Nat) : (s.setReg k v).sag = s.sag := rfl
@[simp] theorem State.setReg_fatal (s : State) (k v : Nat) : (s.setReg k v).fatal = s.fatal := rfl
@[simp] theorem State.setReg_shareW (s : State) (k v : Nat) : (s.setReg k v).shareW = s.shareW := rfl
@[simp] theorem State.setReg_gated (s : State) (k v : Nat) : (s.setReg k v).gated = s.gated := rfl
@[simp] theorem State.setReg_time (s : State) (k v : Nat) : (s.setReg k v).time = s.time := rfl
@[simp] theorem State.setReg_launch (s : State) (k v : Nat) : (s.setReg k v).launch = s.launch := rfl
@[simp] theorem State.setReg_billing (s : State) (k v : Nat) : (s.setReg k v).billing = s.billing := rfl
@[simp] theorem State.setReg_bill (s : State) (k v : Nat) : (s.setReg k v).bill = s.bill := rfl
@[simp] theorem State.setReg_sec (s : State) (k v : Nat) : (s.setReg k v).sec = s.sec := rfl
@[simp] theorem State.setReg_pwr (s : State) (k v : Nat) : (s.setReg k v).pwr = s.pwr := rfl
@[simp] theorem State.setReg_nv (s : State) (k v : Nat) : (s.setReg k v).nv = s.nv := rfl
@[simp] theorem State.setReg_ao (s : State) (k v : Nat) : (s.setReg k v).ao = s.ao := rfl
@[simp] theorem State.setReg_dbg (s : State) (k v : Nat) : (s.setReg k v).dbg = s.dbg := rfl
@[simp] theorem State.setReg_trace (s : State) (k v : Nat) : (s.setReg k v).trace = s.trace := rfl
@[simp] theorem State.setReg_jobCause (s : State) (k v : Nat) : (s.setReg k v).jobCause = s.jobCause := rfl
@[simp] theorem State.setReg_jobLast (s : State) (k v : Nat) : (s.setReg k v).jobLast = s.jobLast := rfl
@[simp] theorem State.setReg_patrol (s : State) (k v : Nat) : (s.setReg k v).patrol = s.patrol := rfl
@[simp] theorem State.setReg_pairs (s : State) (k v : Nat) : (s.setReg k v).pairs = s.pairs := rfl
@[simp] theorem State.setReg_tablesLost (s : State) (k v : Nat) : (s.setReg k v).tablesLost = s.tablesLost := rfl
@[simp] theorem State.setReg_shareHeld (s : State) (k v : Nat) : (s.setReg k v).shareHeld = s.shareHeld := rfl
@[simp] theorem State.setReg_staged (s : State) (k v : Nat) : (s.setReg k v).staged = s.staged := rfl
@[simp] theorem State.setReg_latched (s : State) (k v : Nat) : (s.setReg k v).latched = s.latched := rfl

/-! ### State.setJob -/

@[simp] theorem State.setJob_pending (s : State) (slot : Nat) (j : Option Job) : (s.setJob slot j).pending = s.pending := rfl
@[simp] theorem State.setJob_freeCtr (s : State) (slot : Nat) (j : Option Job) : (s.setJob slot j).freeCtr = s.freeCtr := rfl
@[simp] theorem State.setJob_gc (s : State) (slot : Nat) (j : Option Job) : (s.setJob slot j).gc = s.gc := rfl
@[simp] theorem State.setJob_feat (s : State) (slot : Nat) (j : Option Job) : (s.setJob slot j).feat = s.feat := rfl
@[simp] theorem State.setJob_stage (s : State) (slot : Nat) (j : Option Job) : (s.setJob slot j).stage = s.stage := rfl
@[simp] theorem State.setJob_cells (s : State) (slot : Nat) (j : Option Job) : (s.setJob slot j).cells = s.cells := rfl
@[simp] theorem State.setJob_badCells (s : State) (slot : Nat) (j : Option Job) : (s.setJob slot j).badCells = s.badCells := rfl
@[simp] theorem State.setJob_routeBad (s : State) (slot : Nat) (j : Option Job) : (s.setJob slot j).routeBad = s.routeBad := rfl
@[simp] theorem State.setJob_heldPkts (s : State) (slot : Nat) (j : Option Job) : (s.setJob slot j).heldPkts = s.heldPkts := rfl
@[simp] theorem State.setJob_flits (s : State) (slot : Nat) (j : Option Job) : (s.setJob slot j).flits = s.flits := rfl
@[simp] theorem State.setJob_flitsSnap (s : State) (slot : Nat) (j : Option Job) : (s.setJob slot j).flitsSnap = s.flitsSnap := rfl
@[simp] theorem State.setJob_wheel (s : State) (slot : Nat) (j : Option Job) : (s.setJob slot j).wheel = s.wheel := rfl
@[simp] theorem State.setJob_links (s : State) (slot : Nat) (j : Option Job) : (s.setJob slot j).links = s.links := rfl
@[simp] theorem State.setJob_creditFlight (s : State) (slot : Nat) (j : Option Job) : (s.setJob slot j).creditFlight = s.creditFlight := rfl
@[simp] theorem State.setJob_flight (s : State) (slot : Nat) (j : Option Job) : (s.setJob slot j).flight = s.flight := rfl
@[simp] theorem State.setJob_sigs (s : State) (slot : Nat) (j : Option Job) : (s.setJob slot j).sigs = s.sigs := rfl
@[simp] theorem State.setJob_jobs (s : State) (slot : Nat) (j : Option Job) : (s.setJob slot j).jobs = Tab.put none s.jobs slot j := rfl
@[simp] theorem State.setJob_gals (s : State) (slot : Nat) (j : Option Job) : (s.setJob slot j).gals = s.gals := rfl
@[simp] theorem State.setJob_log (s : State) (slot : Nat) (j : Option Job) : (s.setJob slot j).log = s.log := rfl
@[simp] theorem State.setJob_bootCount (s : State) (slot : Nat) (j : Option Job) : (s.setJob slot j).bootCount = s.bootCount := rfl
@[simp] theorem State.setJob_shareClass (s : State) (slot : Nat) (j : Option Job) : (s.setJob slot j).shareClass = s.shareClass := rfl
@[simp] theorem State.setJob_arrayHeld (s : State) (slot : Nat) (j : Option Job) : (s.setJob slot j).arrayHeld = s.arrayHeld := rfl
@[simp] theorem State.setJob_regs (s : State) (slot : Nat) (j : Option Job) : (s.setJob slot j).regs = s.regs := rfl
@[simp] theorem State.setJob_rings (s : State) (slot : Nat) (j : Option Job) : (s.setJob slot j).rings = s.rings := rfl
@[simp] theorem State.setJob_cmds (s : State) (slot : Nat) (j : Option Job) : (s.setJob slot j).cmds = s.cmds := rfl
@[simp] theorem State.setJob_cmdCtr (s : State) (slot : Nat) (j : Option Job) : (s.setJob slot j).cmdCtr = s.cmdCtr := rfl
@[simp] theorem State.setJob_host (s : State) (slot : Nat) (j : Option Job) : (s.setJob slot j).host = s.host := rfl
@[simp] theorem State.setJob_lines (s : State) (slot : Nat) (j : Option Job) : (s.setJob slot j).lines = s.lines := rfl
@[simp] theorem State.setJob_fns (s : State) (slot : Nat) (j : Option Job) : (s.setJob slot j).fns = s.fns := rfl
@[simp] theorem State.setJob_vfEn (s : State) (slot : Nat) (j : Option Job) : (s.setJob slot j).vfEn = s.vfEn := rfl
@[simp] theorem State.setJob_pfOnly (s : State) (slot : Nat) (j : Option Job) : (s.setJob slot j).pfOnly = s.pfOnly := rfl
@[simp] theorem State.setJob_hbm (s : State) (slot : Nat) (j : Option Job) : (s.setJob slot j).hbm = s.hbm := rfl
@[simp] theorem State.setJob_hbmPoison (s : State) (slot : Nat) (j : Option Job) : (s.setJob slot j).hbmPoison = s.hbmPoison := rfl
@[simp] theorem State.setJob_cache (s : State) (slot : Nat) (j : Option Job) : (s.setJob slot j).cache = s.cache := rfl
@[simp] theorem State.setJob_tokens (s : State) (slot : Nat) (j : Option Job) : (s.setJob slot j).tokens = s.tokens := rfl
@[simp] theorem State.setJob_pages (s : State) (slot : Nat) (j : Option Job) : (s.setJob slot j).pages = s.pages := rfl
@[simp] theorem State.setJob_pageTag (s : State) (slot : Nat) (j : Option Job) : (s.setJob slot j).pageTag = s.pageTag := rfl
@[simp] theorem State.setJob_tlb (s : State) (slot : Nat) (j : Option Job) : (s.setJob slot j).tlb = s.tlb := rfl
@[simp] theorem State.setJob_pt (s : State) (slot : Nat) (j : Option Job) : (s.setJob slot j).pt = s.pt := rfl
@[simp] theorem State.setJob_l2 (s : State) (slot : Nat) (j : Option Job) : (s.setJob slot j).l2 = s.l2 := rfl
@[simp] theorem State.setJob_spreadPtr (s : State) (slot : Nat) (j : Option Job) : (s.setJob slot j).spreadPtr = s.spreadPtr := rfl
@[simp] theorem State.setJob_dieAlt (s : State) (slot : Nat) (j : Option Job) : (s.setJob slot j).dieAlt = s.dieAlt := rfl
@[simp] theorem State.setJob_reserves (s : State) (slot : Nat) (j : Option Job) : (s.setJob slot j).reserves = s.reserves := rfl
@[simp] theorem State.setJob_loads (s : State) (slot : Nat) (j : Option Job) : (s.setJob slot j).loads = s.loads := rfl
@[simp] theorem State.setJob_keySlots (s : State) (slot : Nat) (j : Option Job) : (s.setJob slot j).keySlots = s.keySlots := rfl
@[simp] theorem State.setJob_ferKeys (s : State) (slot : Nat) (j : Option Job) : (s.setJob slot j).ferKeys = s.ferKeys := rfl
@[simp] theorem State.setJob_engines (s : State) (slot : Nat) (j : Option Job) : (s.setJob slot j).engines = s.engines := rfl
@[simp] theorem State.setJob_engWheel (s : State) (slot : Nat) (j : Option Job) : (s.setJob slot j).engWheel = s.engWheel := rfl
@[simp] theorem State.setJob_fer (s : State) (slot : Nat) (j : Option Job) : (s.setJob slot j).fer = s.fer := rfl
@[simp] theorem State.setJob_groups (s : State) (slot : Nat) (j : Option Job) : (s.setJob slot j).groups = s.groups := rfl
@[simp] theorem State.setJob_grants (s : State) (slot : Nat) (j : Option Job) : (s.setJob slot j).grants = s.grants := rfl
@[simp] theorem State.setJob_gate (s : State) (slot : Nat) (j : Option Job) : (s.setJob slot j).gate = s.gate := rfl
@[simp] theorem State.setJob_aliasGate (s : State) (slot : Nat) (j : Option Job) : (s.setJob slot j).aliasGate = s.aliasGate := rfl
@[simp] theorem State.setJob_tether (s : State) (slot : Nat) (j : Option Job) : (s.setJob slot j).tether = s.tether := rfl
@[simp] theorem State.setJob_sag (s : State) (slot : Nat) (j : Option Job) : (s.setJob slot j).sag = s.sag := rfl
@[simp] theorem State.setJob_fatal (s : State) (slot : Nat) (j : Option Job) : (s.setJob slot j).fatal = s.fatal := rfl
@[simp] theorem State.setJob_shareW (s : State) (slot : Nat) (j : Option Job) : (s.setJob slot j).shareW = s.shareW := rfl
@[simp] theorem State.setJob_gated (s : State) (slot : Nat) (j : Option Job) : (s.setJob slot j).gated = s.gated := rfl
@[simp] theorem State.setJob_time (s : State) (slot : Nat) (j : Option Job) : (s.setJob slot j).time = s.time := rfl
@[simp] theorem State.setJob_launch (s : State) (slot : Nat) (j : Option Job) : (s.setJob slot j).launch = s.launch := rfl
@[simp] theorem State.setJob_billing (s : State) (slot : Nat) (j : Option Job) : (s.setJob slot j).billing = s.billing := rfl
@[simp] theorem State.setJob_bill (s : State) (slot : Nat) (j : Option Job) : (s.setJob slot j).bill = s.bill := rfl
@[simp] theorem State.setJob_sec (s : State) (slot : Nat) (j : Option Job) : (s.setJob slot j).sec = s.sec := rfl
@[simp] theorem State.setJob_pwr (s : State) (slot : Nat) (j : Option Job) : (s.setJob slot j).pwr = s.pwr := rfl
@[simp] theorem State.setJob_nv (s : State) (slot : Nat) (j : Option Job) : (s.setJob slot j).nv = s.nv := rfl
@[simp] theorem State.setJob_ao (s : State) (slot : Nat) (j : Option Job) : (s.setJob slot j).ao = s.ao := rfl
@[simp] theorem State.setJob_dbg (s : State) (slot : Nat) (j : Option Job) : (s.setJob slot j).dbg = s.dbg := rfl
@[simp] theorem State.setJob_trace (s : State) (slot : Nat) (j : Option Job) : (s.setJob slot j).trace = s.trace := rfl
@[simp] theorem State.setJob_jobCause (s : State) (slot : Nat) (j : Option Job) : (s.setJob slot j).jobCause = s.jobCause := rfl
@[simp] theorem State.setJob_jobLast (s : State) (slot : Nat) (j : Option Job) : (s.setJob slot j).jobLast = s.jobLast := rfl
@[simp] theorem State.setJob_patrol (s : State) (slot : Nat) (j : Option Job) : (s.setJob slot j).patrol = s.patrol := rfl
@[simp] theorem State.setJob_pairs (s : State) (slot : Nat) (j : Option Job) : (s.setJob slot j).pairs = s.pairs := rfl
@[simp] theorem State.setJob_tablesLost (s : State) (slot : Nat) (j : Option Job) : (s.setJob slot j).tablesLost = s.tablesLost := rfl
@[simp] theorem State.setJob_shareHeld (s : State) (slot : Nat) (j : Option Job) : (s.setJob slot j).shareHeld = s.shareHeld := rfl
@[simp] theorem State.setJob_staged (s : State) (slot : Nat) (j : Option Job) : (s.setJob slot j).staged = s.staged := rfl
@[simp] theorem State.setJob_latched (s : State) (slot : Nat) (j : Option Job) : (s.setJob slot j).latched = s.latched := rfl

/-! ### State.setFnCfg -/

@[simp] theorem State.setFnCfg_pending (s : State) (fn : Nat) (c : FnCfg) : (s.setFnCfg fn c).pending = s.pending := rfl
@[simp] theorem State.setFnCfg_freeCtr (s : State) (fn : Nat) (c : FnCfg) : (s.setFnCfg fn c).freeCtr = s.freeCtr := rfl
@[simp] theorem State.setFnCfg_gc (s : State) (fn : Nat) (c : FnCfg) : (s.setFnCfg fn c).gc = s.gc := rfl
@[simp] theorem State.setFnCfg_feat (s : State) (fn : Nat) (c : FnCfg) : (s.setFnCfg fn c).feat = s.feat := rfl
@[simp] theorem State.setFnCfg_stage (s : State) (fn : Nat) (c : FnCfg) : (s.setFnCfg fn c).stage = s.stage := rfl
@[simp] theorem State.setFnCfg_cells (s : State) (fn : Nat) (c : FnCfg) : (s.setFnCfg fn c).cells = s.cells := rfl
@[simp] theorem State.setFnCfg_badCells (s : State) (fn : Nat) (c : FnCfg) : (s.setFnCfg fn c).badCells = s.badCells := rfl
@[simp] theorem State.setFnCfg_routeBad (s : State) (fn : Nat) (c : FnCfg) : (s.setFnCfg fn c).routeBad = s.routeBad := rfl
@[simp] theorem State.setFnCfg_heldPkts (s : State) (fn : Nat) (c : FnCfg) : (s.setFnCfg fn c).heldPkts = s.heldPkts := rfl
@[simp] theorem State.setFnCfg_flits (s : State) (fn : Nat) (c : FnCfg) : (s.setFnCfg fn c).flits = s.flits := rfl
@[simp] theorem State.setFnCfg_flitsSnap (s : State) (fn : Nat) (c : FnCfg) : (s.setFnCfg fn c).flitsSnap = s.flitsSnap := rfl
@[simp] theorem State.setFnCfg_wheel (s : State) (fn : Nat) (c : FnCfg) : (s.setFnCfg fn c).wheel = s.wheel := rfl
@[simp] theorem State.setFnCfg_links (s : State) (fn : Nat) (c : FnCfg) : (s.setFnCfg fn c).links = s.links := rfl
@[simp] theorem State.setFnCfg_creditFlight (s : State) (fn : Nat) (c : FnCfg) : (s.setFnCfg fn c).creditFlight = s.creditFlight := rfl
@[simp] theorem State.setFnCfg_flight (s : State) (fn : Nat) (c : FnCfg) : (s.setFnCfg fn c).flight = s.flight := rfl
@[simp] theorem State.setFnCfg_sigs (s : State) (fn : Nat) (c : FnCfg) : (s.setFnCfg fn c).sigs = s.sigs := rfl
@[simp] theorem State.setFnCfg_jobs (s : State) (fn : Nat) (c : FnCfg) : (s.setFnCfg fn c).jobs = s.jobs := rfl
@[simp] theorem State.setFnCfg_gals (s : State) (fn : Nat) (c : FnCfg) : (s.setFnCfg fn c).gals = s.gals := rfl
@[simp] theorem State.setFnCfg_log (s : State) (fn : Nat) (c : FnCfg) : (s.setFnCfg fn c).log = s.log := rfl
@[simp] theorem State.setFnCfg_bootCount (s : State) (fn : Nat) (c : FnCfg) : (s.setFnCfg fn c).bootCount = s.bootCount := rfl
@[simp] theorem State.setFnCfg_shareClass (s : State) (fn : Nat) (c : FnCfg) : (s.setFnCfg fn c).shareClass = s.shareClass := rfl
@[simp] theorem State.setFnCfg_arrayHeld (s : State) (fn : Nat) (c : FnCfg) : (s.setFnCfg fn c).arrayHeld = s.arrayHeld := rfl
@[simp] theorem State.setFnCfg_regs (s : State) (fn : Nat) (c : FnCfg) : (s.setFnCfg fn c).regs = s.regs := rfl
@[simp] theorem State.setFnCfg_rings (s : State) (fn : Nat) (c : FnCfg) : (s.setFnCfg fn c).rings = s.rings := rfl
@[simp] theorem State.setFnCfg_cmds (s : State) (fn : Nat) (c : FnCfg) : (s.setFnCfg fn c).cmds = s.cmds := rfl
@[simp] theorem State.setFnCfg_cmdCtr (s : State) (fn : Nat) (c : FnCfg) : (s.setFnCfg fn c).cmdCtr = s.cmdCtr := rfl
@[simp] theorem State.setFnCfg_host (s : State) (fn : Nat) (c : FnCfg) : (s.setFnCfg fn c).host = s.host := rfl
@[simp] theorem State.setFnCfg_lines (s : State) (fn : Nat) (c : FnCfg) : (s.setFnCfg fn c).lines = s.lines := rfl
@[simp] theorem State.setFnCfg_fns (s : State) (fn : Nat) (c : FnCfg) : (s.setFnCfg fn c).fns = Tab.put {} s.fns fn c := rfl
@[simp] theorem State.setFnCfg_vfEn (s : State) (fn : Nat) (c : FnCfg) : (s.setFnCfg fn c).vfEn = s.vfEn := rfl
@[simp] theorem State.setFnCfg_pfOnly (s : State) (fn : Nat) (c : FnCfg) : (s.setFnCfg fn c).pfOnly = s.pfOnly := rfl
@[simp] theorem State.setFnCfg_hbm (s : State) (fn : Nat) (c : FnCfg) : (s.setFnCfg fn c).hbm = s.hbm := rfl
@[simp] theorem State.setFnCfg_hbmPoison (s : State) (fn : Nat) (c : FnCfg) : (s.setFnCfg fn c).hbmPoison = s.hbmPoison := rfl
@[simp] theorem State.setFnCfg_cache (s : State) (fn : Nat) (c : FnCfg) : (s.setFnCfg fn c).cache = s.cache := rfl
@[simp] theorem State.setFnCfg_tokens (s : State) (fn : Nat) (c : FnCfg) : (s.setFnCfg fn c).tokens = s.tokens := rfl
@[simp] theorem State.setFnCfg_pages (s : State) (fn : Nat) (c : FnCfg) : (s.setFnCfg fn c).pages = s.pages := rfl
@[simp] theorem State.setFnCfg_pageTag (s : State) (fn : Nat) (c : FnCfg) : (s.setFnCfg fn c).pageTag = s.pageTag := rfl
@[simp] theorem State.setFnCfg_tlb (s : State) (fn : Nat) (c : FnCfg) : (s.setFnCfg fn c).tlb = s.tlb := rfl
@[simp] theorem State.setFnCfg_pt (s : State) (fn : Nat) (c : FnCfg) : (s.setFnCfg fn c).pt = s.pt := rfl
@[simp] theorem State.setFnCfg_l2 (s : State) (fn : Nat) (c : FnCfg) : (s.setFnCfg fn c).l2 = s.l2 := rfl
@[simp] theorem State.setFnCfg_spreadPtr (s : State) (fn : Nat) (c : FnCfg) : (s.setFnCfg fn c).spreadPtr = s.spreadPtr := rfl
@[simp] theorem State.setFnCfg_dieAlt (s : State) (fn : Nat) (c : FnCfg) : (s.setFnCfg fn c).dieAlt = s.dieAlt := rfl
@[simp] theorem State.setFnCfg_reserves (s : State) (fn : Nat) (c : FnCfg) : (s.setFnCfg fn c).reserves = s.reserves := rfl
@[simp] theorem State.setFnCfg_loads (s : State) (fn : Nat) (c : FnCfg) : (s.setFnCfg fn c).loads = s.loads := rfl
@[simp] theorem State.setFnCfg_keySlots (s : State) (fn : Nat) (c : FnCfg) : (s.setFnCfg fn c).keySlots = s.keySlots := rfl
@[simp] theorem State.setFnCfg_ferKeys (s : State) (fn : Nat) (c : FnCfg) : (s.setFnCfg fn c).ferKeys = s.ferKeys := rfl
@[simp] theorem State.setFnCfg_engines (s : State) (fn : Nat) (c : FnCfg) : (s.setFnCfg fn c).engines = s.engines := rfl
@[simp] theorem State.setFnCfg_engWheel (s : State) (fn : Nat) (c : FnCfg) : (s.setFnCfg fn c).engWheel = s.engWheel := rfl
@[simp] theorem State.setFnCfg_fer (s : State) (fn : Nat) (c : FnCfg) : (s.setFnCfg fn c).fer = s.fer := rfl
@[simp] theorem State.setFnCfg_groups (s : State) (fn : Nat) (c : FnCfg) : (s.setFnCfg fn c).groups = s.groups := rfl
@[simp] theorem State.setFnCfg_grants (s : State) (fn : Nat) (c : FnCfg) : (s.setFnCfg fn c).grants = s.grants := rfl
@[simp] theorem State.setFnCfg_gate (s : State) (fn : Nat) (c : FnCfg) : (s.setFnCfg fn c).gate = s.gate := rfl
@[simp] theorem State.setFnCfg_aliasGate (s : State) (fn : Nat) (c : FnCfg) : (s.setFnCfg fn c).aliasGate = s.aliasGate := rfl
@[simp] theorem State.setFnCfg_tether (s : State) (fn : Nat) (c : FnCfg) : (s.setFnCfg fn c).tether = s.tether := rfl
@[simp] theorem State.setFnCfg_sag (s : State) (fn : Nat) (c : FnCfg) : (s.setFnCfg fn c).sag = s.sag := rfl
@[simp] theorem State.setFnCfg_fatal (s : State) (fn : Nat) (c : FnCfg) : (s.setFnCfg fn c).fatal = s.fatal := rfl
@[simp] theorem State.setFnCfg_shareW (s : State) (fn : Nat) (c : FnCfg) : (s.setFnCfg fn c).shareW = s.shareW := rfl
@[simp] theorem State.setFnCfg_gated (s : State) (fn : Nat) (c : FnCfg) : (s.setFnCfg fn c).gated = s.gated := rfl
@[simp] theorem State.setFnCfg_time (s : State) (fn : Nat) (c : FnCfg) : (s.setFnCfg fn c).time = s.time := rfl
@[simp] theorem State.setFnCfg_launch (s : State) (fn : Nat) (c : FnCfg) : (s.setFnCfg fn c).launch = s.launch := rfl
@[simp] theorem State.setFnCfg_billing (s : State) (fn : Nat) (c : FnCfg) : (s.setFnCfg fn c).billing = s.billing := rfl
@[simp] theorem State.setFnCfg_bill (s : State) (fn : Nat) (c : FnCfg) : (s.setFnCfg fn c).bill = s.bill := rfl
@[simp] theorem State.setFnCfg_sec (s : State) (fn : Nat) (c : FnCfg) : (s.setFnCfg fn c).sec = s.sec := rfl
@[simp] theorem State.setFnCfg_pwr (s : State) (fn : Nat) (c : FnCfg) : (s.setFnCfg fn c).pwr = s.pwr := rfl
@[simp] theorem State.setFnCfg_nv (s : State) (fn : Nat) (c : FnCfg) : (s.setFnCfg fn c).nv = s.nv := rfl
@[simp] theorem State.setFnCfg_ao (s : State) (fn : Nat) (c : FnCfg) : (s.setFnCfg fn c).ao = s.ao := rfl
@[simp] theorem State.setFnCfg_dbg (s : State) (fn : Nat) (c : FnCfg) : (s.setFnCfg fn c).dbg = s.dbg := rfl
@[simp] theorem State.setFnCfg_trace (s : State) (fn : Nat) (c : FnCfg) : (s.setFnCfg fn c).trace = s.trace := rfl
@[simp] theorem State.setFnCfg_jobCause (s : State) (fn : Nat) (c : FnCfg) : (s.setFnCfg fn c).jobCause = s.jobCause := rfl
@[simp] theorem State.setFnCfg_jobLast (s : State) (fn : Nat) (c : FnCfg) : (s.setFnCfg fn c).jobLast = s.jobLast := rfl
@[simp] theorem State.setFnCfg_patrol (s : State) (fn : Nat) (c : FnCfg) : (s.setFnCfg fn c).patrol = s.patrol := rfl
@[simp] theorem State.setFnCfg_pairs (s : State) (fn : Nat) (c : FnCfg) : (s.setFnCfg fn c).pairs = s.pairs := rfl
@[simp] theorem State.setFnCfg_tablesLost (s : State) (fn : Nat) (c : FnCfg) : (s.setFnCfg fn c).tablesLost = s.tablesLost := rfl
@[simp] theorem State.setFnCfg_shareHeld (s : State) (fn : Nat) (c : FnCfg) : (s.setFnCfg fn c).shareHeld = s.shareHeld := rfl
@[simp] theorem State.setFnCfg_staged (s : State) (fn : Nat) (c : FnCfg) : (s.setFnCfg fn c).staged = s.staged := rfl
@[simp] theorem State.setFnCfg_latched (s : State) (fn : Nat) (c : FnCfg) : (s.setFnCfg fn c).latched = s.latched := rfl

/-! ### State.setRing -/

@[simp] theorem State.setRing_pending (s : State) (fn k : Nat) (r : Ring) : (s.setRing fn k r).pending = s.pending := rfl
@[simp] theorem State.setRing_freeCtr (s : State) (fn k : Nat) (r : Ring) : (s.setRing fn k r).freeCtr = s.freeCtr := rfl
@[simp] theorem State.setRing_gc (s : State) (fn k : Nat) (r : Ring) : (s.setRing fn k r).gc = s.gc := rfl
@[simp] theorem State.setRing_feat (s : State) (fn k : Nat) (r : Ring) : (s.setRing fn k r).feat = s.feat := rfl
@[simp] theorem State.setRing_stage (s : State) (fn k : Nat) (r : Ring) : (s.setRing fn k r).stage = s.stage := rfl
@[simp] theorem State.setRing_cells (s : State) (fn k : Nat) (r : Ring) : (s.setRing fn k r).cells = s.cells := rfl
@[simp] theorem State.setRing_badCells (s : State) (fn k : Nat) (r : Ring) : (s.setRing fn k r).badCells = s.badCells := rfl
@[simp] theorem State.setRing_routeBad (s : State) (fn k : Nat) (r : Ring) : (s.setRing fn k r).routeBad = s.routeBad := rfl
@[simp] theorem State.setRing_heldPkts (s : State) (fn k : Nat) (r : Ring) : (s.setRing fn k r).heldPkts = s.heldPkts := rfl
@[simp] theorem State.setRing_flits (s : State) (fn k : Nat) (r : Ring) : (s.setRing fn k r).flits = s.flits := rfl
@[simp] theorem State.setRing_flitsSnap (s : State) (fn k : Nat) (r : Ring) : (s.setRing fn k r).flitsSnap = s.flitsSnap := rfl
@[simp] theorem State.setRing_wheel (s : State) (fn k : Nat) (r : Ring) : (s.setRing fn k r).wheel = s.wheel := rfl
@[simp] theorem State.setRing_links (s : State) (fn k : Nat) (r : Ring) : (s.setRing fn k r).links = s.links := rfl
@[simp] theorem State.setRing_creditFlight (s : State) (fn k : Nat) (r : Ring) : (s.setRing fn k r).creditFlight = s.creditFlight := rfl
@[simp] theorem State.setRing_flight (s : State) (fn k : Nat) (r : Ring) : (s.setRing fn k r).flight = s.flight := rfl
@[simp] theorem State.setRing_sigs (s : State) (fn k : Nat) (r : Ring) : (s.setRing fn k r).sigs = s.sigs := rfl
@[simp] theorem State.setRing_jobs (s : State) (fn k : Nat) (r : Ring) : (s.setRing fn k r).jobs = s.jobs := rfl
@[simp] theorem State.setRing_gals (s : State) (fn k : Nat) (r : Ring) : (s.setRing fn k r).gals = s.gals := rfl
@[simp] theorem State.setRing_log (s : State) (fn k : Nat) (r : Ring) : (s.setRing fn k r).log = s.log := rfl
@[simp] theorem State.setRing_bootCount (s : State) (fn k : Nat) (r : Ring) : (s.setRing fn k r).bootCount = s.bootCount := rfl
@[simp] theorem State.setRing_shareClass (s : State) (fn k : Nat) (r : Ring) : (s.setRing fn k r).shareClass = s.shareClass := rfl
@[simp] theorem State.setRing_arrayHeld (s : State) (fn k : Nat) (r : Ring) : (s.setRing fn k r).arrayHeld = s.arrayHeld := rfl
@[simp] theorem State.setRing_regs (s : State) (fn k : Nat) (r : Ring) : (s.setRing fn k r).regs = s.regs := rfl
@[simp] theorem State.setRing_rings (s : State) (fn k : Nat) (r : Ring) : (s.setRing fn k r).rings = Tab.put {} s.rings (8 * fn + k % 8) r := rfl
@[simp] theorem State.setRing_cmds (s : State) (fn k : Nat) (r : Ring) : (s.setRing fn k r).cmds = s.cmds := rfl
@[simp] theorem State.setRing_cmdCtr (s : State) (fn k : Nat) (r : Ring) : (s.setRing fn k r).cmdCtr = s.cmdCtr := rfl
@[simp] theorem State.setRing_host (s : State) (fn k : Nat) (r : Ring) : (s.setRing fn k r).host = s.host := rfl
@[simp] theorem State.setRing_lines (s : State) (fn k : Nat) (r : Ring) : (s.setRing fn k r).lines = s.lines := rfl
@[simp] theorem State.setRing_fns (s : State) (fn k : Nat) (r : Ring) : (s.setRing fn k r).fns = s.fns := rfl
@[simp] theorem State.setRing_vfEn (s : State) (fn k : Nat) (r : Ring) : (s.setRing fn k r).vfEn = s.vfEn := rfl
@[simp] theorem State.setRing_pfOnly (s : State) (fn k : Nat) (r : Ring) : (s.setRing fn k r).pfOnly = s.pfOnly := rfl
@[simp] theorem State.setRing_hbm (s : State) (fn k : Nat) (r : Ring) : (s.setRing fn k r).hbm = s.hbm := rfl
@[simp] theorem State.setRing_hbmPoison (s : State) (fn k : Nat) (r : Ring) : (s.setRing fn k r).hbmPoison = s.hbmPoison := rfl
@[simp] theorem State.setRing_cache (s : State) (fn k : Nat) (r : Ring) : (s.setRing fn k r).cache = s.cache := rfl
@[simp] theorem State.setRing_tokens (s : State) (fn k : Nat) (r : Ring) : (s.setRing fn k r).tokens = s.tokens := rfl
@[simp] theorem State.setRing_pages (s : State) (fn k : Nat) (r : Ring) : (s.setRing fn k r).pages = s.pages := rfl
@[simp] theorem State.setRing_pageTag (s : State) (fn k : Nat) (r : Ring) : (s.setRing fn k r).pageTag = s.pageTag := rfl
@[simp] theorem State.setRing_tlb (s : State) (fn k : Nat) (r : Ring) : (s.setRing fn k r).tlb = s.tlb := rfl
@[simp] theorem State.setRing_pt (s : State) (fn k : Nat) (r : Ring) : (s.setRing fn k r).pt = s.pt := rfl
@[simp] theorem State.setRing_l2 (s : State) (fn k : Nat) (r : Ring) : (s.setRing fn k r).l2 = s.l2 := rfl
@[simp] theorem State.setRing_spreadPtr (s : State) (fn k : Nat) (r : Ring) : (s.setRing fn k r).spreadPtr = s.spreadPtr := rfl
@[simp] theorem State.setRing_dieAlt (s : State) (fn k : Nat) (r : Ring) : (s.setRing fn k r).dieAlt = s.dieAlt := rfl
@[simp] theorem State.setRing_reserves (s : State) (fn k : Nat) (r : Ring) : (s.setRing fn k r).reserves = s.reserves := rfl
@[simp] theorem State.setRing_loads (s : State) (fn k : Nat) (r : Ring) : (s.setRing fn k r).loads = s.loads := rfl
@[simp] theorem State.setRing_keySlots (s : State) (fn k : Nat) (r : Ring) : (s.setRing fn k r).keySlots = s.keySlots := rfl
@[simp] theorem State.setRing_ferKeys (s : State) (fn k : Nat) (r : Ring) : (s.setRing fn k r).ferKeys = s.ferKeys := rfl
@[simp] theorem State.setRing_engines (s : State) (fn k : Nat) (r : Ring) : (s.setRing fn k r).engines = s.engines := rfl
@[simp] theorem State.setRing_engWheel (s : State) (fn k : Nat) (r : Ring) : (s.setRing fn k r).engWheel = s.engWheel := rfl
@[simp] theorem State.setRing_fer (s : State) (fn k : Nat) (r : Ring) : (s.setRing fn k r).fer = s.fer := rfl
@[simp] theorem State.setRing_groups (s : State) (fn k : Nat) (r : Ring) : (s.setRing fn k r).groups = s.groups := rfl
@[simp] theorem State.setRing_grants (s : State) (fn k : Nat) (r : Ring) : (s.setRing fn k r).grants = s.grants := rfl
@[simp] theorem State.setRing_gate (s : State) (fn k : Nat) (r : Ring) : (s.setRing fn k r).gate = s.gate := rfl
@[simp] theorem State.setRing_aliasGate (s : State) (fn k : Nat) (r : Ring) : (s.setRing fn k r).aliasGate = s.aliasGate := rfl
@[simp] theorem State.setRing_tether (s : State) (fn k : Nat) (r : Ring) : (s.setRing fn k r).tether = s.tether := rfl
@[simp] theorem State.setRing_sag (s : State) (fn k : Nat) (r : Ring) : (s.setRing fn k r).sag = s.sag := rfl
@[simp] theorem State.setRing_fatal (s : State) (fn k : Nat) (r : Ring) : (s.setRing fn k r).fatal = s.fatal := rfl
@[simp] theorem State.setRing_shareW (s : State) (fn k : Nat) (r : Ring) : (s.setRing fn k r).shareW = s.shareW := rfl
@[simp] theorem State.setRing_gated (s : State) (fn k : Nat) (r : Ring) : (s.setRing fn k r).gated = s.gated := rfl
@[simp] theorem State.setRing_time (s : State) (fn k : Nat) (r : Ring) : (s.setRing fn k r).time = s.time := rfl
@[simp] theorem State.setRing_launch (s : State) (fn k : Nat) (r : Ring) : (s.setRing fn k r).launch = s.launch := rfl
@[simp] theorem State.setRing_billing (s : State) (fn k : Nat) (r : Ring) : (s.setRing fn k r).billing = s.billing := rfl
@[simp] theorem State.setRing_bill (s : State) (fn k : Nat) (r : Ring) : (s.setRing fn k r).bill = s.bill := rfl
@[simp] theorem State.setRing_sec (s : State) (fn k : Nat) (r : Ring) : (s.setRing fn k r).sec = s.sec := rfl
@[simp] theorem State.setRing_pwr (s : State) (fn k : Nat) (r : Ring) : (s.setRing fn k r).pwr = s.pwr := rfl
@[simp] theorem State.setRing_nv (s : State) (fn k : Nat) (r : Ring) : (s.setRing fn k r).nv = s.nv := rfl
@[simp] theorem State.setRing_ao (s : State) (fn k : Nat) (r : Ring) : (s.setRing fn k r).ao = s.ao := rfl
@[simp] theorem State.setRing_dbg (s : State) (fn k : Nat) (r : Ring) : (s.setRing fn k r).dbg = s.dbg := rfl
@[simp] theorem State.setRing_trace (s : State) (fn k : Nat) (r : Ring) : (s.setRing fn k r).trace = s.trace := rfl
@[simp] theorem State.setRing_jobCause (s : State) (fn k : Nat) (r : Ring) : (s.setRing fn k r).jobCause = s.jobCause := rfl
@[simp] theorem State.setRing_jobLast (s : State) (fn k : Nat) (r : Ring) : (s.setRing fn k r).jobLast = s.jobLast := rfl
@[simp] theorem State.setRing_patrol (s : State) (fn k : Nat) (r : Ring) : (s.setRing fn k r).patrol = s.patrol := rfl
@[simp] theorem State.setRing_pairs (s : State) (fn k : Nat) (r : Ring) : (s.setRing fn k r).pairs = s.pairs := rfl
@[simp] theorem State.setRing_tablesLost (s : State) (fn k : Nat) (r : Ring) : (s.setRing fn k r).tablesLost = s.tablesLost := rfl
@[simp] theorem State.setRing_shareHeld (s : State) (fn k : Nat) (r : Ring) : (s.setRing fn k r).shareHeld = s.shareHeld := rfl
@[simp] theorem State.setRing_staged (s : State) (fn k : Nat) (r : Ring) : (s.setRing fn k r).staged = s.staged := rfl
@[simp] theorem State.setRing_latched (s : State) (fn k : Nat) (r : Ring) : (s.setRing fn k r).latched = s.latched := rfl

/-! ### State.setSignal -/

@[simp] theorem State.setSignal_pending (s : State) (n : Nat) (g : Signal) : (s.setSignal n g).pending = s.pending := rfl
@[simp] theorem State.setSignal_freeCtr (s : State) (n : Nat) (g : Signal) : (s.setSignal n g).freeCtr = s.freeCtr := rfl
@[simp] theorem State.setSignal_gc (s : State) (n : Nat) (g : Signal) : (s.setSignal n g).gc = s.gc := rfl
@[simp] theorem State.setSignal_feat (s : State) (n : Nat) (g : Signal) : (s.setSignal n g).feat = s.feat := rfl
@[simp] theorem State.setSignal_stage (s : State) (n : Nat) (g : Signal) : (s.setSignal n g).stage = s.stage := rfl
@[simp] theorem State.setSignal_cells (s : State) (n : Nat) (g : Signal) : (s.setSignal n g).cells = s.cells := rfl
@[simp] theorem State.setSignal_badCells (s : State) (n : Nat) (g : Signal) : (s.setSignal n g).badCells = s.badCells := rfl
@[simp] theorem State.setSignal_routeBad (s : State) (n : Nat) (g : Signal) : (s.setSignal n g).routeBad = s.routeBad := rfl
@[simp] theorem State.setSignal_heldPkts (s : State) (n : Nat) (g : Signal) : (s.setSignal n g).heldPkts = s.heldPkts := rfl
@[simp] theorem State.setSignal_flits (s : State) (n : Nat) (g : Signal) : (s.setSignal n g).flits = s.flits := rfl
@[simp] theorem State.setSignal_flitsSnap (s : State) (n : Nat) (g : Signal) : (s.setSignal n g).flitsSnap = s.flitsSnap := rfl
@[simp] theorem State.setSignal_wheel (s : State) (n : Nat) (g : Signal) : (s.setSignal n g).wheel = s.wheel := rfl
@[simp] theorem State.setSignal_links (s : State) (n : Nat) (g : Signal) : (s.setSignal n g).links = s.links := rfl
@[simp] theorem State.setSignal_creditFlight (s : State) (n : Nat) (g : Signal) : (s.setSignal n g).creditFlight = s.creditFlight := rfl
@[simp] theorem State.setSignal_flight (s : State) (n : Nat) (g : Signal) : (s.setSignal n g).flight = s.flight := rfl
@[simp] theorem State.setSignal_sigs (s : State) (n : Nat) (g : Signal) : (s.setSignal n g).sigs = Tab.put {} s.sigs n g := rfl
@[simp] theorem State.setSignal_jobs (s : State) (n : Nat) (g : Signal) : (s.setSignal n g).jobs = s.jobs := rfl
@[simp] theorem State.setSignal_gals (s : State) (n : Nat) (g : Signal) : (s.setSignal n g).gals = s.gals := rfl
@[simp] theorem State.setSignal_log (s : State) (n : Nat) (g : Signal) : (s.setSignal n g).log = s.log := rfl
@[simp] theorem State.setSignal_bootCount (s : State) (n : Nat) (g : Signal) : (s.setSignal n g).bootCount = s.bootCount := rfl
@[simp] theorem State.setSignal_shareClass (s : State) (n : Nat) (g : Signal) : (s.setSignal n g).shareClass = s.shareClass := rfl
@[simp] theorem State.setSignal_arrayHeld (s : State) (n : Nat) (g : Signal) : (s.setSignal n g).arrayHeld = s.arrayHeld := rfl
@[simp] theorem State.setSignal_regs (s : State) (n : Nat) (g : Signal) : (s.setSignal n g).regs = s.regs := rfl
@[simp] theorem State.setSignal_rings (s : State) (n : Nat) (g : Signal) : (s.setSignal n g).rings = s.rings := rfl
@[simp] theorem State.setSignal_cmds (s : State) (n : Nat) (g : Signal) : (s.setSignal n g).cmds = s.cmds := rfl
@[simp] theorem State.setSignal_cmdCtr (s : State) (n : Nat) (g : Signal) : (s.setSignal n g).cmdCtr = s.cmdCtr := rfl
@[simp] theorem State.setSignal_host (s : State) (n : Nat) (g : Signal) : (s.setSignal n g).host = s.host := rfl
@[simp] theorem State.setSignal_lines (s : State) (n : Nat) (g : Signal) : (s.setSignal n g).lines = s.lines := rfl
@[simp] theorem State.setSignal_fns (s : State) (n : Nat) (g : Signal) : (s.setSignal n g).fns = s.fns := rfl
@[simp] theorem State.setSignal_vfEn (s : State) (n : Nat) (g : Signal) : (s.setSignal n g).vfEn = s.vfEn := rfl
@[simp] theorem State.setSignal_pfOnly (s : State) (n : Nat) (g : Signal) : (s.setSignal n g).pfOnly = s.pfOnly := rfl
@[simp] theorem State.setSignal_hbm (s : State) (n : Nat) (g : Signal) : (s.setSignal n g).hbm = s.hbm := rfl
@[simp] theorem State.setSignal_hbmPoison (s : State) (n : Nat) (g : Signal) : (s.setSignal n g).hbmPoison = s.hbmPoison := rfl
@[simp] theorem State.setSignal_cache (s : State) (n : Nat) (g : Signal) : (s.setSignal n g).cache = s.cache := rfl
@[simp] theorem State.setSignal_tokens (s : State) (n : Nat) (g : Signal) : (s.setSignal n g).tokens = s.tokens := rfl
@[simp] theorem State.setSignal_pages (s : State) (n : Nat) (g : Signal) : (s.setSignal n g).pages = s.pages := rfl
@[simp] theorem State.setSignal_pageTag (s : State) (n : Nat) (g : Signal) : (s.setSignal n g).pageTag = s.pageTag := rfl
@[simp] theorem State.setSignal_tlb (s : State) (n : Nat) (g : Signal) : (s.setSignal n g).tlb = s.tlb := rfl
@[simp] theorem State.setSignal_pt (s : State) (n : Nat) (g : Signal) : (s.setSignal n g).pt = s.pt := rfl
@[simp] theorem State.setSignal_l2 (s : State) (n : Nat) (g : Signal) : (s.setSignal n g).l2 = s.l2 := rfl
@[simp] theorem State.setSignal_spreadPtr (s : State) (n : Nat) (g : Signal) : (s.setSignal n g).spreadPtr = s.spreadPtr := rfl
@[simp] theorem State.setSignal_dieAlt (s : State) (n : Nat) (g : Signal) : (s.setSignal n g).dieAlt = s.dieAlt := rfl
@[simp] theorem State.setSignal_reserves (s : State) (n : Nat) (g : Signal) : (s.setSignal n g).reserves = s.reserves := rfl
@[simp] theorem State.setSignal_loads (s : State) (n : Nat) (g : Signal) : (s.setSignal n g).loads = s.loads := rfl
@[simp] theorem State.setSignal_keySlots (s : State) (n : Nat) (g : Signal) : (s.setSignal n g).keySlots = s.keySlots := rfl
@[simp] theorem State.setSignal_ferKeys (s : State) (n : Nat) (g : Signal) : (s.setSignal n g).ferKeys = s.ferKeys := rfl
@[simp] theorem State.setSignal_engines (s : State) (n : Nat) (g : Signal) : (s.setSignal n g).engines = s.engines := rfl
@[simp] theorem State.setSignal_engWheel (s : State) (n : Nat) (g : Signal) : (s.setSignal n g).engWheel = s.engWheel := rfl
@[simp] theorem State.setSignal_fer (s : State) (n : Nat) (g : Signal) : (s.setSignal n g).fer = s.fer := rfl
@[simp] theorem State.setSignal_groups (s : State) (n : Nat) (g : Signal) : (s.setSignal n g).groups = s.groups := rfl
@[simp] theorem State.setSignal_grants (s : State) (n : Nat) (g : Signal) : (s.setSignal n g).grants = s.grants := rfl
@[simp] theorem State.setSignal_gate (s : State) (n : Nat) (g : Signal) : (s.setSignal n g).gate = s.gate := rfl
@[simp] theorem State.setSignal_aliasGate (s : State) (n : Nat) (g : Signal) : (s.setSignal n g).aliasGate = s.aliasGate := rfl
@[simp] theorem State.setSignal_tether (s : State) (n : Nat) (g : Signal) : (s.setSignal n g).tether = s.tether := rfl
@[simp] theorem State.setSignal_sag (s : State) (n : Nat) (g : Signal) : (s.setSignal n g).sag = s.sag := rfl
@[simp] theorem State.setSignal_fatal (s : State) (n : Nat) (g : Signal) : (s.setSignal n g).fatal = s.fatal := rfl
@[simp] theorem State.setSignal_shareW (s : State) (n : Nat) (g : Signal) : (s.setSignal n g).shareW = s.shareW := rfl
@[simp] theorem State.setSignal_gated (s : State) (n : Nat) (g : Signal) : (s.setSignal n g).gated = s.gated := rfl
@[simp] theorem State.setSignal_time (s : State) (n : Nat) (g : Signal) : (s.setSignal n g).time = s.time := rfl
@[simp] theorem State.setSignal_launch (s : State) (n : Nat) (g : Signal) : (s.setSignal n g).launch = s.launch := rfl
@[simp] theorem State.setSignal_billing (s : State) (n : Nat) (g : Signal) : (s.setSignal n g).billing = s.billing := rfl
@[simp] theorem State.setSignal_bill (s : State) (n : Nat) (g : Signal) : (s.setSignal n g).bill = s.bill := rfl
@[simp] theorem State.setSignal_sec (s : State) (n : Nat) (g : Signal) : (s.setSignal n g).sec = s.sec := rfl
@[simp] theorem State.setSignal_pwr (s : State) (n : Nat) (g : Signal) : (s.setSignal n g).pwr = s.pwr := rfl
@[simp] theorem State.setSignal_nv (s : State) (n : Nat) (g : Signal) : (s.setSignal n g).nv = s.nv := rfl
@[simp] theorem State.setSignal_ao (s : State) (n : Nat) (g : Signal) : (s.setSignal n g).ao = s.ao := rfl
@[simp] theorem State.setSignal_dbg (s : State) (n : Nat) (g : Signal) : (s.setSignal n g).dbg = s.dbg := rfl
@[simp] theorem State.setSignal_trace (s : State) (n : Nat) (g : Signal) : (s.setSignal n g).trace = s.trace := rfl
@[simp] theorem State.setSignal_jobCause (s : State) (n : Nat) (g : Signal) : (s.setSignal n g).jobCause = s.jobCause := rfl
@[simp] theorem State.setSignal_jobLast (s : State) (n : Nat) (g : Signal) : (s.setSignal n g).jobLast = s.jobLast := rfl
@[simp] theorem State.setSignal_patrol (s : State) (n : Nat) (g : Signal) : (s.setSignal n g).patrol = s.patrol := rfl
@[simp] theorem State.setSignal_pairs (s : State) (n : Nat) (g : Signal) : (s.setSignal n g).pairs = s.pairs := rfl
@[simp] theorem State.setSignal_tablesLost (s : State) (n : Nat) (g : Signal) : (s.setSignal n g).tablesLost = s.tablesLost := rfl
@[simp] theorem State.setSignal_shareHeld (s : State) (n : Nat) (g : Signal) : (s.setSignal n g).shareHeld = s.shareHeld := rfl
@[simp] theorem State.setSignal_staged (s : State) (n : Nat) (g : Signal) : (s.setSignal n g).staged = s.staged := rfl
@[simp] theorem State.setSignal_latched (s : State) (n : Nat) (g : Signal) : (s.setSignal n g).latched = s.latched := rfl

/-! ### State.setGallery -/

@[simp] theorem State.setGallery_pending (s : State) (n : Nat) (g : Option Gallery) : (s.setGallery n g).pending = s.pending := rfl
@[simp] theorem State.setGallery_freeCtr (s : State) (n : Nat) (g : Option Gallery) : (s.setGallery n g).freeCtr = s.freeCtr := rfl
@[simp] theorem State.setGallery_gc (s : State) (n : Nat) (g : Option Gallery) : (s.setGallery n g).gc = s.gc := rfl
@[simp] theorem State.setGallery_feat (s : State) (n : Nat) (g : Option Gallery) : (s.setGallery n g).feat = s.feat := rfl
@[simp] theorem State.setGallery_stage (s : State) (n : Nat) (g : Option Gallery) : (s.setGallery n g).stage = s.stage := rfl
@[simp] theorem State.setGallery_cells (s : State) (n : Nat) (g : Option Gallery) : (s.setGallery n g).cells = s.cells := rfl
@[simp] theorem State.setGallery_badCells (s : State) (n : Nat) (g : Option Gallery) : (s.setGallery n g).badCells = s.badCells := rfl
@[simp] theorem State.setGallery_routeBad (s : State) (n : Nat) (g : Option Gallery) : (s.setGallery n g).routeBad = s.routeBad := rfl
@[simp] theorem State.setGallery_heldPkts (s : State) (n : Nat) (g : Option Gallery) : (s.setGallery n g).heldPkts = s.heldPkts := rfl
@[simp] theorem State.setGallery_flits (s : State) (n : Nat) (g : Option Gallery) : (s.setGallery n g).flits = s.flits := rfl
@[simp] theorem State.setGallery_flitsSnap (s : State) (n : Nat) (g : Option Gallery) : (s.setGallery n g).flitsSnap = s.flitsSnap := rfl
@[simp] theorem State.setGallery_wheel (s : State) (n : Nat) (g : Option Gallery) : (s.setGallery n g).wheel = s.wheel := rfl
@[simp] theorem State.setGallery_links (s : State) (n : Nat) (g : Option Gallery) : (s.setGallery n g).links = s.links := rfl
@[simp] theorem State.setGallery_creditFlight (s : State) (n : Nat) (g : Option Gallery) : (s.setGallery n g).creditFlight = s.creditFlight := rfl
@[simp] theorem State.setGallery_flight (s : State) (n : Nat) (g : Option Gallery) : (s.setGallery n g).flight = s.flight := rfl
@[simp] theorem State.setGallery_sigs (s : State) (n : Nat) (g : Option Gallery) : (s.setGallery n g).sigs = s.sigs := rfl
@[simp] theorem State.setGallery_jobs (s : State) (n : Nat) (g : Option Gallery) : (s.setGallery n g).jobs = s.jobs := rfl
@[simp] theorem State.setGallery_gals (s : State) (n : Nat) (g : Option Gallery) : (s.setGallery n g).gals = Tab.put none s.gals n g := rfl
@[simp] theorem State.setGallery_log (s : State) (n : Nat) (g : Option Gallery) : (s.setGallery n g).log = s.log := rfl
@[simp] theorem State.setGallery_bootCount (s : State) (n : Nat) (g : Option Gallery) : (s.setGallery n g).bootCount = s.bootCount := rfl
@[simp] theorem State.setGallery_shareClass (s : State) (n : Nat) (g : Option Gallery) : (s.setGallery n g).shareClass = s.shareClass := rfl
@[simp] theorem State.setGallery_arrayHeld (s : State) (n : Nat) (g : Option Gallery) : (s.setGallery n g).arrayHeld = s.arrayHeld := rfl
@[simp] theorem State.setGallery_regs (s : State) (n : Nat) (g : Option Gallery) : (s.setGallery n g).regs = s.regs := rfl
@[simp] theorem State.setGallery_rings (s : State) (n : Nat) (g : Option Gallery) : (s.setGallery n g).rings = s.rings := rfl
@[simp] theorem State.setGallery_cmds (s : State) (n : Nat) (g : Option Gallery) : (s.setGallery n g).cmds = s.cmds := rfl
@[simp] theorem State.setGallery_cmdCtr (s : State) (n : Nat) (g : Option Gallery) : (s.setGallery n g).cmdCtr = s.cmdCtr := rfl
@[simp] theorem State.setGallery_host (s : State) (n : Nat) (g : Option Gallery) : (s.setGallery n g).host = s.host := rfl
@[simp] theorem State.setGallery_lines (s : State) (n : Nat) (g : Option Gallery) : (s.setGallery n g).lines = s.lines := rfl
@[simp] theorem State.setGallery_fns (s : State) (n : Nat) (g : Option Gallery) : (s.setGallery n g).fns = s.fns := rfl
@[simp] theorem State.setGallery_vfEn (s : State) (n : Nat) (g : Option Gallery) : (s.setGallery n g).vfEn = s.vfEn := rfl
@[simp] theorem State.setGallery_pfOnly (s : State) (n : Nat) (g : Option Gallery) : (s.setGallery n g).pfOnly = s.pfOnly := rfl
@[simp] theorem State.setGallery_hbm (s : State) (n : Nat) (g : Option Gallery) : (s.setGallery n g).hbm = s.hbm := rfl
@[simp] theorem State.setGallery_hbmPoison (s : State) (n : Nat) (g : Option Gallery) : (s.setGallery n g).hbmPoison = s.hbmPoison := rfl
@[simp] theorem State.setGallery_cache (s : State) (n : Nat) (g : Option Gallery) : (s.setGallery n g).cache = s.cache := rfl
@[simp] theorem State.setGallery_tokens (s : State) (n : Nat) (g : Option Gallery) : (s.setGallery n g).tokens = s.tokens := rfl
@[simp] theorem State.setGallery_pages (s : State) (n : Nat) (g : Option Gallery) : (s.setGallery n g).pages = s.pages := rfl
@[simp] theorem State.setGallery_pageTag (s : State) (n : Nat) (g : Option Gallery) : (s.setGallery n g).pageTag = s.pageTag := rfl
@[simp] theorem State.setGallery_tlb (s : State) (n : Nat) (g : Option Gallery) : (s.setGallery n g).tlb = s.tlb := rfl
@[simp] theorem State.setGallery_pt (s : State) (n : Nat) (g : Option Gallery) : (s.setGallery n g).pt = s.pt := rfl
@[simp] theorem State.setGallery_l2 (s : State) (n : Nat) (g : Option Gallery) : (s.setGallery n g).l2 = s.l2 := rfl
@[simp] theorem State.setGallery_spreadPtr (s : State) (n : Nat) (g : Option Gallery) : (s.setGallery n g).spreadPtr = s.spreadPtr := rfl
@[simp] theorem State.setGallery_dieAlt (s : State) (n : Nat) (g : Option Gallery) : (s.setGallery n g).dieAlt = s.dieAlt := rfl
@[simp] theorem State.setGallery_reserves (s : State) (n : Nat) (g : Option Gallery) : (s.setGallery n g).reserves = s.reserves := rfl
@[simp] theorem State.setGallery_loads (s : State) (n : Nat) (g : Option Gallery) : (s.setGallery n g).loads = s.loads := rfl
@[simp] theorem State.setGallery_keySlots (s : State) (n : Nat) (g : Option Gallery) : (s.setGallery n g).keySlots = s.keySlots := rfl
@[simp] theorem State.setGallery_ferKeys (s : State) (n : Nat) (g : Option Gallery) : (s.setGallery n g).ferKeys = s.ferKeys := rfl
@[simp] theorem State.setGallery_engines (s : State) (n : Nat) (g : Option Gallery) : (s.setGallery n g).engines = s.engines := rfl
@[simp] theorem State.setGallery_engWheel (s : State) (n : Nat) (g : Option Gallery) : (s.setGallery n g).engWheel = s.engWheel := rfl
@[simp] theorem State.setGallery_fer (s : State) (n : Nat) (g : Option Gallery) : (s.setGallery n g).fer = s.fer := rfl
@[simp] theorem State.setGallery_groups (s : State) (n : Nat) (g : Option Gallery) : (s.setGallery n g).groups = s.groups := rfl
@[simp] theorem State.setGallery_grants (s : State) (n : Nat) (g : Option Gallery) : (s.setGallery n g).grants = s.grants := rfl
@[simp] theorem State.setGallery_gate (s : State) (n : Nat) (g : Option Gallery) : (s.setGallery n g).gate = s.gate := rfl
@[simp] theorem State.setGallery_aliasGate (s : State) (n : Nat) (g : Option Gallery) : (s.setGallery n g).aliasGate = s.aliasGate := rfl
@[simp] theorem State.setGallery_tether (s : State) (n : Nat) (g : Option Gallery) : (s.setGallery n g).tether = s.tether := rfl
@[simp] theorem State.setGallery_sag (s : State) (n : Nat) (g : Option Gallery) : (s.setGallery n g).sag = s.sag := rfl
@[simp] theorem State.setGallery_fatal (s : State) (n : Nat) (g : Option Gallery) : (s.setGallery n g).fatal = s.fatal := rfl
@[simp] theorem State.setGallery_shareW (s : State) (n : Nat) (g : Option Gallery) : (s.setGallery n g).shareW = s.shareW := rfl
@[simp] theorem State.setGallery_gated (s : State) (n : Nat) (g : Option Gallery) : (s.setGallery n g).gated = s.gated := rfl
@[simp] theorem State.setGallery_time (s : State) (n : Nat) (g : Option Gallery) : (s.setGallery n g).time = s.time := rfl
@[simp] theorem State.setGallery_launch (s : State) (n : Nat) (g : Option Gallery) : (s.setGallery n g).launch = s.launch := rfl
@[simp] theorem State.setGallery_billing (s : State) (n : Nat) (g : Option Gallery) : (s.setGallery n g).billing = s.billing := rfl
@[simp] theorem State.setGallery_bill (s : State) (n : Nat) (g : Option Gallery) : (s.setGallery n g).bill = s.bill := rfl
@[simp] theorem State.setGallery_sec (s : State) (n : Nat) (g : Option Gallery) : (s.setGallery n g).sec = s.sec := rfl
@[simp] theorem State.setGallery_pwr (s : State) (n : Nat) (g : Option Gallery) : (s.setGallery n g).pwr = s.pwr := rfl
@[simp] theorem State.setGallery_nv (s : State) (n : Nat) (g : Option Gallery) : (s.setGallery n g).nv = s.nv := rfl
@[simp] theorem State.setGallery_ao (s : State) (n : Nat) (g : Option Gallery) : (s.setGallery n g).ao = s.ao := rfl
@[simp] theorem State.setGallery_dbg (s : State) (n : Nat) (g : Option Gallery) : (s.setGallery n g).dbg = s.dbg := rfl
@[simp] theorem State.setGallery_trace (s : State) (n : Nat) (g : Option Gallery) : (s.setGallery n g).trace = s.trace := rfl
@[simp] theorem State.setGallery_jobCause (s : State) (n : Nat) (g : Option Gallery) : (s.setGallery n g).jobCause = s.jobCause := rfl
@[simp] theorem State.setGallery_jobLast (s : State) (n : Nat) (g : Option Gallery) : (s.setGallery n g).jobLast = s.jobLast := rfl
@[simp] theorem State.setGallery_patrol (s : State) (n : Nat) (g : Option Gallery) : (s.setGallery n g).patrol = s.patrol := rfl
@[simp] theorem State.setGallery_pairs (s : State) (n : Nat) (g : Option Gallery) : (s.setGallery n g).pairs = s.pairs := rfl
@[simp] theorem State.setGallery_tablesLost (s : State) (n : Nat) (g : Option Gallery) : (s.setGallery n g).tablesLost = s.tablesLost := rfl
@[simp] theorem State.setGallery_shareHeld (s : State) (n : Nat) (g : Option Gallery) : (s.setGallery n g).shareHeld = s.shareHeld := rfl
@[simp] theorem State.setGallery_staged (s : State) (n : Nat) (g : Option Gallery) : (s.setGallery n g).staged = s.staged := rfl
@[simp] theorem State.setGallery_latched (s : State) (n : Nat) (g : Option Gallery) : (s.setGallery n g).latched = s.latched := rfl

/-! ### State.setPage -/

@[simp] theorem State.setPage_pending (s : State) (ppn : Nat) (p : PageSt) : (s.setPage ppn p).pending = s.pending := rfl
@[simp] theorem State.setPage_freeCtr (s : State) (ppn : Nat) (p : PageSt) : (s.setPage ppn p).freeCtr = s.freeCtr := rfl
@[simp] theorem State.setPage_gc (s : State) (ppn : Nat) (p : PageSt) : (s.setPage ppn p).gc = s.gc := rfl
@[simp] theorem State.setPage_feat (s : State) (ppn : Nat) (p : PageSt) : (s.setPage ppn p).feat = s.feat := rfl
@[simp] theorem State.setPage_stage (s : State) (ppn : Nat) (p : PageSt) : (s.setPage ppn p).stage = s.stage := rfl
@[simp] theorem State.setPage_cells (s : State) (ppn : Nat) (p : PageSt) : (s.setPage ppn p).cells = s.cells := rfl
@[simp] theorem State.setPage_badCells (s : State) (ppn : Nat) (p : PageSt) : (s.setPage ppn p).badCells = s.badCells := rfl
@[simp] theorem State.setPage_routeBad (s : State) (ppn : Nat) (p : PageSt) : (s.setPage ppn p).routeBad = s.routeBad := rfl
@[simp] theorem State.setPage_heldPkts (s : State) (ppn : Nat) (p : PageSt) : (s.setPage ppn p).heldPkts = s.heldPkts := rfl
@[simp] theorem State.setPage_flits (s : State) (ppn : Nat) (p : PageSt) : (s.setPage ppn p).flits = s.flits := rfl
@[simp] theorem State.setPage_flitsSnap (s : State) (ppn : Nat) (p : PageSt) : (s.setPage ppn p).flitsSnap = s.flitsSnap := rfl
@[simp] theorem State.setPage_wheel (s : State) (ppn : Nat) (p : PageSt) : (s.setPage ppn p).wheel = s.wheel := rfl
@[simp] theorem State.setPage_links (s : State) (ppn : Nat) (p : PageSt) : (s.setPage ppn p).links = s.links := rfl
@[simp] theorem State.setPage_creditFlight (s : State) (ppn : Nat) (p : PageSt) : (s.setPage ppn p).creditFlight = s.creditFlight := rfl
@[simp] theorem State.setPage_flight (s : State) (ppn : Nat) (p : PageSt) : (s.setPage ppn p).flight = s.flight := rfl
@[simp] theorem State.setPage_sigs (s : State) (ppn : Nat) (p : PageSt) : (s.setPage ppn p).sigs = s.sigs := rfl
@[simp] theorem State.setPage_jobs (s : State) (ppn : Nat) (p : PageSt) : (s.setPage ppn p).jobs = s.jobs := rfl
@[simp] theorem State.setPage_gals (s : State) (ppn : Nat) (p : PageSt) : (s.setPage ppn p).gals = s.gals := rfl
@[simp] theorem State.setPage_log (s : State) (ppn : Nat) (p : PageSt) : (s.setPage ppn p).log = s.log := rfl
@[simp] theorem State.setPage_bootCount (s : State) (ppn : Nat) (p : PageSt) : (s.setPage ppn p).bootCount = s.bootCount := rfl
@[simp] theorem State.setPage_shareClass (s : State) (ppn : Nat) (p : PageSt) : (s.setPage ppn p).shareClass = s.shareClass := rfl
@[simp] theorem State.setPage_arrayHeld (s : State) (ppn : Nat) (p : PageSt) : (s.setPage ppn p).arrayHeld = s.arrayHeld := rfl
@[simp] theorem State.setPage_regs (s : State) (ppn : Nat) (p : PageSt) : (s.setPage ppn p).regs = s.regs := rfl
@[simp] theorem State.setPage_rings (s : State) (ppn : Nat) (p : PageSt) : (s.setPage ppn p).rings = s.rings := rfl
@[simp] theorem State.setPage_cmds (s : State) (ppn : Nat) (p : PageSt) : (s.setPage ppn p).cmds = s.cmds := rfl
@[simp] theorem State.setPage_cmdCtr (s : State) (ppn : Nat) (p : PageSt) : (s.setPage ppn p).cmdCtr = s.cmdCtr := rfl
@[simp] theorem State.setPage_host (s : State) (ppn : Nat) (p : PageSt) : (s.setPage ppn p).host = s.host := rfl
@[simp] theorem State.setPage_lines (s : State) (ppn : Nat) (p : PageSt) : (s.setPage ppn p).lines = s.lines := rfl
@[simp] theorem State.setPage_fns (s : State) (ppn : Nat) (p : PageSt) : (s.setPage ppn p).fns = s.fns := rfl
@[simp] theorem State.setPage_vfEn (s : State) (ppn : Nat) (p : PageSt) : (s.setPage ppn p).vfEn = s.vfEn := rfl
@[simp] theorem State.setPage_pfOnly (s : State) (ppn : Nat) (p : PageSt) : (s.setPage ppn p).pfOnly = s.pfOnly := rfl
@[simp] theorem State.setPage_hbm (s : State) (ppn : Nat) (p : PageSt) : (s.setPage ppn p).hbm = s.hbm := rfl
@[simp] theorem State.setPage_hbmPoison (s : State) (ppn : Nat) (p : PageSt) : (s.setPage ppn p).hbmPoison = s.hbmPoison := rfl
@[simp] theorem State.setPage_cache (s : State) (ppn : Nat) (p : PageSt) : (s.setPage ppn p).cache = s.cache := rfl
@[simp] theorem State.setPage_tokens (s : State) (ppn : Nat) (p : PageSt) : (s.setPage ppn p).tokens = s.tokens := rfl
@[simp] theorem State.setPage_pages (s : State) (ppn : Nat) (p : PageSt) : (s.setPage ppn p).pages = Tab.put .clean s.pages ppn p := rfl
@[simp] theorem State.setPage_pageTag (s : State) (ppn : Nat) (p : PageSt) : (s.setPage ppn p).pageTag = s.pageTag := rfl
@[simp] theorem State.setPage_tlb (s : State) (ppn : Nat) (p : PageSt) : (s.setPage ppn p).tlb = s.tlb := rfl
@[simp] theorem State.setPage_pt (s : State) (ppn : Nat) (p : PageSt) : (s.setPage ppn p).pt = s.pt := rfl
@[simp] theorem State.setPage_l2 (s : State) (ppn : Nat) (p : PageSt) : (s.setPage ppn p).l2 = s.l2 := rfl
@[simp] theorem State.setPage_spreadPtr (s : State) (ppn : Nat) (p : PageSt) : (s.setPage ppn p).spreadPtr = s.spreadPtr := rfl
@[simp] theorem State.setPage_dieAlt (s : State) (ppn : Nat) (p : PageSt) : (s.setPage ppn p).dieAlt = s.dieAlt := rfl
@[simp] theorem State.setPage_reserves (s : State) (ppn : Nat) (p : PageSt) : (s.setPage ppn p).reserves = s.reserves := rfl
@[simp] theorem State.setPage_loads (s : State) (ppn : Nat) (p : PageSt) : (s.setPage ppn p).loads = s.loads := rfl
@[simp] theorem State.setPage_keySlots (s : State) (ppn : Nat) (p : PageSt) : (s.setPage ppn p).keySlots = s.keySlots := rfl
@[simp] theorem State.setPage_ferKeys (s : State) (ppn : Nat) (p : PageSt) : (s.setPage ppn p).ferKeys = s.ferKeys := rfl
@[simp] theorem State.setPage_engines (s : State) (ppn : Nat) (p : PageSt) : (s.setPage ppn p).engines = s.engines := rfl
@[simp] theorem State.setPage_engWheel (s : State) (ppn : Nat) (p : PageSt) : (s.setPage ppn p).engWheel = s.engWheel := rfl
@[simp] theorem State.setPage_fer (s : State) (ppn : Nat) (p : PageSt) : (s.setPage ppn p).fer = s.fer := rfl
@[simp] theorem State.setPage_groups (s : State) (ppn : Nat) (p : PageSt) : (s.setPage ppn p).groups = s.groups := rfl
@[simp] theorem State.setPage_grants (s : State) (ppn : Nat) (p : PageSt) : (s.setPage ppn p).grants = s.grants := rfl
@[simp] theorem State.setPage_gate (s : State) (ppn : Nat) (p : PageSt) : (s.setPage ppn p).gate = s.gate := rfl
@[simp] theorem State.setPage_aliasGate (s : State) (ppn : Nat) (p : PageSt) : (s.setPage ppn p).aliasGate = s.aliasGate := rfl
@[simp] theorem State.setPage_tether (s : State) (ppn : Nat) (p : PageSt) : (s.setPage ppn p).tether = s.tether := rfl
@[simp] theorem State.setPage_sag (s : State) (ppn : Nat) (p : PageSt) : (s.setPage ppn p).sag = s.sag := rfl
@[simp] theorem State.setPage_fatal (s : State) (ppn : Nat) (p : PageSt) : (s.setPage ppn p).fatal = s.fatal := rfl
@[simp] theorem State.setPage_shareW (s : State) (ppn : Nat) (p : PageSt) : (s.setPage ppn p).shareW = s.shareW := rfl
@[simp] theorem State.setPage_gated (s : State) (ppn : Nat) (p : PageSt) : (s.setPage ppn p).gated = s.gated := rfl
@[simp] theorem State.setPage_time (s : State) (ppn : Nat) (p : PageSt) : (s.setPage ppn p).time = s.time := rfl
@[simp] theorem State.setPage_launch (s : State) (ppn : Nat) (p : PageSt) : (s.setPage ppn p).launch = s.launch := rfl
@[simp] theorem State.setPage_billing (s : State) (ppn : Nat) (p : PageSt) : (s.setPage ppn p).billing = s.billing := rfl
@[simp] theorem State.setPage_bill (s : State) (ppn : Nat) (p : PageSt) : (s.setPage ppn p).bill = s.bill := rfl
@[simp] theorem State.setPage_sec (s : State) (ppn : Nat) (p : PageSt) : (s.setPage ppn p).sec = s.sec := rfl
@[simp] theorem State.setPage_pwr (s : State) (ppn : Nat) (p : PageSt) : (s.setPage ppn p).pwr = s.pwr := rfl
@[simp] theorem State.setPage_nv (s : State) (ppn : Nat) (p : PageSt) : (s.setPage ppn p).nv = s.nv := rfl
@[simp] theorem State.setPage_ao (s : State) (ppn : Nat) (p : PageSt) : (s.setPage ppn p).ao = s.ao := rfl
@[simp] theorem State.setPage_dbg (s : State) (ppn : Nat) (p : PageSt) : (s.setPage ppn p).dbg = s.dbg := rfl
@[simp] theorem State.setPage_trace (s : State) (ppn : Nat) (p : PageSt) : (s.setPage ppn p).trace = s.trace := rfl
@[simp] theorem State.setPage_jobCause (s : State) (ppn : Nat) (p : PageSt) : (s.setPage ppn p).jobCause = s.jobCause := rfl
@[simp] theorem State.setPage_jobLast (s : State) (ppn : Nat) (p : PageSt) : (s.setPage ppn p).jobLast = s.jobLast := rfl
@[simp] theorem State.setPage_patrol (s : State) (ppn : Nat) (p : PageSt) : (s.setPage ppn p).patrol = s.patrol := rfl
@[simp] theorem State.setPage_pairs (s : State) (ppn : Nat) (p : PageSt) : (s.setPage ppn p).pairs = s.pairs := rfl
@[simp] theorem State.setPage_tablesLost (s : State) (ppn : Nat) (p : PageSt) : (s.setPage ppn p).tablesLost = s.tablesLost := rfl
@[simp] theorem State.setPage_shareHeld (s : State) (ppn : Nat) (p : PageSt) : (s.setPage ppn p).shareHeld = s.shareHeld := rfl
@[simp] theorem State.setPage_staged (s : State) (ppn : Nat) (p : PageSt) : (s.setPage ppn p).staged = s.staged := rfl
@[simp] theorem State.setPage_latched (s : State) (ppn : Nat) (p : PageSt) : (s.setPage ppn p).latched = s.latched := rfl

/-! ### State.setLoad -/

@[simp] theorem State.setLoad_pending (s : State) (i : Nat) (l : Load) : (s.setLoad i l).pending = s.pending := rfl
@[simp] theorem State.setLoad_freeCtr (s : State) (i : Nat) (l : Load) : (s.setLoad i l).freeCtr = s.freeCtr := rfl
@[simp] theorem State.setLoad_gc (s : State) (i : Nat) (l : Load) : (s.setLoad i l).gc = s.gc := rfl
@[simp] theorem State.setLoad_feat (s : State) (i : Nat) (l : Load) : (s.setLoad i l).feat = s.feat := rfl
@[simp] theorem State.setLoad_stage (s : State) (i : Nat) (l : Load) : (s.setLoad i l).stage = s.stage := rfl
@[simp] theorem State.setLoad_cells (s : State) (i : Nat) (l : Load) : (s.setLoad i l).cells = s.cells := rfl
@[simp] theorem State.setLoad_badCells (s : State) (i : Nat) (l : Load) : (s.setLoad i l).badCells = s.badCells := rfl
@[simp] theorem State.setLoad_routeBad (s : State) (i : Nat) (l : Load) : (s.setLoad i l).routeBad = s.routeBad := rfl
@[simp] theorem State.setLoad_heldPkts (s : State) (i : Nat) (l : Load) : (s.setLoad i l).heldPkts = s.heldPkts := rfl
@[simp] theorem State.setLoad_flits (s : State) (i : Nat) (l : Load) : (s.setLoad i l).flits = s.flits := rfl
@[simp] theorem State.setLoad_flitsSnap (s : State) (i : Nat) (l : Load) : (s.setLoad i l).flitsSnap = s.flitsSnap := rfl
@[simp] theorem State.setLoad_wheel (s : State) (i : Nat) (l : Load) : (s.setLoad i l).wheel = s.wheel := rfl
@[simp] theorem State.setLoad_links (s : State) (i : Nat) (l : Load) : (s.setLoad i l).links = s.links := rfl
@[simp] theorem State.setLoad_creditFlight (s : State) (i : Nat) (l : Load) : (s.setLoad i l).creditFlight = s.creditFlight := rfl
@[simp] theorem State.setLoad_flight (s : State) (i : Nat) (l : Load) : (s.setLoad i l).flight = s.flight := rfl
@[simp] theorem State.setLoad_sigs (s : State) (i : Nat) (l : Load) : (s.setLoad i l).sigs = s.sigs := rfl
@[simp] theorem State.setLoad_jobs (s : State) (i : Nat) (l : Load) : (s.setLoad i l).jobs = s.jobs := rfl
@[simp] theorem State.setLoad_gals (s : State) (i : Nat) (l : Load) : (s.setLoad i l).gals = s.gals := rfl
@[simp] theorem State.setLoad_log (s : State) (i : Nat) (l : Load) : (s.setLoad i l).log = s.log := rfl
@[simp] theorem State.setLoad_bootCount (s : State) (i : Nat) (l : Load) : (s.setLoad i l).bootCount = s.bootCount := rfl
@[simp] theorem State.setLoad_shareClass (s : State) (i : Nat) (l : Load) : (s.setLoad i l).shareClass = s.shareClass := rfl
@[simp] theorem State.setLoad_arrayHeld (s : State) (i : Nat) (l : Load) : (s.setLoad i l).arrayHeld = s.arrayHeld := rfl
@[simp] theorem State.setLoad_regs (s : State) (i : Nat) (l : Load) : (s.setLoad i l).regs = s.regs := rfl
@[simp] theorem State.setLoad_rings (s : State) (i : Nat) (l : Load) : (s.setLoad i l).rings = s.rings := rfl
@[simp] theorem State.setLoad_cmds (s : State) (i : Nat) (l : Load) : (s.setLoad i l).cmds = s.cmds := rfl
@[simp] theorem State.setLoad_cmdCtr (s : State) (i : Nat) (l : Load) : (s.setLoad i l).cmdCtr = s.cmdCtr := rfl
@[simp] theorem State.setLoad_host (s : State) (i : Nat) (l : Load) : (s.setLoad i l).host = s.host := rfl
@[simp] theorem State.setLoad_lines (s : State) (i : Nat) (l : Load) : (s.setLoad i l).lines = s.lines := rfl
@[simp] theorem State.setLoad_fns (s : State) (i : Nat) (l : Load) : (s.setLoad i l).fns = s.fns := rfl
@[simp] theorem State.setLoad_vfEn (s : State) (i : Nat) (l : Load) : (s.setLoad i l).vfEn = s.vfEn := rfl
@[simp] theorem State.setLoad_pfOnly (s : State) (i : Nat) (l : Load) : (s.setLoad i l).pfOnly = s.pfOnly := rfl
@[simp] theorem State.setLoad_hbm (s : State) (i : Nat) (l : Load) : (s.setLoad i l).hbm = s.hbm := rfl
@[simp] theorem State.setLoad_hbmPoison (s : State) (i : Nat) (l : Load) : (s.setLoad i l).hbmPoison = s.hbmPoison := rfl
@[simp] theorem State.setLoad_cache (s : State) (i : Nat) (l : Load) : (s.setLoad i l).cache = s.cache := rfl
@[simp] theorem State.setLoad_tokens (s : State) (i : Nat) (l : Load) : (s.setLoad i l).tokens = s.tokens := rfl
@[simp] theorem State.setLoad_pages (s : State) (i : Nat) (l : Load) : (s.setLoad i l).pages = s.pages := rfl
@[simp] theorem State.setLoad_pageTag (s : State) (i : Nat) (l : Load) : (s.setLoad i l).pageTag = s.pageTag := rfl
@[simp] theorem State.setLoad_tlb (s : State) (i : Nat) (l : Load) : (s.setLoad i l).tlb = s.tlb := rfl
@[simp] theorem State.setLoad_pt (s : State) (i : Nat) (l : Load) : (s.setLoad i l).pt = s.pt := rfl
@[simp] theorem State.setLoad_l2 (s : State) (i : Nat) (l : Load) : (s.setLoad i l).l2 = s.l2 := rfl
@[simp] theorem State.setLoad_spreadPtr (s : State) (i : Nat) (l : Load) : (s.setLoad i l).spreadPtr = s.spreadPtr := rfl
@[simp] theorem State.setLoad_dieAlt (s : State) (i : Nat) (l : Load) : (s.setLoad i l).dieAlt = s.dieAlt := rfl
@[simp] theorem State.setLoad_reserves (s : State) (i : Nat) (l : Load) : (s.setLoad i l).reserves = s.reserves := rfl
@[simp] theorem State.setLoad_loads (s : State) (i : Nat) (l : Load) : (s.setLoad i l).loads = s.loads.set i l := rfl
@[simp] theorem State.setLoad_keySlots (s : State) (i : Nat) (l : Load) : (s.setLoad i l).keySlots = s.keySlots := rfl
@[simp] theorem State.setLoad_ferKeys (s : State) (i : Nat) (l : Load) : (s.setLoad i l).ferKeys = s.ferKeys := rfl
@[simp] theorem State.setLoad_engines (s : State) (i : Nat) (l : Load) : (s.setLoad i l).engines = s.engines := rfl
@[simp] theorem State.setLoad_engWheel (s : State) (i : Nat) (l : Load) : (s.setLoad i l).engWheel = s.engWheel := rfl
@[simp] theorem State.setLoad_fer (s : State) (i : Nat) (l : Load) : (s.setLoad i l).fer = s.fer := rfl
@[simp] theorem State.setLoad_groups (s : State) (i : Nat) (l : Load) : (s.setLoad i l).groups = s.groups := rfl
@[simp] theorem State.setLoad_grants (s : State) (i : Nat) (l : Load) : (s.setLoad i l).grants = s.grants := rfl
@[simp] theorem State.setLoad_gate (s : State) (i : Nat) (l : Load) : (s.setLoad i l).gate = s.gate := rfl
@[simp] theorem State.setLoad_aliasGate (s : State) (i : Nat) (l : Load) : (s.setLoad i l).aliasGate = s.aliasGate := rfl
@[simp] theorem State.setLoad_tether (s : State) (i : Nat) (l : Load) : (s.setLoad i l).tether = s.tether := rfl
@[simp] theorem State.setLoad_sag (s : State) (i : Nat) (l : Load) : (s.setLoad i l).sag = s.sag := rfl
@[simp] theorem State.setLoad_fatal (s : State) (i : Nat) (l : Load) : (s.setLoad i l).fatal = s.fatal := rfl
@[simp] theorem State.setLoad_shareW (s : State) (i : Nat) (l : Load) : (s.setLoad i l).shareW = s.shareW := rfl
@[simp] theorem State.setLoad_gated (s : State) (i : Nat) (l : Load) : (s.setLoad i l).gated = s.gated := rfl
@[simp] theorem State.setLoad_time (s : State) (i : Nat) (l : Load) : (s.setLoad i l).time = s.time := rfl
@[simp] theorem State.setLoad_launch (s : State) (i : Nat) (l : Load) : (s.setLoad i l).launch = s.launch := rfl
@[simp] theorem State.setLoad_billing (s : State) (i : Nat) (l : Load) : (s.setLoad i l).billing = s.billing := rfl
@[simp] theorem State.setLoad_bill (s : State) (i : Nat) (l : Load) : (s.setLoad i l).bill = s.bill := rfl
@[simp] theorem State.setLoad_sec (s : State) (i : Nat) (l : Load) : (s.setLoad i l).sec = s.sec := rfl
@[simp] theorem State.setLoad_pwr (s : State) (i : Nat) (l : Load) : (s.setLoad i l).pwr = s.pwr := rfl
@[simp] theorem State.setLoad_nv (s : State) (i : Nat) (l : Load) : (s.setLoad i l).nv = s.nv := rfl
@[simp] theorem State.setLoad_ao (s : State) (i : Nat) (l : Load) : (s.setLoad i l).ao = s.ao := rfl
@[simp] theorem State.setLoad_dbg (s : State) (i : Nat) (l : Load) : (s.setLoad i l).dbg = s.dbg := rfl
@[simp] theorem State.setLoad_trace (s : State) (i : Nat) (l : Load) : (s.setLoad i l).trace = s.trace := rfl
@[simp] theorem State.setLoad_jobCause (s : State) (i : Nat) (l : Load) : (s.setLoad i l).jobCause = s.jobCause := rfl
@[simp] theorem State.setLoad_jobLast (s : State) (i : Nat) (l : Load) : (s.setLoad i l).jobLast = s.jobLast := rfl
@[simp] theorem State.setLoad_patrol (s : State) (i : Nat) (l : Load) : (s.setLoad i l).patrol = s.patrol := rfl
@[simp] theorem State.setLoad_pairs (s : State) (i : Nat) (l : Load) : (s.setLoad i l).pairs = s.pairs := rfl
@[simp] theorem State.setLoad_tablesLost (s : State) (i : Nat) (l : Load) : (s.setLoad i l).tablesLost = s.tablesLost := rfl
@[simp] theorem State.setLoad_shareHeld (s : State) (i : Nat) (l : Load) : (s.setLoad i l).shareHeld = s.shareHeld := rfl
@[simp] theorem State.setLoad_staged (s : State) (i : Nat) (l : Load) : (s.setLoad i l).staged = s.staged := rfl
@[simp] theorem State.setLoad_latched (s : State) (i : Nat) (l : Load) : (s.setLoad i l).latched = s.latched := rfl

/-! ### State.setSlot -/

@[simp] theorem State.setSlot_pending (s : State) (k : Nat) (l : LaunchSlot) : (s.setSlot k l).pending = s.pending := rfl
@[simp] theorem State.setSlot_freeCtr (s : State) (k : Nat) (l : LaunchSlot) : (s.setSlot k l).freeCtr = s.freeCtr := rfl
@[simp] theorem State.setSlot_gc (s : State) (k : Nat) (l : LaunchSlot) : (s.setSlot k l).gc = s.gc := rfl
@[simp] theorem State.setSlot_feat (s : State) (k : Nat) (l : LaunchSlot) : (s.setSlot k l).feat = s.feat := rfl
@[simp] theorem State.setSlot_stage (s : State) (k : Nat) (l : LaunchSlot) : (s.setSlot k l).stage = s.stage := rfl
@[simp] theorem State.setSlot_cells (s : State) (k : Nat) (l : LaunchSlot) : (s.setSlot k l).cells = s.cells := rfl
@[simp] theorem State.setSlot_badCells (s : State) (k : Nat) (l : LaunchSlot) : (s.setSlot k l).badCells = s.badCells := rfl
@[simp] theorem State.setSlot_routeBad (s : State) (k : Nat) (l : LaunchSlot) : (s.setSlot k l).routeBad = s.routeBad := rfl
@[simp] theorem State.setSlot_heldPkts (s : State) (k : Nat) (l : LaunchSlot) : (s.setSlot k l).heldPkts = s.heldPkts := rfl
@[simp] theorem State.setSlot_flits (s : State) (k : Nat) (l : LaunchSlot) : (s.setSlot k l).flits = s.flits := rfl
@[simp] theorem State.setSlot_flitsSnap (s : State) (k : Nat) (l : LaunchSlot) : (s.setSlot k l).flitsSnap = s.flitsSnap := rfl
@[simp] theorem State.setSlot_wheel (s : State) (k : Nat) (l : LaunchSlot) : (s.setSlot k l).wheel = s.wheel := rfl
@[simp] theorem State.setSlot_links (s : State) (k : Nat) (l : LaunchSlot) : (s.setSlot k l).links = s.links := rfl
@[simp] theorem State.setSlot_creditFlight (s : State) (k : Nat) (l : LaunchSlot) : (s.setSlot k l).creditFlight = s.creditFlight := rfl
@[simp] theorem State.setSlot_flight (s : State) (k : Nat) (l : LaunchSlot) : (s.setSlot k l).flight = s.flight := rfl
@[simp] theorem State.setSlot_sigs (s : State) (k : Nat) (l : LaunchSlot) : (s.setSlot k l).sigs = s.sigs := rfl
@[simp] theorem State.setSlot_jobs (s : State) (k : Nat) (l : LaunchSlot) : (s.setSlot k l).jobs = s.jobs := rfl
@[simp] theorem State.setSlot_gals (s : State) (k : Nat) (l : LaunchSlot) : (s.setSlot k l).gals = s.gals := rfl
@[simp] theorem State.setSlot_log (s : State) (k : Nat) (l : LaunchSlot) : (s.setSlot k l).log = s.log := rfl
@[simp] theorem State.setSlot_bootCount (s : State) (k : Nat) (l : LaunchSlot) : (s.setSlot k l).bootCount = s.bootCount := rfl
@[simp] theorem State.setSlot_shareClass (s : State) (k : Nat) (l : LaunchSlot) : (s.setSlot k l).shareClass = s.shareClass := rfl
@[simp] theorem State.setSlot_arrayHeld (s : State) (k : Nat) (l : LaunchSlot) : (s.setSlot k l).arrayHeld = s.arrayHeld := rfl
@[simp] theorem State.setSlot_regs (s : State) (k : Nat) (l : LaunchSlot) : (s.setSlot k l).regs = s.regs := rfl
@[simp] theorem State.setSlot_rings (s : State) (k : Nat) (l : LaunchSlot) : (s.setSlot k l).rings = s.rings := rfl
@[simp] theorem State.setSlot_cmds (s : State) (k : Nat) (l : LaunchSlot) : (s.setSlot k l).cmds = s.cmds := rfl
@[simp] theorem State.setSlot_cmdCtr (s : State) (k : Nat) (l : LaunchSlot) : (s.setSlot k l).cmdCtr = s.cmdCtr := rfl
@[simp] theorem State.setSlot_host (s : State) (k : Nat) (l : LaunchSlot) : (s.setSlot k l).host = s.host := rfl
@[simp] theorem State.setSlot_lines (s : State) (k : Nat) (l : LaunchSlot) : (s.setSlot k l).lines = s.lines := rfl
@[simp] theorem State.setSlot_fns (s : State) (k : Nat) (l : LaunchSlot) : (s.setSlot k l).fns = s.fns := rfl
@[simp] theorem State.setSlot_vfEn (s : State) (k : Nat) (l : LaunchSlot) : (s.setSlot k l).vfEn = s.vfEn := rfl
@[simp] theorem State.setSlot_pfOnly (s : State) (k : Nat) (l : LaunchSlot) : (s.setSlot k l).pfOnly = s.pfOnly := rfl
@[simp] theorem State.setSlot_hbm (s : State) (k : Nat) (l : LaunchSlot) : (s.setSlot k l).hbm = s.hbm := rfl
@[simp] theorem State.setSlot_hbmPoison (s : State) (k : Nat) (l : LaunchSlot) : (s.setSlot k l).hbmPoison = s.hbmPoison := rfl
@[simp] theorem State.setSlot_cache (s : State) (k : Nat) (l : LaunchSlot) : (s.setSlot k l).cache = s.cache := rfl
@[simp] theorem State.setSlot_tokens (s : State) (k : Nat) (l : LaunchSlot) : (s.setSlot k l).tokens = s.tokens := rfl
@[simp] theorem State.setSlot_pages (s : State) (k : Nat) (l : LaunchSlot) : (s.setSlot k l).pages = s.pages := rfl
@[simp] theorem State.setSlot_pageTag (s : State) (k : Nat) (l : LaunchSlot) : (s.setSlot k l).pageTag = s.pageTag := rfl
@[simp] theorem State.setSlot_tlb (s : State) (k : Nat) (l : LaunchSlot) : (s.setSlot k l).tlb = s.tlb := rfl
@[simp] theorem State.setSlot_pt (s : State) (k : Nat) (l : LaunchSlot) : (s.setSlot k l).pt = s.pt := rfl
@[simp] theorem State.setSlot_l2 (s : State) (k : Nat) (l : LaunchSlot) : (s.setSlot k l).l2 = s.l2 := rfl
@[simp] theorem State.setSlot_spreadPtr (s : State) (k : Nat) (l : LaunchSlot) : (s.setSlot k l).spreadPtr = s.spreadPtr := rfl
@[simp] theorem State.setSlot_dieAlt (s : State) (k : Nat) (l : LaunchSlot) : (s.setSlot k l).dieAlt = s.dieAlt := rfl
@[simp] theorem State.setSlot_reserves (s : State) (k : Nat) (l : LaunchSlot) : (s.setSlot k l).reserves = s.reserves := rfl
@[simp] theorem State.setSlot_loads (s : State) (k : Nat) (l : LaunchSlot) : (s.setSlot k l).loads = s.loads := rfl
@[simp] theorem State.setSlot_keySlots (s : State) (k : Nat) (l : LaunchSlot) : (s.setSlot k l).keySlots = s.keySlots := rfl
@[simp] theorem State.setSlot_ferKeys (s : State) (k : Nat) (l : LaunchSlot) : (s.setSlot k l).ferKeys = s.ferKeys := rfl
@[simp] theorem State.setSlot_engines (s : State) (k : Nat) (l : LaunchSlot) : (s.setSlot k l).engines = s.engines := rfl
@[simp] theorem State.setSlot_engWheel (s : State) (k : Nat) (l : LaunchSlot) : (s.setSlot k l).engWheel = s.engWheel := rfl
@[simp] theorem State.setSlot_fer (s : State) (k : Nat) (l : LaunchSlot) : (s.setSlot k l).fer = s.fer := rfl
@[simp] theorem State.setSlot_groups (s : State) (k : Nat) (l : LaunchSlot) : (s.setSlot k l).groups = s.groups := rfl
@[simp] theorem State.setSlot_grants (s : State) (k : Nat) (l : LaunchSlot) : (s.setSlot k l).grants = s.grants := rfl
@[simp] theorem State.setSlot_gate (s : State) (k : Nat) (l : LaunchSlot) : (s.setSlot k l).gate = s.gate := rfl
@[simp] theorem State.setSlot_aliasGate (s : State) (k : Nat) (l : LaunchSlot) : (s.setSlot k l).aliasGate = s.aliasGate := rfl
@[simp] theorem State.setSlot_tether (s : State) (k : Nat) (l : LaunchSlot) : (s.setSlot k l).tether = s.tether := rfl
@[simp] theorem State.setSlot_sag (s : State) (k : Nat) (l : LaunchSlot) : (s.setSlot k l).sag = s.sag := rfl
@[simp] theorem State.setSlot_fatal (s : State) (k : Nat) (l : LaunchSlot) : (s.setSlot k l).fatal = s.fatal := rfl
@[simp] theorem State.setSlot_shareW (s : State) (k : Nat) (l : LaunchSlot) : (s.setSlot k l).shareW = s.shareW := rfl
@[simp] theorem State.setSlot_gated (s : State) (k : Nat) (l : LaunchSlot) : (s.setSlot k l).gated = s.gated := rfl
@[simp] theorem State.setSlot_time (s : State) (k : Nat) (l : LaunchSlot) : (s.setSlot k l).time = s.time := rfl
@[simp] theorem State.setSlot_launch (s : State) (k : Nat) (l : LaunchSlot) : (s.setSlot k l).launch = Tab.put {} s.launch k l := rfl
@[simp] theorem State.setSlot_billing (s : State) (k : Nat) (l : LaunchSlot) : (s.setSlot k l).billing = s.billing := rfl
@[simp] theorem State.setSlot_bill (s : State) (k : Nat) (l : LaunchSlot) : (s.setSlot k l).bill = s.bill := rfl
@[simp] theorem State.setSlot_sec (s : State) (k : Nat) (l : LaunchSlot) : (s.setSlot k l).sec = s.sec := rfl
@[simp] theorem State.setSlot_pwr (s : State) (k : Nat) (l : LaunchSlot) : (s.setSlot k l).pwr = s.pwr := rfl
@[simp] theorem State.setSlot_nv (s : State) (k : Nat) (l : LaunchSlot) : (s.setSlot k l).nv = s.nv := rfl
@[simp] theorem State.setSlot_ao (s : State) (k : Nat) (l : LaunchSlot) : (s.setSlot k l).ao = s.ao := rfl
@[simp] theorem State.setSlot_dbg (s : State) (k : Nat) (l : LaunchSlot) : (s.setSlot k l).dbg = s.dbg := rfl
@[simp] theorem State.setSlot_trace (s : State) (k : Nat) (l : LaunchSlot) : (s.setSlot k l).trace = s.trace := rfl
@[simp] theorem State.setSlot_jobCause (s : State) (k : Nat) (l : LaunchSlot) : (s.setSlot k l).jobCause = s.jobCause := rfl
@[simp] theorem State.setSlot_jobLast (s : State) (k : Nat) (l : LaunchSlot) : (s.setSlot k l).jobLast = s.jobLast := rfl
@[simp] theorem State.setSlot_patrol (s : State) (k : Nat) (l : LaunchSlot) : (s.setSlot k l).patrol = s.patrol := rfl
@[simp] theorem State.setSlot_pairs (s : State) (k : Nat) (l : LaunchSlot) : (s.setSlot k l).pairs = s.pairs := rfl
@[simp] theorem State.setSlot_tablesLost (s : State) (k : Nat) (l : LaunchSlot) : (s.setSlot k l).tablesLost = s.tablesLost := rfl
@[simp] theorem State.setSlot_shareHeld (s : State) (k : Nat) (l : LaunchSlot) : (s.setSlot k l).shareHeld = s.shareHeld := rfl
@[simp] theorem State.setSlot_staged (s : State) (k : Nat) (l : LaunchSlot) : (s.setSlot k l).staged = s.staged := rfl
@[simp] theorem State.setSlot_latched (s : State) (k : Nat) (l : LaunchSlot) : (s.setSlot k l).latched = s.latched := rfl

/-! ### State.setEngine -/

@[simp] theorem State.setEngine_pending (s : State) (e : Nat) (q : List EngCmd) : (s.setEngine e q).pending = s.pending := rfl
@[simp] theorem State.setEngine_freeCtr (s : State) (e : Nat) (q : List EngCmd) : (s.setEngine e q).freeCtr = s.freeCtr := rfl
@[simp] theorem State.setEngine_gc (s : State) (e : Nat) (q : List EngCmd) : (s.setEngine e q).gc = s.gc := rfl
@[simp] theorem State.setEngine_feat (s : State) (e : Nat) (q : List EngCmd) : (s.setEngine e q).feat = s.feat := rfl
@[simp] theorem State.setEngine_stage (s : State) (e : Nat) (q : List EngCmd) : (s.setEngine e q).stage = s.stage := rfl
@[simp] theorem State.setEngine_cells (s : State) (e : Nat) (q : List EngCmd) : (s.setEngine e q).cells = s.cells := rfl
@[simp] theorem State.setEngine_badCells (s : State) (e : Nat) (q : List EngCmd) : (s.setEngine e q).badCells = s.badCells := rfl
@[simp] theorem State.setEngine_routeBad (s : State) (e : Nat) (q : List EngCmd) : (s.setEngine e q).routeBad = s.routeBad := rfl
@[simp] theorem State.setEngine_heldPkts (s : State) (e : Nat) (q : List EngCmd) : (s.setEngine e q).heldPkts = s.heldPkts := rfl
@[simp] theorem State.setEngine_flits (s : State) (e : Nat) (q : List EngCmd) : (s.setEngine e q).flits = s.flits := rfl
@[simp] theorem State.setEngine_flitsSnap (s : State) (e : Nat) (q : List EngCmd) : (s.setEngine e q).flitsSnap = s.flitsSnap := rfl
@[simp] theorem State.setEngine_wheel (s : State) (e : Nat) (q : List EngCmd) : (s.setEngine e q).wheel = s.wheel := rfl
@[simp] theorem State.setEngine_links (s : State) (e : Nat) (q : List EngCmd) : (s.setEngine e q).links = s.links := rfl
@[simp] theorem State.setEngine_creditFlight (s : State) (e : Nat) (q : List EngCmd) : (s.setEngine e q).creditFlight = s.creditFlight := rfl
@[simp] theorem State.setEngine_flight (s : State) (e : Nat) (q : List EngCmd) : (s.setEngine e q).flight = s.flight := rfl
@[simp] theorem State.setEngine_sigs (s : State) (e : Nat) (q : List EngCmd) : (s.setEngine e q).sigs = s.sigs := rfl
@[simp] theorem State.setEngine_jobs (s : State) (e : Nat) (q : List EngCmd) : (s.setEngine e q).jobs = s.jobs := rfl
@[simp] theorem State.setEngine_gals (s : State) (e : Nat) (q : List EngCmd) : (s.setEngine e q).gals = s.gals := rfl
@[simp] theorem State.setEngine_log (s : State) (e : Nat) (q : List EngCmd) : (s.setEngine e q).log = s.log := rfl
@[simp] theorem State.setEngine_bootCount (s : State) (e : Nat) (q : List EngCmd) : (s.setEngine e q).bootCount = s.bootCount := rfl
@[simp] theorem State.setEngine_shareClass (s : State) (e : Nat) (q : List EngCmd) : (s.setEngine e q).shareClass = s.shareClass := rfl
@[simp] theorem State.setEngine_arrayHeld (s : State) (e : Nat) (q : List EngCmd) : (s.setEngine e q).arrayHeld = s.arrayHeld := rfl
@[simp] theorem State.setEngine_regs (s : State) (e : Nat) (q : List EngCmd) : (s.setEngine e q).regs = s.regs := rfl
@[simp] theorem State.setEngine_rings (s : State) (e : Nat) (q : List EngCmd) : (s.setEngine e q).rings = s.rings := rfl
@[simp] theorem State.setEngine_cmds (s : State) (e : Nat) (q : List EngCmd) : (s.setEngine e q).cmds = s.cmds := rfl
@[simp] theorem State.setEngine_cmdCtr (s : State) (e : Nat) (q : List EngCmd) : (s.setEngine e q).cmdCtr = s.cmdCtr := rfl
@[simp] theorem State.setEngine_host (s : State) (e : Nat) (q : List EngCmd) : (s.setEngine e q).host = s.host := rfl
@[simp] theorem State.setEngine_lines (s : State) (e : Nat) (q : List EngCmd) : (s.setEngine e q).lines = s.lines := rfl
@[simp] theorem State.setEngine_fns (s : State) (e : Nat) (q : List EngCmd) : (s.setEngine e q).fns = s.fns := rfl
@[simp] theorem State.setEngine_vfEn (s : State) (e : Nat) (q : List EngCmd) : (s.setEngine e q).vfEn = s.vfEn := rfl
@[simp] theorem State.setEngine_pfOnly (s : State) (e : Nat) (q : List EngCmd) : (s.setEngine e q).pfOnly = s.pfOnly := rfl
@[simp] theorem State.setEngine_hbm (s : State) (e : Nat) (q : List EngCmd) : (s.setEngine e q).hbm = s.hbm := rfl
@[simp] theorem State.setEngine_hbmPoison (s : State) (e : Nat) (q : List EngCmd) : (s.setEngine e q).hbmPoison = s.hbmPoison := rfl
@[simp] theorem State.setEngine_cache (s : State) (e : Nat) (q : List EngCmd) : (s.setEngine e q).cache = s.cache := rfl
@[simp] theorem State.setEngine_tokens (s : State) (e : Nat) (q : List EngCmd) : (s.setEngine e q).tokens = s.tokens := rfl
@[simp] theorem State.setEngine_pages (s : State) (e : Nat) (q : List EngCmd) : (s.setEngine e q).pages = s.pages := rfl
@[simp] theorem State.setEngine_pageTag (s : State) (e : Nat) (q : List EngCmd) : (s.setEngine e q).pageTag = s.pageTag := rfl
@[simp] theorem State.setEngine_tlb (s : State) (e : Nat) (q : List EngCmd) : (s.setEngine e q).tlb = s.tlb := rfl
@[simp] theorem State.setEngine_pt (s : State) (e : Nat) (q : List EngCmd) : (s.setEngine e q).pt = s.pt := rfl
@[simp] theorem State.setEngine_l2 (s : State) (e : Nat) (q : List EngCmd) : (s.setEngine e q).l2 = s.l2 := rfl
@[simp] theorem State.setEngine_spreadPtr (s : State) (e : Nat) (q : List EngCmd) : (s.setEngine e q).spreadPtr = s.spreadPtr := rfl
@[simp] theorem State.setEngine_dieAlt (s : State) (e : Nat) (q : List EngCmd) : (s.setEngine e q).dieAlt = s.dieAlt := rfl
@[simp] theorem State.setEngine_reserves (s : State) (e : Nat) (q : List EngCmd) : (s.setEngine e q).reserves = s.reserves := rfl
@[simp] theorem State.setEngine_loads (s : State) (e : Nat) (q : List EngCmd) : (s.setEngine e q).loads = s.loads := rfl
@[simp] theorem State.setEngine_keySlots (s : State) (e : Nat) (q : List EngCmd) : (s.setEngine e q).keySlots = s.keySlots := rfl
@[simp] theorem State.setEngine_ferKeys (s : State) (e : Nat) (q : List EngCmd) : (s.setEngine e q).ferKeys = s.ferKeys := rfl
@[simp] theorem State.setEngine_engines (s : State) (e : Nat) (q : List EngCmd) : (s.setEngine e q).engines = Tab.put [] s.engines e q := rfl
@[simp] theorem State.setEngine_engWheel (s : State) (e : Nat) (q : List EngCmd) : (s.setEngine e q).engWheel = s.engWheel := rfl
@[simp] theorem State.setEngine_fer (s : State) (e : Nat) (q : List EngCmd) : (s.setEngine e q).fer = s.fer := rfl
@[simp] theorem State.setEngine_groups (s : State) (e : Nat) (q : List EngCmd) : (s.setEngine e q).groups = s.groups := rfl
@[simp] theorem State.setEngine_grants (s : State) (e : Nat) (q : List EngCmd) : (s.setEngine e q).grants = s.grants := rfl
@[simp] theorem State.setEngine_gate (s : State) (e : Nat) (q : List EngCmd) : (s.setEngine e q).gate = s.gate := rfl
@[simp] theorem State.setEngine_aliasGate (s : State) (e : Nat) (q : List EngCmd) : (s.setEngine e q).aliasGate = s.aliasGate := rfl
@[simp] theorem State.setEngine_tether (s : State) (e : Nat) (q : List EngCmd) : (s.setEngine e q).tether = s.tether := rfl
@[simp] theorem State.setEngine_sag (s : State) (e : Nat) (q : List EngCmd) : (s.setEngine e q).sag = s.sag := rfl
@[simp] theorem State.setEngine_fatal (s : State) (e : Nat) (q : List EngCmd) : (s.setEngine e q).fatal = s.fatal := rfl
@[simp] theorem State.setEngine_shareW (s : State) (e : Nat) (q : List EngCmd) : (s.setEngine e q).shareW = s.shareW := rfl
@[simp] theorem State.setEngine_gated (s : State) (e : Nat) (q : List EngCmd) : (s.setEngine e q).gated = s.gated := rfl
@[simp] theorem State.setEngine_time (s : State) (e : Nat) (q : List EngCmd) : (s.setEngine e q).time = s.time := rfl
@[simp] theorem State.setEngine_launch (s : State) (e : Nat) (q : List EngCmd) : (s.setEngine e q).launch = s.launch := rfl
@[simp] theorem State.setEngine_billing (s : State) (e : Nat) (q : List EngCmd) : (s.setEngine e q).billing = s.billing := rfl
@[simp] theorem State.setEngine_bill (s : State) (e : Nat) (q : List EngCmd) : (s.setEngine e q).bill = s.bill := rfl
@[simp] theorem State.setEngine_sec (s : State) (e : Nat) (q : List EngCmd) : (s.setEngine e q).sec = s.sec := rfl
@[simp] theorem State.setEngine_pwr (s : State) (e : Nat) (q : List EngCmd) : (s.setEngine e q).pwr = s.pwr := rfl
@[simp] theorem State.setEngine_nv (s : State) (e : Nat) (q : List EngCmd) : (s.setEngine e q).nv = s.nv := rfl
@[simp] theorem State.setEngine_ao (s : State) (e : Nat) (q : List EngCmd) : (s.setEngine e q).ao = s.ao := rfl
@[simp] theorem State.setEngine_dbg (s : State) (e : Nat) (q : List EngCmd) : (s.setEngine e q).dbg = s.dbg := rfl
@[simp] theorem State.setEngine_trace (s : State) (e : Nat) (q : List EngCmd) : (s.setEngine e q).trace = s.trace := rfl
@[simp] theorem State.setEngine_jobCause (s : State) (e : Nat) (q : List EngCmd) : (s.setEngine e q).jobCause = s.jobCause := rfl
@[simp] theorem State.setEngine_jobLast (s : State) (e : Nat) (q : List EngCmd) : (s.setEngine e q).jobLast = s.jobLast := rfl
@[simp] theorem State.setEngine_patrol (s : State) (e : Nat) (q : List EngCmd) : (s.setEngine e q).patrol = s.patrol := rfl
@[simp] theorem State.setEngine_pairs (s : State) (e : Nat) (q : List EngCmd) : (s.setEngine e q).pairs = s.pairs := rfl
@[simp] theorem State.setEngine_tablesLost (s : State) (e : Nat) (q : List EngCmd) : (s.setEngine e q).tablesLost = s.tablesLost := rfl
@[simp] theorem State.setEngine_shareHeld (s : State) (e : Nat) (q : List EngCmd) : (s.setEngine e q).shareHeld = s.shareHeld := rfl
@[simp] theorem State.setEngine_staged (s : State) (e : Nat) (q : List EngCmd) : (s.setEngine e q).staged = s.staged := rfl
@[simp] theorem State.setEngine_latched (s : State) (e : Nat) (q : List EngCmd) : (s.setEngine e q).latched = s.latched := rfl

/-! ### State.hostWrite -/

@[simp] theorem State.hostWrite_pending (s : State) (fn a : Nat) (bs : List Byte) : (s.hostWrite fn a bs).pending = s.pending := rfl
@[simp] theorem State.hostWrite_freeCtr (s : State) (fn a : Nat) (bs : List Byte) : (s.hostWrite fn a bs).freeCtr = s.freeCtr := rfl
@[simp] theorem State.hostWrite_gc (s : State) (fn a : Nat) (bs : List Byte) : (s.hostWrite fn a bs).gc = s.gc := rfl
@[simp] theorem State.hostWrite_feat (s : State) (fn a : Nat) (bs : List Byte) : (s.hostWrite fn a bs).feat = s.feat := rfl
@[simp] theorem State.hostWrite_stage (s : State) (fn a : Nat) (bs : List Byte) : (s.hostWrite fn a bs).stage = s.stage := rfl
@[simp] theorem State.hostWrite_cells (s : State) (fn a : Nat) (bs : List Byte) : (s.hostWrite fn a bs).cells = s.cells := rfl
@[simp] theorem State.hostWrite_badCells (s : State) (fn a : Nat) (bs : List Byte) : (s.hostWrite fn a bs).badCells = s.badCells := rfl
@[simp] theorem State.hostWrite_routeBad (s : State) (fn a : Nat) (bs : List Byte) : (s.hostWrite fn a bs).routeBad = s.routeBad := rfl
@[simp] theorem State.hostWrite_heldPkts (s : State) (fn a : Nat) (bs : List Byte) : (s.hostWrite fn a bs).heldPkts = s.heldPkts := rfl
@[simp] theorem State.hostWrite_flits (s : State) (fn a : Nat) (bs : List Byte) : (s.hostWrite fn a bs).flits = s.flits := rfl
@[simp] theorem State.hostWrite_flitsSnap (s : State) (fn a : Nat) (bs : List Byte) : (s.hostWrite fn a bs).flitsSnap = s.flitsSnap := rfl
@[simp] theorem State.hostWrite_wheel (s : State) (fn a : Nat) (bs : List Byte) : (s.hostWrite fn a bs).wheel = s.wheel := rfl
@[simp] theorem State.hostWrite_links (s : State) (fn a : Nat) (bs : List Byte) : (s.hostWrite fn a bs).links = s.links := rfl
@[simp] theorem State.hostWrite_creditFlight (s : State) (fn a : Nat) (bs : List Byte) : (s.hostWrite fn a bs).creditFlight = s.creditFlight := rfl
@[simp] theorem State.hostWrite_flight (s : State) (fn a : Nat) (bs : List Byte) : (s.hostWrite fn a bs).flight = s.flight := rfl
@[simp] theorem State.hostWrite_sigs (s : State) (fn a : Nat) (bs : List Byte) : (s.hostWrite fn a bs).sigs = s.sigs := rfl
@[simp] theorem State.hostWrite_jobs (s : State) (fn a : Nat) (bs : List Byte) : (s.hostWrite fn a bs).jobs = s.jobs := rfl
@[simp] theorem State.hostWrite_gals (s : State) (fn a : Nat) (bs : List Byte) : (s.hostWrite fn a bs).gals = s.gals := rfl
@[simp] theorem State.hostWrite_log (s : State) (fn a : Nat) (bs : List Byte) : (s.hostWrite fn a bs).log = s.log := rfl
@[simp] theorem State.hostWrite_bootCount (s : State) (fn a : Nat) (bs : List Byte) : (s.hostWrite fn a bs).bootCount = s.bootCount := rfl
@[simp] theorem State.hostWrite_shareClass (s : State) (fn a : Nat) (bs : List Byte) : (s.hostWrite fn a bs).shareClass = s.shareClass := rfl
@[simp] theorem State.hostWrite_arrayHeld (s : State) (fn a : Nat) (bs : List Byte) : (s.hostWrite fn a bs).arrayHeld = s.arrayHeld := rfl
@[simp] theorem State.hostWrite_regs (s : State) (fn a : Nat) (bs : List Byte) : (s.hostWrite fn a bs).regs = s.regs := rfl
@[simp] theorem State.hostWrite_rings (s : State) (fn a : Nat) (bs : List Byte) : (s.hostWrite fn a bs).rings = s.rings := rfl
@[simp] theorem State.hostWrite_cmds (s : State) (fn a : Nat) (bs : List Byte) : (s.hostWrite fn a bs).cmds = s.cmds := rfl
@[simp] theorem State.hostWrite_cmdCtr (s : State) (fn a : Nat) (bs : List Byte) : (s.hostWrite fn a bs).cmdCtr = s.cmdCtr := rfl
@[simp] theorem State.hostWrite_host (s : State) (fn a : Nat) (bs : List Byte) : (s.hostWrite fn a bs).host = Tab.put [] s.host fn (Memory.writeBytes (Tab.get [] s.host fn) a bs) := rfl
@[simp] theorem State.hostWrite_lines (s : State) (fn a : Nat) (bs : List Byte) : (s.hostWrite fn a bs).lines = s.lines := rfl
@[simp] theorem State.hostWrite_fns (s : State) (fn a : Nat) (bs : List Byte) : (s.hostWrite fn a bs).fns = s.fns := rfl
@[simp] theorem State.hostWrite_vfEn (s : State) (fn a : Nat) (bs : List Byte) : (s.hostWrite fn a bs).vfEn = s.vfEn := rfl
@[simp] theorem State.hostWrite_pfOnly (s : State) (fn a : Nat) (bs : List Byte) : (s.hostWrite fn a bs).pfOnly = s.pfOnly := rfl
@[simp] theorem State.hostWrite_hbm (s : State) (fn a : Nat) (bs : List Byte) : (s.hostWrite fn a bs).hbm = s.hbm := rfl
@[simp] theorem State.hostWrite_hbmPoison (s : State) (fn a : Nat) (bs : List Byte) : (s.hostWrite fn a bs).hbmPoison = s.hbmPoison := rfl
@[simp] theorem State.hostWrite_cache (s : State) (fn a : Nat) (bs : List Byte) : (s.hostWrite fn a bs).cache = s.cache := rfl
@[simp] theorem State.hostWrite_tokens (s : State) (fn a : Nat) (bs : List Byte) : (s.hostWrite fn a bs).tokens = s.tokens := rfl
@[simp] theorem State.hostWrite_pages (s : State) (fn a : Nat) (bs : List Byte) : (s.hostWrite fn a bs).pages = s.pages := rfl
@[simp] theorem State.hostWrite_pageTag (s : State) (fn a : Nat) (bs : List Byte) : (s.hostWrite fn a bs).pageTag = s.pageTag := rfl
@[simp] theorem State.hostWrite_tlb (s : State) (fn a : Nat) (bs : List Byte) : (s.hostWrite fn a bs).tlb = s.tlb := rfl
@[simp] theorem State.hostWrite_pt (s : State) (fn a : Nat) (bs : List Byte) : (s.hostWrite fn a bs).pt = s.pt := rfl
@[simp] theorem State.hostWrite_l2 (s : State) (fn a : Nat) (bs : List Byte) : (s.hostWrite fn a bs).l2 = s.l2 := rfl
@[simp] theorem State.hostWrite_spreadPtr (s : State) (fn a : Nat) (bs : List Byte) : (s.hostWrite fn a bs).spreadPtr = s.spreadPtr := rfl
@[simp] theorem State.hostWrite_dieAlt (s : State) (fn a : Nat) (bs : List Byte) : (s.hostWrite fn a bs).dieAlt = s.dieAlt := rfl
@[simp] theorem State.hostWrite_reserves (s : State) (fn a : Nat) (bs : List Byte) : (s.hostWrite fn a bs).reserves = s.reserves := rfl
@[simp] theorem State.hostWrite_loads (s : State) (fn a : Nat) (bs : List Byte) : (s.hostWrite fn a bs).loads = s.loads := rfl
@[simp] theorem State.hostWrite_keySlots (s : State) (fn a : Nat) (bs : List Byte) : (s.hostWrite fn a bs).keySlots = s.keySlots := rfl
@[simp] theorem State.hostWrite_ferKeys (s : State) (fn a : Nat) (bs : List Byte) : (s.hostWrite fn a bs).ferKeys = s.ferKeys := rfl
@[simp] theorem State.hostWrite_engines (s : State) (fn a : Nat) (bs : List Byte) : (s.hostWrite fn a bs).engines = s.engines := rfl
@[simp] theorem State.hostWrite_engWheel (s : State) (fn a : Nat) (bs : List Byte) : (s.hostWrite fn a bs).engWheel = s.engWheel := rfl
@[simp] theorem State.hostWrite_fer (s : State) (fn a : Nat) (bs : List Byte) : (s.hostWrite fn a bs).fer = s.fer := rfl
@[simp] theorem State.hostWrite_groups (s : State) (fn a : Nat) (bs : List Byte) : (s.hostWrite fn a bs).groups = s.groups := rfl
@[simp] theorem State.hostWrite_grants (s : State) (fn a : Nat) (bs : List Byte) : (s.hostWrite fn a bs).grants = s.grants := rfl
@[simp] theorem State.hostWrite_gate (s : State) (fn a : Nat) (bs : List Byte) : (s.hostWrite fn a bs).gate = s.gate := rfl
@[simp] theorem State.hostWrite_aliasGate (s : State) (fn a : Nat) (bs : List Byte) : (s.hostWrite fn a bs).aliasGate = s.aliasGate := rfl
@[simp] theorem State.hostWrite_tether (s : State) (fn a : Nat) (bs : List Byte) : (s.hostWrite fn a bs).tether = s.tether := rfl
@[simp] theorem State.hostWrite_sag (s : State) (fn a : Nat) (bs : List Byte) : (s.hostWrite fn a bs).sag = s.sag := rfl
@[simp] theorem State.hostWrite_fatal (s : State) (fn a : Nat) (bs : List Byte) : (s.hostWrite fn a bs).fatal = s.fatal := rfl
@[simp] theorem State.hostWrite_shareW (s : State) (fn a : Nat) (bs : List Byte) : (s.hostWrite fn a bs).shareW = s.shareW := rfl
@[simp] theorem State.hostWrite_gated (s : State) (fn a : Nat) (bs : List Byte) : (s.hostWrite fn a bs).gated = s.gated := rfl
@[simp] theorem State.hostWrite_time (s : State) (fn a : Nat) (bs : List Byte) : (s.hostWrite fn a bs).time = s.time := rfl
@[simp] theorem State.hostWrite_launch (s : State) (fn a : Nat) (bs : List Byte) : (s.hostWrite fn a bs).launch = s.launch := rfl
@[simp] theorem State.hostWrite_billing (s : State) (fn a : Nat) (bs : List Byte) : (s.hostWrite fn a bs).billing = s.billing := rfl
@[simp] theorem State.hostWrite_bill (s : State) (fn a : Nat) (bs : List Byte) : (s.hostWrite fn a bs).bill = s.bill := rfl
@[simp] theorem State.hostWrite_sec (s : State) (fn a : Nat) (bs : List Byte) : (s.hostWrite fn a bs).sec = s.sec := rfl
@[simp] theorem State.hostWrite_pwr (s : State) (fn a : Nat) (bs : List Byte) : (s.hostWrite fn a bs).pwr = s.pwr := rfl
@[simp] theorem State.hostWrite_nv (s : State) (fn a : Nat) (bs : List Byte) : (s.hostWrite fn a bs).nv = s.nv := rfl
@[simp] theorem State.hostWrite_ao (s : State) (fn a : Nat) (bs : List Byte) : (s.hostWrite fn a bs).ao = s.ao := rfl
@[simp] theorem State.hostWrite_dbg (s : State) (fn a : Nat) (bs : List Byte) : (s.hostWrite fn a bs).dbg = s.dbg := rfl
@[simp] theorem State.hostWrite_trace (s : State) (fn a : Nat) (bs : List Byte) : (s.hostWrite fn a bs).trace = s.trace := rfl
@[simp] theorem State.hostWrite_jobCause (s : State) (fn a : Nat) (bs : List Byte) : (s.hostWrite fn a bs).jobCause = s.jobCause := rfl
@[simp] theorem State.hostWrite_jobLast (s : State) (fn a : Nat) (bs : List Byte) : (s.hostWrite fn a bs).jobLast = s.jobLast := rfl
@[simp] theorem State.hostWrite_patrol (s : State) (fn a : Nat) (bs : List Byte) : (s.hostWrite fn a bs).patrol = s.patrol := rfl
@[simp] theorem State.hostWrite_pairs (s : State) (fn a : Nat) (bs : List Byte) : (s.hostWrite fn a bs).pairs = s.pairs := rfl
@[simp] theorem State.hostWrite_tablesLost (s : State) (fn a : Nat) (bs : List Byte) : (s.hostWrite fn a bs).tablesLost = s.tablesLost := rfl
@[simp] theorem State.hostWrite_shareHeld (s : State) (fn a : Nat) (bs : List Byte) : (s.hostWrite fn a bs).shareHeld = s.shareHeld := rfl
@[simp] theorem State.hostWrite_staged (s : State) (fn a : Nat) (bs : List Byte) : (s.hostWrite fn a bs).staged = s.staged := rfl
@[simp] theorem State.hostWrite_latched (s : State) (fn a : Nat) (bs : List Byte) : (s.hostWrite fn a bs).latched = s.latched := rfl

/-! ### State.arrived -/

@[simp] theorem State.arrived_pending (s : State) (p : Packet) : (s.arrived p).pending = s.pending := rfl
@[simp] theorem State.arrived_freeCtr (s : State) (p : Packet) : (s.arrived p).freeCtr = s.freeCtr := rfl
@[simp] theorem State.arrived_gc (s : State) (p : Packet) : (s.arrived p).gc = s.gc := rfl
@[simp] theorem State.arrived_feat (s : State) (p : Packet) : (s.arrived p).feat = s.feat := rfl
@[simp] theorem State.arrived_stage (s : State) (p : Packet) : (s.arrived p).stage = s.stage := rfl
@[simp] theorem State.arrived_cells (s : State) (p : Packet) : (s.arrived p).cells = s.cells := rfl
@[simp] theorem State.arrived_badCells (s : State) (p : Packet) : (s.arrived p).badCells = s.badCells := rfl
@[simp] theorem State.arrived_routeBad (s : State) (p : Packet) : (s.arrived p).routeBad = s.routeBad := rfl
@[simp] theorem State.arrived_heldPkts (s : State) (p : Packet) : (s.arrived p).heldPkts = s.heldPkts := rfl
@[simp] theorem State.arrived_flits (s : State) (p : Packet) : (s.arrived p).flits = s.flits := rfl
@[simp] theorem State.arrived_flitsSnap (s : State) (p : Packet) : (s.arrived p).flitsSnap = s.flitsSnap := rfl
@[simp] theorem State.arrived_wheel (s : State) (p : Packet) : (s.arrived p).wheel = s.wheel := rfl
@[simp] theorem State.arrived_links (s : State) (p : Packet) : (s.arrived p).links = s.links := rfl
@[simp] theorem State.arrived_creditFlight (s : State) (p : Packet) : (s.arrived p).creditFlight = s.creditFlight := rfl
@[simp] theorem State.arrived_flight (s : State) (p : Packet) : (s.arrived p).flight = s.flight.erase p := rfl
@[simp] theorem State.arrived_sigs (s : State) (p : Packet) : (s.arrived p).sigs = s.sigs := rfl
@[simp] theorem State.arrived_jobs (s : State) (p : Packet) : (s.arrived p).jobs = s.jobs := rfl
@[simp] theorem State.arrived_gals (s : State) (p : Packet) : (s.arrived p).gals = s.gals := rfl
@[simp] theorem State.arrived_log (s : State) (p : Packet) : (s.arrived p).log = s.log := rfl
@[simp] theorem State.arrived_bootCount (s : State) (p : Packet) : (s.arrived p).bootCount = s.bootCount := rfl
@[simp] theorem State.arrived_shareClass (s : State) (p : Packet) : (s.arrived p).shareClass = s.shareClass := rfl
@[simp] theorem State.arrived_arrayHeld (s : State) (p : Packet) : (s.arrived p).arrayHeld = s.arrayHeld := rfl
@[simp] theorem State.arrived_regs (s : State) (p : Packet) : (s.arrived p).regs = s.regs := rfl
@[simp] theorem State.arrived_rings (s : State) (p : Packet) : (s.arrived p).rings = s.rings := rfl
@[simp] theorem State.arrived_cmds (s : State) (p : Packet) : (s.arrived p).cmds = s.cmds := rfl
@[simp] theorem State.arrived_cmdCtr (s : State) (p : Packet) : (s.arrived p).cmdCtr = s.cmdCtr := rfl
@[simp] theorem State.arrived_host (s : State) (p : Packet) : (s.arrived p).host = s.host := rfl
@[simp] theorem State.arrived_lines (s : State) (p : Packet) : (s.arrived p).lines = s.lines := rfl
@[simp] theorem State.arrived_fns (s : State) (p : Packet) : (s.arrived p).fns = s.fns := rfl
@[simp] theorem State.arrived_vfEn (s : State) (p : Packet) : (s.arrived p).vfEn = s.vfEn := rfl
@[simp] theorem State.arrived_pfOnly (s : State) (p : Packet) : (s.arrived p).pfOnly = s.pfOnly := rfl
@[simp] theorem State.arrived_hbm (s : State) (p : Packet) : (s.arrived p).hbm = s.hbm := rfl
@[simp] theorem State.arrived_hbmPoison (s : State) (p : Packet) : (s.arrived p).hbmPoison = s.hbmPoison := rfl
@[simp] theorem State.arrived_cache (s : State) (p : Packet) : (s.arrived p).cache = s.cache := rfl
@[simp] theorem State.arrived_tokens (s : State) (p : Packet) : (s.arrived p).tokens = s.tokens := rfl
@[simp] theorem State.arrived_pages (s : State) (p : Packet) : (s.arrived p).pages = s.pages := rfl
@[simp] theorem State.arrived_pageTag (s : State) (p : Packet) : (s.arrived p).pageTag = s.pageTag := rfl
@[simp] theorem State.arrived_tlb (s : State) (p : Packet) : (s.arrived p).tlb = s.tlb := rfl
@[simp] theorem State.arrived_pt (s : State) (p : Packet) : (s.arrived p).pt = s.pt := rfl
@[simp] theorem State.arrived_l2 (s : State) (p : Packet) : (s.arrived p).l2 = s.l2 := rfl
@[simp] theorem State.arrived_spreadPtr (s : State) (p : Packet) : (s.arrived p).spreadPtr = s.spreadPtr := rfl
@[simp] theorem State.arrived_dieAlt (s : State) (p : Packet) : (s.arrived p).dieAlt = s.dieAlt := rfl
@[simp] theorem State.arrived_reserves (s : State) (p : Packet) : (s.arrived p).reserves = s.reserves := rfl
@[simp] theorem State.arrived_loads (s : State) (p : Packet) : (s.arrived p).loads = s.loads := rfl
@[simp] theorem State.arrived_keySlots (s : State) (p : Packet) : (s.arrived p).keySlots = s.keySlots := rfl
@[simp] theorem State.arrived_ferKeys (s : State) (p : Packet) : (s.arrived p).ferKeys = s.ferKeys := rfl
@[simp] theorem State.arrived_engines (s : State) (p : Packet) : (s.arrived p).engines = s.engines := rfl
@[simp] theorem State.arrived_engWheel (s : State) (p : Packet) : (s.arrived p).engWheel = s.engWheel := rfl
@[simp] theorem State.arrived_fer (s : State) (p : Packet) : (s.arrived p).fer = s.fer := rfl
@[simp] theorem State.arrived_groups (s : State) (p : Packet) : (s.arrived p).groups = s.groups := rfl
@[simp] theorem State.arrived_grants (s : State) (p : Packet) : (s.arrived p).grants = s.grants := rfl
@[simp] theorem State.arrived_gate (s : State) (p : Packet) : (s.arrived p).gate = s.gate := rfl
@[simp] theorem State.arrived_aliasGate (s : State) (p : Packet) : (s.arrived p).aliasGate = s.aliasGate := rfl
@[simp] theorem State.arrived_tether (s : State) (p : Packet) : (s.arrived p).tether = s.tether := rfl
@[simp] theorem State.arrived_sag (s : State) (p : Packet) : (s.arrived p).sag = s.sag := rfl
@[simp] theorem State.arrived_fatal (s : State) (p : Packet) : (s.arrived p).fatal = s.fatal := rfl
@[simp] theorem State.arrived_shareW (s : State) (p : Packet) : (s.arrived p).shareW = s.shareW := rfl
@[simp] theorem State.arrived_gated (s : State) (p : Packet) : (s.arrived p).gated = s.gated := rfl
@[simp] theorem State.arrived_time (s : State) (p : Packet) : (s.arrived p).time = s.time := rfl
@[simp] theorem State.arrived_launch (s : State) (p : Packet) : (s.arrived p).launch = s.launch := rfl
@[simp] theorem State.arrived_billing (s : State) (p : Packet) : (s.arrived p).billing = s.billing := rfl
@[simp] theorem State.arrived_bill (s : State) (p : Packet) : (s.arrived p).bill = s.bill := rfl
@[simp] theorem State.arrived_sec (s : State) (p : Packet) : (s.arrived p).sec = s.sec := rfl
@[simp] theorem State.arrived_pwr (s : State) (p : Packet) : (s.arrived p).pwr = s.pwr := rfl
@[simp] theorem State.arrived_nv (s : State) (p : Packet) : (s.arrived p).nv = s.nv := rfl
@[simp] theorem State.arrived_ao (s : State) (p : Packet) : (s.arrived p).ao = s.ao := rfl
@[simp] theorem State.arrived_dbg (s : State) (p : Packet) : (s.arrived p).dbg = s.dbg := rfl
@[simp] theorem State.arrived_trace (s : State) (p : Packet) : (s.arrived p).trace = s.trace := rfl
@[simp] theorem State.arrived_jobCause (s : State) (p : Packet) : (s.arrived p).jobCause = s.jobCause := rfl
@[simp] theorem State.arrived_jobLast (s : State) (p : Packet) : (s.arrived p).jobLast = s.jobLast := rfl
@[simp] theorem State.arrived_patrol (s : State) (p : Packet) : (s.arrived p).patrol = s.patrol := rfl
@[simp] theorem State.arrived_pairs (s : State) (p : Packet) : (s.arrived p).pairs = s.pairs := rfl
@[simp] theorem State.arrived_tablesLost (s : State) (p : Packet) : (s.arrived p).tablesLost = s.tablesLost := rfl
@[simp] theorem State.arrived_shareHeld (s : State) (p : Packet) : (s.arrived p).shareHeld = s.shareHeld := rfl
@[simp] theorem State.arrived_staged (s : State) (p : Packet) : (s.arrived p).staged = s.staged := rfl
@[simp] theorem State.arrived_latched (s : State) (p : Packet) : (s.arrived p).latched = s.latched := rfl

/-! ### State.updFer -/

@[simp] theorem State.updFer_pending (s : State) (f : Ferier → Ferier) : (s.updFer f).pending = s.pending := rfl
@[simp] theorem State.updFer_freeCtr (s : State) (f : Ferier → Ferier) : (s.updFer f).freeCtr = s.freeCtr := rfl
@[simp] theorem State.updFer_gc (s : State) (f : Ferier → Ferier) : (s.updFer f).gc = s.gc := rfl
@[simp] theorem State.updFer_feat (s : State) (f : Ferier → Ferier) : (s.updFer f).feat = s.feat := rfl
@[simp] theorem State.updFer_stage (s : State) (f : Ferier → Ferier) : (s.updFer f).stage = s.stage := rfl
@[simp] theorem State.updFer_cells (s : State) (f : Ferier → Ferier) : (s.updFer f).cells = s.cells := rfl
@[simp] theorem State.updFer_badCells (s : State) (f : Ferier → Ferier) : (s.updFer f).badCells = s.badCells := rfl
@[simp] theorem State.updFer_routeBad (s : State) (f : Ferier → Ferier) : (s.updFer f).routeBad = s.routeBad := rfl
@[simp] theorem State.updFer_heldPkts (s : State) (f : Ferier → Ferier) : (s.updFer f).heldPkts = s.heldPkts := rfl
@[simp] theorem State.updFer_flits (s : State) (f : Ferier → Ferier) : (s.updFer f).flits = s.flits := rfl
@[simp] theorem State.updFer_flitsSnap (s : State) (f : Ferier → Ferier) : (s.updFer f).flitsSnap = s.flitsSnap := rfl
@[simp] theorem State.updFer_wheel (s : State) (f : Ferier → Ferier) : (s.updFer f).wheel = s.wheel := rfl
@[simp] theorem State.updFer_links (s : State) (f : Ferier → Ferier) : (s.updFer f).links = s.links := rfl
@[simp] theorem State.updFer_creditFlight (s : State) (f : Ferier → Ferier) : (s.updFer f).creditFlight = s.creditFlight := rfl
@[simp] theorem State.updFer_flight (s : State) (f : Ferier → Ferier) : (s.updFer f).flight = s.flight := rfl
@[simp] theorem State.updFer_sigs (s : State) (f : Ferier → Ferier) : (s.updFer f).sigs = s.sigs := rfl
@[simp] theorem State.updFer_jobs (s : State) (f : Ferier → Ferier) : (s.updFer f).jobs = s.jobs := rfl
@[simp] theorem State.updFer_gals (s : State) (f : Ferier → Ferier) : (s.updFer f).gals = s.gals := rfl
@[simp] theorem State.updFer_log (s : State) (f : Ferier → Ferier) : (s.updFer f).log = s.log := rfl
@[simp] theorem State.updFer_bootCount (s : State) (f : Ferier → Ferier) : (s.updFer f).bootCount = s.bootCount := rfl
@[simp] theorem State.updFer_shareClass (s : State) (f : Ferier → Ferier) : (s.updFer f).shareClass = s.shareClass := rfl
@[simp] theorem State.updFer_arrayHeld (s : State) (f : Ferier → Ferier) : (s.updFer f).arrayHeld = s.arrayHeld := rfl
@[simp] theorem State.updFer_regs (s : State) (f : Ferier → Ferier) : (s.updFer f).regs = s.regs := rfl
@[simp] theorem State.updFer_rings (s : State) (f : Ferier → Ferier) : (s.updFer f).rings = s.rings := rfl
@[simp] theorem State.updFer_cmds (s : State) (f : Ferier → Ferier) : (s.updFer f).cmds = s.cmds := rfl
@[simp] theorem State.updFer_cmdCtr (s : State) (f : Ferier → Ferier) : (s.updFer f).cmdCtr = s.cmdCtr := rfl
@[simp] theorem State.updFer_host (s : State) (f : Ferier → Ferier) : (s.updFer f).host = s.host := rfl
@[simp] theorem State.updFer_lines (s : State) (f : Ferier → Ferier) : (s.updFer f).lines = s.lines := rfl
@[simp] theorem State.updFer_fns (s : State) (f : Ferier → Ferier) : (s.updFer f).fns = s.fns := rfl
@[simp] theorem State.updFer_vfEn (s : State) (f : Ferier → Ferier) : (s.updFer f).vfEn = s.vfEn := rfl
@[simp] theorem State.updFer_pfOnly (s : State) (f : Ferier → Ferier) : (s.updFer f).pfOnly = s.pfOnly := rfl
@[simp] theorem State.updFer_hbm (s : State) (f : Ferier → Ferier) : (s.updFer f).hbm = s.hbm := rfl
@[simp] theorem State.updFer_hbmPoison (s : State) (f : Ferier → Ferier) : (s.updFer f).hbmPoison = s.hbmPoison := rfl
@[simp] theorem State.updFer_cache (s : State) (f : Ferier → Ferier) : (s.updFer f).cache = s.cache := rfl
@[simp] theorem State.updFer_tokens (s : State) (f : Ferier → Ferier) : (s.updFer f).tokens = s.tokens := rfl
@[simp] theorem State.updFer_pages (s : State) (f : Ferier → Ferier) : (s.updFer f).pages = s.pages := rfl
@[simp] theorem State.updFer_pageTag (s : State) (f : Ferier → Ferier) : (s.updFer f).pageTag = s.pageTag := rfl
@[simp] theorem State.updFer_tlb (s : State) (f : Ferier → Ferier) : (s.updFer f).tlb = s.tlb := rfl
@[simp] theorem State.updFer_pt (s : State) (f : Ferier → Ferier) : (s.updFer f).pt = s.pt := rfl
@[simp] theorem State.updFer_l2 (s : State) (f : Ferier → Ferier) : (s.updFer f).l2 = s.l2 := rfl
@[simp] theorem State.updFer_spreadPtr (s : State) (f : Ferier → Ferier) : (s.updFer f).spreadPtr = s.spreadPtr := rfl
@[simp] theorem State.updFer_dieAlt (s : State) (f : Ferier → Ferier) : (s.updFer f).dieAlt = s.dieAlt := rfl
@[simp] theorem State.updFer_reserves (s : State) (f : Ferier → Ferier) : (s.updFer f).reserves = s.reserves := rfl
@[simp] theorem State.updFer_loads (s : State) (f : Ferier → Ferier) : (s.updFer f).loads = s.loads := rfl
@[simp] theorem State.updFer_keySlots (s : State) (f : Ferier → Ferier) : (s.updFer f).keySlots = s.keySlots := rfl
@[simp] theorem State.updFer_ferKeys (s : State) (f : Ferier → Ferier) : (s.updFer f).ferKeys = s.ferKeys := rfl
@[simp] theorem State.updFer_engines (s : State) (f : Ferier → Ferier) : (s.updFer f).engines = s.engines := rfl
@[simp] theorem State.updFer_engWheel (s : State) (f : Ferier → Ferier) : (s.updFer f).engWheel = s.engWheel := rfl
@[simp] theorem State.updFer_fer (s : State) (f : Ferier → Ferier) : (s.updFer f).fer = f s.fer := rfl
@[simp] theorem State.updFer_groups (s : State) (f : Ferier → Ferier) : (s.updFer f).groups = s.groups := rfl
@[simp] theorem State.updFer_grants (s : State) (f : Ferier → Ferier) : (s.updFer f).grants = s.grants := rfl
@[simp] theorem State.updFer_gate (s : State) (f : Ferier → Ferier) : (s.updFer f).gate = s.gate := rfl
@[simp] theorem State.updFer_aliasGate (s : State) (f : Ferier → Ferier) : (s.updFer f).aliasGate = s.aliasGate := rfl
@[simp] theorem State.updFer_tether (s : State) (f : Ferier → Ferier) : (s.updFer f).tether = s.tether := rfl
@[simp] theorem State.updFer_sag (s : State) (f : Ferier → Ferier) : (s.updFer f).sag = s.sag := rfl
@[simp] theorem State.updFer_fatal (s : State) (f : Ferier → Ferier) : (s.updFer f).fatal = s.fatal := rfl
@[simp] theorem State.updFer_shareW (s : State) (f : Ferier → Ferier) : (s.updFer f).shareW = s.shareW := rfl
@[simp] theorem State.updFer_gated (s : State) (f : Ferier → Ferier) : (s.updFer f).gated = s.gated := rfl
@[simp] theorem State.updFer_time (s : State) (f : Ferier → Ferier) : (s.updFer f).time = s.time := rfl
@[simp] theorem State.updFer_launch (s : State) (f : Ferier → Ferier) : (s.updFer f).launch = s.launch := rfl
@[simp] theorem State.updFer_billing (s : State) (f : Ferier → Ferier) : (s.updFer f).billing = s.billing := rfl
@[simp] theorem State.updFer_bill (s : State) (f : Ferier → Ferier) : (s.updFer f).bill = s.bill := rfl
@[simp] theorem State.updFer_sec (s : State) (f : Ferier → Ferier) : (s.updFer f).sec = s.sec := rfl
@[simp] theorem State.updFer_pwr (s : State) (f : Ferier → Ferier) : (s.updFer f).pwr = s.pwr := rfl
@[simp] theorem State.updFer_nv (s : State) (f : Ferier → Ferier) : (s.updFer f).nv = s.nv := rfl
@[simp] theorem State.updFer_ao (s : State) (f : Ferier → Ferier) : (s.updFer f).ao = s.ao := rfl
@[simp] theorem State.updFer_dbg (s : State) (f : Ferier → Ferier) : (s.updFer f).dbg = s.dbg := rfl
@[simp] theorem State.updFer_trace (s : State) (f : Ferier → Ferier) : (s.updFer f).trace = s.trace := rfl
@[simp] theorem State.updFer_jobCause (s : State) (f : Ferier → Ferier) : (s.updFer f).jobCause = s.jobCause := rfl
@[simp] theorem State.updFer_jobLast (s : State) (f : Ferier → Ferier) : (s.updFer f).jobLast = s.jobLast := rfl
@[simp] theorem State.updFer_patrol (s : State) (f : Ferier → Ferier) : (s.updFer f).patrol = s.patrol := rfl
@[simp] theorem State.updFer_pairs (s : State) (f : Ferier → Ferier) : (s.updFer f).pairs = s.pairs := rfl
@[simp] theorem State.updFer_tablesLost (s : State) (f : Ferier → Ferier) : (s.updFer f).tablesLost = s.tablesLost := rfl
@[simp] theorem State.updFer_shareHeld (s : State) (f : Ferier → Ferier) : (s.updFer f).shareHeld = s.shareHeld := rfl
@[simp] theorem State.updFer_staged (s : State) (f : Ferier → Ferier) : (s.updFer f).staged = s.staged := rfl
@[simp] theorem State.updFer_latched (s : State) (f : Ferier → Ferier) : (s.updFer f).latched = s.latched := rfl

/-! ### State.updAo -/

@[simp] theorem State.updAo_pending (s : State) (f : AoSt → AoSt) : (s.updAo f).pending = s.pending := rfl
@[simp] theorem State.updAo_freeCtr (s : State) (f : AoSt → AoSt) : (s.updAo f).freeCtr = s.freeCtr := rfl
@[simp] theorem State.updAo_gc (s : State) (f : AoSt → AoSt) : (s.updAo f).gc = s.gc := rfl
@[simp] theorem State.updAo_feat (s : State) (f : AoSt → AoSt) : (s.updAo f).feat = s.feat := rfl
@[simp] theorem State.updAo_stage (s : State) (f : AoSt → AoSt) : (s.updAo f).stage = s.stage := rfl
@[simp] theorem State.updAo_cells (s : State) (f : AoSt → AoSt) : (s.updAo f).cells = s.cells := rfl
@[simp] theorem State.updAo_badCells (s : State) (f : AoSt → AoSt) : (s.updAo f).badCells = s.badCells := rfl
@[simp] theorem State.updAo_routeBad (s : State) (f : AoSt → AoSt) : (s.updAo f).routeBad = s.routeBad := rfl
@[simp] theorem State.updAo_heldPkts (s : State) (f : AoSt → AoSt) : (s.updAo f).heldPkts = s.heldPkts := rfl
@[simp] theorem State.updAo_flits (s : State) (f : AoSt → AoSt) : (s.updAo f).flits = s.flits := rfl
@[simp] theorem State.updAo_flitsSnap (s : State) (f : AoSt → AoSt) : (s.updAo f).flitsSnap = s.flitsSnap := rfl
@[simp] theorem State.updAo_wheel (s : State) (f : AoSt → AoSt) : (s.updAo f).wheel = s.wheel := rfl
@[simp] theorem State.updAo_links (s : State) (f : AoSt → AoSt) : (s.updAo f).links = s.links := rfl
@[simp] theorem State.updAo_creditFlight (s : State) (f : AoSt → AoSt) : (s.updAo f).creditFlight = s.creditFlight := rfl
@[simp] theorem State.updAo_flight (s : State) (f : AoSt → AoSt) : (s.updAo f).flight = s.flight := rfl
@[simp] theorem State.updAo_sigs (s : State) (f : AoSt → AoSt) : (s.updAo f).sigs = s.sigs := rfl
@[simp] theorem State.updAo_jobs (s : State) (f : AoSt → AoSt) : (s.updAo f).jobs = s.jobs := rfl
@[simp] theorem State.updAo_gals (s : State) (f : AoSt → AoSt) : (s.updAo f).gals = s.gals := rfl
@[simp] theorem State.updAo_log (s : State) (f : AoSt → AoSt) : (s.updAo f).log = s.log := rfl
@[simp] theorem State.updAo_bootCount (s : State) (f : AoSt → AoSt) : (s.updAo f).bootCount = s.bootCount := rfl
@[simp] theorem State.updAo_shareClass (s : State) (f : AoSt → AoSt) : (s.updAo f).shareClass = s.shareClass := rfl
@[simp] theorem State.updAo_arrayHeld (s : State) (f : AoSt → AoSt) : (s.updAo f).arrayHeld = s.arrayHeld := rfl
@[simp] theorem State.updAo_regs (s : State) (f : AoSt → AoSt) : (s.updAo f).regs = s.regs := rfl
@[simp] theorem State.updAo_rings (s : State) (f : AoSt → AoSt) : (s.updAo f).rings = s.rings := rfl
@[simp] theorem State.updAo_cmds (s : State) (f : AoSt → AoSt) : (s.updAo f).cmds = s.cmds := rfl
@[simp] theorem State.updAo_cmdCtr (s : State) (f : AoSt → AoSt) : (s.updAo f).cmdCtr = s.cmdCtr := rfl
@[simp] theorem State.updAo_host (s : State) (f : AoSt → AoSt) : (s.updAo f).host = s.host := rfl
@[simp] theorem State.updAo_lines (s : State) (f : AoSt → AoSt) : (s.updAo f).lines = s.lines := rfl
@[simp] theorem State.updAo_fns (s : State) (f : AoSt → AoSt) : (s.updAo f).fns = s.fns := rfl
@[simp] theorem State.updAo_vfEn (s : State) (f : AoSt → AoSt) : (s.updAo f).vfEn = s.vfEn := rfl
@[simp] theorem State.updAo_pfOnly (s : State) (f : AoSt → AoSt) : (s.updAo f).pfOnly = s.pfOnly := rfl
@[simp] theorem State.updAo_hbm (s : State) (f : AoSt → AoSt) : (s.updAo f).hbm = s.hbm := rfl
@[simp] theorem State.updAo_hbmPoison (s : State) (f : AoSt → AoSt) : (s.updAo f).hbmPoison = s.hbmPoison := rfl
@[simp] theorem State.updAo_cache (s : State) (f : AoSt → AoSt) : (s.updAo f).cache = s.cache := rfl
@[simp] theorem State.updAo_tokens (s : State) (f : AoSt → AoSt) : (s.updAo f).tokens = s.tokens := rfl
@[simp] theorem State.updAo_pages (s : State) (f : AoSt → AoSt) : (s.updAo f).pages = s.pages := rfl
@[simp] theorem State.updAo_pageTag (s : State) (f : AoSt → AoSt) : (s.updAo f).pageTag = s.pageTag := rfl
@[simp] theorem State.updAo_tlb (s : State) (f : AoSt → AoSt) : (s.updAo f).tlb = s.tlb := rfl
@[simp] theorem State.updAo_pt (s : State) (f : AoSt → AoSt) : (s.updAo f).pt = s.pt := rfl
@[simp] theorem State.updAo_l2 (s : State) (f : AoSt → AoSt) : (s.updAo f).l2 = s.l2 := rfl
@[simp] theorem State.updAo_spreadPtr (s : State) (f : AoSt → AoSt) : (s.updAo f).spreadPtr = s.spreadPtr := rfl
@[simp] theorem State.updAo_dieAlt (s : State) (f : AoSt → AoSt) : (s.updAo f).dieAlt = s.dieAlt := rfl
@[simp] theorem State.updAo_reserves (s : State) (f : AoSt → AoSt) : (s.updAo f).reserves = s.reserves := rfl
@[simp] theorem State.updAo_loads (s : State) (f : AoSt → AoSt) : (s.updAo f).loads = s.loads := rfl
@[simp] theorem State.updAo_keySlots (s : State) (f : AoSt → AoSt) : (s.updAo f).keySlots = s.keySlots := rfl
@[simp] theorem State.updAo_ferKeys (s : State) (f : AoSt → AoSt) : (s.updAo f).ferKeys = s.ferKeys := rfl
@[simp] theorem State.updAo_engines (s : State) (f : AoSt → AoSt) : (s.updAo f).engines = s.engines := rfl
@[simp] theorem State.updAo_engWheel (s : State) (f : AoSt → AoSt) : (s.updAo f).engWheel = s.engWheel := rfl
@[simp] theorem State.updAo_fer (s : State) (f : AoSt → AoSt) : (s.updAo f).fer = s.fer := rfl
@[simp] theorem State.updAo_groups (s : State) (f : AoSt → AoSt) : (s.updAo f).groups = s.groups := rfl
@[simp] theorem State.updAo_grants (s : State) (f : AoSt → AoSt) : (s.updAo f).grants = s.grants := rfl
@[simp] theorem State.updAo_gate (s : State) (f : AoSt → AoSt) : (s.updAo f).gate = s.gate := rfl
@[simp] theorem State.updAo_aliasGate (s : State) (f : AoSt → AoSt) : (s.updAo f).aliasGate = s.aliasGate := rfl
@[simp] theorem State.updAo_tether (s : State) (f : AoSt → AoSt) : (s.updAo f).tether = s.tether := rfl
@[simp] theorem State.updAo_sag (s : State) (f : AoSt → AoSt) : (s.updAo f).sag = s.sag := rfl
@[simp] theorem State.updAo_fatal (s : State) (f : AoSt → AoSt) : (s.updAo f).fatal = s.fatal := rfl
@[simp] theorem State.updAo_shareW (s : State) (f : AoSt → AoSt) : (s.updAo f).shareW = s.shareW := rfl
@[simp] theorem State.updAo_gated (s : State) (f : AoSt → AoSt) : (s.updAo f).gated = s.gated := rfl
@[simp] theorem State.updAo_time (s : State) (f : AoSt → AoSt) : (s.updAo f).time = s.time := rfl
@[simp] theorem State.updAo_launch (s : State) (f : AoSt → AoSt) : (s.updAo f).launch = s.launch := rfl
@[simp] theorem State.updAo_billing (s : State) (f : AoSt → AoSt) : (s.updAo f).billing = s.billing := rfl
@[simp] theorem State.updAo_bill (s : State) (f : AoSt → AoSt) : (s.updAo f).bill = s.bill := rfl
@[simp] theorem State.updAo_sec (s : State) (f : AoSt → AoSt) : (s.updAo f).sec = s.sec := rfl
@[simp] theorem State.updAo_pwr (s : State) (f : AoSt → AoSt) : (s.updAo f).pwr = s.pwr := rfl
@[simp] theorem State.updAo_nv (s : State) (f : AoSt → AoSt) : (s.updAo f).nv = s.nv := rfl
@[simp] theorem State.updAo_ao (s : State) (f : AoSt → AoSt) : (s.updAo f).ao = f s.ao := rfl
@[simp] theorem State.updAo_dbg (s : State) (f : AoSt → AoSt) : (s.updAo f).dbg = s.dbg := rfl
@[simp] theorem State.updAo_trace (s : State) (f : AoSt → AoSt) : (s.updAo f).trace = s.trace := rfl
@[simp] theorem State.updAo_jobCause (s : State) (f : AoSt → AoSt) : (s.updAo f).jobCause = s.jobCause := rfl
@[simp] theorem State.updAo_jobLast (s : State) (f : AoSt → AoSt) : (s.updAo f).jobLast = s.jobLast := rfl
@[simp] theorem State.updAo_patrol (s : State) (f : AoSt → AoSt) : (s.updAo f).patrol = s.patrol := rfl
@[simp] theorem State.updAo_pairs (s : State) (f : AoSt → AoSt) : (s.updAo f).pairs = s.pairs := rfl
@[simp] theorem State.updAo_tablesLost (s : State) (f : AoSt → AoSt) : (s.updAo f).tablesLost = s.tablesLost := rfl
@[simp] theorem State.updAo_shareHeld (s : State) (f : AoSt → AoSt) : (s.updAo f).shareHeld = s.shareHeld := rfl
@[simp] theorem State.updAo_staged (s : State) (f : AoSt → AoSt) : (s.updAo f).staged = s.staged := rfl
@[simp] theorem State.updAo_latched (s : State) (f : AoSt → AoSt) : (s.updAo f).latched = s.latched := rfl

/-! ### State.updSec -/

@[simp] theorem State.updSec_pending (s : State) (f : SecSt → SecSt) : (s.updSec f).pending = s.pending := rfl
@[simp] theorem State.updSec_freeCtr (s : State) (f : SecSt → SecSt) : (s.updSec f).freeCtr = s.freeCtr := rfl
@[simp] theorem State.updSec_gc (s : State) (f : SecSt → SecSt) : (s.updSec f).gc = s.gc := rfl
@[simp] theorem State.updSec_feat (s : State) (f : SecSt → SecSt) : (s.updSec f).feat = s.feat := rfl
@[simp] theorem State.updSec_stage (s : State) (f : SecSt → SecSt) : (s.updSec f).stage = s.stage := rfl
@[simp] theorem State.updSec_cells (s : State) (f : SecSt → SecSt) : (s.updSec f).cells = s.cells := rfl
@[simp] theorem State.updSec_badCells (s : State) (f : SecSt → SecSt) : (s.updSec f).badCells = s.badCells := rfl
@[simp] theorem State.updSec_routeBad (s : State) (f : SecSt → SecSt) : (s.updSec f).routeBad = s.routeBad := rfl
@[simp] theorem State.updSec_heldPkts (s : State) (f : SecSt → SecSt) : (s.updSec f).heldPkts = s.heldPkts := rfl
@[simp] theorem State.updSec_flits (s : State) (f : SecSt → SecSt) : (s.updSec f).flits = s.flits := rfl
@[simp] theorem State.updSec_flitsSnap (s : State) (f : SecSt → SecSt) : (s.updSec f).flitsSnap = s.flitsSnap := rfl
@[simp] theorem State.updSec_wheel (s : State) (f : SecSt → SecSt) : (s.updSec f).wheel = s.wheel := rfl
@[simp] theorem State.updSec_links (s : State) (f : SecSt → SecSt) : (s.updSec f).links = s.links := rfl
@[simp] theorem State.updSec_creditFlight (s : State) (f : SecSt → SecSt) : (s.updSec f).creditFlight = s.creditFlight := rfl
@[simp] theorem State.updSec_flight (s : State) (f : SecSt → SecSt) : (s.updSec f).flight = s.flight := rfl
@[simp] theorem State.updSec_sigs (s : State) (f : SecSt → SecSt) : (s.updSec f).sigs = s.sigs := rfl
@[simp] theorem State.updSec_jobs (s : State) (f : SecSt → SecSt) : (s.updSec f).jobs = s.jobs := rfl
@[simp] theorem State.updSec_gals (s : State) (f : SecSt → SecSt) : (s.updSec f).gals = s.gals := rfl
@[simp] theorem State.updSec_log (s : State) (f : SecSt → SecSt) : (s.updSec f).log = s.log := rfl
@[simp] theorem State.updSec_bootCount (s : State) (f : SecSt → SecSt) : (s.updSec f).bootCount = s.bootCount := rfl
@[simp] theorem State.updSec_shareClass (s : State) (f : SecSt → SecSt) : (s.updSec f).shareClass = s.shareClass := rfl
@[simp] theorem State.updSec_arrayHeld (s : State) (f : SecSt → SecSt) : (s.updSec f).arrayHeld = s.arrayHeld := rfl
@[simp] theorem State.updSec_regs (s : State) (f : SecSt → SecSt) : (s.updSec f).regs = s.regs := rfl
@[simp] theorem State.updSec_rings (s : State) (f : SecSt → SecSt) : (s.updSec f).rings = s.rings := rfl
@[simp] theorem State.updSec_cmds (s : State) (f : SecSt → SecSt) : (s.updSec f).cmds = s.cmds := rfl
@[simp] theorem State.updSec_cmdCtr (s : State) (f : SecSt → SecSt) : (s.updSec f).cmdCtr = s.cmdCtr := rfl
@[simp] theorem State.updSec_host (s : State) (f : SecSt → SecSt) : (s.updSec f).host = s.host := rfl
@[simp] theorem State.updSec_lines (s : State) (f : SecSt → SecSt) : (s.updSec f).lines = s.lines := rfl
@[simp] theorem State.updSec_fns (s : State) (f : SecSt → SecSt) : (s.updSec f).fns = s.fns := rfl
@[simp] theorem State.updSec_vfEn (s : State) (f : SecSt → SecSt) : (s.updSec f).vfEn = s.vfEn := rfl
@[simp] theorem State.updSec_pfOnly (s : State) (f : SecSt → SecSt) : (s.updSec f).pfOnly = s.pfOnly := rfl
@[simp] theorem State.updSec_hbm (s : State) (f : SecSt → SecSt) : (s.updSec f).hbm = s.hbm := rfl
@[simp] theorem State.updSec_hbmPoison (s : State) (f : SecSt → SecSt) : (s.updSec f).hbmPoison = s.hbmPoison := rfl
@[simp] theorem State.updSec_cache (s : State) (f : SecSt → SecSt) : (s.updSec f).cache = s.cache := rfl
@[simp] theorem State.updSec_tokens (s : State) (f : SecSt → SecSt) : (s.updSec f).tokens = s.tokens := rfl
@[simp] theorem State.updSec_pages (s : State) (f : SecSt → SecSt) : (s.updSec f).pages = s.pages := rfl
@[simp] theorem State.updSec_pageTag (s : State) (f : SecSt → SecSt) : (s.updSec f).pageTag = s.pageTag := rfl
@[simp] theorem State.updSec_tlb (s : State) (f : SecSt → SecSt) : (s.updSec f).tlb = s.tlb := rfl
@[simp] theorem State.updSec_pt (s : State) (f : SecSt → SecSt) : (s.updSec f).pt = s.pt := rfl
@[simp] theorem State.updSec_l2 (s : State) (f : SecSt → SecSt) : (s.updSec f).l2 = s.l2 := rfl
@[simp] theorem State.updSec_spreadPtr (s : State) (f : SecSt → SecSt) : (s.updSec f).spreadPtr = s.spreadPtr := rfl
@[simp] theorem State.updSec_dieAlt (s : State) (f : SecSt → SecSt) : (s.updSec f).dieAlt = s.dieAlt := rfl
@[simp] theorem State.updSec_reserves (s : State) (f : SecSt → SecSt) : (s.updSec f).reserves = s.reserves := rfl
@[simp] theorem State.updSec_loads (s : State) (f : SecSt → SecSt) : (s.updSec f).loads = s.loads := rfl
@[simp] theorem State.updSec_keySlots (s : State) (f : SecSt → SecSt) : (s.updSec f).keySlots = s.keySlots := rfl
@[simp] theorem State.updSec_ferKeys (s : State) (f : SecSt → SecSt) : (s.updSec f).ferKeys = s.ferKeys := rfl
@[simp] theorem State.updSec_engines (s : State) (f : SecSt → SecSt) : (s.updSec f).engines = s.engines := rfl
@[simp] theorem State.updSec_engWheel (s : State) (f : SecSt → SecSt) : (s.updSec f).engWheel = s.engWheel := rfl
@[simp] theorem State.updSec_fer (s : State) (f : SecSt → SecSt) : (s.updSec f).fer = s.fer := rfl
@[simp] theorem State.updSec_groups (s : State) (f : SecSt → SecSt) : (s.updSec f).groups = s.groups := rfl
@[simp] theorem State.updSec_grants (s : State) (f : SecSt → SecSt) : (s.updSec f).grants = s.grants := rfl
@[simp] theorem State.updSec_gate (s : State) (f : SecSt → SecSt) : (s.updSec f).gate = s.gate := rfl
@[simp] theorem State.updSec_aliasGate (s : State) (f : SecSt → SecSt) : (s.updSec f).aliasGate = s.aliasGate := rfl
@[simp] theorem State.updSec_tether (s : State) (f : SecSt → SecSt) : (s.updSec f).tether = s.tether := rfl
@[simp] theorem State.updSec_sag (s : State) (f : SecSt → SecSt) : (s.updSec f).sag = s.sag := rfl
@[simp] theorem State.updSec_fatal (s : State) (f : SecSt → SecSt) : (s.updSec f).fatal = s.fatal := rfl
@[simp] theorem State.updSec_shareW (s : State) (f : SecSt → SecSt) : (s.updSec f).shareW = s.shareW := rfl
@[simp] theorem State.updSec_gated (s : State) (f : SecSt → SecSt) : (s.updSec f).gated = s.gated := rfl
@[simp] theorem State.updSec_time (s : State) (f : SecSt → SecSt) : (s.updSec f).time = s.time := rfl
@[simp] theorem State.updSec_launch (s : State) (f : SecSt → SecSt) : (s.updSec f).launch = s.launch := rfl
@[simp] theorem State.updSec_billing (s : State) (f : SecSt → SecSt) : (s.updSec f).billing = s.billing := rfl
@[simp] theorem State.updSec_bill (s : State) (f : SecSt → SecSt) : (s.updSec f).bill = s.bill := rfl
@[simp] theorem State.updSec_sec (s : State) (f : SecSt → SecSt) : (s.updSec f).sec = f s.sec := rfl
@[simp] theorem State.updSec_pwr (s : State) (f : SecSt → SecSt) : (s.updSec f).pwr = s.pwr := rfl
@[simp] theorem State.updSec_nv (s : State) (f : SecSt → SecSt) : (s.updSec f).nv = s.nv := rfl
@[simp] theorem State.updSec_ao (s : State) (f : SecSt → SecSt) : (s.updSec f).ao = s.ao := rfl
@[simp] theorem State.updSec_dbg (s : State) (f : SecSt → SecSt) : (s.updSec f).dbg = s.dbg := rfl
@[simp] theorem State.updSec_trace (s : State) (f : SecSt → SecSt) : (s.updSec f).trace = s.trace := rfl
@[simp] theorem State.updSec_jobCause (s : State) (f : SecSt → SecSt) : (s.updSec f).jobCause = s.jobCause := rfl
@[simp] theorem State.updSec_jobLast (s : State) (f : SecSt → SecSt) : (s.updSec f).jobLast = s.jobLast := rfl
@[simp] theorem State.updSec_patrol (s : State) (f : SecSt → SecSt) : (s.updSec f).patrol = s.patrol := rfl
@[simp] theorem State.updSec_pairs (s : State) (f : SecSt → SecSt) : (s.updSec f).pairs = s.pairs := rfl
@[simp] theorem State.updSec_tablesLost (s : State) (f : SecSt → SecSt) : (s.updSec f).tablesLost = s.tablesLost := rfl
@[simp] theorem State.updSec_shareHeld (s : State) (f : SecSt → SecSt) : (s.updSec f).shareHeld = s.shareHeld := rfl
@[simp] theorem State.updSec_staged (s : State) (f : SecSt → SecSt) : (s.updSec f).staged = s.staged := rfl
@[simp] theorem State.updSec_latched (s : State) (f : SecSt → SecSt) : (s.updSec f).latched = s.latched := rfl

/-! ### State.updNv -/

@[simp] theorem State.updNv_pending (s : State) (f : NvSt → NvSt) : (s.updNv f).pending = s.pending := rfl
@[simp] theorem State.updNv_freeCtr (s : State) (f : NvSt → NvSt) : (s.updNv f).freeCtr = s.freeCtr := rfl
@[simp] theorem State.updNv_gc (s : State) (f : NvSt → NvSt) : (s.updNv f).gc = s.gc := rfl
@[simp] theorem State.updNv_feat (s : State) (f : NvSt → NvSt) : (s.updNv f).feat = s.feat := rfl
@[simp] theorem State.updNv_stage (s : State) (f : NvSt → NvSt) : (s.updNv f).stage = s.stage := rfl
@[simp] theorem State.updNv_cells (s : State) (f : NvSt → NvSt) : (s.updNv f).cells = s.cells := rfl
@[simp] theorem State.updNv_badCells (s : State) (f : NvSt → NvSt) : (s.updNv f).badCells = s.badCells := rfl
@[simp] theorem State.updNv_routeBad (s : State) (f : NvSt → NvSt) : (s.updNv f).routeBad = s.routeBad := rfl
@[simp] theorem State.updNv_heldPkts (s : State) (f : NvSt → NvSt) : (s.updNv f).heldPkts = s.heldPkts := rfl
@[simp] theorem State.updNv_flits (s : State) (f : NvSt → NvSt) : (s.updNv f).flits = s.flits := rfl
@[simp] theorem State.updNv_flitsSnap (s : State) (f : NvSt → NvSt) : (s.updNv f).flitsSnap = s.flitsSnap := rfl
@[simp] theorem State.updNv_wheel (s : State) (f : NvSt → NvSt) : (s.updNv f).wheel = s.wheel := rfl
@[simp] theorem State.updNv_links (s : State) (f : NvSt → NvSt) : (s.updNv f).links = s.links := rfl
@[simp] theorem State.updNv_creditFlight (s : State) (f : NvSt → NvSt) : (s.updNv f).creditFlight = s.creditFlight := rfl
@[simp] theorem State.updNv_flight (s : State) (f : NvSt → NvSt) : (s.updNv f).flight = s.flight := rfl
@[simp] theorem State.updNv_sigs (s : State) (f : NvSt → NvSt) : (s.updNv f).sigs = s.sigs := rfl
@[simp] theorem State.updNv_jobs (s : State) (f : NvSt → NvSt) : (s.updNv f).jobs = s.jobs := rfl
@[simp] theorem State.updNv_gals (s : State) (f : NvSt → NvSt) : (s.updNv f).gals = s.gals := rfl
@[simp] theorem State.updNv_log (s : State) (f : NvSt → NvSt) : (s.updNv f).log = s.log := rfl
@[simp] theorem State.updNv_bootCount (s : State) (f : NvSt → NvSt) : (s.updNv f).bootCount = s.bootCount := rfl
@[simp] theorem State.updNv_shareClass (s : State) (f : NvSt → NvSt) : (s.updNv f).shareClass = s.shareClass := rfl
@[simp] theorem State.updNv_arrayHeld (s : State) (f : NvSt → NvSt) : (s.updNv f).arrayHeld = s.arrayHeld := rfl
@[simp] theorem State.updNv_regs (s : State) (f : NvSt → NvSt) : (s.updNv f).regs = s.regs := rfl
@[simp] theorem State.updNv_rings (s : State) (f : NvSt → NvSt) : (s.updNv f).rings = s.rings := rfl
@[simp] theorem State.updNv_cmds (s : State) (f : NvSt → NvSt) : (s.updNv f).cmds = s.cmds := rfl
@[simp] theorem State.updNv_cmdCtr (s : State) (f : NvSt → NvSt) : (s.updNv f).cmdCtr = s.cmdCtr := rfl
@[simp] theorem State.updNv_host (s : State) (f : NvSt → NvSt) : (s.updNv f).host = s.host := rfl
@[simp] theorem State.updNv_lines (s : State) (f : NvSt → NvSt) : (s.updNv f).lines = s.lines := rfl
@[simp] theorem State.updNv_fns (s : State) (f : NvSt → NvSt) : (s.updNv f).fns = s.fns := rfl
@[simp] theorem State.updNv_vfEn (s : State) (f : NvSt → NvSt) : (s.updNv f).vfEn = s.vfEn := rfl
@[simp] theorem State.updNv_pfOnly (s : State) (f : NvSt → NvSt) : (s.updNv f).pfOnly = s.pfOnly := rfl
@[simp] theorem State.updNv_hbm (s : State) (f : NvSt → NvSt) : (s.updNv f).hbm = s.hbm := rfl
@[simp] theorem State.updNv_hbmPoison (s : State) (f : NvSt → NvSt) : (s.updNv f).hbmPoison = s.hbmPoison := rfl
@[simp] theorem State.updNv_cache (s : State) (f : NvSt → NvSt) : (s.updNv f).cache = s.cache := rfl
@[simp] theorem State.updNv_tokens (s : State) (f : NvSt → NvSt) : (s.updNv f).tokens = s.tokens := rfl
@[simp] theorem State.updNv_pages (s : State) (f : NvSt → NvSt) : (s.updNv f).pages = s.pages := rfl
@[simp] theorem State.updNv_pageTag (s : State) (f : NvSt → NvSt) : (s.updNv f).pageTag = s.pageTag := rfl
@[simp] theorem State.updNv_tlb (s : State) (f : NvSt → NvSt) : (s.updNv f).tlb = s.tlb := rfl
@[simp] theorem State.updNv_pt (s : State) (f : NvSt → NvSt) : (s.updNv f).pt = s.pt := rfl
@[simp] theorem State.updNv_l2 (s : State) (f : NvSt → NvSt) : (s.updNv f).l2 = s.l2 := rfl
@[simp] theorem State.updNv_spreadPtr (s : State) (f : NvSt → NvSt) : (s.updNv f).spreadPtr = s.spreadPtr := rfl
@[simp] theorem State.updNv_dieAlt (s : State) (f : NvSt → NvSt) : (s.updNv f).dieAlt = s.dieAlt := rfl
@[simp] theorem State.updNv_reserves (s : State) (f : NvSt → NvSt) : (s.updNv f).reserves = s.reserves := rfl
@[simp] theorem State.updNv_loads (s : State) (f : NvSt → NvSt) : (s.updNv f).loads = s.loads := rfl
@[simp] theorem State.updNv_keySlots (s : State) (f : NvSt → NvSt) : (s.updNv f).keySlots = s.keySlots := rfl
@[simp] theorem State.updNv_ferKeys (s : State) (f : NvSt → NvSt) : (s.updNv f).ferKeys = s.ferKeys := rfl
@[simp] theorem State.updNv_engines (s : State) (f : NvSt → NvSt) : (s.updNv f).engines = s.engines := rfl
@[simp] theorem State.updNv_engWheel (s : State) (f : NvSt → NvSt) : (s.updNv f).engWheel = s.engWheel := rfl
@[simp] theorem State.updNv_fer (s : State) (f : NvSt → NvSt) : (s.updNv f).fer = s.fer := rfl
@[simp] theorem State.updNv_groups (s : State) (f : NvSt → NvSt) : (s.updNv f).groups = s.groups := rfl
@[simp] theorem State.updNv_grants (s : State) (f : NvSt → NvSt) : (s.updNv f).grants = s.grants := rfl
@[simp] theorem State.updNv_gate (s : State) (f : NvSt → NvSt) : (s.updNv f).gate = s.gate := rfl
@[simp] theorem State.updNv_aliasGate (s : State) (f : NvSt → NvSt) : (s.updNv f).aliasGate = s.aliasGate := rfl
@[simp] theorem State.updNv_tether (s : State) (f : NvSt → NvSt) : (s.updNv f).tether = s.tether := rfl
@[simp] theorem State.updNv_sag (s : State) (f : NvSt → NvSt) : (s.updNv f).sag = s.sag := rfl
@[simp] theorem State.updNv_fatal (s : State) (f : NvSt → NvSt) : (s.updNv f).fatal = s.fatal := rfl
@[simp] theorem State.updNv_shareW (s : State) (f : NvSt → NvSt) : (s.updNv f).shareW = s.shareW := rfl
@[simp] theorem State.updNv_gated (s : State) (f : NvSt → NvSt) : (s.updNv f).gated = s.gated := rfl
@[simp] theorem State.updNv_time (s : State) (f : NvSt → NvSt) : (s.updNv f).time = s.time := rfl
@[simp] theorem State.updNv_launch (s : State) (f : NvSt → NvSt) : (s.updNv f).launch = s.launch := rfl
@[simp] theorem State.updNv_billing (s : State) (f : NvSt → NvSt) : (s.updNv f).billing = s.billing := rfl
@[simp] theorem State.updNv_bill (s : State) (f : NvSt → NvSt) : (s.updNv f).bill = s.bill := rfl
@[simp] theorem State.updNv_sec (s : State) (f : NvSt → NvSt) : (s.updNv f).sec = s.sec := rfl
@[simp] theorem State.updNv_pwr (s : State) (f : NvSt → NvSt) : (s.updNv f).pwr = s.pwr := rfl
@[simp] theorem State.updNv_nv (s : State) (f : NvSt → NvSt) : (s.updNv f).nv = f s.nv := rfl
@[simp] theorem State.updNv_ao (s : State) (f : NvSt → NvSt) : (s.updNv f).ao = s.ao := rfl
@[simp] theorem State.updNv_dbg (s : State) (f : NvSt → NvSt) : (s.updNv f).dbg = s.dbg := rfl
@[simp] theorem State.updNv_trace (s : State) (f : NvSt → NvSt) : (s.updNv f).trace = s.trace := rfl
@[simp] theorem State.updNv_jobCause (s : State) (f : NvSt → NvSt) : (s.updNv f).jobCause = s.jobCause := rfl
@[simp] theorem State.updNv_jobLast (s : State) (f : NvSt → NvSt) : (s.updNv f).jobLast = s.jobLast := rfl
@[simp] theorem State.updNv_patrol (s : State) (f : NvSt → NvSt) : (s.updNv f).patrol = s.patrol := rfl
@[simp] theorem State.updNv_pairs (s : State) (f : NvSt → NvSt) : (s.updNv f).pairs = s.pairs := rfl
@[simp] theorem State.updNv_tablesLost (s : State) (f : NvSt → NvSt) : (s.updNv f).tablesLost = s.tablesLost := rfl
@[simp] theorem State.updNv_shareHeld (s : State) (f : NvSt → NvSt) : (s.updNv f).shareHeld = s.shareHeld := rfl
@[simp] theorem State.updNv_staged (s : State) (f : NvSt → NvSt) : (s.updNv f).staged = s.staged := rfl
@[simp] theorem State.updNv_latched (s : State) (f : NvSt → NvSt) : (s.updNv f).latched = s.latched := rfl

/-! ### State.updPwr -/

@[simp] theorem State.updPwr_pending (s : State) (f : PowerSt → PowerSt) : (s.updPwr f).pending = s.pending := rfl
@[simp] theorem State.updPwr_freeCtr (s : State) (f : PowerSt → PowerSt) : (s.updPwr f).freeCtr = s.freeCtr := rfl
@[simp] theorem State.updPwr_gc (s : State) (f : PowerSt → PowerSt) : (s.updPwr f).gc = s.gc := rfl
@[simp] theorem State.updPwr_feat (s : State) (f : PowerSt → PowerSt) : (s.updPwr f).feat = s.feat := rfl
@[simp] theorem State.updPwr_stage (s : State) (f : PowerSt → PowerSt) : (s.updPwr f).stage = s.stage := rfl
@[simp] theorem State.updPwr_cells (s : State) (f : PowerSt → PowerSt) : (s.updPwr f).cells = s.cells := rfl
@[simp] theorem State.updPwr_badCells (s : State) (f : PowerSt → PowerSt) : (s.updPwr f).badCells = s.badCells := rfl
@[simp] theorem State.updPwr_routeBad (s : State) (f : PowerSt → PowerSt) : (s.updPwr f).routeBad = s.routeBad := rfl
@[simp] theorem State.updPwr_heldPkts (s : State) (f : PowerSt → PowerSt) : (s.updPwr f).heldPkts = s.heldPkts := rfl
@[simp] theorem State.updPwr_flits (s : State) (f : PowerSt → PowerSt) : (s.updPwr f).flits = s.flits := rfl
@[simp] theorem State.updPwr_flitsSnap (s : State) (f : PowerSt → PowerSt) : (s.updPwr f).flitsSnap = s.flitsSnap := rfl
@[simp] theorem State.updPwr_wheel (s : State) (f : PowerSt → PowerSt) : (s.updPwr f).wheel = s.wheel := rfl
@[simp] theorem State.updPwr_links (s : State) (f : PowerSt → PowerSt) : (s.updPwr f).links = s.links := rfl
@[simp] theorem State.updPwr_creditFlight (s : State) (f : PowerSt → PowerSt) : (s.updPwr f).creditFlight = s.creditFlight := rfl
@[simp] theorem State.updPwr_flight (s : State) (f : PowerSt → PowerSt) : (s.updPwr f).flight = s.flight := rfl
@[simp] theorem State.updPwr_sigs (s : State) (f : PowerSt → PowerSt) : (s.updPwr f).sigs = s.sigs := rfl
@[simp] theorem State.updPwr_jobs (s : State) (f : PowerSt → PowerSt) : (s.updPwr f).jobs = s.jobs := rfl
@[simp] theorem State.updPwr_gals (s : State) (f : PowerSt → PowerSt) : (s.updPwr f).gals = s.gals := rfl
@[simp] theorem State.updPwr_log (s : State) (f : PowerSt → PowerSt) : (s.updPwr f).log = s.log := rfl
@[simp] theorem State.updPwr_bootCount (s : State) (f : PowerSt → PowerSt) : (s.updPwr f).bootCount = s.bootCount := rfl
@[simp] theorem State.updPwr_shareClass (s : State) (f : PowerSt → PowerSt) : (s.updPwr f).shareClass = s.shareClass := rfl
@[simp] theorem State.updPwr_arrayHeld (s : State) (f : PowerSt → PowerSt) : (s.updPwr f).arrayHeld = s.arrayHeld := rfl
@[simp] theorem State.updPwr_regs (s : State) (f : PowerSt → PowerSt) : (s.updPwr f).regs = s.regs := rfl
@[simp] theorem State.updPwr_rings (s : State) (f : PowerSt → PowerSt) : (s.updPwr f).rings = s.rings := rfl
@[simp] theorem State.updPwr_cmds (s : State) (f : PowerSt → PowerSt) : (s.updPwr f).cmds = s.cmds := rfl
@[simp] theorem State.updPwr_cmdCtr (s : State) (f : PowerSt → PowerSt) : (s.updPwr f).cmdCtr = s.cmdCtr := rfl
@[simp] theorem State.updPwr_host (s : State) (f : PowerSt → PowerSt) : (s.updPwr f).host = s.host := rfl
@[simp] theorem State.updPwr_lines (s : State) (f : PowerSt → PowerSt) : (s.updPwr f).lines = s.lines := rfl
@[simp] theorem State.updPwr_fns (s : State) (f : PowerSt → PowerSt) : (s.updPwr f).fns = s.fns := rfl
@[simp] theorem State.updPwr_vfEn (s : State) (f : PowerSt → PowerSt) : (s.updPwr f).vfEn = s.vfEn := rfl
@[simp] theorem State.updPwr_pfOnly (s : State) (f : PowerSt → PowerSt) : (s.updPwr f).pfOnly = s.pfOnly := rfl
@[simp] theorem State.updPwr_hbm (s : State) (f : PowerSt → PowerSt) : (s.updPwr f).hbm = s.hbm := rfl
@[simp] theorem State.updPwr_hbmPoison (s : State) (f : PowerSt → PowerSt) : (s.updPwr f).hbmPoison = s.hbmPoison := rfl
@[simp] theorem State.updPwr_cache (s : State) (f : PowerSt → PowerSt) : (s.updPwr f).cache = s.cache := rfl
@[simp] theorem State.updPwr_tokens (s : State) (f : PowerSt → PowerSt) : (s.updPwr f).tokens = s.tokens := rfl
@[simp] theorem State.updPwr_pages (s : State) (f : PowerSt → PowerSt) : (s.updPwr f).pages = s.pages := rfl
@[simp] theorem State.updPwr_pageTag (s : State) (f : PowerSt → PowerSt) : (s.updPwr f).pageTag = s.pageTag := rfl
@[simp] theorem State.updPwr_tlb (s : State) (f : PowerSt → PowerSt) : (s.updPwr f).tlb = s.tlb := rfl
@[simp] theorem State.updPwr_pt (s : State) (f : PowerSt → PowerSt) : (s.updPwr f).pt = s.pt := rfl
@[simp] theorem State.updPwr_l2 (s : State) (f : PowerSt → PowerSt) : (s.updPwr f).l2 = s.l2 := rfl
@[simp] theorem State.updPwr_spreadPtr (s : State) (f : PowerSt → PowerSt) : (s.updPwr f).spreadPtr = s.spreadPtr := rfl
@[simp] theorem State.updPwr_dieAlt (s : State) (f : PowerSt → PowerSt) : (s.updPwr f).dieAlt = s.dieAlt := rfl
@[simp] theorem State.updPwr_reserves (s : State) (f : PowerSt → PowerSt) : (s.updPwr f).reserves = s.reserves := rfl
@[simp] theorem State.updPwr_loads (s : State) (f : PowerSt → PowerSt) : (s.updPwr f).loads = s.loads := rfl
@[simp] theorem State.updPwr_keySlots (s : State) (f : PowerSt → PowerSt) : (s.updPwr f).keySlots = s.keySlots := rfl
@[simp] theorem State.updPwr_ferKeys (s : State) (f : PowerSt → PowerSt) : (s.updPwr f).ferKeys = s.ferKeys := rfl
@[simp] theorem State.updPwr_engines (s : State) (f : PowerSt → PowerSt) : (s.updPwr f).engines = s.engines := rfl
@[simp] theorem State.updPwr_engWheel (s : State) (f : PowerSt → PowerSt) : (s.updPwr f).engWheel = s.engWheel := rfl
@[simp] theorem State.updPwr_fer (s : State) (f : PowerSt → PowerSt) : (s.updPwr f).fer = s.fer := rfl
@[simp] theorem State.updPwr_groups (s : State) (f : PowerSt → PowerSt) : (s.updPwr f).groups = s.groups := rfl
@[simp] theorem State.updPwr_grants (s : State) (f : PowerSt → PowerSt) : (s.updPwr f).grants = s.grants := rfl
@[simp] theorem State.updPwr_gate (s : State) (f : PowerSt → PowerSt) : (s.updPwr f).gate = s.gate := rfl
@[simp] theorem State.updPwr_aliasGate (s : State) (f : PowerSt → PowerSt) : (s.updPwr f).aliasGate = s.aliasGate := rfl
@[simp] theorem State.updPwr_tether (s : State) (f : PowerSt → PowerSt) : (s.updPwr f).tether = s.tether := rfl
@[simp] theorem State.updPwr_sag (s : State) (f : PowerSt → PowerSt) : (s.updPwr f).sag = s.sag := rfl
@[simp] theorem State.updPwr_fatal (s : State) (f : PowerSt → PowerSt) : (s.updPwr f).fatal = s.fatal := rfl
@[simp] theorem State.updPwr_shareW (s : State) (f : PowerSt → PowerSt) : (s.updPwr f).shareW = s.shareW := rfl
@[simp] theorem State.updPwr_gated (s : State) (f : PowerSt → PowerSt) : (s.updPwr f).gated = s.gated := rfl
@[simp] theorem State.updPwr_time (s : State) (f : PowerSt → PowerSt) : (s.updPwr f).time = s.time := rfl
@[simp] theorem State.updPwr_launch (s : State) (f : PowerSt → PowerSt) : (s.updPwr f).launch = s.launch := rfl
@[simp] theorem State.updPwr_billing (s : State) (f : PowerSt → PowerSt) : (s.updPwr f).billing = s.billing := rfl
@[simp] theorem State.updPwr_bill (s : State) (f : PowerSt → PowerSt) : (s.updPwr f).bill = s.bill := rfl
@[simp] theorem State.updPwr_sec (s : State) (f : PowerSt → PowerSt) : (s.updPwr f).sec = s.sec := rfl
@[simp] theorem State.updPwr_pwr (s : State) (f : PowerSt → PowerSt) : (s.updPwr f).pwr = f s.pwr := rfl
@[simp] theorem State.updPwr_nv (s : State) (f : PowerSt → PowerSt) : (s.updPwr f).nv = s.nv := rfl
@[simp] theorem State.updPwr_ao (s : State) (f : PowerSt → PowerSt) : (s.updPwr f).ao = s.ao := rfl
@[simp] theorem State.updPwr_dbg (s : State) (f : PowerSt → PowerSt) : (s.updPwr f).dbg = s.dbg := rfl
@[simp] theorem State.updPwr_trace (s : State) (f : PowerSt → PowerSt) : (s.updPwr f).trace = s.trace := rfl
@[simp] theorem State.updPwr_jobCause (s : State) (f : PowerSt → PowerSt) : (s.updPwr f).jobCause = s.jobCause := rfl
@[simp] theorem State.updPwr_jobLast (s : State) (f : PowerSt → PowerSt) : (s.updPwr f).jobLast = s.jobLast := rfl
@[simp] theorem State.updPwr_patrol (s : State) (f : PowerSt → PowerSt) : (s.updPwr f).patrol = s.patrol := rfl
@[simp] theorem State.updPwr_pairs (s : State) (f : PowerSt → PowerSt) : (s.updPwr f).pairs = s.pairs := rfl
@[simp] theorem State.updPwr_tablesLost (s : State) (f : PowerSt → PowerSt) : (s.updPwr f).tablesLost = s.tablesLost := rfl
@[simp] theorem State.updPwr_shareHeld (s : State) (f : PowerSt → PowerSt) : (s.updPwr f).shareHeld = s.shareHeld := rfl
@[simp] theorem State.updPwr_staged (s : State) (f : PowerSt → PowerSt) : (s.updPwr f).staged = s.staged := rfl
@[simp] theorem State.updPwr_latched (s : State) (f : PowerSt → PowerSt) : (s.updPwr f).latched = s.latched := rfl

/-! ### State.updTime -/

@[simp] theorem State.updTime_pending (s : State) (f : TimeSt → TimeSt) : (s.updTime f).pending = s.pending := rfl
@[simp] theorem State.updTime_freeCtr (s : State) (f : TimeSt → TimeSt) : (s.updTime f).freeCtr = s.freeCtr := rfl
@[simp] theorem State.updTime_gc (s : State) (f : TimeSt → TimeSt) : (s.updTime f).gc = s.gc := rfl
@[simp] theorem State.updTime_feat (s : State) (f : TimeSt → TimeSt) : (s.updTime f).feat = s.feat := rfl
@[simp] theorem State.updTime_stage (s : State) (f : TimeSt → TimeSt) : (s.updTime f).stage = s.stage := rfl
@[simp] theorem State.updTime_cells (s : State) (f : TimeSt → TimeSt) : (s.updTime f).cells = s.cells := rfl
@[simp] theorem State.updTime_badCells (s : State) (f : TimeSt → TimeSt) : (s.updTime f).badCells = s.badCells := rfl
@[simp] theorem State.updTime_routeBad (s : State) (f : TimeSt → TimeSt) : (s.updTime f).routeBad = s.routeBad := rfl
@[simp] theorem State.updTime_heldPkts (s : State) (f : TimeSt → TimeSt) : (s.updTime f).heldPkts = s.heldPkts := rfl
@[simp] theorem State.updTime_flits (s : State) (f : TimeSt → TimeSt) : (s.updTime f).flits = s.flits := rfl
@[simp] theorem State.updTime_flitsSnap (s : State) (f : TimeSt → TimeSt) : (s.updTime f).flitsSnap = s.flitsSnap := rfl
@[simp] theorem State.updTime_wheel (s : State) (f : TimeSt → TimeSt) : (s.updTime f).wheel = s.wheel := rfl
@[simp] theorem State.updTime_links (s : State) (f : TimeSt → TimeSt) : (s.updTime f).links = s.links := rfl
@[simp] theorem State.updTime_creditFlight (s : State) (f : TimeSt → TimeSt) : (s.updTime f).creditFlight = s.creditFlight := rfl
@[simp] theorem State.updTime_flight (s : State) (f : TimeSt → TimeSt) : (s.updTime f).flight = s.flight := rfl
@[simp] theorem State.updTime_sigs (s : State) (f : TimeSt → TimeSt) : (s.updTime f).sigs = s.sigs := rfl
@[simp] theorem State.updTime_jobs (s : State) (f : TimeSt → TimeSt) : (s.updTime f).jobs = s.jobs := rfl
@[simp] theorem State.updTime_gals (s : State) (f : TimeSt → TimeSt) : (s.updTime f).gals = s.gals := rfl
@[simp] theorem State.updTime_log (s : State) (f : TimeSt → TimeSt) : (s.updTime f).log = s.log := rfl
@[simp] theorem State.updTime_bootCount (s : State) (f : TimeSt → TimeSt) : (s.updTime f).bootCount = s.bootCount := rfl
@[simp] theorem State.updTime_shareClass (s : State) (f : TimeSt → TimeSt) : (s.updTime f).shareClass = s.shareClass := rfl
@[simp] theorem State.updTime_arrayHeld (s : State) (f : TimeSt → TimeSt) : (s.updTime f).arrayHeld = s.arrayHeld := rfl
@[simp] theorem State.updTime_regs (s : State) (f : TimeSt → TimeSt) : (s.updTime f).regs = s.regs := rfl
@[simp] theorem State.updTime_rings (s : State) (f : TimeSt → TimeSt) : (s.updTime f).rings = s.rings := rfl
@[simp] theorem State.updTime_cmds (s : State) (f : TimeSt → TimeSt) : (s.updTime f).cmds = s.cmds := rfl
@[simp] theorem State.updTime_cmdCtr (s : State) (f : TimeSt → TimeSt) : (s.updTime f).cmdCtr = s.cmdCtr := rfl
@[simp] theorem State.updTime_host (s : State) (f : TimeSt → TimeSt) : (s.updTime f).host = s.host := rfl
@[simp] theorem State.updTime_lines (s : State) (f : TimeSt → TimeSt) : (s.updTime f).lines = s.lines := rfl
@[simp] theorem State.updTime_fns (s : State) (f : TimeSt → TimeSt) : (s.updTime f).fns = s.fns := rfl
@[simp] theorem State.updTime_vfEn (s : State) (f : TimeSt → TimeSt) : (s.updTime f).vfEn = s.vfEn := rfl
@[simp] theorem State.updTime_pfOnly (s : State) (f : TimeSt → TimeSt) : (s.updTime f).pfOnly = s.pfOnly := rfl
@[simp] theorem State.updTime_hbm (s : State) (f : TimeSt → TimeSt) : (s.updTime f).hbm = s.hbm := rfl
@[simp] theorem State.updTime_hbmPoison (s : State) (f : TimeSt → TimeSt) : (s.updTime f).hbmPoison = s.hbmPoison := rfl
@[simp] theorem State.updTime_cache (s : State) (f : TimeSt → TimeSt) : (s.updTime f).cache = s.cache := rfl
@[simp] theorem State.updTime_tokens (s : State) (f : TimeSt → TimeSt) : (s.updTime f).tokens = s.tokens := rfl
@[simp] theorem State.updTime_pages (s : State) (f : TimeSt → TimeSt) : (s.updTime f).pages = s.pages := rfl
@[simp] theorem State.updTime_pageTag (s : State) (f : TimeSt → TimeSt) : (s.updTime f).pageTag = s.pageTag := rfl
@[simp] theorem State.updTime_tlb (s : State) (f : TimeSt → TimeSt) : (s.updTime f).tlb = s.tlb := rfl
@[simp] theorem State.updTime_pt (s : State) (f : TimeSt → TimeSt) : (s.updTime f).pt = s.pt := rfl
@[simp] theorem State.updTime_l2 (s : State) (f : TimeSt → TimeSt) : (s.updTime f).l2 = s.l2 := rfl
@[simp] theorem State.updTime_spreadPtr (s : State) (f : TimeSt → TimeSt) : (s.updTime f).spreadPtr = s.spreadPtr := rfl
@[simp] theorem State.updTime_dieAlt (s : State) (f : TimeSt → TimeSt) : (s.updTime f).dieAlt = s.dieAlt := rfl
@[simp] theorem State.updTime_reserves (s : State) (f : TimeSt → TimeSt) : (s.updTime f).reserves = s.reserves := rfl
@[simp] theorem State.updTime_loads (s : State) (f : TimeSt → TimeSt) : (s.updTime f).loads = s.loads := rfl
@[simp] theorem State.updTime_keySlots (s : State) (f : TimeSt → TimeSt) : (s.updTime f).keySlots = s.keySlots := rfl
@[simp] theorem State.updTime_ferKeys (s : State) (f : TimeSt → TimeSt) : (s.updTime f).ferKeys = s.ferKeys := rfl
@[simp] theorem State.updTime_engines (s : State) (f : TimeSt → TimeSt) : (s.updTime f).engines = s.engines := rfl
@[simp] theorem State.updTime_engWheel (s : State) (f : TimeSt → TimeSt) : (s.updTime f).engWheel = s.engWheel := rfl
@[simp] theorem State.updTime_fer (s : State) (f : TimeSt → TimeSt) : (s.updTime f).fer = s.fer := rfl
@[simp] theorem State.updTime_groups (s : State) (f : TimeSt → TimeSt) : (s.updTime f).groups = s.groups := rfl
@[simp] theorem State.updTime_grants (s : State) (f : TimeSt → TimeSt) : (s.updTime f).grants = s.grants := rfl
@[simp] theorem State.updTime_gate (s : State) (f : TimeSt → TimeSt) : (s.updTime f).gate = s.gate := rfl
@[simp] theorem State.updTime_aliasGate (s : State) (f : TimeSt → TimeSt) : (s.updTime f).aliasGate = s.aliasGate := rfl
@[simp] theorem State.updTime_tether (s : State) (f : TimeSt → TimeSt) : (s.updTime f).tether = s.tether := rfl
@[simp] theorem State.updTime_sag (s : State) (f : TimeSt → TimeSt) : (s.updTime f).sag = s.sag := rfl
@[simp] theorem State.updTime_fatal (s : State) (f : TimeSt → TimeSt) : (s.updTime f).fatal = s.fatal := rfl
@[simp] theorem State.updTime_shareW (s : State) (f : TimeSt → TimeSt) : (s.updTime f).shareW = s.shareW := rfl
@[simp] theorem State.updTime_gated (s : State) (f : TimeSt → TimeSt) : (s.updTime f).gated = s.gated := rfl
@[simp] theorem State.updTime_time (s : State) (f : TimeSt → TimeSt) : (s.updTime f).time = f s.time := rfl
@[simp] theorem State.updTime_launch (s : State) (f : TimeSt → TimeSt) : (s.updTime f).launch = s.launch := rfl
@[simp] theorem State.updTime_billing (s : State) (f : TimeSt → TimeSt) : (s.updTime f).billing = s.billing := rfl
@[simp] theorem State.updTime_bill (s : State) (f : TimeSt → TimeSt) : (s.updTime f).bill = s.bill := rfl
@[simp] theorem State.updTime_sec (s : State) (f : TimeSt → TimeSt) : (s.updTime f).sec = s.sec := rfl
@[simp] theorem State.updTime_pwr (s : State) (f : TimeSt → TimeSt) : (s.updTime f).pwr = s.pwr := rfl
@[simp] theorem State.updTime_nv (s : State) (f : TimeSt → TimeSt) : (s.updTime f).nv = s.nv := rfl
@[simp] theorem State.updTime_ao (s : State) (f : TimeSt → TimeSt) : (s.updTime f).ao = s.ao := rfl
@[simp] theorem State.updTime_dbg (s : State) (f : TimeSt → TimeSt) : (s.updTime f).dbg = s.dbg := rfl
@[simp] theorem State.updTime_trace (s : State) (f : TimeSt → TimeSt) : (s.updTime f).trace = s.trace := rfl
@[simp] theorem State.updTime_jobCause (s : State) (f : TimeSt → TimeSt) : (s.updTime f).jobCause = s.jobCause := rfl
@[simp] theorem State.updTime_jobLast (s : State) (f : TimeSt → TimeSt) : (s.updTime f).jobLast = s.jobLast := rfl
@[simp] theorem State.updTime_patrol (s : State) (f : TimeSt → TimeSt) : (s.updTime f).patrol = s.patrol := rfl
@[simp] theorem State.updTime_pairs (s : State) (f : TimeSt → TimeSt) : (s.updTime f).pairs = s.pairs := rfl
@[simp] theorem State.updTime_tablesLost (s : State) (f : TimeSt → TimeSt) : (s.updTime f).tablesLost = s.tablesLost := rfl
@[simp] theorem State.updTime_shareHeld (s : State) (f : TimeSt → TimeSt) : (s.updTime f).shareHeld = s.shareHeld := rfl
@[simp] theorem State.updTime_staged (s : State) (f : TimeSt → TimeSt) : (s.updTime f).staged = s.staged := rfl
@[simp] theorem State.updTime_latched (s : State) (f : TimeSt → TimeSt) : (s.updTime f).latched = s.latched := rfl

/-! ### State.updTether -/

@[simp] theorem State.updTether_pending (s : State) (f : Tether → Tether) : (s.updTether f).pending = s.pending := rfl
@[simp] theorem State.updTether_freeCtr (s : State) (f : Tether → Tether) : (s.updTether f).freeCtr = s.freeCtr := rfl
@[simp] theorem State.updTether_gc (s : State) (f : Tether → Tether) : (s.updTether f).gc = s.gc := rfl
@[simp] theorem State.updTether_feat (s : State) (f : Tether → Tether) : (s.updTether f).feat = s.feat := rfl
@[simp] theorem State.updTether_stage (s : State) (f : Tether → Tether) : (s.updTether f).stage = s.stage := rfl
@[simp] theorem State.updTether_cells (s : State) (f : Tether → Tether) : (s.updTether f).cells = s.cells := rfl
@[simp] theorem State.updTether_badCells (s : State) (f : Tether → Tether) : (s.updTether f).badCells = s.badCells := rfl
@[simp] theorem State.updTether_routeBad (s : State) (f : Tether → Tether) : (s.updTether f).routeBad = s.routeBad := rfl
@[simp] theorem State.updTether_heldPkts (s : State) (f : Tether → Tether) : (s.updTether f).heldPkts = s.heldPkts := rfl
@[simp] theorem State.updTether_flits (s : State) (f : Tether → Tether) : (s.updTether f).flits = s.flits := rfl
@[simp] theorem State.updTether_flitsSnap (s : State) (f : Tether → Tether) : (s.updTether f).flitsSnap = s.flitsSnap := rfl
@[simp] theorem State.updTether_wheel (s : State) (f : Tether → Tether) : (s.updTether f).wheel = s.wheel := rfl
@[simp] theorem State.updTether_links (s : State) (f : Tether → Tether) : (s.updTether f).links = s.links := rfl
@[simp] theorem State.updTether_creditFlight (s : State) (f : Tether → Tether) : (s.updTether f).creditFlight = s.creditFlight := rfl
@[simp] theorem State.updTether_flight (s : State) (f : Tether → Tether) : (s.updTether f).flight = s.flight := rfl
@[simp] theorem State.updTether_sigs (s : State) (f : Tether → Tether) : (s.updTether f).sigs = s.sigs := rfl
@[simp] theorem State.updTether_jobs (s : State) (f : Tether → Tether) : (s.updTether f).jobs = s.jobs := rfl
@[simp] theorem State.updTether_gals (s : State) (f : Tether → Tether) : (s.updTether f).gals = s.gals := rfl
@[simp] theorem State.updTether_log (s : State) (f : Tether → Tether) : (s.updTether f).log = s.log := rfl
@[simp] theorem State.updTether_bootCount (s : State) (f : Tether → Tether) : (s.updTether f).bootCount = s.bootCount := rfl
@[simp] theorem State.updTether_shareClass (s : State) (f : Tether → Tether) : (s.updTether f).shareClass = s.shareClass := rfl
@[simp] theorem State.updTether_arrayHeld (s : State) (f : Tether → Tether) : (s.updTether f).arrayHeld = s.arrayHeld := rfl
@[simp] theorem State.updTether_regs (s : State) (f : Tether → Tether) : (s.updTether f).regs = s.regs := rfl
@[simp] theorem State.updTether_rings (s : State) (f : Tether → Tether) : (s.updTether f).rings = s.rings := rfl
@[simp] theorem State.updTether_cmds (s : State) (f : Tether → Tether) : (s.updTether f).cmds = s.cmds := rfl
@[simp] theorem State.updTether_cmdCtr (s : State) (f : Tether → Tether) : (s.updTether f).cmdCtr = s.cmdCtr := rfl
@[simp] theorem State.updTether_host (s : State) (f : Tether → Tether) : (s.updTether f).host = s.host := rfl
@[simp] theorem State.updTether_lines (s : State) (f : Tether → Tether) : (s.updTether f).lines = s.lines := rfl
@[simp] theorem State.updTether_fns (s : State) (f : Tether → Tether) : (s.updTether f).fns = s.fns := rfl
@[simp] theorem State.updTether_vfEn (s : State) (f : Tether → Tether) : (s.updTether f).vfEn = s.vfEn := rfl
@[simp] theorem State.updTether_pfOnly (s : State) (f : Tether → Tether) : (s.updTether f).pfOnly = s.pfOnly := rfl
@[simp] theorem State.updTether_hbm (s : State) (f : Tether → Tether) : (s.updTether f).hbm = s.hbm := rfl
@[simp] theorem State.updTether_hbmPoison (s : State) (f : Tether → Tether) : (s.updTether f).hbmPoison = s.hbmPoison := rfl
@[simp] theorem State.updTether_cache (s : State) (f : Tether → Tether) : (s.updTether f).cache = s.cache := rfl
@[simp] theorem State.updTether_tokens (s : State) (f : Tether → Tether) : (s.updTether f).tokens = s.tokens := rfl
@[simp] theorem State.updTether_pages (s : State) (f : Tether → Tether) : (s.updTether f).pages = s.pages := rfl
@[simp] theorem State.updTether_pageTag (s : State) (f : Tether → Tether) : (s.updTether f).pageTag = s.pageTag := rfl
@[simp] theorem State.updTether_tlb (s : State) (f : Tether → Tether) : (s.updTether f).tlb = s.tlb := rfl
@[simp] theorem State.updTether_pt (s : State) (f : Tether → Tether) : (s.updTether f).pt = s.pt := rfl
@[simp] theorem State.updTether_l2 (s : State) (f : Tether → Tether) : (s.updTether f).l2 = s.l2 := rfl
@[simp] theorem State.updTether_spreadPtr (s : State) (f : Tether → Tether) : (s.updTether f).spreadPtr = s.spreadPtr := rfl
@[simp] theorem State.updTether_dieAlt (s : State) (f : Tether → Tether) : (s.updTether f).dieAlt = s.dieAlt := rfl
@[simp] theorem State.updTether_reserves (s : State) (f : Tether → Tether) : (s.updTether f).reserves = s.reserves := rfl
@[simp] theorem State.updTether_loads (s : State) (f : Tether → Tether) : (s.updTether f).loads = s.loads := rfl
@[simp] theorem State.updTether_keySlots (s : State) (f : Tether → Tether) : (s.updTether f).keySlots = s.keySlots := rfl
@[simp] theorem State.updTether_ferKeys (s : State) (f : Tether → Tether) : (s.updTether f).ferKeys = s.ferKeys := rfl
@[simp] theorem State.updTether_engines (s : State) (f : Tether → Tether) : (s.updTether f).engines = s.engines := rfl
@[simp] theorem State.updTether_engWheel (s : State) (f : Tether → Tether) : (s.updTether f).engWheel = s.engWheel := rfl
@[simp] theorem State.updTether_fer (s : State) (f : Tether → Tether) : (s.updTether f).fer = s.fer := rfl
@[simp] theorem State.updTether_groups (s : State) (f : Tether → Tether) : (s.updTether f).groups = s.groups := rfl
@[simp] theorem State.updTether_grants (s : State) (f : Tether → Tether) : (s.updTether f).grants = s.grants := rfl
@[simp] theorem State.updTether_gate (s : State) (f : Tether → Tether) : (s.updTether f).gate = s.gate := rfl
@[simp] theorem State.updTether_aliasGate (s : State) (f : Tether → Tether) : (s.updTether f).aliasGate = s.aliasGate := rfl
@[simp] theorem State.updTether_tether (s : State) (f : Tether → Tether) : (s.updTether f).tether = f s.tether := rfl
@[simp] theorem State.updTether_sag (s : State) (f : Tether → Tether) : (s.updTether f).sag = s.sag := rfl
@[simp] theorem State.updTether_fatal (s : State) (f : Tether → Tether) : (s.updTether f).fatal = s.fatal := rfl
@[simp] theorem State.updTether_shareW (s : State) (f : Tether → Tether) : (s.updTether f).shareW = s.shareW := rfl
@[simp] theorem State.updTether_gated (s : State) (f : Tether → Tether) : (s.updTether f).gated = s.gated := rfl
@[simp] theorem State.updTether_time (s : State) (f : Tether → Tether) : (s.updTether f).time = s.time := rfl
@[simp] theorem State.updTether_launch (s : State) (f : Tether → Tether) : (s.updTether f).launch = s.launch := rfl
@[simp] theorem State.updTether_billing (s : State) (f : Tether → Tether) : (s.updTether f).billing = s.billing := rfl
@[simp] theorem State.updTether_bill (s : State) (f : Tether → Tether) : (s.updTether f).bill = s.bill := rfl
@[simp] theorem State.updTether_sec (s : State) (f : Tether → Tether) : (s.updTether f).sec = s.sec := rfl
@[simp] theorem State.updTether_pwr (s : State) (f : Tether → Tether) : (s.updTether f).pwr = s.pwr := rfl
@[simp] theorem State.updTether_nv (s : State) (f : Tether → Tether) : (s.updTether f).nv = s.nv := rfl
@[simp] theorem State.updTether_ao (s : State) (f : Tether → Tether) : (s.updTether f).ao = s.ao := rfl
@[simp] theorem State.updTether_dbg (s : State) (f : Tether → Tether) : (s.updTether f).dbg = s.dbg := rfl
@[simp] theorem State.updTether_trace (s : State) (f : Tether → Tether) : (s.updTether f).trace = s.trace := rfl
@[simp] theorem State.updTether_jobCause (s : State) (f : Tether → Tether) : (s.updTether f).jobCause = s.jobCause := rfl
@[simp] theorem State.updTether_jobLast (s : State) (f : Tether → Tether) : (s.updTether f).jobLast = s.jobLast := rfl
@[simp] theorem State.updTether_patrol (s : State) (f : Tether → Tether) : (s.updTether f).patrol = s.patrol := rfl
@[simp] theorem State.updTether_pairs (s : State) (f : Tether → Tether) : (s.updTether f).pairs = s.pairs := rfl
@[simp] theorem State.updTether_tablesLost (s : State) (f : Tether → Tether) : (s.updTether f).tablesLost = s.tablesLost := rfl
@[simp] theorem State.updTether_shareHeld (s : State) (f : Tether → Tether) : (s.updTether f).shareHeld = s.shareHeld := rfl
@[simp] theorem State.updTether_staged (s : State) (f : Tether → Tether) : (s.updTether f).staged = s.staged := rfl
@[simp] theorem State.updTether_latched (s : State) (f : Tether → Tether) : (s.updTether f).latched = s.latched := rfl

end Sys2Proof.Machine
end

