-- ==== Sys2Proof/Laws/Tab.lean ====
section
/-!
SUPPORT. Sys2Proof/Laws/Tab.lean: reading after writing a sparse table or memory, and the canonical form, which every
operation on one keeps.
-/
namespace Sys2Proof

variable {α : Type}

/-- A key no entry lists reads as the unlisted value. -/
theorem Tab.get_of_not_any (d : α) (t : Tab α) (k : Nat) (h : ∀ x ∈ t, x.1 ≠ k) : Tab.get d t k = d := by
  induction t with
  | nil => rfl
  | cons x t ih =>
    obtain ⟨a, b⟩ := x
    have ha : a ≠ k := h (a, b) List.mem_cons_self
    simp only [Tab.get, ha, if_false]
    exact ih (fun y hy => h y (List.mem_cons_of_mem _ hy))

/-- Reading past entries selected by their keys. -/
theorem Tab.get_filter_append (d : α) (t u : Tab α) (p : Nat → Bool) (k : Nat) :
    Tab.get d (t.filter (fun c => p c.1) ++ u) k =
      if p k = true ∧ ∃ x ∈ t, x.1 = k then Tab.get d t k else Tab.get d u k := by
  induction t with
  | nil => simp
  | cons x t ih =>
    obtain ⟨a, b⟩ := x
    by_cases ha : p a = true <;> by_cases hk : a = k
    · subst hk; simp [ha, Tab.get]
    · simp only [List.filter_cons, ha, if_true, List.cons_append, Tab.get, hk, if_false, ih, List.mem_cons, exists_eq_or_imp, false_or]
    · subst hk; simp [ha, ih]
    · simp only [List.filter_cons, ha, Bool.false_eq_true, if_false, Tab.get, hk, ih, List.mem_cons, exists_eq_or_imp, false_or]

variable [DecidableEq α]

/-- Reading a run of values before entries that lie past it. -/
theorem Tab.get_run_append (d : α) (vs : List α) (k : Nat) (u : Tab α) (h : ∀ x ∈ u, k + vs.length ≤ x.1) (key : Nat) :
    Tab.get d (Tab.run d k vs ++ u) key = if k ≤ key ∧ key < k + vs.length then vs.getD (key - k) d else Tab.get d u key := by
  induction vs generalizing k with
  | nil =>
    have : ¬ (k ≤ key ∧ key < k + ([] : List α).length) := by simp
    simp only [Tab.run, List.nil_append, this, if_false]
  | cons v vs ih =>
    have hu : ∀ x ∈ u, k + 1 + vs.length ≤ x.1 := fun x hx => by have := h x hx; simp only [List.length_cons] at this; omega
    have ih := ih (k + 1) hu
    by_cases hk : key = k
    · subst hk
      have hlt : key ≤ key ∧ key < key + (v :: vs).length := by simp
      rw [if_pos hlt, Nat.sub_self, List.getD_cons_zero]
      simp only [Tab.run]
      split
      · next hv =>
        rw [ih, if_neg (by omega), hv]
        exact Tab.get_of_not_any d u key (fun x hx => by have := hu x hx; omega)
      · simp [Tab.get]
    · have e : Tab.get d (Tab.run d k (v :: vs) ++ u) key = Tab.get d (Tab.run d (k + 1) vs ++ u) key := by
        simp only [Tab.run]
        split
        · rfl
        · have : ¬ k = key := fun h => hk h.symm
          simp only [List.cons_append, Tab.get, this, if_false]
      rw [e, ih]
      by_cases hr : k + 1 ≤ key ∧ key < k + 1 + vs.length
      · have hr' : k ≤ key ∧ key < k + (v :: vs).length := by simp only [List.length_cons]; omega
        rw [if_pos hr, if_pos hr', show key - k = (key - (k + 1)) + 1 by omega, List.getD_cons_succ]
      · have hr' : ¬ (k ≤ key ∧ key < k + (v :: vs).length) := by simp only [List.length_cons]; omega
        rw [if_neg hr, if_neg hr']

/-- Reading after a run of values was written: the run where it lies, the table before elsewhere. -/
theorem Tab.get_putRun (d : α) (t : Tab α) (k : Nat) (vs : List α) (key : Nat) :
    Tab.get d (Tab.putRun d t k vs) key = if k ≤ key ∧ key < k + vs.length then vs.getD (key - k) d else Tab.get d t key := by
  have tail := Tab.get_filter_append d t [] (fun n => decide (k + vs.length ≤ n)) key
  rw [List.append_nil] at tail
  unfold Tab.putRun
  rw [List.append_assoc, Tab.get_filter_append d t _ (fun n => decide (n < k)), Tab.get_run_append]
  · by_cases hr : k ≤ key ∧ key < k + vs.length
    · rw [if_pos hr, if_pos hr, if_neg (by simp only [decide_eq_true_eq]; omega)]
    · rw [if_neg hr, if_neg hr, tail]
      by_cases hm : ∃ x ∈ t, x.1 = key
      · by_cases h1 : key < k
        · rw [if_pos ⟨by simpa using h1, hm⟩]
        · have h2 : k + vs.length ≤ key := by omega
          rw [if_neg (by simp [h1]), if_pos ⟨by simpa using h2, hm⟩]
      · rw [if_neg (fun h => hm h.2), if_neg (fun h => hm h.2)]
        exact (Tab.get_of_not_any d t key (fun x hx e => hm ⟨x, hx, e⟩)).symm
  · intro x hx
    simpa using (List.mem_filter.1 hx).2

/-- In a table whose keys rise from `lo` on, a key below `lo` is unlisted. -/
theorem Tab.get_lt (d : α) {t : Tab α} {lo k : Nat} (h : Tab.wfFrom d lo t = true) (hk : k < lo) : Tab.get d t k = d := by
  induction t generalizing lo with
  | nil => rfl
  | cons x t ih =>
    obtain ⟨a, b⟩ := x
    simp only [Tab.wfFrom, Bool.and_eq_true, decide_eq_true_eq] at h
    have : ¬ a = k := by omega
    simp only [Tab.get, this, if_false]
    exact ih h.2 (by omega)

theorem Tab.wfFrom_mono (d : α) {t : Tab α} {lo lo' : Nat} (h : Tab.wfFrom d lo t = true) (hl : lo' ≤ lo) : Tab.wfFrom d lo' t = true := by
  cases t with
  | nil => rfl
  | cons x t =>
    obtain ⟨a, b⟩ := x
    simp only [Tab.wfFrom, Bool.and_eq_true, decide_eq_true_eq] at h ⊢
    exact ⟨⟨by omega, h.1.2⟩, h.2⟩

/-- A key written reads as what was written. -/
theorem Tab.get_put_same (d : α) {t : Tab α} {lo : Nat} (h : Tab.wfFrom d lo t = true) (k : Nat) (v : α) :
    Tab.get d (Tab.put d t k v) k = v := by
  induction t generalizing lo with
  | nil => simp only [Tab.put]; split <;> simp_all [Tab.get]
  | cons x t ih =>
    obtain ⟨a, b⟩ := x
    simp only [Tab.wfFrom, Bool.and_eq_true, decide_eq_true_eq] at h
    simp only [Tab.put]
    split
    · next hk =>
      split
      · next hv =>
        have : ¬ a = k := by omega
        simp only [Tab.get, this, if_false, hv]
        exact Tab.get_lt d h.2 (by omega)
      · simp [Tab.get]
    · split
      · next hk =>
        subst hk
        split
        · next hv => rw [hv]; exact Tab.get_lt d h.2 (by omega)
        · simp [Tab.get]
      · next hk =>
        have : ¬ a = k := fun e => hk e.symm
        simp only [Tab.get, this, if_false]
        exact ih h.2

/-- Every other key reads as before. -/
theorem Tab.get_put_other (d : α) (t : Tab α) {k k' : Nat} (v : α) (hne : k' ≠ k) : Tab.get d (Tab.put d t k v) k' = Tab.get d t k' := by
  have hne' : ¬ k = k' := fun e => hne e.symm
  induction t with
  | nil => simp only [Tab.put]; split <;> simp [Tab.get, hne']
  | cons x t ih =>
    obtain ⟨a, b⟩ := x
    simp only [Tab.put]
    split
    · split
      · rfl
      · simp only [Tab.get, hne', if_false]
    · split
      · next hk =>
        subst hk
        split
        · simp only [Tab.get, hne', if_false]
        · simp only [Tab.get, hne', if_false]
      · simp only [Tab.get, ih]

theorem Tab.wfFrom_put (d : α) {t : Tab α} {lo k : Nat} (h : Tab.wfFrom d lo t = true) (hk : lo ≤ k) (v : α) :
    Tab.wfFrom d lo (Tab.put d t k v) = true := by
  induction t generalizing lo with
  | nil => simp only [Tab.put]; split <;> simp_all [Tab.wfFrom]
  | cons x t ih =>
    obtain ⟨a, b⟩ := x
    have h' := h
    simp only [Tab.wfFrom, Bool.and_eq_true, decide_eq_true_eq] at h'
    simp only [Tab.put]
    split
    · next hka =>
      split
      · exact h
      · next hv =>
        simp only [Tab.wfFrom, Bool.and_eq_true, decide_eq_true_eq]
        exact ⟨⟨hk, hv⟩, ⟨⟨by omega, h'.1.2⟩, h'.2⟩⟩
    · split
      · next hka =>
        split
        · exact Tab.wfFrom_mono d h'.2 (by omega)
        · next hv => simp only [Tab.wfFrom, Bool.and_eq_true, decide_eq_true_eq]; exact ⟨⟨h'.1.1, hv⟩, h'.2⟩
      · next hka =>
        simp only [Tab.wfFrom, Bool.and_eq_true, decide_eq_true_eq]
        exact ⟨h'.1, ih h'.2 (by omega)⟩

/-- A write keeps the canonical form. -/
theorem Tab.wf_put (d : α) {t : Tab α} (h : Tab.wf d t = true) (k : Nat) (v : α) : Tab.wf d (Tab.put d t k v) = true :=
  Tab.wfFrom_put d h (Nat.zero_le k) v

/-- Entries taken out leave the canonical form. -/
theorem Tab.wfFrom_filter (d : α) {t : Tab α} {lo : Nat} (h : Tab.wfFrom d lo t = true) (p : Nat × α → Bool) :
    Tab.wfFrom d lo (t.filter p) = true := by
  induction t generalizing lo with
  | nil => rfl
  | cons x t ih =>
    obtain ⟨a, b⟩ := x
    simp only [Tab.wfFrom, Bool.and_eq_true, decide_eq_true_eq] at h
    simp only [List.filter_cons]
    split
    · simp only [Tab.wfFrom, Bool.and_eq_true, decide_eq_true_eq]; exact ⟨h.1, ih h.2⟩
    · exact Tab.wfFrom_mono d (ih h.2) (by omega)

theorem Tab.wfFrom_append (d : α) {t u : Tab α} {lo mid : Nat} (h : Tab.wfFrom d lo t = true) (ht : ∀ x ∈ t, x.1 < mid)
    (hlo : lo ≤ mid) (hu : Tab.wfFrom d mid u = true) : Tab.wfFrom d lo (t ++ u) = true := by
  induction t generalizing lo with
  | nil => exact Tab.wfFrom_mono d hu hlo
  | cons x t ih =>
    obtain ⟨a, b⟩ := x
    simp only [Tab.wfFrom, Bool.and_eq_true, decide_eq_true_eq, List.cons_append] at h ⊢
    have := ht (a, b) List.mem_cons_self
    exact ⟨h.1, ih h.2 (fun y hy => ht y (List.mem_cons_of_mem _ hy)) this⟩

theorem Tab.wfFrom_run (d : α) (k : Nat) (vs : List α) :
    Tab.wfFrom d k (Tab.run d k vs) = true ∧ ∀ x ∈ Tab.run d k vs, x.1 < k + vs.length := by
  induction vs generalizing k with
  | nil => simp [Tab.run, Tab.wfFrom]
  | cons v vs ih =>
    have ih := ih (k + 1)
    simp only [Tab.run]
    split
    · exact ⟨Tab.wfFrom_mono d ih.1 (by omega), fun x hx => by have := ih.2 x hx; simp only [List.length_cons]; omega⟩
    · next hv =>
      refine ⟨by simp only [Tab.wfFrom, Bool.and_eq_true, decide_eq_true_eq]; exact ⟨⟨Nat.le_refl k, hv⟩, ih.1⟩, fun x hx => ?_⟩
      rcases List.mem_cons.1 hx with rfl | hx
      · simp
      · have := ih.2 x hx; simp only [List.length_cons]; omega

theorem Tab.wfFrom_ge (d : α) {t : Tab α} {lo : Nat} (h : Tab.wfFrom d lo t = true) {mid : Nat} (hm : ∀ x ∈ t, mid ≤ x.1) :
    Tab.wfFrom d mid t = true := by
  cases t with
  | nil => rfl
  | cons x t =>
    obtain ⟨a, b⟩ := x
    simp only [Tab.wfFrom, Bool.and_eq_true, decide_eq_true_eq] at h ⊢
    exact ⟨⟨hm (a, b) List.mem_cons_self, h.1.2⟩, h.2⟩

/-- A run written keeps the canonical form. -/
theorem Tab.wf_putRun (d : α) {t : Tab α} (h : Tab.wf d t = true) (k : Nat) (vs : List α) : Tab.wf d (Tab.putRun d t k vs) = true := by
  have hr := Tab.wfFrom_run d k vs
  have hlo := Tab.wfFrom_filter d h (fun c => decide (c.1 < k))
  have hhi := Tab.wfFrom_ge d (Tab.wfFrom_filter d h (fun c => decide (k + vs.length ≤ c.1))) (mid := k + vs.length)
    (fun x hx => by simpa using (List.mem_filter.1 hx).2)
  unfold Tab.wf Tab.putRun
  rw [List.append_assoc]
  exact Tab.wfFrom_append d hlo (fun x hx => by simpa using (List.mem_filter.1 hx).2) (Nat.zero_le k)
    (Tab.wfFrom_append d hr.1 hr.2 (Nat.le_add_right k _) hhi)

/-- Changing every listed value keeps the canonical form. -/
theorem Tab.wf_update (d : α) {t : Tab α} (h : Tab.wf d t = true) (f : Nat → α → α) : Tab.wf d (Tab.update d t f) = true := by
  unfold Tab.wf at h ⊢
  generalize 0 = lo at h
  induction t generalizing lo with
  | nil => rfl
  | cons x t ih =>
    obtain ⟨a, b⟩ := x
    simp only [Tab.wfFrom, Bool.and_eq_true, decide_eq_true_eq] at h
    have ih := ih (a + 1) h.2
    simp only [Tab.update, List.map_cons, List.filter_cons, decide_eq_true_eq] at ih ⊢
    split
    · next hv => simp only [Tab.wfFrom, Bool.and_eq_true, decide_eq_true_eq]; exact ⟨⟨h.1.1, hv⟩, ih⟩
    · exact Tab.wfFrom_mono d ih (by omega)

omit [DecidableEq α] in
theorem Memory.length_readBytes (m : Memory) (a n : Nat) : (m.readBytes a n).length = n := by
  induction n generalizing a with
  | zero => rfl
  | succ n ih => simp [Memory.readBytes, ih]

/-- A byte written reads as written; every other byte reads as before. -/
theorem Memory.read_writeBytes (m : Memory) (a : Nat) (bs : List Byte) (x : Nat) :
    (m.writeBytes a bs).read x = if a ≤ x ∧ x < a + bs.length then bs.getD (x - a) Memory.unlisted else m.read x :=
  Tab.get_putRun Memory.unlisted m a bs x

/-- Writing bytes keeps the canonical form of a memory. -/
theorem Memory.wf_writeBytes {m : Memory} (h : m.wf = true) (a : Nat) (bs : List Byte) : (m.writeBytes a bs).wf = true :=
  Tab.wf_putRun Memory.unlisted h a bs

/-- Writing one byte keeps the canonical form of a memory. -/
theorem Memory.wf_write {m : Memory} (h : m.wf = true) (a : Nat) (b : Byte) : (m.write a b).wf = true :=
  Tab.wf_put Memory.unlisted h a b

end Sys2Proof
end

