-- ==== Sys2Proof/Laws/Ops.lean ====
section
/-!
SUPPORT. Sys2Proof/Laws/Ops.lean: everything a shared operation can do, said once per operation as an update of the fields
it may write.
-/
namespace Sys2Proof.Machine
open Sys2Proof

/-! ### Reading after one write -/

theorem State.cell_setCell_same (s : State) (i : Nat) (c : Cell) (h : Tab.wf Cell.reset s.cells = true) : (s.setCell i c).cell i = c :=
  Tab.get_put_same _ h i c

@[simp] theorem State.cell_setCell_other (s : State) (i k : Nat) (c : Cell) (h : k ≠ i) : (s.setCell i c).cell k = s.cell k :=
  Tab.get_put_other _ _ c h

theorem State.reg_setReg_same (s : State) (k v : Nat) (h : Tab.wf 0 s.regs = true) : (s.setReg k v).reg k = v :=
  Tab.get_put_same _ h k v

@[simp] theorem State.reg_setReg_other (s : State) (i k v : Nat) (h : k ≠ i) : (s.setReg i v).reg k = s.reg k :=
  Tab.get_put_other _ _ v h

theorem State.job_setJob_same (s : State) (k : Nat) (j : Option Job) (h : Tab.wf none s.jobs = true) : (s.setJob k j).job? k = j :=
  Tab.get_put_same _ h k j

@[simp] theorem State.job_setJob_other (s : State) (i k : Nat) (j : Option Job) (h : k ≠ i) : (s.setJob i j).job? k = s.job? k :=
  Tab.get_put_other _ _ j h

theorem State.fnCfg_setFnCfg_same (s : State) (fn : Nat) (c : FnCfg) (h : Tab.wf {} s.fns = true) : (s.setFnCfg fn c).fnCfg fn = c :=
  Tab.get_put_same _ h fn c

/-! ### What an operation may write -/

/-- Raising a vector writes a pending bit or the function's host memory. -/
theorem State.raise_eq (s : State) (fn v : Nat) : ∃ r h, s.raise fn v = { s with regs := r, host := h } := by
  unfold State.raise; split
  · exact ⟨s.regs, _, rfl⟩
  · exact ⟨_, s.host, rfl⟩

/-- Raising vector 8 writes what raising a vector writes. -/
theorem State.raiseRec_eq (s : State) (fn level : Nat) : ∃ r h, s.raiseRec fn level = { s with regs := r, host := h } := by
  unfold State.raiseRec; split
  · exact State.raise_eq s fn 8
  · exact ⟨s.regs, s.host, rfl⟩

/-- With no table waiting, loading the tables does nothing. -/
theorem State.loadTables_same (s : State) (h : s.routeBad = s.badCells) : s.loadTables = s := by
  simp [State.loadTables, State.tablesDue, h]

/-- Writing a fault record writes the log, the pending events, and what raising the event vectors writes. -/
theorem State.record_eq (s : State) (k : Kind) (r : FaultRec) (b : Bool) :
    ∃ l ao g h, s.record k r b = { s with log := l, ao := ao, regs := g, host := h } := by
  unfold State.record
  extract_lets r' s1 s2 s3
  obtain ⟨ao, e2⟩ : ∃ ao, s2 = { s1 with ao := ao } := by
    by_cases h : r'.level = 4
    · exact ⟨_, if_pos h⟩
    · exact ⟨s1.ao, if_neg h⟩
  obtain ⟨g, m, e3⟩ := State.raiseRec_eq s2 0 r'.level
  replace e3 : s3 = _ := e3
  obtain ⟨g', m', e4⟩ : ∃ g' m', (if 1 ≤ r'.tenant ∧ r'.tenant ≤ 16 then s3.raiseRec r'.tenant r'.level else s3)
      = { s3 with regs := g', host := m' } := by
    split
    · exact State.raiseRec_eq s3 _ _
    · exact ⟨s3.regs, s3.host, rfl⟩
  exact ⟨s1.log, ao, g', m', by rw [e4, e3, e2]⟩

/-- Tracing an event writes the trace. -/
theorem State.traceEv_eq (s : State) (k t j : Nat) (d : List Nat) : ∃ x, s.traceEv k t j d = { s with trace := x } := by
  unfold State.traceEv State.traceFlush
  simp only
  repeat' split
  all_goals exact ⟨_, rfl⟩

/-- The fields the mesh's injection may write: the cells' counters, the log and what raising its vectors writes, the packets in flight
and held, the port counters and the routing tables. -/
def State.meshWrites (s t : State) : Prop :=
  ∃ c l ao g h f b k n, t = { s with cells := c, log := l, ao := ao, regs := g, host := h, flight := f, routeBad := b, heldPkts := k
                                     flits := n }

theorem State.meshWrites_refl (s : State) : s.meshWrites s := ⟨_, _, _, _, _, _, _, _, _, rfl⟩

theorem State.meshWrites_trans {s t u : State} (h : s.meshWrites t) (h' : t.meshWrites u) : s.meshWrites u := by
  obtain ⟨_, _, _, _, _, _, _, _, _, rfl⟩ := h
  obtain ⟨_, _, _, _, _, _, _, _, _, rfl⟩ := h'
  exact ⟨_, _, _, _, _, _, _, _, _, rfl⟩

/-- A packet that goes on its way writes the port counters, its source cell's counter and the packets in flight. -/
theorem State.enter_eq (s : State) (p : Packet) : s.meshWrites (s.enter p) := by
  unfold State.enter
  simp only
  repeat' split
  all_goals exact ⟨_, _, _, _, _, _, _, _, _, rfl⟩

/-- Injecting a packet at its source router writes no more than the mesh's injection may. -/
theorem State.route_eq (s : State) (p : Packet) : s.meshWrites (s.route p) := by
  unfold State.route
  split
  · split <;> exact ⟨_, _, _, _, _, _, _, _, _, rfl⟩
  split
  · exact s.enter_eq p
  · extract_lets _ s1 s2
    obtain ⟨l, ao, g, h, e⟩ : ∃ l ao g h, s1 = { s with log := l, ao := ao, regs := g, host := h } := State.record_eq s _ _ _
    obtain ⟨c, e'⟩ : ∃ c, s2 = { s1 with cells := c } := by
      by_cases h : s1.goodCell p.src = true
      · exact ⟨_, if_pos h⟩
      · exact ⟨s1.cells, if_neg h⟩
    rw [e', e]
    split <;> exact ⟨_, _, _, _, _, _, _, _, _, rfl⟩

/-- Injecting packets in turn writes what injecting one does. -/
theorem State.foldl_route_eq (s : State) (ps : List Packet) : s.meshWrites (ps.foldl State.route s) := by
  induction ps generalizing s with
  | nil => exact s.meshWrites_refl
  | cons p ps ih => exact State.meshWrites_trans (s.route_eq p) (ih _)

/-- Loading the tables writes them and injects the packets held. -/
theorem State.loadTables_eq (s : State) : s.meshWrites s.loadTables := by
  unfold State.loadTables
  split
  · exact s.meshWrites_refl
  · exact State.meshWrites_trans ⟨_, _, _, _, _, _, _, _, _, rfl⟩ (State.foldl_route_eq _ _)

/-- Giving a packet to its source router writes no more than the mesh's injection may. -/
theorem State.send_eq (s : State) (p : Packet) : s.meshWrites (s.send p) := by
  unfold State.send
  refine State.meshWrites_trans s.loadTables_eq ?_
  simp only
  split
  · exact ⟨_, _, _, _, _, _, _, _, _, rfl⟩
  · exact State.route_eq _ p

/-- Injecting packets writes what injecting one writes. -/
theorem State.sendAll_eq (s : State) (ps : List Packet) : s.meshWrites (s.sendAll ps) := by
  unfold State.sendAll
  induction ps generalizing s with
  | nil => exact s.meshWrites_refl
  | cons p ps ih => exact State.meshWrites_trans (s.send_eq p) (ih _)

/-- Stopping a job writes the job and its cause register. -/
theorem State.stopJob_eq (s : State) (k : Option Nat) (st : Status) (q : Nat) :
    ∃ j c, s.stopJob k st q = { s with jobs := j, jobCause := c } := by
  unfold State.stopJob
  repeat' split
  all_goals exact ⟨_, _, rfl⟩

/-- Stopping a job leaves a free slot free. -/
theorem State.stopJob_free (s : State) (k : Nat) (st : Status) (q : Nat) (h : s.job? k = none) : s.stopJob (some k) st q = s := by
  simp only [State.stopJob, h]

/-- A job that has a cause keeps it (R328). -/
theorem State.stopJob_stopped (s : State) (k : Nat) (j : Job) (st : Status) (q : Nat) (h : s.job? k = some j) (hs : j.stop.isSome = true) :
    s.stopJob (some k) st q = s := by
  simp only [State.stopJob, h, hs, if_true]

/-- A fault of a job's work writes a record, the cell's counter and the job's stop. -/
theorem State.jobFault_eq (s : State) (k : Kind) (j : Option Nat) (st : Status) (r : FaultRec) :
    ∃ c l ao g h js jc, s.jobFault k j st r = { s with cells := c, log := l, ao := ao, regs := g, host := h, jobs := js, jobCause := jc } := by
  unfold State.jobFault
  simp only
  split
  all_goals
    obtain ⟨js, jc, e⟩ := State.stopJob_eq _ j st _
    rw [e]
    obtain ⟨l, ao, g, h, e⟩ := State.record_eq _ k _ _
    rw [e]
    exact ⟨_, _, _, _, _, _, _, rfl⟩

/-- What the host stored is in its own memory. -/
theorem State.hostStores_eq (s : State) (fn : Nat) (h : HostIn) : ∃ m, s.hostStores fn h = { s with host := m } := by
  unfold State.hostStores
  generalize h.stores = l
  induction l generalizing s with
  | nil => exact ⟨_, rfl⟩
  | cons e l ih =>
    obtain ⟨m, e'⟩ := ih (s.hostWrite fn e.1 e.2)
    exact ⟨m, by rw [List.foldl_cons, e']; rfl⟩

/-! ### Where a packet goes -/

/-- A packet whose path holds another is not taken. -/
theorem State.arrive_blocked (s : State) (p : Packet) (f : State → State) (h : s.mayArrive p = false) : s.arrive p f = s := by
  simp [State.arrive, h]

/-- A packet first of its path is taken out of flight and met; tables that waited for it are loaded (R243). -/
theorem State.arrive_met (s : State) (p : Packet) (f : State → State) (h : s.mayArrive p = true) :
    s.arrive p f = (f (s.arrived p)).loadTables := by
  simp [State.arrive, h]

end Sys2Proof.Machine
end

