-- ==== Sys2Proof/Laws/Vector.lean ====
section
/-!
SUPPORT. Sys2Proof/Laws/Vector.lean: what a vector instruction's command leaves, from what its operation computes per
element.
-/
namespace Sys2Proof.Machine
open Sys2Proof

/-- At an instruction, its command runs it. -/
theorem State.vtFetchRun_at {s : State} {cell ctx} {e : VEnv} (op) (run : VEnv → State) (h : s.vtAt cell ctx e) (ho : e.i.op = op) :
    s.vtFetchRun cell ctx op run = run e := by
  obtain ⟨h1, h2, h3, h4, h5, h6, h7, h8, h9, h10, h11, h12⟩ := h
  obtain ⟨c, x, i, n⟩ := e
  simp only at *
  subst h4 h5 h6
  unfold State.vtFetchRun
  simp [h2, h7, h8, h9, h10, h11, h12, ho, show ¬ 3 ≤ s.sag by omega]

/-- At an instruction, its command runs it and finishes it. -/
theorem State.vtOp_at {s : State} {cell ctx} {e : VEnv} (op) (run : VEnv → VOut) (h : s.vtAt cell ctx e) (ho : e.i.op = op) :
    s.vtOp cell ctx op run = s.vtFinish cell ctx e.i (run e) :=
  State.vtFetchRun_at op _ h ho

/-- No credit is owed for no credits. -/
theorem State.owe_nil (s : State) : s.owe [] = s := by simp [State.owe]

/-- An instruction that frees no stream words and does not stop retires. -/
theorem State.vtFinish_done {s : State} {cell ctx} (i : VInstr) (o : VOut) (h : o.fin = .done) (hs : o.x.stopping = false)
    (hc : o.credits = []) (hi : i.op ≠ 0x18) : s.vtFinish cell ctx i o = s.vtDone cell ctx o.c o.x o.occ := by
  unfold State.vtFinish State.vtDone; rw [hc, State.owe_nil, h]; simp [hs, hi]

/-- The flags an element-wise run raises are those its active elements raise. -/
theorem VEnv.raised_elems (e : VEnv) (old : Nat → Nat) (g : Nat → Nat × Nat) : e.raised (fun j => (g j).2) (e.x.flags ||| (e.elems old g).2) := by
  intro b
  unfold VEnv.elems
  simp only [Nat.testBit_or]
  congr 1
  have : ∀ (l : List Nat) (a : Nat), ((l.map (fun j => if e.active j then g j else (if e.i.mmode = 2 then 0 else old j, 0))).foldl (fun (a : Nat) (r : Nat × Nat) => a ||| r.2) a).testBit b = (a.testBit b || l.any (fun j => e.active j && (g j).2.testBit b)) := by
    intro l; induction l with
    | nil => simp
    | cons x l ih => intro a; simp only [List.map_cons, List.foldl_cons, ih, List.any_cons]; split <;> simp_all [Bool.or_assoc]
  simpa using this (List.range e.x.vl) 0

/-- A context advances past an instruction of class M or A. -/
theorem VEnv.advance_next (e : VEnv) (fl) (hop : 16 ≤ e.i.op) : e.advance fl = e.next (e.x.flags ||| fl) := by
    simp [VEnv.advance, VEnv.next, VEnv.srNext, ceilDiv, hop]

/-- What an element-wise operation into vd leaves. -/
theorem vElementwise_of_run (s : State) (cell ctx : Nat) (e : VEnv) (cmd : Instr) (h : s.vtAt cell ctx e) (k d : Nat) (g : Nat → Nat × Nat) (hop : 16 ≤ e.i.op) (hx : e.i.op ≠ 0x18)
   (he : exec cmd s = .next (s.vtFinish cell ctx e.i { c := e.putReg e.i.vd (e.elems (e.reg e.i.vd) g).1, x := e.advance (e.elems (e.reg e.i.vd) g).2, occ := k * e.groups + d })) :
    ∃ (vr : Tab Word) (fl : Nat),
      exec cmd s = .next (s.vtDone cell ctx { e.c with vr := vr } (e.next fl) (k * ((e.x.vl + 63) / 64) + d))
      ∧ (∀ key, Tab.get 0#32 vr key =
          if 4096 * e.i.vd + e.x.part.vrBase ≤ key ∧ key < 4096 * e.i.vd + e.x.part.vrBase + e.x.vl then
            let j := key - (4096 * e.i.vd + e.x.part.vrBase)
            e.chosen j (Tab.get 0#32 e.c.vr key) (BitVec.ofNat 32 (g j).1) 0#32
          else Tab.get 0#32 e.c.vr key)
      ∧ e.raised (fun j => (g j).2) fl := by
  have hst : e.x.stopping = false := h.2.2.2.2.2.2.2.2.1
  refine ⟨Tab.putRun 0#32 e.c.vr (4096 * e.i.vd + e.x.part.vrBase) ((e.elems (e.reg e.i.vd) g).1.map (BitVec.ofNat 32)), e.x.flags ||| (e.elems (e.reg e.i.vd) g).2, he.trans ?_, ?_, VEnv.raised_elems e (e.reg e.i.vd) g⟩
  · rw [State.vtFinish_done _ _ rfl (by simp [VEnv.advance, hst]) rfl hx]
    simp only [VEnv.advance_next _ _ hop]
    simp [VEnv.putReg, VEnv.groups, ceilDiv]
  · intro key
    rw [Tab.get_putRun]
    simp only [VEnv.elems, List.length_map, List.length_range]
    split
    · rename_i hk
      obtain ⟨j, hj⟩ : ∃ j, key = 4096 * e.i.vd + e.x.part.vrBase + j := ⟨key - (4096 * e.i.vd + e.x.part.vrBase), by omega⟩
      subst hj
      have : j < e.x.vl := by omega
      simp [this, VEnv.chosen, VEnv.reg]
      split
      · rfl
      · split <;> simp
    · rfl

/-- What an element-wise operation into md leaves. -/
theorem vMaskwise_of_run (s : State) (cell ctx : Nat) (e : VEnv) (cmd : Instr) (h : s.vtAt cell ctx e) (g : Nat → Bool × Nat) (hop : 16 ≤ e.i.op) (hx : e.i.op ≠ 0x18)
   (he : exec cmd s = .next (s.vtFinish cell ctx e.i { c := e.putMask (e.i.vd % 4) ((e.elems (fun j => (e.maskBit (e.i.vd%4) j).toNat) (fun j => ((g j).1.toNat, (g j).2))).1.map (fun v => v == 1)), x := e.advance (e.elems (fun j => (e.maskBit (e.i.vd%4) j).toNat) (fun j => ((g j).1.toNat, (g j).2))).2, occ := e.groups })) :
    ∃ (vm : Tab Bool) (fl : Nat),
      exec cmd s = .next (s.vtDone cell ctx { e.c with vm := vm } (e.next fl) ((e.x.vl + 63) / 64))
      ∧ (∀ key, Tab.get false vm key =
          if 4096 * (e.i.vd % 4) + e.x.part.vrBase ≤ key ∧ key < 4096 * (e.i.vd % 4) + e.x.part.vrBase + e.x.vl then
            let j := key - (4096 * (e.i.vd % 4) + e.x.part.vrBase)
            e.chosen j (Tab.get false e.c.vm key) (g j).1 false
          else Tab.get false e.c.vm key)
      ∧ e.raised (fun j => (g j).2) fl := by
  have hst : e.x.stopping = false := h.2.2.2.2.2.2.2.2.1
  refine ⟨_, _, he.trans (?_ : _ = Host.Outcome.next (s.vtDone cell ctx {e.c with vm := Tab.putRun false e.c.vm (4096 * (e.i.vd % 4) + e.x.part.vrBase) ((e.elems (fun j => (e.maskBit (e.i.vd%4) j).toNat) (fun j => ((g j).1.toNat, (g j).2))).1.map (fun v => v == 1)) } _ _)), ?_, VEnv.raised_elems e (fun j => (e.maskBit (e.i.vd%4) j).toNat) (fun j => ((g j).1.toNat, (g j).2))⟩
  · rw [State.vtFinish_done _ _ rfl (by simp [VEnv.advance, hst]) rfl hx]
    simp only [VEnv.advance_next _ _ hop]
    simp [VEnv.putMask, VEnv.groups, ceilDiv]
  · intro key
    rw [Tab.get_putRun]
    simp only [VEnv.elems, List.length_map, List.length_range]
    split
    · rename_i hk
      obtain ⟨j, hj⟩ : ∃ j, key = 4096 * (e.i.vd % 4) + e.x.part.vrBase + j := ⟨key - (4096 * (e.i.vd % 4) + e.x.part.vrBase), by omega⟩
      subst hj
      have : j < e.x.vl := by omega
      simp [this, VEnv.chosen, VEnv.maskBit]
      split
      · cases (g j).1 <;> rfl
      · by_cases hm : e.i.mmode = 2
        · simp [hm]
        · cases Tab.get false e.c.vm (4096 * (e.i.vd % 4) + e.x.part.vrBase + j) <;> simp [hm]
    · rfl

/-- An element-wise command, from what it answers at its instruction. -/
theorem VElementwise.of_run {cmd op k d ok g} (hop : 16 ≤ op) (hx : op ≠ 0x18) (he : ∀ (s : State) (cell ctx : Nat) (e : VEnv), s.vtAt cell ctx e → e.i.op = op → ok e → exec (cmd cell ctx) s = .next (s.vtFinish cell ctx e.i { c := e.putReg e.i.vd (e.elems (e.reg e.i.vd) (g e)).1, x := e.advance (e.elems (e.reg e.i.vd) (g e)).2, occ := k * e.groups + d })) : VElementwise cmd op k d ok g := by
  intro s cell ctx e h ho hk
  exact vElementwise_of_run s cell ctx e _ h k d (g e) (by omega) (by omega) (he s cell ctx e h ho hk)

/-- A mask command, from what it answers at its instruction. -/
theorem VMaskwise.of_run {cmd op ok g} (hop : 16 ≤ op) (hx : op ≠ 0x18) (he : ∀ (s : State) (cell ctx : Nat) (e : VEnv), s.vtAt cell ctx e → e.i.op = op → ok e → exec (cmd cell ctx) s = .next (s.vtFinish cell ctx e.i { c := e.putMask (e.i.vd % 4) ((e.elems (fun j => (e.maskBit (e.i.vd%4) j).toNat) (fun j => ((g e j).1.toNat, (g e j).2))).1.map (fun v => v == 1)), x := e.advance (e.elems (fun j => (e.maskBit (e.i.vd%4) j).toNat) (fun j => ((g e j).1.toNat, (g e j).2))).2, occ := e.groups })) : VMaskwise cmd op ok g := by
  intro s cell ctx e h ho hk
  exact vMaskwise_of_run s cell ctx e _ h (g e) (by omega) (by omega) (he s cell ctx e h ho hk)

end Sys2Proof.Machine
end

