-- ==== Sys2Proof/Machine/Pins.lean ====
section
/-!
DEFINITION. Sys2Proof/Machine/Pins.lean: what stands at the module's contacts (R619, R665, R666, R672 to R674): the state of each group
of pins as the machine's state gives it, and where each signal lies.
-/
namespace Sys2Proof.Machine
open Sys2Proof

/-- The groups of pins of R619, in the order of its table. -/
inductive PinGroup where
  | pcieTx | pcieRx | refclk | perst | smbus | tdo | ppsIn | ferTx
  deriving DecidableEq, Repr

/-- What a group of pins does (R619). -/
inductive PinState where
  | highZ | off | electricalIdle | active | terminated | ignored | monitored | inUse | sensed | shiftDriven | captured
  deriving DecidableEq, Repr

/-- The columns of R619: no power, S5, in reset, Landing to Stage 2, Stage 3. -/
inductive PinPhase where
  | unpowered | s5 | reset | starting | up
  deriving DecidableEq, Repr

/-- The column that the machine's state selects. -/
def State.pinPhase (s : State) : PinPhase :=
  if !s.ao.powered then .unpowered
  else if s.ao.off then .s5
  else if s.ao.perst || !(s.ao.landed || s.ao.start) then .reset
  else if s.stage < 3 then .starting else .up

/-- The state of a group of pins (R619); a Ferier transmitter is `port`'s. -/
def State.pinState (s : State) (g : PinGroup) (port : Nat) : PinState :=
  match g, s.pinPhase with
  | .pcieTx, .unpowered => .highZ
  | .pcieTx, .s5 => .off
  | .pcieTx, .reset => .electricalIdle
  | .pcieTx, _ => .active
  | .pcieRx, .starting => .terminated
  | .pcieRx, .up => .terminated
  | .pcieRx, _ => .highZ
  | .refclk, .unpowered => .highZ
  | .refclk, .s5 => .ignored
  | .refclk, .reset => .monitored
  | .refclk, _ => .inUse
  | .perst, .unpowered => .highZ
  | .perst, .s5 => .ignored
  | .perst, _ => .sensed
  | .smbus, .unpowered => .highZ
  | .smbus, _ => .active
  | .tdo, .unpowered => .highZ
  | .tdo, .s5 => .highZ
  | .tdo, _ => .shiftDriven
  | .ppsIn, .unpowered => .highZ
  | .ppsIn, .s5 => .ignored
  | .ppsIn, .reset => .ignored
  | .ppsIn, _ => if s.time.ppsEn then .captured else .ignored
  | .ferTx, .up => if bit (s.reg rPortEn) port ∧ (s.port port).st ≠ .disabled then .active else .off
  | .ferTx, _ => .off

/-! ### Contacts (R666, R674) -/

/-- Contacts of PCIe lane n on the host connector as (row, column): PET_P, PET_N in row A, PER_P, PER_N in row B. -/
def pcieContacts (n : Nat) : List (Char × Nat) := [('A', 3 * n + 2), ('A', 3 * n + 3), ('B', 3 * n + 2), ('B', 3 * n + 3)]

/-- The fabric connector of a Ferier port: N for ports 0 to 7, S for 8 to 15. -/
def ferConnector (p : Nat) : Char := if p < 8 then 'N' else 'S'

/-- Contacts of lane l of Ferier port p: FTX_P, FTX_N, FRX_P, FRX_N (R674). -/
def ferContacts (p l : Nat) : List (Char × Nat) :=
  let q := p % 8
  let tx := ['A', 'B', 'C', 'D'].getD l 'A'
  let rx := ['E', 'F', 'G', 'H'].getD l 'E'
  [(tx, 3 * q + 1), (tx, 3 * q + 2), (rx, 3 * q + 1), (rx, 3 * q + 2)]

/-- The low-speed contacts of the host connector by name (R666). -/
def sideContacts : List (String × Char × Nat) :=
  [("REFCLK_P", 'A', 51), ("REFCLK_N", 'A', 52), ("PERST#", 'A', 55), ("PPS_IN", 'A', 57), ("SMBCLK", 'B', 55), ("SMBDAT", 'B', 56),
   ("SMBALERT#", 'B', 57), ("TCK", 'A', 60), ("TMS", 'A', 61), ("TDI", 'A', 62), ("TDO", 'A', 63), ("TRST#", 'A', 64),
   ("PRSNT_A", 'B', 60), ("PRSNT_B", 'B', 61)]

end Sys2Proof.Machine
end

