-- ==== Sys2Proof/WellFormed.lean ====
section
/-!
DEFINITION. Sys2Proof/WellFormed.lean: which terms name things the block has. A meaning does not rest on it: it answers for
every term (log 1).
-/
namespace Sys2Proof

/-- A cell site (R16), a matrix or vector context (R83, R115), either by one number, a steering unit (R217). -/
def cellOk (n : Nat) : Bool := decide (n < 2112)
def ctxOk (n : Nat) : Bool := decide (n < 4)
def ctxAny (n : Nat) : Bool := decide (n < 8)
def suOk (n : Nat) : Bool := decide (n < 2)

/-- A function: the PF 0, VFs 1 to 16 (R485); a ring of it (R493); an MSI-X vector (R685); a tenant with a VF (R529). -/
def fnOk (n : Nat) : Bool := decide (n ≤ 16)
def ringOk (n : Nat) : Bool := decide (n < 8)
def vecOk (n : Nat) : Bool := decide (n < 9)
def tenantOk (n : Nat) : Bool := decide (1 ≤ n) && decide (n ≤ 16)

/-- An engine (R309), a job slot (R308), a gallery (R20), a collective group entry (R459), a launch slot (R565). -/
def engineOk (n : Nat) : Bool := decide (n < 36)
def jobOk (n : Nat) : Bool := decide (n < 4096)
def galleryOk (n : Nat) : Bool := decide (n < 32)
def groupOk (n : Nat) : Bool := decide (n < 64)
def launchOk (n : Nat) : Bool := decide (n < 64)

/-- A Ferier port (R428), an HBM stack (R376), a die (R16), an array domain (R594), a switch input (R203). -/
def portOk (n : Nat) : Bool := decide (n < 16)
def stackOk (n : Nat) : Bool := decide (n < 8)
def dieOk (n : Nat) : Bool := decide (n < 4)
def domainOk (n : Nat) : Bool := decide (n < 32)
def inputOk (n : Nat) : Bool := decide (n < 5)

/-- A packet's tenant fits its field and its nodes are 12-bit IDs (R235). -/
def packetOk (p : Packet) : Bool := decide (p.src < 4096) && decide (p.dst < 4096) && decide (p.tenant < 32)

/-- A term that names only things the block has. -/
def Instr.wf (i : Instr) : Bool :=
  match i with
  | .jobLaunch fn ring _ => fnOk fn && ringOk ring
  | .jobCancel fn ring => fnOk fn && ringOk ring
  | .cfgLoad fn ring _ => fnOk fn && ringOk ring
  | .cfgUnload fn ring => fnOk fn && ringOk ring
  | .engineCmd fn ring _ => fnOk fn && ringOk ring
  | .signalSet fn ring => fnOk fn && ringOk ring
  | .signalAdd fn ring => fnOk fn && ringOk ring
  | .signalWait fn ring => fnOk fn && ringOk ring
  | .fence fn ring => fnOk fn && ringOk ring
  | .exportShard fn ring _ => fnOk fn && ringOk ring
  | .importShard fn ring _ => fnOk fn && ringOk ring
  | .reserveBwSet fn ring => fnOk fn && ringOk ring
  | .reserveBwRelease fn ring => fnOk fn && ringOk ring
  | .timeQuery fn ring => fnOk fn && ringOk ring
  | .settingsStore fn ring _ => fnOk fn && ringOk ring
  | .tetherForm fn ring _ => fnOk fn && ringOk ring
  | .tetherDissolve fn ring _ => fnOk fn && ringOk ring
  | .tetherAdopt fn ring _ => fnOk fn && ringOk ring
  | .tetherResync fn ring _ => fnOk fn && ringOk ring
  | .tetherRelease fn ring _ => fnOk fn && ringOk ring
  | .consumeEntry fn ring _ => fnOk fn && ringOk ring
  | .doorbellWrite fn _ _ _ => fnOk fn
  | .doorbellPoll fn ring _ => fnOk fn && ringOk ring
  | .doorbellSnoop fn ring _ => fnOk fn && ringOk ring
  | .cqLineEvict fn ring _ => fnOk fn && ringOk ring
  | .cqLineSnoop fn ring _ _ => fnOk fn && ringOk ring
  | .evictResponse fn ring _ _ => fnOk fn && ringOk ring
  | .ringEnable fn ring _ => fnOk fn && ringOk ring
  | .ringDisable fn ring => fnOk fn && ringOk ring
  | .ringDrainEnd fn ring => fnOk fn && ringOk ring
  | .irqDelayExpire fn ring => fnOk fn && ringOk ring
  | .cmdTimeoutExpire _ => true
  | .vfFlr fn => fnOk fn
  | .pfFlr => true
  | .featCommit _ => true
  | .registerWrite fn _ _ _ => fnOk fn
  | .tenantCreate t => tenantOk t
  | .tenantRemove t => tenantOk t
  | .sigRangeWrite t _ _ => tenantOk t
  | .shareCommit => true
  | .sealCtlWrite _ => true
  | .sealApply => true
  | .billingPeriodClose => true
  | .energyInterval _ _ => true
  | .wallBaseWrite _ => true
  | .wallSlewWrite _ => true
  | .ppsEnWrite _ => true
  | .ppsEdge => true
  | .ppsLost => true
  | .syncRequestSend => true
  | .timeSyncReq port _ => portOk port
  | .timeSyncResp port _ => portOk port
  | .launchArm k => launchOk k
  | .launchDisarm k => launchOk k
  | .launchFire k => launchOk k
  | .deepIdleRequest _ => true
  | .deepIdleEnter => true
  | .deepIdleExit => true
  | .apGateWrite _ => true
  | .domainGate n => domainOk n
  | .powerCapEval _ _ => true
  | .sagStageEnter _ => true
  | .sagStageExit _ _ => true
  | .sagS5Enter _ _ => true
  | .overvoltage _ _ => true
  | .thermSample _ _ => true
  | .droopTrip cell => cellOk cell
  | .droopStepRise die => dieOk die
  | .refclkLoss => true
  | .powerOn _ _ => true
  | .perstAssert => true
  | .perstDeassert => true
  | .devReset _ => true
  | .landing => true
  | .stage1 _ _ => true
  | .stage2 _ _ => true
  | .stage3 _ _ => true
  | .nvEraseComplete _ => true
  | .firmwareUpdate _ _ => true
  | .pldmSettingsWrite _ => true
  | .svnCommit _ => true
  | .debugUnlock => true
  | .debugLock => true
  | .slotClear _ => true
  | .ferKeyRetire _ => true
  | .previousKeyExpire _ => true
  | .setKey _ _ => true
  | .getMeasurements _ _ _ => true
  | .getCertificate _ _ _ => true
  | .keyProg _ _ _ => true
  | .kSetGo _ _ => true
  | .kSetStop _ _ => true
  | .ideQuery _ => true
  | .mma cell ctx _ => cellOk cell && ctxOk ctx
  | .mtWait cell ctx => cellOk cell && ctxOk ctx
  | .mtPost cell ctx => cellOk cell && ctxOk ctx
  | .mtLoop cell ctx => cellOk cell && ctxOk ctx
  | .mtEnd cell ctx => cellOk cell && ctxOk ctx
  | .mtContextReady cell ctx => cellOk cell && ctxOk ctx
  | .mtContextSwitch cell => cellOk cell
  | .tileHandover cell ctx => cellOk cell && ctxOk ctx
  | .mmaRetire cell ctx => cellOk cell && ctxOk ctx
  | .vtEnd cell ctx => cellOk cell && ctxOk ctx
  | .vtWait cell ctx => cellOk cell && ctxOk ctx
  | .vtPost cell ctx => cellOk cell && ctxOk ctx
  | .vtLoop cell ctx => cellOk cell && ctxOk ctx
  | .setvl cell ctx => cellOk cell && ctxOk ctx
  | .aset cell ctx => cellOk cell && ctxOk ctx
  | .aadd cell ctx => cellOk cell && ctxOk ctx
  | .srseed cell ctx => cellOk cell && ctxOk ctx
  | .flclr cell ctx => cellOk cell && ctxOk ctx
  | .epilogue cell ctx _ => cellOk cell && ctxOk ctx
  | .epilogueEnd cell ctx => cellOk cell && ctxOk ctx
  | .xfence cell ctx => cellOk cell && ctxOk ctx
  | .vld cell ctx _ => cellOk cell && ctxOk ctx
  | .vst cell ctx => cellOk cell && ctxOk ctx
  | .vldb cell ctx _ => cellOk cell && ctxOk ctx
  | .vstq cell ctx => cellOk cell && ctxOk ctx
  | .mld cell ctx _ => cellOk cell && ctxOk ctx
  | .mst cell ctx => cellOk cell && ctxOk ctx
  | .vrecv cell ctx => cellOk cell && ctxOk ctx
  | .vsend cell ctx => cellOk cell && ctxOk ctx
  | .xfer cell ctx => cellOk cell && ctxOk ctx
  | .xferComplete cell ctx => cellOk cell && ctxOk ctx
  | .fadd cell ctx => cellOk cell && ctxOk ctx
  | .fsub cell ctx => cellOk cell && ctxOk ctx
  | .fmul cell ctx => cellOk cell && ctxOk ctx
  | .ffma cell ctx => cellOk cell && ctxOk ctx
  | .fdiv cell ctx => cellOk cell && ctxOk ctx
  | .fsqrt cell ctx => cellOk cell && ctxOk ctx
  | .fmin cell ctx => cellOk cell && ctxOk ctx
  | .fmax cell ctx => cellOk cell && ctxOk ctx
  | .fminnum cell ctx => cellOk cell && ctxOk ctx
  | .fmaxnum cell ctx => cellOk cell && ctxOk ctx
  | .fabs cell ctx => cellOk cell && ctxOk ctx
  | .fneg cell ctx => cellOk cell && ctxOk ctx
  | .frnd cell ctx => cellOk cell && ctxOk ctx
  | .fexp2 cell ctx => cellOk cell && ctxOk ctx
  | .flog2 cell ctx => cellOk cell && ctxOk ctx
  | .frsqrt cell ctx => cellOk cell && ctxOk ctx
  | .ftanh cell ctx => cellOk cell && ctxOk ctx
  | .fsigm cell ctx => cellOk cell && ctxOk ctx
  | .ferf cell ctx => cellOk cell && ctxOk ctx
  | .fcmpeq cell ctx => cellOk cell && ctxOk ctx
  | .fcmpne cell ctx => cellOk cell && ctxOk ctx
  | .fcmplt cell ctx => cellOk cell && ctxOk ctx
  | .fcmple cell ctx => cellOk cell && ctxOk ctx
  | .fcmpgt cell ctx => cellOk cell && ctxOk ctx
  | .fcmpge cell ctx => cellOk cell && ctxOk ctx
  | .fsel cell ctx => cellOk cell && ctxOk ctx
  | .fqnt cell ctx => cellOk cell && ctxOk ctx
  | .f2i cell ctx => cellOk cell && ctxOk ctx
  | .i2f cell ctx => cellOk cell && ctxOk ctx
  | .iadd cell ctx => cellOk cell && ctxOk ctx
  | .isub cell ctx => cellOk cell && ctxOk ctx
  | .imul cell ctx => cellOk cell && ctxOk ctx
  | .imin cell ctx => cellOk cell && ctxOk ctx
  | .imax cell ctx => cellOk cell && ctxOk ctx
  | .iand cell ctx => cellOk cell && ctxOk ctx
  | .ior cell ctx => cellOk cell && ctxOk ctx
  | .ixor cell ctx => cellOk cell && ctxOk ctx
  | .ishl cell ctx => cellOk cell && ctxOk ctx
  | .isra cell ctx => cellOk cell && ctxOk ctx
  | .isrl cell ctx => cellOk cell && ctxOk ctx
  | .icmpeq cell ctx => cellOk cell && ctxOk ctx
  | .icmplt cell ctx => cellOk cell && ctxOk ctx
  | .frsum cell ctx => cellOk cell && ctxOk ctx
  | .frmax cell ctx => cellOk cell && ctxOk ctx
  | .frmin cell ctx => cellOk cell && ctxOk ctx
  | .irsum cell ctx => cellOk cell && ctxOk ctx
  | .vmov cell ctx => cellOk cell && ctxOk ctx
  | .vbcast cell ctx => cellOk cell && ctxOk ctx
  | .viota cell ctx => cellOk cell && ctxOk ctx
  | .vperm cell ctx => cellOk cell && ctxOk ctx
  | .mand cell ctx => cellOk cell && ctxOk ctx
  | .mor cell ctx => cellOk cell && ctxOk ctx
  | .mxor cell ctx => cellOk cell && ctxOk ctx
  | .mnot cell ctx => cellOk cell && ctxOk ctx
  | .mcnt cell ctx => cellOk cell && ctxOk ctx
  | .vtContextSwitch cell => cellOk cell
  | .mtOpFill p => packetOk p
  | .mtOpCopy p => packetOk p
  | .fillCopyComplete cell => cellOk cell
  | .memtScrub cell _ => cellOk cell
  | .widePortYield cell => cellOk cell
  | .readyBitSet p => packetOk p
  | .readyBitClear p => packetOk p
  | .regionFence p => packetOk p
  | .contextBind p => packetOk p
  | .rd p _ => packetOk p
  | .wr p => packetOk p
  | .engCmd p => packetOk p
  | .cfg p => packetOk p
  | .rdData p => packetOk p
  | .wrAck p => packetOk p
  | .opDone p => packetOk p
  | .streamWordArrive cell port _ _ => cellOk cell && inputOk port
  | .splitRecord cell su => cellOk cell && suOk su
  | .mergeRecord cell su => cellOk cell && suOk su
  | .sumpProbeSend cell _ => cellOk cell
  | .probe p => packetOk p
  | .probeOpenRequest p => packetOk p
  | .sumpClose cell _ => cellOk cell
  | .sumpExhausted cell _ => cellOk cell
  | .sigSet p => packetOk p
  | .sigAdd p => packetOk p
  | .sigWait p => packetOk p
  | .sigWake p => packetOk p
  | .waitRetry cell ctx => cellOk cell && ctxAny ctx
  | .msgEntrySend cell => cellOk cell
  | .msg p => packetOk p
  | .msgNak p => packetOk p
  | .msgResend cell => cellOk cell
  | .segmentApply _ _ => true
  | .commitApply _ => true
  | .loadFenceDrop _ => true
  | .partialFenceFall _ => true
  | .cfgMcast port _ => portOk port
  | .mcastGapFetch _ => true
  | .holdWindowClose _ => true
  | .slipwayRecord gallery => galleryOk gallery
  | .taskBind => true
  | .taskComplete job _ => jobOk job
  | .jobComplete job tag => jobOk job && decide (tag < 2 ^ 32)
  | .jobStop job => jobOk job
  | .pageZeroingDone _ => true
  | .phaseBegin job _ => jobOk job
  | .phaseInPlace job _ => jobOk job
  | .cacheWarm job _ => jobOk job
  | .galleryPark gallery => galleryOk gallery
  | .galleryRestore gallery => galleryOk gallery
  | .engineActivate engine => engineOk engine
  | .engineChunk engine _ => engineOk engine
  | .engineComplete engine => engineOk engine
  | .dmaCopy engine _ => engineOk engine
  | .copy2d engine _ => engineOk engine
  | .scatter engine _ => engineOk engine
  | .convert engine _ => engineOk engine
  | .dmaFill engine _ => engineOk engine
  | .dmaMsg engine _ => engineOk engine
  | .allReduce engine _ => engineOk engine
  | .reduceScatter engine _ => engineOk engine
  | .allGather engine _ => engineOk engine
  | .broadcast engine _ => engineOk engine
  | .allToAll engine _ => engineOk engine
  | .reduce engine _ => engineOk engine
  | .gather engine _ => engineOk engine
  | .bag engine _ => engineOk engine
  | .sort engine _ => engineOk engine
  | .topk engine _ => engineOk engine
  | .rand engine _ => engineOk engine
  | .compress engine _ => engineOk engine
  | .decompress engine _ => engineOk engine
  | .gcmEnc engine _ => engineOk engine
  | .gcmDec engine _ => engineOk engine
  | .sha384 engine _ => engineOk engine
  | .update engine _ => engineOk engine
  | .gateEnable _ => true
  | .gateDisable => true
  | .gateVoteForm _ => true
  | .gateVote port _ => portOk port
  | .gateTimeout _ => true
  | .gateDecision port _ => portOk port
  | .gateReport port _ => portOk port
  | .heartbeatSend => true
  | .heartbeat port _ => portOk port
  | .partnerDeclare => true
  | .claimRetry => true
  | .aliasClaimResponse _ => true
  | .catchUpDone => true
  | .portEnable _ => true
  | .ident port _ _ _ => portOk port
  | .portTrainingEnd port _ => portOk port
  | .dataFlit port _ => portOk port
  | .replayBudgetExpire port => portOk port
  | .replayTimeRetrain port => portOk port
  | .portRetrainEnd port _ => portOk port
  | .fdomWrite tenant _ => tenantOk tenant
  | .put port _ => portOk port
  | .get port _ => portOk port
  | .getResp port _ => portOk port
  | .atomic port _ => portOk port
  | .atomicResp port _ => portOk port
  | .signal port _ => portOk port
  | .qmsg port _ => portOk port
  | .collFragReduce port _ => portOk port
  | .collFragGather port _ => portOk port
  | .collGrant port _ => portOk port
  | .ack port _ => portOk port
  | .nak port _ => portOk port
  | .retransmitTimeout _ _ _ _ => true
  | .busyRetry _ _ _ _ => true
  | .queueFullRetry _ _ _ _ => true
  | .rxBufferTimeout port _ => portOk port
  | .grpCommit g _ => groupOk g
  | .grpClear g => groupOk g
  | .hbmPatrol stack _ => stackOk stack
  | .pageMigrate _ => true
  | .reducedModeEntry stack _ => stackOk stack
  | .cellRetirement cell _ => cellOk cell
  | .watchdogExpire _ => true
  | .fatalStop => true
  | .cellHalt _ => true
  | .cellResume _ => true
  | .cellStep _ _ => true
  | .cellStepEnd cell => cellOk cell
  | .snapshotTake => true
  | .signalHandSet => true
  | .dbgWindowAccess _ _ _ _ => true
  | .traceCopy => true
  | .traceCopyDone => true
  | .traceEntryDrop => true
  | .streamCreditReturn _ => true
  | .ferLossOfLock port => portOk port
  | .pcieLinkRetrain _ _ _ => true
  | .sqLineSnoop fn ring _ => fnOk fn && ringOk ring
  | .atsInvalidate fn _ => fnOk fn
  | .d3hotTransition fn _ => fnOk fn
  | .vfEnable _ => true
  | .msixUnmask fn vec => fnOk fn && vecOk vec
  | .keyExchange _ _ => true
  | .challenge _ _ => true
  | .endSession _ => true
  | .keyUpdate _ => true
  | .pldmEventRead => true
  | .smbusArp _ => true
  | .jtagInstruction _ => true
  | .refclkReturn => true
  | .powerLoss => true
  | .quiesceTimeout _ => true
  | .shareBusyClear => true
  | .droopStretchEnd die => dieOk die
  | .wallSlewEnd => true

end Sys2Proof
end

