-- ==== Sys2Proof/Tests/Slice0.lean ====
section
/-!
SUPPORT. Sys2Proof/Tests/Slice0.lean: the WellFormed smoke, and for each obligation with hypotheses a concrete state and operands that
meet them (wit_<obligation>_<clause>), each clause by itself.
-/
set_option Elab.async false
namespace Sys2Proof.Tests
open Sys2Proof Sys2Proof.Machine

/-! ### Small states -/

/-- A module that has passed Stage 3, its registers zero. -/
def up : State := { State.reset with stage := 3, regs := [], ao := { State.reset.ao with perst := false, landed := true } }

/-- Words stored as 32-bit little-endian numbers from an address. -/
def put (a : Nat) (ws : List Nat) : Memory := Memory.writeBytes [] a (ws.flatMap (leBytes 4))

/-- A cell with one vector context `x` (active) at the instructions `is`. -/
def vtCell (is : List Nat) (x : VtCtx) : Cell :=
  { Cell.reset with mem := put 0 is, progCount := is.length / 2, vt := [(0, { x with st := .active })] }

/-- A context of 64 elements with an operand-cache window of 64 KiB. -/
def vx : VtCtx := { vl := 64, part := { vrCap := 128, ocSize := 64 } }

/-- The module with one cell at its site 0. -/
def withCell (c : Cell) : State := { up with cells := [(0, c)], feat := 0x1D }

/-- What an instruction at its context sees. -/
def envOf (c : Cell) : VEnv := { c := c, x := c.vtx 0, i := c.vtInstr (c.vtx 0).idx, fp32Native := true }

/-- A cell with one matrix context `x` (active) at the command of words `ws`. -/
def mtCell (ws : List Nat) (x : MtCtx) : Cell := { Cell.reset with mem := put 0 ws, cmdCount := 1, mt := [(0, { x with st := .active })] }

/-- The words of a matrix command there. -/
def mtWords (ws : List Nat) : List Nat := (mtCell ws {}).mtCmd 0

/-- An MMA of no k-steps on FP16 operands into one tile, with entry `epi` of the menu. -/
def mmaWords (epi : Nat) : List Nat := [0x01 + 2 ^ 8 + 2 ^ 14, 2 ^ 20 * epi, 2 ^ 12 + 2 ^ 22, 2 ^ 12]

/-! ### The block -/

theorem wit_IdleStepIsOneTick_1 : ∃ s : State, s.pending = [] ∧ s.time.running = true :=
  ⟨{ up with time := { up.time with running := true } }, by decide⟩

theorem wit_IdleStepIsOneTick_2 : ∃ s : State, s.pending = [] ∧ s.time.running = false :=
  ⟨{ up with time := { up.time with running := false } }, by decide⟩

theorem wit_FatalStopLasts : ∃ s t : State, s.Stopped ∧ Machine.step s = .next t :=
  ⟨{ up with fatal := true }, _, ⟨rfl, rfl, rfl, rfl, rfl, fun _ h => nomatch h⟩, rfl⟩

theorem wit_FatalStopEndsAllWork : ∃ s : State, s.fatal = false ∧ ∀ c ∈ s.pending, endsFatal c = false :=
  ⟨up, rfl, fun _ h => nomatch h⟩

/-! ### Vector tiles -/

/-- One instruction's words for every element-wise, mask and reduction opcode: the fields each fixes hold what R130 to R142 fix. -/
def vecWords : List (Nat × Nat) :=
  [0x20, 0x21, 0x22, 0x23, 0x24, 0x25, 0x26, 0x27, 0x28, 0x29, 0x2A, 0x2B, 0x2C, 0x30, 0x31, 0x32, 0x33, 0x34, 0x35, 0x38, 0x39, 0x3A,
    0x3B, 0x3C, 0x3D, 0x3E, 0x41, 0x42, 0x48, 0x49, 0x4A, 0x4B, 0x4C, 0x4D, 0x4E, 0x4F, 0x50, 0x51, 0x52, 0x53, 0x54, 0x58, 0x59, 0x5A,
    0x5B, 0x60, 0x61, 0x62, 0x63, 0x68, 0x69, 0x6A, 0x6B, 0x6C].map (fun op => (op, op)) ++ [(0x40, 0x40 + 2 ^ 24)]

/-- Every opcode of the element-wise, mask and reduction statements is met by a context that stands at it. -/
theorem wit_Vector : ∀ p ∈ vecWords, (withCell (vtCell [p.2, 0] vx)).vtAt 0 0 (envOf (vtCell [p.2, 0] vx))
    ∧ (envOf (vtCell [p.2, 0] vx)).i.op = p.1 := by unfold State.vtAt; decide +kernel

/-- The same for the control instructions, LOOP standing after its target. -/
theorem wit_VectorControl : ∀ p ∈ [(0x04, [0x04, 1]), (0x05, [0x05, 1]), (0x06, [0x06, 1]), (0x07, [0x07, 1]), (0x08, [0x08, 0])],
    (withCell (vtCell p.2 vx)).vtAt 0 0 (envOf (vtCell p.2 vx)) ∧ (envOf (vtCell p.2 vx)).i.op = p.1 := by unfold State.vtAt; decide +kernel

theorem wit_VectorControl_loop : (withCell (vtCell [0x0A, 0, 0x03, 2] { vx with idx := 1 })).vtAt 0 0
    (envOf (vtCell [0x0A, 0, 0x03, 2] { vx with idx := 1 })) ∧ (envOf (vtCell [0x0A, 0, 0x03, 2] { vx with idx := 1 })).i.op = 0x03 := by unfold State.vtAt; decide +kernel

theorem wit_VectorControlInstructions_1 : ∃ (s : State) (cell ctx : Nat) (e : VEnv) (j : Nat),
    s.vtAt cell ctx e ∧ e.i.op = 0x00 ∧ e.x.retired = true ∧ e.x.job = some j :=
  ⟨withCell (vtCell [0, 0] { vx with job := some 7 }), 0, 0, envOf (vtCell [0, 0] { vx with job := some 7 }), 7, by unfold State.vtAt; decide +kernel⟩

theorem wit_VectorControlInstructions_2 : ∃ (s : State) (cell ctx : Nat) (e : VEnv),
    s.vtAt cell ctx e ∧ e.i.op = 0x00 ∧ e.x.retired = true ∧ e.x.job = none :=
  ⟨withCell (vtCell [0, 0] vx), 0, 0, envOf (vtCell [0, 0] vx), by unfold State.vtAt; decide +kernel⟩

theorem wit_VectorControlInstructions_3 : ∃ (s : State) (cell ctx : Nat) (e : VEnv), s.vtAt cell ctx e ∧ e.i.op = 0x00 ∧ e.x.retired = false :=
  ⟨withCell (vtCell [0, 0] { vx with epis := [{ tile := 3, mma := 0, acks := 1 }] }), 0, 0, envOf (vtCell [0, 0] { vx with epis := [{ tile := 3, mma := 0, acks := 1 }] }), by unfold State.vtAt; decide +kernel⟩

theorem wit_VectorControlInstructions_4 : ∃ (s : State) (cell ctx : Nat) (e : VEnv), s.vtAt cell ctx e ∧ e.i.op = 0x01 :=
  ⟨withCell (vtCell [0x3FFF01, 5] vx), 0, 0, envOf (vtCell [0x3FFF01, 5] vx), by unfold State.vtAt; decide +kernel⟩

theorem wit_VectorControlInstructions_5 : ∃ (s : State) (cell ctx : Nat) (e : VEnv), s.vtAt cell ctx e ∧ e.i.op = 0x02 ∧ e.x.retired = true :=
  ⟨withCell (vtCell [0x3FFF02, 5] vx), 0, 0, envOf (vtCell [0x3FFF02, 5] vx), by unfold State.vtAt; decide +kernel⟩

theorem wit_VectorControlInstructions_6 : ∃ (s : State) (cell ctx : Nat) (e : VEnv), s.vtAt cell ctx e ∧ e.i.op = 0x02 ∧ e.x.retired = false :=
  ⟨withCell (vtCell [2, 5] { vx with epis := [{ tile := 3, mma := 0, acks := 1 }] }), 0, 0, envOf (vtCell [2, 5] { vx with epis := [{ tile := 3, mma := 0, acks := 1 }] }), by unfold State.vtAt; decide +kernel⟩

theorem wit_VectorControlInstructions_7 : ∃ (s : State) (cell ctx : Nat) (e : VEnv), s.vtAt cell ctx e ∧ e.i.op = 0x0A ∧ e.x.xfers = [] :=
  ⟨withCell (vtCell [0x0A, 0] vx), 0, 0, envOf (vtCell [0x0A, 0] vx), by unfold State.vtAt; decide +kernel⟩

/-- An XFER of 64 bytes, from or to the memory tile. -/
def anXfer (toMem : Bool) : Xfer := { local_ := 0, memt := 0x40, len := 64, toMem := toMem }

theorem wit_VectorControlInstructions_8 : ∃ (s : State) (cell ctx : Nat) (e : VEnv), s.vtAt cell ctx e ∧ e.i.op = 0x0A ∧ e.x.xfers ≠ [] :=
  ⟨withCell (vtCell [0x0A, 0] { vx with xfers := [anXfer true] }), 0, 0, envOf (vtCell [0x0A, 0] { vx with xfers := [anXfer true] }),
    by unfold State.vtAt; decide +kernel⟩

theorem wit_VectorLoadsAndStores_vld : ∃ (s : State) (cell ctx : Nat) (e : VEnv), s.vtAt cell ctx e ∧ e.i.op = 0x10 ∧ e.ea % e.elAlign = 0
    ∧ e.x.inWindow e.ea (e.span e.f.width) = true ∧ e.x.xferOverlaps e.ea (e.span e.f.width) = false
    ∧ e.c.localBad e.ea (e.span e.f.width) = none :=
  ⟨withCell (vtCell [0x10, 64] vx), 0, 0, envOf (vtCell [0x10, 64] vx), by unfold State.vtAt; decide +kernel⟩

theorem wit_VectorLoadsAndStores_vldb : ∃ (s : State) (cell ctx : Nat) (e : VEnv), s.vtAt cell ctx e ∧ e.i.op = 0x12
    ∧ e.ea % 64 = 0 ∧ e.x.inWindow e.ea (e.span e.f.width) = true ∧ e.x.xferOverlaps e.ea (e.span e.f.width) = false
    ∧ e.c.localBad e.ea (e.span e.f.width) = none ∧ e.sa % 64 = 0 ∧ e.x.inWindow e.sa (e.x.vl / e.blk) = true
    ∧ e.x.xferOverlaps e.sa (e.x.vl / e.blk) = false ∧ e.c.localBad e.sa (e.x.vl / e.blk) = none :=
  ⟨withCell (vtCell [0x12 + 2 ^ 14 + 3 * 2 ^ 24, 0] vx), 0, 0, envOf (vtCell [0x12 + 2 ^ 14 + 3 * 2 ^ 24, 0] vx), by unfold State.vtAt; decide +kernel⟩

theorem wit_VectorLoadsAndStores_mld : ∃ (s : State) (cell ctx : Nat) (e : VEnv), s.vtAt cell ctx e ∧ e.i.op = 0x14
    ∧ e.x.inWindow e.ea (e.span 1) = true ∧ e.x.xferOverlaps e.ea (e.span 1) = false ∧ e.c.localBad e.ea (e.span 1) = none :=
  ⟨withCell (vtCell [0x14, 3] vx), 0, 0, envOf (vtCell [0x14, 3] vx), by unfold State.vtAt; decide +kernel⟩

theorem wit_VectorLoadsAndStores_vst : ∃ (s : State) (cell ctx : Nat) (e : VEnv), s.vtAt cell ctx e ∧ e.i.op = 0x11
    ∧ e.ea % e.elAlign = 0 ∧ e.x.inWindow e.ea ((e.f.width * e.x.vl + 7) / 8) = true
    ∧ e.x.xferOverlaps e.ea ((e.f.width * e.x.vl + 7) / 8) = false :=
  ⟨withCell (vtCell [0x11, 64] vx), 0, 0, envOf (vtCell [0x11, 64] vx), by unfold State.vtAt; decide +kernel⟩

theorem wit_VectorLoadsAndStores_mst : ∃ (s : State) (cell ctx : Nat) (e : VEnv), s.vtAt cell ctx e ∧ e.i.op = 0x15
    ∧ e.ea % 1 = 0 ∧ e.x.inWindow e.ea ((1 * e.x.vl + 7) / 8) = true ∧ e.x.xferOverlaps e.ea ((1 * e.x.vl + 7) / 8) = false :=
  ⟨withCell (vtCell [0x15, 3] { vx with vl := 7 }), 0, 0, envOf (vtCell [0x15, 3] { vx with vl := 7 }), by unfold State.vtAt; decide +kernel⟩

theorem wit_VectorBlocks_vstq : ∃ (s : State) (cell ctx : Nat) (e : VEnv), s.vtAt cell ctx e ∧ e.i.op = 0x13
    ∧ e.localCheck e.ea (e.span e.f.width) 64 false = .done ∧ e.localCheck e.sa (e.x.vl / e.blk) 64 false = .done :=
  ⟨withCell (vtCell [0x13 + 2 ^ 14 + 3 * 2 ^ 24, 0] vx), 0, 0, envOf (vtCell [0x13 + 2 ^ 14 + 3 * 2 ^ 24, 0] vx), by unfold State.vtAt; decide +kernel⟩

/-- Two stream words stand in channel 0 of a cell at VRECV. -/
def recvCell : Cell :=
  { vtCell [0x16, 0] { vx with vl := 32 } with
    chanCfg := [(0, 8 * 2 ^ 6)]
    chans := [(0, { fifo := [{ data := List.replicate 128 1#8, eor := true, circuit := 0, job := none }] })] }

theorem wit_VectorBlocks_vrecv : ∃ (s : State) (cell ctx : Nat) (e : VEnv) (c : Cell) (rx : List Byte) (cr : List Nat), s.vtAt cell ctx e
    ∧ e.i.op = 0x16
    ∧ e.c.takeStream (e.i.imm % 32) e.x.rx (128 * ceilDiv (e.span e.f.width) 128) (min 2 (ceilDiv (e.span e.f.width) 128)) = (c, rx, cr)
    ∧ 128 * ceilDiv (e.span e.f.width) 128 ≤ rx.length :=
  ⟨withCell recvCell, 0, 0, envOf recvCell, (recvCell.takeStream 0 [] 128 1).1, (recvCell.takeStream 0 [] 128 1).2.1,
    (recvCell.takeStream 0 [] 128 1).2.2, by unfold State.vtAt; decide +kernel⟩

theorem wit_VectorBlocks_vsend : ∃ (s : State) (cell ctx : Nat) (e : VEnv) (c : Cell), (s.roomCell cell).vtAt cell ctx e ∧ e.i.op = 0x17
    ∧ e.x.sending = false ∧ ∃ ws : List SWord, ws = toWords (32 * cell + e.i.imm % 32) e.x.job (packElems e.f.width
        ((List.range e.x.vl).map (fun j => e.chosen j 0 (storeElem e.f e.i.mode e.i.sat (e.r16 j) (e.reg e.i.vd j)).1 0)))
    ∧ stageWords ws.length e.c (ws.map (fun w => (e.i.imm % 32, w))) = (c, []) :=
  ⟨withCell (vtCell [0x17, 0] { vx with vl := 32 }), 0, 0, envOf (vtCell [0x17, 0] { vx with vl := 32 }),
    (stageWords 1 (vtCell [0x17, 0] { vx with vl := 32 }) [(0, { data := List.replicate 128 0#8, eor := true, circuit := 0, job := none })]).1,
    by unfold State.vtAt; decide +kernel, by decide +kernel, rfl, _, rfl, by decide +kernel⟩

theorem wit_VectorBlocks_xfer : ∃ (s : State) (cell ctx : Nat) (e : VEnv) (t : Xfer), s.vtAt cell ctx e ∧ e.i.op = 0x18 ∧ e.x.xfers.length < 4
    ∧ t = { local_ := e.areg e.i.ar, memt := e.areg (e.i.ar ^^^ 1), len := 64 * (e.i.imm % 512 + 1), toMem := e.i.dir }
    ∧ e.xferCheck t = .done :=
  ⟨withCell (vtCell [0x18, 0] { vx with a1 := 0x1000, xfers := [anXfer true, anXfer true, anXfer true] }), 0, 0,
    envOf (vtCell [0x18, 0] { vx with a1 := 0x1000, xfers := [anXfer true, anXfer true, anXfer true] }), _,
    by unfold State.vtAt; decide +kernel, by decide +kernel, by decide +kernel, rfl, by decide +kernel⟩

theorem wit_VectorBlocks_complete_1 : ∃ (s : State) (cell ctx : Nat) (t : Xfer) (ts : List Xfer), s.fatal = false ∧ s.cellOpen cell = true
    ∧ ((s.cell cell).vtx ctx).xfers = t :: ts ∧ t.toMem = true ∧ (s.cell cell).localBad t.local_ t.len = none :=
  ⟨withCell (vtCell [0, 0] { vx with xfers := [anXfer true] }), 0, 0, anXfer true, [], by decide +kernel⟩

theorem wit_VectorBlocks_complete_2 : ∃ (s : State) (cell ctx : Nat) (t : Xfer) (ts : List Xfer) (b l : Nat) (c : Cell), s.fatal = false
    ∧ s.cellOpen cell = true ∧ ((s.cell cell).vtx ctx).xfers = t :: ts ∧ t.toMem = false ∧ (b, l) = wideSpan t.memt t.len
    ∧ c = ((s.cell cell).setVtx ctx { (s.cell cell).vtx ctx with xfers := ts }).sense b l ∧ c.poisoned b l = [] :=
  ⟨withCell (vtCell [0, 0] { vx with xfers := [anXfer false] }), 0, 0, anXfer false, [], 0, 256, _,
    by decide, by decide, by decide, rfl, by decide, rfl, by decide +kernel⟩

/-- A read error of a local granule is met with what it left. -/
theorem wit_VectorLoadsAndStores_error : ∃ s : State, s.fatal = false := ⟨up, rfl⟩

/-- A finished tile in the queue. -/
def aTile : FtqEntry :=
  { id := 3, mctx := 0, tile := [], lo := none, tag := 0, epi := 0, rowBlk := 0, colBlk := 0, cmd := mmaWords 0, mma := 0, job := none }

theorem wit_EpilogueAndVectorSwitch_1 : ∃ (s : State) (cell ctx : Nat) (e : VEnv) (q : FtqEntry) (o : EpiOut), s.vtAt cell ctx e
    ∧ e.i.op = 0x09 ∧ e.c.ftq.find? (fun q => q.mctx == ctx && !q.taken) = some q
    ∧ epilogueRun cell s.arrFeat (s.epiTarget cell) q e.c e.x (e.i.imm % 65536) = o ∧ o.fin = .done
    ∧ (∀ r, r ∈ o.peers → s.ferGood (s.cell cell).owner r.tc (if r.data.length % 16 = 0 ∧ r.tva % 16 = 0 then 0 else 1) = true) :=
  ⟨withCell { vtCell [0x09, 0] vx with ftq := [aTile] }, 0, 0, envOf { vtCell [0x09, 0] vx with ftq := [aTile] }, aTile, _,
    by unfold State.vtAt; decide +kernel, by decide +kernel, rfl, rfl, by decide +kernel, by decide +kernel⟩

theorem wit_EpilogueAndVectorSwitch_2 : ∃ (s : State) (cell ctx : Nat) (e : VEnv), s.vtAt cell ctx e ∧ e.i.op = 0x09
    ∧ e.c.ftq.find? (fun q => q.mctx == ctx && !q.taken) = none :=
  ⟨withCell (vtCell [0x09, 0] vx), 0, 0, envOf (vtCell [0x09, 0] vx), by unfold State.vtAt; decide +kernel⟩

theorem wit_EpilogueAndVectorSwitch_3 : ∃ (s t : State) (cell ctx id : Nat) (x : VtCtx) (c : Cell), s.fatal = false ∧ t = s.roomCell cell
    ∧ t.cellOpen cell = true ∧ x = (t.cell cell).vtx ctx ∧ x.epi = some id ∧ stageWords x.tx.length (t.cell cell) x.tx = (c, []) :=
  ⟨withCell { vtCell [0x09, 0] { vx with epi := some 3 } with ftq := [aTile] }, _, 0, 0, 3, _,
    ((withCell { vtCell [0x09, 0] { vx with epi := some 3 } with ftq := [aTile] }).roomCell 0).cell 0,
    by decide, rfl, by decide +kernel, rfl, by decide +kernel, by decide +kernel⟩

/-- Two contexts, the second READY, the first waiting. -/
def waitCell : Cell := { Cell.reset with vt := [(0, { vx with st := .wait }), (1, { vx with st := .ready })]
                                         mt := [(0, { st := .wait }), (3, { st := .ready })] }

theorem wit_EpilogueAndVectorSwitch_4 : ∃ (s : State) (cell k : Nat), s.fatal = false ∧ s.cellRuns cell = true
    ∧ ((s.cell cell).vtx (s.cell cell).vtSel).epi = none
    ∧ (s.cell cell).vtState s.arrFeat (s.cell cell).vtSel ≠ .ready ∧ (s.cell cell).vtState s.arrFeat (s.cell cell).vtSel ≠ .active
    ∧ nextCtx (s.cell cell).vtSel (fun k => (s.cell cell).vtState s.arrFeat k == .ready) = some k :=
  ⟨withCell waitCell, 0, 1, by decide +kernel⟩

/-! ### Matrix tiles -/

theorem wit_MatrixControlCommands_1 : ∃ (s : State) (cell ctx : Nat) (w : List Nat), s.mtAt cell ctx 2 w :=
  ⟨withCell (mtCell [0x02, 5] {}), 0, 0, mtWords [0x02, 5], by unfold State.mtAt; decide +kernel⟩

theorem wit_MatrixControlCommands_2 : ∃ (s : State) (cell ctx : Nat) (w : List Nat), s.mtAt cell ctx 3 w ∧ ((s.cell cell).mtx ctx).mmas = [] :=
  ⟨withCell (mtCell [0x03, 5] {}), 0, 0, mtWords [0x03, 5], by unfold State.mtAt; decide +kernel⟩

/-- An MMA with a tile still to be handed over. -/
def anMma (n : Nat) : MmaRec := { id := 0, cmd := 0, toHand := n, inEpi := 0, acks := 0 }

theorem wit_MatrixControlCommands_3 : ∃ (s : State) (cell ctx : Nat) (w : List Nat), s.mtAt cell ctx 3 w ∧ ((s.cell cell).mtx ctx).mmas ≠ [] :=
  ⟨withCell (mtCell [0x03, 5] { mmas := [anMma 1] }), 0, 0, mtWords [0x03, 5], by unfold State.mtAt; decide +kernel⟩

/-- A cell whose context stands at a LOOP after a command, with a count. -/
def loopCell (n : Nat) : Cell :=
  { Cell.reset with mem := put 64 [0x04, n], cmdCount := 2, mt := [(0, { st := .active, ptr := 1 })] }

theorem wit_MatrixControlCommands_4 : ∃ (s : State) (cell ctx : Nat) (w : List Nat), s.mtAt cell ctx 4 w
    ∧ ((if ((s.cell cell).mtx ctx).loopCtr = 0 then w.getD 1 0 else ((s.cell cell).mtx ctx).loopCtr) - 1 ≠ 0) :=
  ⟨withCell (loopCell 2), 0, 0, (loopCell 2).mtCmd 1, by unfold State.mtAt; decide +kernel⟩

theorem wit_MatrixControlCommands_5 : ∃ (s : State) (cell ctx : Nat) (w : List Nat), s.mtAt cell ctx 4 w
    ∧ ((if ((s.cell cell).mtx ctx).loopCtr = 0 then w.getD 1 0 else ((s.cell cell).mtx ctx).loopCtr) - 1 = 0) :=
  ⟨withCell (loopCell 1), 0, 0, (loopCell 1).mtCmd 1, by unfold State.mtAt; decide +kernel⟩

theorem wit_MatrixControlCommands_6 : ∃ (s : State) (cell ctx : Nat) (w : List Nat) (j : Nat), s.mtAt cell ctx 0 w
    ∧ ((s.cell cell).mtx ctx).mmas = [] ∧ ((s.cell cell).mtx ctx).job = some j :=
  ⟨withCell (mtCell [0, 0] { job := some 7 }), 0, 0, mtWords [0, 0], 7, by unfold State.mtAt; decide +kernel⟩

theorem wit_MatrixControlCommands_7 : ∃ (s : State) (cell ctx : Nat) (w : List Nat), s.mtAt cell ctx 0 w
    ∧ ((s.cell cell).mtx ctx).mmas = [] ∧ ((s.cell cell).mtx ctx).job = none :=
  ⟨withCell (mtCell [0, 0] {}), 0, 0, mtWords [0, 0], by unfold State.mtAt; decide +kernel⟩

theorem wit_MatrixControlCommands_8 : ∃ (s : State) (cell ctx : Nat) (w : List Nat), s.mtAt cell ctx 0 w ∧ ((s.cell cell).mtx ctx).mmas ≠ [] :=
  ⟨withCell (mtCell [0, 0] { mmas := [anMma 1] }), 0, 0, mtWords [0, 0], by unfold State.mtAt; decide +kernel⟩

/-- What the MMA of a cell's context makes of its tile. -/
def tileOf (c : Cell) (w : List Nat) : Cell × MtCtx × TileEnd × List Nat :=
  ((withCell c).mtCell 0 0).mmaTile (Mma.ofWords w) .fp16 .fp16 .unblocked .unblocked { (((withCell c).cell 0).mtx 0).take 1 w with st := .active } 0

/-- What the first clause asks of an MMA whose tile ends as `z`. -/
def tileWitness (z : TileEnd) : Prop := ∃ (s u : State) (cell ctx : Nat) (w : List Nat) (fa fb : Fmt) (la lb : Layout) (c : Cell) (x : MtCtx)
  (cr : List Nat) (draw : Nat), s.mtAt cell ctx 1 w ∧ (Mma.ofWords w).types s.arrFeat.mx16 = some (fa, fb, la, lb)
    ∧ (((s.cell cell).mtx ctx).take 1 w).cannotRun (Mma.ofWords w) = false ∧ s.raceDraw (((s.cell cell).mtx ctx).take 1 w) = (draw, u)
    ∧ (s.mtCell cell ctx).mmaTile (Mma.ofWords w) fa fb la lb { ((s.cell cell).mtx ctx).take 1 w with st := .active } draw = (c, x, z, cr)
    ∧ x.stopping = false

theorem wit_MatrixTiles_1 : tileWitness .done ∧ (Mma.ofWords (mtWords (mmaWords 0))).epi ≠ 0xFF :=
  ⟨⟨withCell (mtCell (mmaWords 0) { begun := true }), withCell (mtCell (mmaWords 0) { begun := true }), 0, 0, mtWords (mmaWords 0), .fp16, .fp16, .unblocked, .unblocked, (tileOf (mtCell (mmaWords 0) { begun := true }) (mtWords (mmaWords 0))).1,
    (tileOf (mtCell (mmaWords 0) { begun := true }) (mtWords (mmaWords 0))).2.1, (tileOf (mtCell (mmaWords 0) { begun := true }) (mtWords (mmaWords 0))).2.2.2, 0, by unfold State.mtAt; decide +kernel, by decide +kernel⟩, by decide +kernel⟩

theorem wit_MatrixTiles_2 : tileWitness .done ∧ (Mma.ofWords (mtWords (mmaWords 0xFF))).epi = 0xFF :=
  ⟨⟨withCell (mtCell (mmaWords 0xFF) { begun := true }), withCell (mtCell (mmaWords 0xFF) { begun := true }), 0, 0, mtWords (mmaWords 0xFF), .fp16, .fp16, .unblocked, .unblocked, (tileOf (mtCell (mmaWords 0xFF) { begun := true }) (mtWords (mmaWords 0xFF))).1,
    (tileOf (mtCell (mmaWords 0xFF) { begun := true }) (mtWords (mmaWords 0xFF))).2.1, (tileOf (mtCell (mmaWords 0xFF) { begun := true }) (mtWords (mmaWords 0xFF))).2.2.2, 0, by unfold State.mtAt; decide +kernel, by decide +kernel⟩, by decide +kernel⟩

/-- An MMA of 32 k-steps whose operands' region is not ready. -/
def lateCell : Cell := { mtCell [0x01 + 2 ^ 8 + 2 ^ 14, 32, 2 ^ 12 + 2 ^ 22, 2 ^ 12, 16, 32] { begun := true } with ready := 0 }

theorem wit_MatrixTiles_3 : tileWitness .late :=
  ⟨withCell (lateCell), withCell (lateCell), 0, 0, lateCell.mtCmd 0, .fp16, .fp16, .unblocked, .unblocked, (tileOf (lateCell) (lateCell.mtCmd 0)).1,
    (tileOf (lateCell) (lateCell.mtCmd 0)).2.1, (tileOf (lateCell) (lateCell.mtCmd 0)).2.2.2, 0, by unfold State.mtAt; decide +kernel, by decide +kernel⟩

/-- A context with a finished tile, before a queue that holds `q`. -/
def doneCell (q : List FtqEntry) : Cell := { mtCell (mmaWords 0) { finished := true, mmas := [anMma 1], cmd := some (mtWords (mmaWords 0)) } with ftq := q }

theorem wit_MatrixTiles_4 : ∃ (s : State) (cell ctx : Nat) (w : List Nat) (c : Cell) (x : MtCtx) (m : Mma), s.fatal = false
    ∧ s.cellRuns cell = true ∧ c = s.cell cell ∧ x = c.mtx ctx ∧ m = Mma.ofWords w ∧ x.cmd = some w
    ∧ x.finished = true ∧ (c.vtx ctx).st ≠ .faulted ∧ (c.vtx ctx).stopping = false ∧ 2 < c.ftqUsed + (if m.pair && bit m.epi 6 then 2 else 1) :=
  ⟨withCell (doneCell [aTile, aTile]), 0, 0, mtWords (mmaWords 0), _, _, _, by decide, by decide +kernel, rfl, rfl, rfl, by decide +kernel⟩

theorem wit_MatrixTiles_5 : ∃ (s : State) (cell ctx : Nat) (w : List Nat) (c : Cell) (x : MtCtx) (m : Mma), s.fatal = false
    ∧ s.cellRuns cell = true ∧ c = s.cell cell ∧ x = c.mtx ctx ∧ m = Mma.ofWords w ∧ x.cmd = some w
    ∧ x.finished = true ∧ (c.vtx ctx).st ≠ .faulted ∧ (c.vtx ctx).stopping = false ∧ c.ftqUsed + (if m.pair && bit m.epi 6 then 2 else 1) ≤ 2 :=
  ⟨withCell (doneCell [aTile]), 0, 0, mtWords (mmaWords 0), _, _, _, by decide, by decide +kernel, rfl, rfl, rfl, by decide +kernel⟩

theorem wit_MatrixTiles_6 : ∃ (s : State) (cell ctx : Nat) (c : Cell) (x : MtCtx) (r : MmaRec) (rs : List MmaRec), s.fatal = false
    ∧ c = s.cell cell ∧ x = c.mtx ctx ∧ x.mmas = r :: rs ∧ r.toHand = 0 ∧ r.inEpi = 0 ∧ r.acks = 0 :=
  ⟨withCell (mtCell [0, 0] { mmas := [anMma 0] }), 0, 0, _, _, anMma 0, [], by decide, rfl, rfl, by decide +kernel, rfl, rfl, rfl⟩

/-- What a context that is LATE stages. -/
def stageOf (c : Cell) : Cell × MtCtx × TileEnd × List Nat := ((withCell c).mtCell 0 0).mtStage (withCell c).arrFeat (((withCell c).cell 0).mtx 0) 0

/-- What the clause on MT_CONTEXT_READY asks of a context whose staging ends as `z`. -/
def stageWitness (z : TileEnd) : Prop := ∃ (s u : State) (cell ctx draw : Nat) (c : Cell) (x : MtCtx) (cr : List Nat), s.fatal = false
    ∧ s.cellRuns cell = true ∧ ((s.cell cell).mtx ctx).st = .late ∧ s.raceDraw ((s.cell cell).mtx ctx) = (draw, u)
    ∧ (s.mtCell cell ctx).mtStage u.arrFeat ((s.cell cell).mtx ctx) draw = (c, x, z, cr)

theorem wit_MatrixTiles_7 : stageWitness .done :=
  let c := { mtCell (mmaWords 0) {} with mt := [(0, { st := .late })] }
  ⟨withCell c, withCell c, 0, 0, 0, (stageOf c).1, (stageOf c).2.1, (stageOf c).2.2.2, by decide +kernel⟩

theorem wit_MatrixTiles_9 : stageWitness .late :=
  let c := { lateCell with mt := [(0, { st := .late })] }
  ⟨withCell c, withCell c, 0, 0, 0, (stageOf c).1, (stageOf c).2.1, (stageOf c).2.2.2, by decide +kernel⟩

theorem wit_MatrixTiles_8 : ∃ (s : State) (cell k : Nat), s.fatal = false ∧ s.cellRuns cell = true
    ∧ ((s.cell cell).mtx (s.cell cell).mtSel).st ≠ .ready ∧ ((s.cell cell).mtx (s.cell cell).mtSel).st ≠ .active
    ∧ nextCtx (s.cell cell).mtSel (fun k => ((s.cell cell).mtx k).st == .ready) = some k :=
  ⟨withCell waitCell, 0, 3, by decide +kernel⟩

/-! ### Memory tiles, control requests and responses -/

/-- A packet of the loader, or another class, from Hub N to cell 0. -/
def pk (b : Body) : Packet := { src := hubN, dst := 0, tenant := 0, cls := .loader, share := 16, tag := 0, body := b }
def pkHost (b : Body) : Packet := { pk b with cls := .cache }

/-- Cell 0 and packets in flight to it. -/
def meets (c : Cell) (p : Packet) : State := { withCell c with flight := [p] }

theorem wit_MemoryTileReadsAndWrites_1 : ∃ (s t u : State) (p : Packet) (a n : Nat) (found : List (Nat × Bool)), s.cellMeets p
    ∧ p.body = .rd a n ∧ t = (s.setCell p.dst ((s.cell p.dst).arise a found)).arrived p ∧ t.ownerAdmits p.dst p = true
    ∧ meshRangeOk a n = true ∧ u = t.memtSense p.dst a n ∧ (u.cell p.dst).poisoned a n = [] :=
  ⟨meets {} (pk (.rd 1048512 64)), _, _, pk (.rd 1048512 64), 1048512, 64, [(0, false)], by unfold State.cellMeets; decide +kernel, rfl, rfl,
    by decide +kernel, by decide +kernel, rfl, by decide +kernel⟩

theorem wit_MemoryTileReadsAndWrites_2 : ∃ (s t : State) (p : Packet) (a n : Nat), s.cellMeets p ∧ p.body = .rd a n
    ∧ t = (s.setCell p.dst ((s.cell p.dst).arise a [])).arrived p ∧ t.ownerAdmits p.dst p = false :=
  ⟨meets {} (pkHost (.rd 1048568 8)), _, pkHost (.rd 1048568 8), 1048568, 8, by unfold State.cellMeets; decide +kernel, rfl, rfl, by decide +kernel⟩

theorem wit_MemoryTileReadsAndWrites_3 : ∃ (s t : State) (p : Packet) (a : Nat) (bs : List Byte), s.cellMeets p ∧ p.body = .wr a bs
    ∧ t = s.arrived p ∧ t.ownerAdmits p.dst p = true ∧ meshRangeOk a bs.length = true :=
  ⟨meets {} (pk (.wr 1048575 [1#8])), _, pk (.wr 1048575 [1#8]), 1048575, [1#8], by unfold State.cellMeets; decide +kernel, rfl, rfl,
    by decide +kernel⟩

theorem wit_MemoryTileReadsAndWrites_4 : ∃ (s t : State) (p : Packet) (a : Nat) (bs : List Byte), s.cellMeets p ∧ p.body = .wr a bs
    ∧ t = s.arrived p ∧ t.ownerAdmits p.dst p = false :=
  ⟨meets {} (pkHost (.wr 0 [1#8])), _, pkHost (.wr 0 [1#8]), 0, [1#8], by unfold State.cellMeets; decide +kernel, rfl, rfl, by decide +kernel⟩

/-- A packet to the slice of stack 0. -/
def pkSlice (b : Body) : Packet := { pk b with dst := 0x900 }

theorem wit_MemoryTileReadsAndWrites_5 : ∃ (s t : State) (p : Packet) (a n : Nat) (bs : List Byte) (st : MStatus), s.fatal = false
    ∧ s.goodCell p.dst = false ∧ s.goodNode p.dst = true ∧ s.mayArrive p = true ∧ p.body = .rd a n ∧ s.sliceServes p a n = true
    ∧ ((s.arrived p).sliceFound a []).sliceRead p a n = (st, bs, t)
    ∧ 0x900 ≤ p.dst ∧ p.dst = 0x900 + stackOf a ∧ a < 2 ^ 39 ∧ 0 < n ∧ n ≤ 256 :=
  ⟨up, _, pkSlice (.rd 0 256), 0, 256, _, _, by decide +kernel, by decide +kernel, by decide +kernel, by decide +kernel, rfl, by decide +kernel, rfl,
    by decide +kernel⟩

theorem wit_MemoryTileReadsAndWrites_6 : ∃ (s t : State) (p : Packet) (a : Nat) (bs : List Byte) (st : MStatus), s.fatal = false
    ∧ s.goodCell p.dst = false ∧ s.goodNode p.dst = true ∧ s.mayArrive p = true ∧ p.body = .wr a bs ∧ s.sliceServes p a bs.length = true
    ∧ (s.arrived p).sliceWrite p a bs = (st, t) :=
  ⟨up, _, pkSlice (.wr 0 [1#8]), 0, [1#8], _, by decide +kernel, by decide +kernel, by decide +kernel, by decide +kernel, rfl, by decide +kernel, rfl⟩

/-- FILL and COPY payloads of 64 bytes at 0x1000. -/
def fillBytes : List Byte := [1, 0x1000, 0, 64, 0x55, 0, 0, 0].flatMap (leBytes 4)
def copyBytes : List Byte := [2, 0x1000, 0x2000, 64, 0, 0, 0, 0].flatMap (leBytes 4)

/-- What the first clause asks of a payload of operation `op`. -/
def fillWitness (op : Nat) : Prop := ∃ (s t : State) (p : Packet) (b : List Byte), s.cellMeets p ∧ p.body = .mtOp b
  ∧ (s.cell p.dst).mtOps.length < 5 ∧ t = s.arrived p ∧ t.ownerAdmits p.dst p = true ∧ fillCopyOk b = true ∧ (FillCopy.ofBytes b).op = op

theorem wit_FillAndCopyOperations_1 : fillWitness 1 :=
  ⟨meets { mtOps := List.replicate 4 (pk (.mtOp fillBytes)) } (pk (.mtOp fillBytes)), _, pk (.mtOp fillBytes), fillBytes,
    by unfold State.cellMeets; decide +kernel, rfl, by decide +kernel, rfl, by decide +kernel⟩

theorem wit_FillAndCopyOperations_2 : fillWitness 2 :=
  ⟨meets {} (pk (.mtOp copyBytes)), _, pk (.mtOp copyBytes), copyBytes, by unfold State.cellMeets; decide +kernel, rfl, by decide +kernel, rfl,
    by decide +kernel⟩

theorem wit_FillAndCopyOperations_3 : ∃ (s : State) (cell : Nat) (p : Packet) (rest : List Packet) (b : List Byte) (f : FillCopy),
    s.fatal = false ∧ s.cellOpen cell = true ∧ (s.cell cell).mtOps = p :: rest ∧ p.body = .mtOp b ∧ f = FillCopy.ofBytes b ∧ f.op = 1 :=
  ⟨withCell { mtOps := [pk (.mtOp fillBytes)] }, 0, pk (.mtOp fillBytes), [], fillBytes, _, by decide, by decide +kernel, rfl, rfl, rfl,
    by decide +kernel⟩

theorem wit_FillAndCopyOperations_4 : ∃ (s u : State) (cell : Nat) (p : Packet) (rest : List Packet) (b : List Byte) (f : FillCopy),
    s.fatal = false ∧ s.cellOpen cell = true ∧ (s.cell cell).mtOps = p :: rest ∧ p.body = .mtOp b ∧ f = FillCopy.ofBytes b ∧ f.op = 2
    ∧ u = s.memtSense cell f.src f.len ∧ (u.cell cell).poisoned f.src f.len = [] :=
  ⟨withCell { mtOps := [pk (.mtOp copyBytes)] }, _, 0, pk (.mtOp copyBytes), [], copyBytes, _, by decide, by decide +kernel, rfl, rfl, rfl,
    by decide +kernel, rfl, by decide +kernel⟩

/-- Every request at a cell, of a class that may send it and of one that may not. -/
theorem wit_ControlRequests_1 : ∀ q ∈ [CtrlReq.readySet 15, .readyClear 0, .fence, .unfence 16, .halt true, .bind 3 true true false 0 0 4095 9],
    ((meets {} (pk (.ctrl q))).cellMeets (pk (.ctrl q)) ∧ ctrlClass (pk (.ctrl q)).cls = true)
    ∧ (meets {} (pkHost (.ctrl q))).cellMeets (pkHost (.ctrl q)) ∧ ctrlClass (pkHost (.ctrl q)).cls = false := by
  unfold State.cellMeets; decide +kernel

theorem wit_ControlRequests_8 : ∃ (s : State) (cell : Nat) (c : Cell), s.cellOpen cell = true ∧ s.scrubStopped = false ∧ c = s.cell cell
    ∧ c.memErr.filter (fun g => granIn (64 * c.scrubPos) 64 g.1) = [] := ⟨withCell { scrubPos := 16383 }, 0, _, by decide +kernel, by decide +kernel, rfl, by decide⟩

/-- Cell 0 whose narrow port has been refused 64 times before a request. -/
def starved (b : Body) : State := meets { narrowRefused := 64 } (pk b)

theorem wit_ControlRequests_9 : ∀ b ∈ [Body.rd 0 8, .wr 0 [1#8]], (starved b).fatal = false ∧ (starved b).cellOpen 0 = true
    ∧ 64 ≤ ((starved b).cell 0).narrowRefused
    ∧ ((starved b).setCell 0 ({ (starved b).cell 0 with narrowRefused := 0 }.count .memtCycStarve 1)).narrowHead 0 = some (pk b) := by decide +kernel

theorem wit_Responses_1 : ∃ (s : State) (p : Packet) (st : MStatus) (d : List Byte), s.respMeets p ∧ p.body = .rdData st d :=
  ⟨meets {} (pk (.rdData .ok [])), pk (.rdData .ok []), .ok, [], by unfold State.respMeets; decide +kernel⟩

theorem wit_Responses_2 : ∃ (s : State) (p : Packet) (st : MStatus), s.respMeets p ∧ p.body = .opDone st :=
  ⟨meets {} (pk (.opDone .range)), pk (.opDone .range), .range, by unfold State.respMeets; decide +kernel⟩

/-- The write acknowledgement of tile 5 of vector context 1. -/
def epiAck : Packet := { pk (.wrAck .ok) with cls := .cell, tag := 21 }

theorem wit_Responses_3 : ∃ (s t : State) (p : Packet) (r : EpiRec), s.respMeets p ∧ p.body = .wrAck .ok ∧ s.goodCell p.dst = true ∧ p.cls = .cell
    ∧ t = s.arrived p ∧ ((t.cell p.dst).vtx (p.tag % 4)).epis.find? (fun r => r.tile % 2 ^ 14 == p.tag / 4 % 2 ^ 14 && r.acks != 0) = some r :=
  ⟨meets { vt := [(1, { epis := [{ tile := 5, mma := 0, acks := 1 }] })] } epiAck, _, epiAck, { tile := 5, mma := 0, acks := 1 },
    by unfold State.respMeets; decide +kernel, rfl, by decide +kernel, rfl, rfl, by decide +kernel⟩

/-- A wake of signal 9 for a context of cell 0, and a wait on it. -/
def aWake (unit : Nat) : Packet := pk (.wake .satisfied 9 3 { node := 0, unit := unit, tag := 0 })
def aWait : CtxWait := { sig := 9, value := 3 }

theorem wit_Responses_4 : ∃ (s t : State) (p : Packet) (sig count unit tag node : Nat) (w : CtxWait) (x : MtCtx), s.respMeets p
    ∧ s.goodCell p.dst = true ∧ p.body = .wake .satisfied sig count { node := node, unit := unit, tag := tag } ∧ w.sig = sig ∧ unit < 4
    ∧ t = s.arrived p ∧ x = (t.cell p.dst).mtx unit ∧ x.wait = some w ∧ x.bindTag = tag :=
  ⟨meets { mt := [(3, { wait := some aWait })] } (aWake 3), _, aWake 3, 9, 3, 3, 0, 0, aWait, _,
    by unfold State.respMeets; decide +kernel, by decide +kernel, rfl, rfl, by decide, rfl, rfl, by decide +kernel⟩

theorem wit_Responses_5 : ∃ (s t : State) (p : Packet) (sig count unit tag node : Nat) (w : CtxWait) (x : VtCtx), s.respMeets p
    ∧ s.goodCell p.dst = true ∧ p.body = .wake .satisfied sig count { node := node, unit := unit, tag := tag } ∧ w.sig = sig ∧ 4 ≤ unit
    ∧ unit < 8 ∧ t = s.arrived p ∧ x = (t.cell p.dst).vtx (unit - 4) ∧ x.wait = some w ∧ x.bindTag = tag :=
  ⟨meets { vt := [(0, { wait := some aWait })] } (aWake 4), _, aWake 4, 9, 3, 4, 0, 0, aWait, _,
    by unfold State.respMeets; decide +kernel, by decide +kernel, rfl, rfl, by decide, by decide, rfl, rfl, by decide +kernel⟩

/-- A cell's message logic with a message held for its sender. -/
def aMsg : Packet := { pk (.msg 0 true 0 false []) with src := 0, dst := hubN, tag := 0 }
def msgLogic (n : Nat) (b : Bool) : MsgLogic :=
  { inboxCtx := 0, inboxBase := 0, sigArrive := 0, sigRelease := 0, outboxBase := 0, sigSend := 0, nakEn := true, sigNak := 0, credits := []
    held := [(aMsg, n, b)] }

theorem wit_Responses_6 : ∃ (s t : State) (p : Packet) (st : MStatus) (m : MsgLogic) (h : Packet × Nat × Bool), s.respMeets p
    ∧ s.goodCell p.dst = true ∧ p.body = .msgNak st ∧ t = s.arrived p ∧ (t.cell p.dst).msg = some m
    ∧ m.held.find? (fun h => h.1.tag == p.tag && h.1.dst == p.src) = some h ∧ h.2.1 < 4 :=
  ⟨meets { msg := some (msgLogic 3 false) } (pk (.msgNak .queueFull)), _, pk (.msgNak .queueFull), .queueFull, msgLogic 3 false, (aMsg, 3, false),
    by unfold State.respMeets; decide +kernel, by decide +kernel, rfl, rfl, by decide +kernel⟩

theorem wit_Responses_7 : ∃ (s : State) (cell : Nat) (m : MsgLogic) (h : Packet × Nat × Bool), s.fatal = false
    ∧ s.cellOpen cell = true ∧ (s.cell cell).msg = some m ∧ m.held.find? (fun h => h.2.2) = some h :=
  ⟨withCell { msg := some (msgLogic 2 true) }, 0, msgLogic 2 true, (aMsg, 2, true), by decide +kernel⟩

/-- A wait that a full home has answered RETRY. -/
def retried : CtxWait := { aWait with retry := true }

theorem wit_Responses_8 : ∃ (s : State) (cell ctx : Nat) (w : CtxWait), s.fatal = false ∧ s.cellOpen cell = true ∧ w.retry = true
    ∧ ctx < 4 ∧ ((s.cell cell).mtx ctx).wait = some w :=
  ⟨withCell { mt := [(3, { wait := some retried })] }, 0, 3, retried, by decide +kernel⟩

theorem wit_Responses_9 : ∃ (s : State) (cell ctx : Nat) (w : CtxWait), s.fatal = false ∧ s.cellOpen cell = true ∧ w.retry = true
    ∧ 4 ≤ ctx ∧ ctx < 8 ∧ ((s.cell cell).vtx (ctx - 4)).wait = some w :=
  ⟨withCell { vt := [(3, { wait := some retried })] }, 0, 7, retried, by decide +kernel⟩

/-- A MSG command of an engine, its message sent. -/
def msgCmd : EngCmd := { id := 5, job := 0, task := 0, cmd := [], sent := true, again := true, retry := true }

theorem wit_Responses_10 : ∃ (s t : State) (p : Packet) (e : Nat) (c : EngCmd), s.respMeets p ∧ p.dst = hubS ∧ p.body = .msgNak .queueFull
    ∧ t = s.arrived p ∧ t.engById p.tag = some (e, c) ∧ c.sent = true ∧ c.fin = none ∧ c.tries < 4 :=
  ⟨{ up with engines := [(0, [msgCmd])], flight := [{ pk (.msgNak .queueFull) with dst := hubS, tag := 5 }] }, _,
    { pk (.msgNak .queueFull) with dst := hubS, tag := 5 }, 0, msgCmd, by unfold State.respMeets; decide +kernel, rfl, rfl, rfl, by decide +kernel⟩

theorem wit_Responses_11 : ∃ (s : State) (id e : Nat) (c : EngCmd), s.fatal = false
    ∧ s.engines.findSome? (fun e => (e.2.find? (fun c => c.again)).map (fun c => (e.1, c))) = some (e, c)
    ∧ s.engines.findSome? (fun e => (e.2.find? (fun c => c.id == id && c.retry)).map (fun c => (e.1, c))) = some (e, c) :=
  ⟨{ up with engines := [(0, [msgCmd])] }, 5, 0, msgCmd, by decide +kernel⟩

theorem wit_Responses_12 : ∃ (s : State) (id : Nat) (c : Cmd), s.fatal = false ∧ s.cmds.find? (fun c => c.id == id && c.retry) = some c :=
  ⟨{ up with cmds := [{ id := 3, fn := 0, ring := 0, tag := 0, op := 8, words := [], gcIn := 0, expires := none, retry := true }] }, 3, _,
    rfl, rfl⟩

/-! ### Streams -/

/-- A stream word, and the link word of it that waits at a cell's west input for A-cycle 7. -/
def aWord : SWord := { data := List.replicate 128 7#8, eor := true, circuit := 40, job := none }
def aLink (cell : Nat) : LinkWord := { cell := cell, port := 3, due := 7, crossed := false, word := aWord }

/-- A cell whose output `o` takes slot 7 from its west input. -/
def swCell (o : Nat) : Cell := { slots := [(8 * o + 7, 1 + 2 * 3)] }

/-- The link word at the head of the west input of `cell`, which holds `c`. -/
def atLink (cell : Nat) (c : Cell) : State := { up with cells := [(cell, c)], links := [aLink cell] }

/-- Forwarded in its die, forwarded across a boundary, delivered and named by no entry. -/
theorem wit_Streams_1 : ∀ x ∈ [(0, swCell 1), (21, swCell 1), (0, swCell 4), (0, {})],
    (atLink x.1 x.2).fatal = false ∧ (atLink x.1 x.2).cellOpen x.1 = true ∧ (atLink x.1 x.2).linkHead x.1 3 7 = some (aLink x.1) := by decide +kernel

theorem wit_Streams_2 : ((atLink 0 (swCell 1)).cell 0).outputFor 3 7 0 = some 1 ∧ neighbour 0 1 = some 1 ∧ cellDie 1 = cellDie 0
    ∧ ((atLink 21 (swCell 1)).cell 21).outputFor 3 7 0 = some 1 ∧ neighbour 21 1 = some 22 ∧ cellDie 22 ≠ cellDie 21
    ∧ ((atLink 21 (swCell 1)).crossing 22 (oppPort 1)).length < 16
    ∧ ((atLink 0 (swCell 4)).cell 0).outputFor 3 7 0 = some 4 ∧ ((atLink 0 {}).cell 0).outputFor 3 7 0 = none := by decide +kernel

theorem wit_Streams_3 : ∃ (s : State) (cell slot ch n : Nat) (w : SWord) (ws : List SWord), s.fatal = false ∧ s.cellOpen cell = true ∧ slot < 8
    ∧ ch < 32 ∧ ((s.cell cell).chan ch).staging = w :: ws ∧ ((s.cell cell).chan ch).credits ≠ 0 ∧ ((s.cell cell).chan ch).withheld = false
    ∧ ((s.cell cell).chan ch).sump = none ∧ ((s.cell cell).outputFor 4 slot ch).isSome = true
    ∧ n = nextSlot (max (s.acycles (cellDie cell)) ((s.cell cell).chan ch).sentAt) slot ∧ s.firstDue (cellDie cell) n = true
    ∧ s.crossFull cell 4 n ch = false :=
  ⟨withCell { slots := [(8, 1 + 2 * 4 + 2 ^ 4 * 31)], chans := [(31, { staging := [aWord], credits := 1 })] }, 0, 0, 31, 0, aWord, [],
    by decide +kernel⟩

theorem wit_Streams_4 : ∃ (s : State) (circuit : Nat), s.fatal = false ∧ circuit ∈ s.creditFlight :=
  ⟨{ up with creditFlight := [40] }, 40, by decide +kernel⟩

/-- An open Sump that holds no word. -/
def aSump (room : Nat) (stalled : Bool) : Sump :=
  { spill := [], edges := 4, spilled := 3, stored := 0, places := [], room := room, jobs := [], stalled := stalled }

theorem wit_Streams_5 : ∃ (s : State) (cell ch : Nat), s.fatal = false ∧ s.cellOpen cell = true ∧ ch < 32
    ∧ ((s.cell cell).chan ch).sump.isSome = true :=
  ⟨withCell { chans := [(31, { sump := some (aSump 9 false) })] }, 0, 31, by decide +kernel⟩

/-- A word whose first byte chooses `n`, alone in its record. -/
def choice (n : Nat) : SWord := { aWord with data := BitVec.ofNat 8 n :: List.replicate 127 0#8 }

/-- A cell whose first steering unit has a kind, a condition, counts of 1, a side last taken and perhaps a record in progress; the two FIFOs of
its inputs and that of its control input hold the lists. -/
def suCell (kind cond : Nat) (cur : Option Nat) (last : Nat) (f0 f1 f2 : List SWord) : Cell :=
  { su0 := { w0 := kind + 4 * cond, w1 := 0x10001, cur := cur, lastIn := last }
    chanCfg := [(0, 1 + 4), (1, 1 + 4 + 16), (2, 2 + 4), (3, 2 + 4 + 16), (4, 1 + 4 + 32)]
    chans := [(0, { fifo := f0 }), (1, { fifo := f1 }), (4, { fifo := f2 })] }

/-- What both unit statements ask before a record is chosen. -/
def suReady (kind : Nat) (c : Cell) : Prop := (withCell c).fatal = false ∧ (withCell c).cellRuns 0 = true ∧ (((withCell c).cell 0).steer 0).kind = kind
  ∧ ((withCell c).cell 0).suChan 0 1 0 = some 0 ∧ ((withCell c).cell 0).suChan 0 1 1 = some 1 ∧ ((withCell c).cell 0).suChan 0 2 0 = some 2

/-- A SPLIT in progress, and one that begins a record: by its count, to both sides, and by its control input. -/
theorem wit_Steering_1 : ∀ x ∈ [(suCell 1 0 (some 0) 2 [aWord] [] [], 0), (suCell 1 0 none 2 [aWord] [] [], 0), (suCell 1 2 none 2 [aWord] [] [], 3)],
    suReady 1 x.1 ∧ ((x.1.su0.cur = some x.2) ∨ (x.1.su0.cur = none ∧ x.1.su0.cond ≠ 1 ∧ ((withCell x.1).cell 0 |>.chan 0).fifo ≠ []
      ∧ (if x.1.su0.cond = 2 then 3 else x.1.su0.countSide) = x.2)) := by unfold suReady; decide +kernel

theorem wit_Steering_2 : suReady 1 (suCell 1 1 none 2 [aWord] [] [choice 1]) ∧ (suCell 1 1 none 2 [aWord] [] [choice 1]).su0.cond = 1
    ∧ ((withCell (suCell 1 1 none 2 [aWord] [] [choice 1])).control 0 0).2 = some (1, choice 1) := by unfold suReady; decide +kernel

/-- A record that begins is in progress after its room is made, for a SPLIT and for a MERGE. -/
theorem wit_Steering_3 : ∀ x ∈ [(1, 3), (2, 1)], let s := withCell (suCell x.1 2 none 2 [aWord] [aWord] [])
    ((((s.setCell 0 ((s.cell 0).beginRecord 0 x.2 [0])).roomCell 0).cell 0).steer 0).cur = some x.2 := by decide +kernel

/-- A MERGE in progress; by its control input; alternating where both wait, after no record and after one; the only one that waits, and by its
count. -/
theorem wit_Steering_4 : ∀ c ∈ [suCell 2 0 (some 0) 2 [aWord] [] [], suCell 2 1 none 2 [aWord] [aWord] [choice 1], suCell 2 3 none 2 [aWord] [aWord] [],
    suCell 2 3 none 0 [aWord] [aWord] [], suCell 2 3 none 2 [aWord] [] [], suCell 2 3 none 2 [] [aWord] [], suCell 2 0 none 2 [aWord] [] []],
    suReady 2 c := by unfold suReady; decide +kernel

theorem wit_Steering_5 : ((withCell (suCell 2 1 none 2 [aWord] [aWord] [choice 1])).control 0 0).2 = some (1, choice 1)
    ∧ ((withCell (suCell 2 1 none 2 [aWord] [aWord] [choice 2])).control 0 0).2 = some (2, choice 2)
    ∧ (suCell 2 0 none 2 [aWord] [] []).su0.countSide = 0 := by decide +kernel

/-- A MERGE whose control input chooses a side that does not exist. -/
theorem wit_Steering_6 : ∃ (s t u : State) (w : SWord), s.control 0 0 = (t, some (2, w))
    ∧ u = (t.jobFault .steerCtrl w.job .badCommand { noRec with node := 0, unit := 3, idx0 := 0, code := 2 }).roomCell 0
    ∧ ((u.cell 0).steer 0).cur = none :=
  ⟨withCell (suCell 2 1 none 2 [aWord] [aWord] [choice 2]), _, _, choice 2, rfl, rfl, by decide +kernel⟩

theorem wit_Steering_7 : ∃ u : Steer, 0 < u.n0 + u.n1 := ⟨{ w0 := 0xFFFFFFFF, w1 := 0xFFFFFFFF }, by decide +kernel⟩

/-- A cell whose vector context waits for a credit of channel 3. -/
def creditCell : Cell :=
  { vt := [(0, { st := .late, tx := [(3, aWord)] })], chans := [(3, { staging := [aWord, aWord], waitRun := 8192 })] }

theorem wit_Probe_1 : ∃ (s : State) (cell ch n : Nat) (e : WaitEdge) (es : List WaitEdge) (t : State), s.fatal = false
    ∧ s.cellOpen cell = true ∧ ch < 32 ∧ s.runFrozen cell ch = false
    ∧ (List.range 10).flatMap (fun n => ((s.cell cell).nodeEdges s.arrFeat n).filter (fun e => e.chan == ch)) = e :: es
    ∧ t = s.setCell cell ((s.cell cell).setChan ch
        { (s.cell cell).chan ch with waitRun := (((s.cell cell).chan ch).waitRun / 8192 + 1) * 8192 })
    ∧ t.edgeCircuit cell e = some n :=
  ⟨withCell creditCell, 0, 3, 3, { chan := 3, credit := true }, [], _, by decide, by decide +kernel, by decide, by decide +kernel,
    by decide +kernel, rfl, by decide +kernel⟩

/-- A probe that comes to cell 0, which holds `c`. -/
def probed (c : Cell) (origin lowest edges : Nat) (opening : Bool) : State := { meets c (pk (.probe origin lowest edges opening)) with feat := 128 }

theorem wit_Probe_2 : ∃ (s t : State) (p : Packet) (origin lowest edges : Nat) (es : List WaitEdge), s.fatal = false
    ∧ s.cellOpen p.dst = true ∧ s.mayArrive p = true ∧ p.body = .probe origin lowest edges false ∧ t = s.arrived p
    ∧ (((t.cell p.dst).nodesOf (p.tag % 32)).flatMap ((t.cell p.dst).nodeEdges t.arrFeat)).filter
        (fun e => decide (8192 ≤ ((t.cell p.dst).chan e.chan).waitRun)) = es
    ∧ (∀ e ∈ es, t.edgeCircuit p.dst e ≠ some origin) ∧ edges < 255 :=
  ⟨probed {} 5 5 254 false, _, pk (.probe 5 5 254 false), 5, 5, 254, [], by decide, by decide +kernel, by decide +kernel, rfl, rfl,
    by decide +kernel⟩

/-- Channel 0 of the cell takes words for vector context 0, which waits for a credit of channel 3: the probe that began there is back. -/
theorem wit_Probe_3 : ∃ (s t : State) (p : Packet) (origin lowest edges : Nat) (e : WaitEdge), s.fatal = false
    ∧ s.cellOpen p.dst = true ∧ s.mayArrive p = true ∧ p.body = .probe origin lowest edges false ∧ t = s.arrived p
    ∧ ((((t.cell p.dst).nodesOf (p.tag % 32)).flatMap ((t.cell p.dst).nodeEdges t.arrFeat)).filter
        (fun e => decide (8192 ≤ ((t.cell p.dst).chan e.chan).waitRun))).find? (fun e => t.edgeCircuit p.dst e == some origin) = some e :=
  let c := { creditCell with mem := put 0 [0x16, 0], progCount := 1, chanCfg := [(0, 1)],
                             vt := [(0, { st := .late, job := some 0, tx := [(3, aWord)] })] }
  ⟨probed c 3 3 9 false, _, pk (.probe 3 3 9 false), 3, 3, 9, { chan := 3, credit := true }, by decide, by decide +kernel, by decide +kernel, rfl, rfl,
    by decide +kernel⟩

theorem wit_Probe_4 : ∃ (s : State) (p : Packet) (origin lowest edges : Nat), s.fatal = false
    ∧ s.cellOpen p.dst = true ∧ s.mayArrive p = true ∧ p.body = .probe origin lowest edges true ∧ s.feature 7 = true ∧ lowest / 32 = p.dst :=
  ⟨probed {} 5 31 9 true, pk (.probe 5 31 9 true), 5, 31, 9, by decide +kernel⟩

theorem wit_Sump_1 : ∃ (s : State) (cell ch : Nat) (u : Sump), s.fatal = false ∧ s.cellOpen cell = true ∧ ch < 32
    ∧ ((s.cell cell).chan ch).sump = some u ∧ u.spill = [] ∧ 0 < ((s.cell cell).chan ch).credits :=
  ⟨withCell { chans := [(31, { credits := 1, sump := some (aSump 0 false) })] }, 0, 31, aSump 0 false, by decide +kernel⟩

/-- The unit that waits for room has none, and its circuit has waited 8,192 A-cycles. -/
theorem wit_Sump_2 : ∃ (s t : State) (cell ch : Nat) (u : Sump), s.fatal = false ∧ ch < 32 ∧ t = s.roomCell cell
    ∧ ((t.cell cell).chan ch).sump = some u ∧ u.room = 0 ∧ u.stalled = true ∧ 8192 ≤ ((t.cell cell).chan ch).waitRun ∧ t.runFrozen cell ch = false :=
  ⟨withCell { chans := [(31, { waitRun := 8192, sump := some { aSump 9 true with spilled := 512 } })] }, _, 0, 31,
    { aSump 0 true with spilled := 512 }, by decide, by decide, rfl, by decide +kernel⟩

/-! ### Signals -/

/-- Every feature committed, and tenant 1 with every signal. -/
def full : State := { up with feat := 0xFFFFFFFF, regs := Tab.put 0 up.regs (rTenSig 1) (16384 * 2 ^ 16) }

/-- A signal operation on signal 9 that arrives at cell 0 or at Hub N, and the signal in a state. -/
def sigPk (op : SigOp) (v : Nat) (dst : Nat) (cls : SrcClass) : Packet :=
  { pk (.sig op 9 v { node := 0, unit := 0, tag := 0 }) with dst := dst, src := 0, tenant := 1, cls := cls }
def atHome (g : Signal) (p : Packet) : State := { full with flight := [p], sigs := [(9, g)] }
def live : Signal := { counter := 5, st := .live }
def left : Signal := { counter := 5, st := .abandoned }

/-- A signal homed at cell 0, whose 32 waits are taken. -/
def crowded : Signal := { live with home := 1, waiters := List.replicate 32 { value := 9, tenant := 1, iss := { node := 0, unit := 0, tag := 0 } } }

/-- What every clause asks: the operation arrives at its home and its tenant may name the signal. -/
def atItsHome (g : Signal) (p : Packet) : Prop := (atHome g p).fatal = false ∧ (atHome g p).goodNode p.dst = true
  ∧ ((atHome g p).goodCell p.dst = true → (atHome g p).cellOpen p.dst = true) ∧ (atHome g p).mayArrive p = true ∧ Tab.wf {} (atHome g p).sigs = true
  ∧ (atHome g p).signal 9 = g ∧ ((p.dst = hubN ∧ g.home = 0) ∨ p.dst + 1 = g.home) ∧ (p.tenant = 0 ∨ p.tenant = (atHome g p).sigTenant 9)

/-- SET and ADD of a live and an abandoned signal, SET by the host and by another, and WAIT of both, above and below its counter. -/
theorem wit_SignalOperations_1 : ∀ x ∈ [(live, SigOp.set, 7, SrcClass.cell), (left, .set, 7, .host), (left, .set, 7, .cell), (live, .add, 0xFFFFFFFF, .cell),
    (left, .add, 1, .cell), (left, .wait, 5, .cell), (live, .wait, 5, .cell), (live, .wait, 6, .cell)], atItsHome x.1 (sigPk x.2.1 x.2.2.1 hubN x.2.2.2) := by
  unfold atItsHome; decide +kernel

theorem wit_SignalOperations_2 : (((atHome live (sigPk .wait 6 hubN .cell)).arrived (sigPk .wait 6 hubN .cell)).countHome 0 0 1).poolFull 0 1 = false := by
  decide +kernel

theorem wit_SignalOperations_3 : atItsHome crowded (sigPk .wait 6 0 .cell)
    ∧ (((atHome crowded (sigPk .wait 6 0 .cell)).arrived (sigPk .wait 6 0 .cell)).countHome 1 0 1).poolFull 1 1 = true := by
  unfold atItsHome; decide +kernel

/-- What every clause of the refusals asks of a state in which the operation arrives. -/
def sigMeets (s : State) (p : Packet) : Prop := s.fatal = false ∧ s.goodNode p.dst = true ∧ (s.goodCell p.dst = true → s.cellOpen p.dst = true)
  ∧ s.mayArrive p = true

theorem wit_SignalRefusals_1 : ∃ (s : State) (p : Packet), sigMeets s p ∧ ((p.dst = hubN ∧ (s.signal 9).home = 0) ∨ p.dst + 1 = (s.signal 9).home)
    ∧ p.tenant ≠ 0 ∧ p.tenant ≠ s.sigTenant 9 :=
  ⟨{ atHome live (sigPk .add 6 hubN .cell) with regs := up.regs }, sigPk .add 6 hubN .cell, by unfold sigMeets; decide +kernel⟩

theorem wit_SignalRefusals_2 : ∃ (s : State) (p : Packet), sigMeets s p ∧ p.dst = hubN ∧ (s.signal 9).home ≠ 0 ∧ p.dst + 1 ≠ (s.signal 9).home :=
  ⟨atHome { live with home := 2112 } (sigPk .add 6 hubN .cell), sigPk .add 6 hubN .cell, by unfold sigMeets; decide +kernel⟩

theorem wit_SignalRefusals_3 : ∃ (s : State) (p : Packet), sigMeets s p ∧ p.dst ≠ hubN ∧ p.dst + 1 ≠ (s.signal 9).home :=
  ⟨atHome live (sigPk .add 6 2111 .cell), sigPk .add 6 2111 .cell, by unfold sigMeets; decide +kernel⟩

/-- A message for cell 0, owned by tenant 1, whose inbox holds `n` entries. -/
def msgPk (credited : Bool) : Packet := { pk (.msg 3 credited 0 false []) with tenant := 1 }
def quiet : MsgLogic := { msgLogic 0 false with held := [] }
def inbox (n : Nat) : MsgLogic := { quiet with inbox := List.replicate n (5, 0, false) }
def inboxCell (n : Nat) : Cell := { owner := 1, msg := some (inbox n) }

/-- A message that arrives at `c`. -/
def msgMeets (c : Cell) (credited : Bool) : Prop := (meets c (msgPk credited)).fatal = false ∧ (meets c (msgPk credited)).cellOpen 0 = true
  ∧ (meets c (msgPk credited)).mayArrive (msgPk credited) = true ∧ (((meets c (msgPk credited)).arrived (msgPk credited)).cell 0) = c

/-- No owner, a fence, another owner, no message logic, room for a credited message and for one without credit, and no room. -/
theorem wit_SignalRefusals_4 : ∀ x ∈ [({}, true), ({ owner := fenceTag }, true), ({ inboxCell 0 with owner := 2 }, true), ({ owner := 1 }, true),
    (inboxCell 16, true), (inboxCell 15, false), (inboxCell 16, false)], msgMeets x.1 x.2 := by unfold msgMeets; decide +kernel

theorem wit_SignalRefusals_5 : ((inbox 15).inbox.filter (fun e => !e.2.2)).length + ((meets (inboxCell 15) (msgPk false)).arrived (msgPk false)).reserved 0 < 16
    ∧ 16 ≤ ((inbox 16).inbox.filter (fun e => !e.2.2)).length + ((meets (inboxCell 16) (msgPk false)).arrived (msgPk false)).reserved 0 := by decide +kernel

/-- A cell with a due outbox entry for cell 1, credited or not, and the module in which cell 1 has an owner. -/
def dueLogic : MsgLogic := { quiet with due := 1, credits := [{ dst := 1, count := 1, sig := 0 }] }
def sendCell (credited : Nat) : Cell := { owner := 1, mem := put 0 [1 + 2 ^ 12 * credited], msg := some dueLogic }
def sender (credited owner : Nat) : State := { full with cells := [(0, sendCell credited), (1, { owner := owner })] }

/-- What every clause of MSG_ENTRY_SEND asks. -/
def mayLeave (s : State) (credited : Bool) : Prop := s.fatal = false ∧ s.cellOpen 0 = true ∧ (s.cell 0).msg = some dueLogic ∧ dueLogic.due ≠ 0
  ∧ dueLogic.stands = false ∧ bits ((s.cell 0).mem.readLe (dueLogic.outboxBase + 32 * (dueLogic.nS % 16)) 4) 11 0 = 1
  ∧ credited = bit ((s.cell 0).mem.readLe (dueLogic.outboxBase + 32 * (dueLogic.nS % 16)) 4) 12 ∧ s.goodCell 1 = true

theorem wit_SignalRefusals_6 : mayLeave (sender 1 2) true ∧ ((sender 1 2).cell 1).owner ≠ ((sender 1 2).cell 0).owner := by unfold mayLeave; decide +kernel

theorem wit_SignalRefusals_7 : mayLeave (sender 1 1) true ∧ ((sender 1 1).cell 1).owner = ((sender 1 1).cell 0).owner
    ∧ ∃ e, dueLogic.creditFor 1 = some e ∧ e.sent < e.count + ((sender 1 1).signal e.sig).counter := by
  refine ⟨by unfold mayLeave; decide +kernel, by decide +kernel, { dst := 1, count := 1, sig := 0 }, by decide +kernel⟩

theorem wit_SignalRefusals_8 : mayLeave (sender 0 1) false ∧ ((sender 0 1).cell 1).owner = ((sender 0 1).cell 0).owner := by unfold mayLeave; decide +kernel

/-! ### Host entries -/

/-- The next entry of ring 7 of VF 1, of an opcode, with its inline words; its pointer payload lies at bus address 0x1000. -/
def entry (op : Nat) (inl : List Nat) : Cmd :=
  { id := 4, fn := 1, ring := 7, tag := 9, op := op, words := [op, 9, 0, 0, 0, 0, if inlineOp op then 0 else 0x1000, 0] ++ inl, gcIn := 0
    expires := none }
def atEntry (c : Cmd) : State := { full with cmds := [c], rings := [(15, { st := .active, owed := 1 })] }

/-- The host's memory holds words at an address of function 1. -/
def hostHas (c : Cmd) (ws : List Nat) : State := { atEntry c with host := [(1, put 0x1000 ws)] }
def noHost : HostIn := { stores := [], fail := false }

theorem wit_Entries : ∀ p ∈ [(6, [16383, 1]), (7, [0, 1]), (8, [5, 0xFFFFFFFF]), (9, [0]), (4, [31]), (2, [7, 0])],
    (atEntry (entry p.1 p.2)).entryAt 1 7 p.1 (entry p.1 p.2) := by unfold State.entryAt; decide +kernel

theorem wit_SignalEntries_4 : ∃ (s t : State) (fn k : Nat) (c : Cmd), s.entryAt fn k 9 c ∧ t = s.running c
    ∧ t.cmds.find? (fun c => c.fn == fn && c.ring == k && c.op == 9 && c.st == .running) = some { c with st := .running }
    ∧ (t.ring fn k).owed = 1 ∧ (bit (c.w 8) 0 = false ∨ t.cmds.all (fun x => x.fn != fn || decide (c.id ≤ x.id)) = true) :=
  ⟨atEntry (entry 9 [1]), _, 1, 7, entry 9 [1], by unfold State.entryAt; decide +kernel, rfl, by decide +kernel, by decide +kernel,
    by decide +kernel⟩

theorem wit_SignalEntries_9 : ∃ (s t : State) (fn k : Nat) (c : Cmd), s.entryAt fn k 9 c ∧ t = s.running c
    ∧ t.cmds.find? (fun c => c.fn == fn && c.ring == k && c.op == 9 && c.st == .running) = some { c with st := .running }
    ∧ bit (c.w 8) 0 = true ∧ t.cmds.all (fun x => x.fn != fn || decide (c.id ≤ x.id)) = false :=
  ⟨{ atEntry (entry 9 [1]) with cmds := [entry 9 [1], { entry 8 [] with id := 3, ring := 2, st := .running }] }, _, 1, 7, entry 9 [1],
    by unfold State.entryAt; decide +kernel, rfl, by decide +kernel, by decide +kernel, by decide +kernel⟩

theorem wit_SignalEntries_10 : ∃ (s : State) (tag : Nat) (c : Cmd), s.cmds.find? (fun c => c.op == 8 && c.st == .running && c.id % 65536 == tag) = some c :=
  ⟨{ up with cmds := [{ entry 8 [] with st := .running }] }, 4, _, rfl⟩

theorem wit_SignalEntries_5 : ∃ (s t : State) (fn k : Nat) (c : Cmd), s.entryAt fn k 9 c ∧ t = s.running c
    ∧ t.cmds.find? (fun c => c.fn == fn && c.ring == k && c.op == 9 && c.st == .running) = some { c with st := .running }
    ∧ (t.ring fn k).owed ≠ 1 :=
  ⟨{ atEntry (entry 9 [1]) with rings := [(15, { st := .active, owed := 2 })] }, _, 1, 7, entry 9 [1],
    by unfold State.entryAt; decide +kernel, rfl, by decide +kernel, by decide +kernel⟩

/-- Reserving 1,750 GB/s on stack 0, with room in the tenant's quota. -/
def rsv (mask rate : Nat) : Cmd := entry 0xC [256 * mask, rate]
def rsvState (c : Cmd) : State := { atEntry c with regs := Tab.put 0 full.regs (rTen 1 0x1C) 14000 }

/-- What both clauses on a set ask. -/
def setAsk (s t : State) (mine : Nat) (c : Cmd) : Prop := s.entryAt 1 7 0xC c ∧ bit (c.w 8) 4 = false ∧ c.reserveOk = true
    ∧ s.feature 13 = true ∧ t = s.withReserve { tenant := 1, id := bits (c.w 8) 3 0, mask := bits (c.w 8) 15 8, rate := c.w 9 }
    ∧ mine = ((t.reserves.filter (fun r => r.tenant == 1)).map (fun (r : Reserve) => r.rate * ((List.range 8).filter (bit r.mask)).length)).sum

theorem wit_SignalEntries_6 : ∃ (s t : State) (mine : Nat) (c : Cmd), setAsk s t mine c ∧ ((List.range 8).map t.rsvSum).sum ≤ 14000
    ∧ mine ≤ bits (s.reg (rTen 1 0x1C)) 13 0
    ∧ ∀ n, n < 8 → t.rsvSum n ≤ s.rsvSum n ∨ (t.rsvSum n ≤ 1750 ∧ 8 * t.rsvSum n ≤ t.stackCap n) :=
  ⟨rsvState (rsv 255 1750), _, _, rsv 255 1750, ⟨by unfold State.entryAt; decide +kernel, by decide +kernel, by decide +kernel,
    by decide +kernel, rfl, rfl⟩, by decide +kernel, by decide +kernel, by decide +kernel⟩

theorem wit_SignalEntries_7 : ∃ (s t : State) (mine : Nat) (c : Cmd), setAsk s t mine c ∧ 14000 < ((List.range 8).map t.rsvSum).sum :=
  ⟨{ rsvState (rsv 255 1750) with reserves := [{ tenant := 2, id := 0, mask := 1, rate := 1 }] }, _, _, rsv 255 1750,
    ⟨by unfold State.entryAt; decide +kernel, by decide +kernel, by decide +kernel, by decide +kernel, rfl, rfl⟩, by decide +kernel⟩

theorem wit_SignalEntries_11 : ∃ (s t : State) (mine : Nat) (c : Cmd), setAsk s t mine c ∧ bits (s.reg (rTen 1 0x1C)) 13 0 < mine :=
  ⟨{ rsvState (rsv 1 1) with reserves := [], regs := full.regs }, _, _, rsv 1 1,
    ⟨by unfold State.entryAt; decide +kernel, by decide +kernel, by decide +kernel, by decide +kernel, rfl, rfl⟩, by decide +kernel⟩

theorem wit_SignalEntries_12 : ∃ (s t : State) (mine : Nat) (c : Cmd), setAsk s t mine c ∧ ∃ n, n < 8 ∧ s.rsvSum n < t.rsvSum n ∧ (1750 < t.rsvSum n ∨ t.stackCap n < 8 * t.rsvSum n) :=
  ⟨{ rsvState (rsv 1 1750) with reserves := [{ tenant := 2, id := 0, mask := 1, rate := 1 }] }, _, _, rsv 1 1750,
    ⟨by unfold State.entryAt; decide +kernel, by decide +kernel, by decide +kernel, by decide +kernel, rfl, rfl⟩, by decide +kernel⟩

theorem wit_SignalEntries_8 : ∃ (s : State) (fn k : Nat) (c : Cmd), s.entryAt fn k 0xC c ∧ bit (c.w 8) 4 = true ∧ c.reserveOk = true
    ∧ s.feature 13 = true :=
  ⟨atEntry (entry 0xC [16, 0]), 1, 7, entry 0xC [16, 0], by unfold State.entryAt; decide +kernel⟩

/-! ### Configuration loads -/

/-- What CFG_LOAD asks of the words of its payload. -/
def loadWords (fn : Nat) (w : Nat → Nat) : Prop :=
  (fn ≠ 0 ∨ (bit (w 0) 16 = true ∧ bit (w 0) 17 = true)) ∧ bits (w 0) 7 7 = 0 ∧ bits (w 0) 31 18 = 0 ∧ bits (w 0) 6 5 ≠ 3
  ∧ (bit (w 0) 17 = true → bit (w 0) 16 = true) ∧ bits (w 4) 31 28 = 0 ∧ bits (w 5) 31 16 = 0 ∧ (∀ i, i < 10 → w (6 + i) = 0)
  ∧ (bits (w 0) 6 5 = 1 → w 2 < 2 ^ 16) ∧ (bits (w 0) 6 5 = 2 → w 1 + 2 ^ 32 * w 2 = 0 ∧ w 3 = 0)
  ∧ (bit (w 0) 16 = true → 1 ≤ w 5 ∧ w 5 ≤ 60000)

/-- From host memory, from HBM, by multicast, and one that only sends; a multicast receiver that also sends. -/
theorem wit_Loads_1a : ∀ ws ∈ [[31, 0x2000, 0, 4096], [31 + 2 ^ 5, 0x2000, 0xFFFF, 4096], [31 + 2 ^ 6, 0, 0, 0], [2 ^ 16 + 2 ^ 17, 0, 0, 64, 0, 60000],
    [2 ^ 6 + 2 ^ 16, 0, 0, 0, 0, 1]], loadWords 1 (fun i => ws.getD i 0) := by unfold loadWords; decide +kernel

theorem wit_Loads_1 : ∃ (s t : State) (h : HostIn) (c : Cmd) (bs : List Byte), s.entryPayAt 1 7 3 64 h c bs t
    ∧ loadWords 1 (fun i => (words bs).getD i 0) :=
  ⟨hostHas (entry 3 []) [31, 0x2000, 0, 4096], _, noHost, entry 3 [], _, ⟨by unfold State.entryAt; decide +kernel, rfl, rfl⟩,
    by unfold loadWords; decide +kernel⟩

/-- A FULL configuration of cell 0 for tenant 1, unencrypted, in two segments; its stream lies at bus address 0x1000. -/
def cfgHeader : List Byte :=
  ([0x5A394346, 1 + 2 ^ 16, 0, 0, 0, 0, 0, 2, 2, 192].flatMap (leBytes 4)) ++ List.replicate 24 0#8
def aLoad : Load := { cmd := some 4, tenant := 1, gallery := 31, addr := 0x1000, length := 400, header := cfgHeader }
def loadsState (l : Load) : State := { full with loads := [l], host := [(1, Memory.writeBytes [] 0x1000 cfgHeader)] }

/-- Quotas of tenant 1 for it, and unencrypted configurations allowed. -/
def quotas : State :=
  (((full.setReg (rTen 1 0x10) 1).setReg (rTen 1 0x14) 1).setReg (rTen 1 0x0C) 32).setReg rSecPolicy 2

/-- The load before its header is read. -/
def newLoad : Load := { aLoad with header := [] }
def admState (l : Load) : State := { loadsState l with regs := quotas.regs }

/-- Cell 0 as a gallery of tenant 1. -/
def aGal : Gallery := { x0 := 0, y0 := 0, x1 := 0, y1 := 0, tenant := 1 }

/-- The load may be tried in `s`, and its header answers `a`. -/
def tried (s : State) (l : Load) (a : Admit) : Prop := s.load? 0 = some l ∧ l.started = false ∧ l.unload = false ∧ s.behind 0 l = false
  ∧ s.loadSlot = true ∧ s.streamRead l noHost 0 64 = .ok cfgHeader
  ∧ (s.setLoad 0 { l with header := cfgHeader, full := hKind cfgHeader == 1 }).admits { l with header := cfgHeader, full := hKind cfgHeader == 1 } cfgHeader = a

/-- Admitted, as a load that only sends, refused its gallery, refused a quota of cells, and waiting for a gallery to be parked. -/
theorem wit_Loads_2 : tried (admState newLoad) newLoad .ok ∧ tried (admState { newLoad with txOnly := true }) { newLoad with txOnly := true } .ok
    ∧ tried { admState newLoad with gals := [(31, aGal)] } newLoad (.refuse rGallery)
    ∧ tried { loadsState newLoad with regs := full.regs } newLoad (.quota 2)
    ∧ tried { admState newLoad with gals := [(30, some { aGal with savePages := [1] })], regs := (rGalCtl 30, 1) :: quotas.regs } newLoad .wait := by
  unfold tried; decide +kernel

/-- An unload of gallery 31 by VF 1 in a state that holds galleries and loads: its ring's next entry. -/
def unlEntry (gs : Tab (Option Gallery)) (ls : List Load) : State := { atEntry (entry 4 [31]) with gals := gs, loads := ls }
def unlNew : Load := { cmd := some 4, unload := true, tenant := 1, gallery := 31 }
def unlGoes (s : State) (behind : Bool) (g : Option Gallery) : Prop := s.entryAt 1 7 4 (entry 4 [31]) ∧ s.unloadRing 1 7 = none
  ∧ ({ s.running (entry 4 [31]) with loads := s.loads ++ [unlNew] } : State).behind s.loads.length unlNew = behind
  ∧ ({ s.running (entry 4 [31]) with loads := s.loads ++ [unlNew] } : State).gallery? 31 = g

/-- Behind a load of its gallery; of no gallery; of another tenant's; of one that moves; and of its own. -/
theorem wit_Loads_3 : unlGoes (unlEntry [(31, aGal)] [aLoad]) true aGal ∧ unlGoes (unlEntry [] []) false none
    ∧ ∀ g ∈ [{ aGal with tenant := 2 }, { aGal with busy := true }, aGal], unlGoes (unlEntry [(31, some g)] []) false (some g) := by
  unfold unlGoes State.entryAt; decide +kernel

/-- An unload that has begun. -/
def unl : Load := { unlNew with started := true }

theorem wit_Loads_4 : ∃ (s : State) (fn k i : Nat) (c : Cmd) (g : Gallery) (l : Load), s.fatal = false ∧ k < 8 ∧ s.load? i = some l
    ∧ l.unload = true ∧ l.cmd = some c.id ∧ s.cmds.find? (fun x => x.id == c.id) = some c ∧ c.fn = fn ∧ c.ring = k
    ∧ (∀ j m, j < i → s.load? j = some m → m.unload = false) ∧ s.behind i l = false ∧ s.gallery? l.gallery = some g
    ∧ (l.tenant = 0 ∨ g.tenant = l.tenant) ∧ (g.busy || g.loading || (g.resident && s.arrayHeld)) = false ∧ l.started = true
    ∧ s.galJobs l.gallery = [] :=
  ⟨{ atEntry { entry 4 [31] with st := .running } with gals := [(31, aGal)], loads := [unl] }, 1, 7, 0, { entry 4 [31] with st := .running },
    aGal, unl, rfl, by decide, rfl, rfl, rfl, by decide +kernel, rfl, rfl, fun _ _ h => absurd h (Nat.not_lt_zero _), by decide +kernel⟩

/-- A MEMT_IMAGE section of 64 bytes for cell 0, in a segment with the digest it must have, or another. -/
def aSection : List Byte := ([0x12, 0, 0x1000, 64, 0, 0, 0, 0].flatMap (leBytes 4)) ++ List.replicate 64 0x5A#8 ++ List.replicate 32 0#8
def segHead : List Byte := [0x5A395347, 0, 128, 0].flatMap (leBytes 4)
def segTag (payload : List Byte) : List Byte := (sha384 (cfgHeader ++ segHead ++ payload)).take 16
def segLoad : Load := { aLoad with started := true, fenced := true }
def segState (tag payload : List Byte) : State :=
  { full with loads := [segLoad], host := [(1, Memory.writeBytes [] 0x1040 (segHead ++ tag ++ payload))] }

/-- The load's next segment may be read in `s`, and its header is `sh`. -/
def segReads (s : State) (l : Load) (sh : List Byte) : Prop := s.fatal = false ∧ s.load? 0 = some l ∧ l.started = true ∧ l.holdEnd = none
  ∧ l.unload = false ∧ l.txOnly = false ∧ l.result = none ∧ l.fenced = true ∧ l.committed = false ∧ l.got < hSegs l.header ∧ s.sag < 3
  ∧ s.arrayHeld = false ∧ (s.hostStores l.tenant noHost).streamRead l noHost l.off 32 = .ok sh

/-- A load to be tried, one that only sends, and one that has ended and still sends. -/
theorem wit_Segments_1 : ∀ l ∈ [newLoad, { aLoad with started := true, txOnly := true }, { segLoad with result := some (0, 0) }],
    (loadsState l).fatal = false ∧ (loadsState l).load? 0 = some l ∧ l.holdEnd = none ∧ l.unload = false := by decide +kernel

/-- A segment whose header is not one, and one whose payload has another tag. -/
theorem wit_Segments_2 : segReads (segState [] []) segLoad (segHead ++ List.replicate 16 0#8)
    ∧ segmentFails segLoad (List.replicate 32 0#8) ≠ none ∧ segReads { full with loads := [segLoad] } segLoad (List.replicate 32 0#8)
    ∧ segmentFails segLoad (segHead ++ List.replicate 16 0#8) = none
    ∧ (segState (List.replicate 16 0#8) aSection).streamRead segLoad noHost (64 + 32) 128 = .ok aSection
    ∧ openSegment segLoad (segHead ++ List.replicate 16 0#8) aSection = none := by unfold segReads; decide +kernel

/-- A segment that is what it should be. -/
theorem wit_Segments_3 : segReads (segState (segTag aSection) aSection) segLoad (segHead ++ segTag aSection)
    ∧ segmentFails segLoad (segHead ++ segTag aSection) = none
    ∧ (segState (segTag aSection) aSection).streamRead segLoad noHost (64 + 32) 128 = .ok aSection
    ∧ openSegment segLoad (segHead ++ segTag aSection) aSection = some (aSection, []) := by unfold segReads; decide +kernel

/-- A load of one segment more, its last: applied with a COMMIT before, without one, and a section that is refused. -/
def lastLoad (ended : Bool) : Load := { segLoad with got := 1, ended := ended }
theorem wit_Segments_4 : ((full.streamCost segLoad 160).applySections 0 3 0 aSection segLoad).2.2 = none ∧ 0 + 1 ≠ hSegs segLoad.header
    ∧ ((full.streamCost (lastLoad false) 160).applySections 0 3 0 aSection (lastLoad false)).2.2 = none ∧ 1 + 1 = hSegs segLoad.header
    ∧ ((full.streamCost (lastLoad false) 160).applySections 0 3 0 aSection (lastLoad false)).1.ended = false
    ∧ ((full.streamCost (lastLoad true) 160).applySections 0 3 0 aSection (lastLoad true)).2.2.isSome = true := by decide +kernel

/-- A CFG packet of each class at cell 0, which the fence holds or another tenant owns. -/
def cfgPk (cls : SrcClass) : Packet := { pk (.cfg 0x10 []) with cls := cls }
def cfgMeets (cls : SrcClass) (owner : Nat) (a : Bool) : Prop := (meets { owner := owner } (cfgPk cls)).fatal = false
  ∧ (meets { owner := owner } (cfgPk cls)).goodCell 0 = true ∧ (meets { owner := owner } (cfgPk cls)).cellOpen 0 = true
  ∧ (meets { owner := owner } (cfgPk cls)).mayArrive (cfgPk cls) = true
  ∧ ((meets { owner := owner } (cfgPk cls)).arrived (cfgPk cls)).ownerAdmits 0 (cfgPk cls) = a

theorem wit_Segments_5 : cfgMeets .loader fenceTag true ∧ cfgMeets .slipway 2 false ∧ (meets {} (cfgPk .host)).mayArrive (cfgPk .host) = true := by
  unfold cfgMeets; decide +kernel

/-- A load on gallery 31, which is cell 0. -/
def galLoad (l : Load) : State := { full with loads := [l], gals := [(31, aGal)] }

theorem wit_Segments_6 : ∃ (s : State) (i : Nat) (l : Load) (g : Gallery), s.fatal = false ∧ Tab.wf Cell.reset s.cells = true ∧ s.load? i = some l
    ∧ s.gallery? l.gallery = some g ∧ l.started = true ∧ l.full = false ∧ l.fenced = false ∧ l.result = none ∧ l.txOnly = false
    ∧ g.resident = true ∧ g.busy = false ∧ s.arrayHeld = false ∧ ∀ n, n ∈ s.loadCells l → s.cellIdle n = true :=
  ⟨galLoad { aLoad with full := false, started := true }, 0, { aLoad with full := false, started := true }, aGal, by decide +kernel⟩

/-- Loads whose segments are all in: one with nothing wrong, one with a SLIPWAY section whose signal is not the tenant's. -/
def endedLoad : Load := { aLoad with ended := true, got := 2 }
def badSlip : Load := { endedLoad with slipway := some [2 ^ 14 + 5] }
def allIn (s : State) (l : Load) : Prop := s.fatal = false ∧ s.load? 0 = some l ∧ s.gallery? l.gallery = some aGal ∧ l.ended = true ∧ l.committed = false
  ∧ l.result = none ∧ l.got = hSegs l.header ∧ s.arrayHeld = false ∧ s.links = []

theorem wit_Segments_7 : allIn (galLoad endedLoad) endedLoad
    ∧ (galLoad endedLoad).configFails ((galLoad endedLoad).applyConfig endedLoad) endedLoad aGal = none
    ∧ allIn { galLoad badSlip with regs := up.regs } badSlip
    ∧ ({ galLoad badSlip with regs := up.regs } : State).configFails (({ galLoad badSlip with regs := up.regs } : State).applyConfig badSlip) badSlip aGal
      = some (rSignal, 0xFFF, 0) := by unfold allIn; decide +kernel

/-- A committed PARTIAL load, and a FULL one that takes pages for its Sumps. -/
def doneLoad (f : Bool) : Load := { aLoad with committed := true, full := f }

theorem wit_Segments_8 : (∀ f ∈ [false, true], Tab.wf Cell.reset (galLoad (doneLoad f)).cells = true ∧ (galLoad (doneLoad f)).arrayHeld = false
      ∧ (galLoad (doneLoad f)).load? 0 = some (doneLoad f) ∧ (galLoad (doneLoad f)).gallery? 31 = some aGal ∧ (galLoad (doneLoad f)).flight = [])
    ∧ ((galLoad (doneLoad true)).takePages 1 4 (spillPages cfgHeader)).isSome = true := by decide +kernel

/-- A multicast stream's message at offset `a`, and the load that receives the stream with `n` bytes so far. -/
def mcMsg (a : Nat) : FMsg := { words := [0x20 + 2 ^ 9 + 2 ^ 16 * 16, 5 + 2 ^ 16 * 6, 0, 0, 0, a, 0, 6], data := List.replicate 16 1#8 }
def mcLoad (n : Nat) : Load := { tenant := 1, gallery := 31, src := 2, group := 5, mcSrc := 6, started := true, buf := List.replicate n 0#8 }
def mcState (n : Nat) : State := { full with loads := [mcLoad n], fer := { full.fer with ports := [(15, { st := .up })] } }

/-- A message in its place, past a gap, repeated, and of no stream that is read. -/
theorem wit_Multicast_1 : (mcState 32).fatal = false ∧ ((mcState 32).port 15).st.isUp = true ∧ (mcState 32).loads[0]? = some (mcLoad 32)
    ∧ (mcLoad 32).src = 2 ∧ (mcLoad 32).reading = true ∧ (∀ a ∈ [31, 32, 33], (mcMsg a).kind = kMcast ∧ (mcMsg a).mcast = true
      ∧ (mcLoad 32).group = (mcMsg a).dst ∧ (mcLoad 32).mcSrc = bits ((mcMsg a).w 7) 11 0 ∧ (mcMsg a).addr = a)
    ∧ (mcLoad 32).buf.length = 32 ∧ { mcLoad 32 with group := 9 }.group ≠ (mcMsg 32).dst := by decide +kernel

theorem wit_Multicast_2 : ∃ (s : State) (i want : Nat) (l : Load), s.fatal = false ∧ s.load? i = some l ∧ l.src = 2 ∧ l.reading = true
    ∧ (l.ended = false ∨ l.result ≠ none) ∧ (l.gap = true ∨ l.lastGc + 1000000 ≤ s.gc)
    ∧ want = (if l.buf.length < 64 then 64 - l.buf.length else streamLength l.buf - l.buf.length) ∧ want ≠ 0 ∧ s.fer.gets = []
    ∧ s.ferGood l.tenant 0 0 = true :=
  ⟨{ mcState 63 with gc := 1000000, regs := Tab.put 0 full.regs (rFdom 1) 3, feat := 0 }, 0, 1, mcLoad 63, by decide +kernel⟩

/-- A load that holds its stream until GC 50. -/
def holding (l : Load) : Load := { l with holdEnd := some 50 }
def holds (l : Load) (gc : Nat) : State := { full with loads := [holding l], gc := gc }

/-- Before the end of the window; at it, of a load that only sends, of one still loading and of one with a result. -/
theorem wit_Multicast_3 : ∀ x ∈ [(aLoad, 49), ({ aLoad with txOnly := true }, 50), (aLoad, 50), ({ aLoad with result := some (Status.ok.code, 0) }, 50)],
    (holds x.1 x.2).fatal = false ∧ (holds x.1 x.2).load? 0 = some (holding x.1) ∧ (x.2 < 50 ∨ 50 ≤ (holds x.1 x.2).gc) := by decide +kernel

/-- A gallery with a Slipway request for record 0 of a table in page 0, which holds the record's words. -/
def aSlip : Slipway := { sigGo := 0, tbl := 0, len := 1, keySlot := 0, quiesceMs := 1, queue := [0] }
def slipGal : Gallery := { aGal with slip := some aSlip }
def slipState (ws : List Nat) (mapped : Bool) : State :=
  { full with gals := [(31, slipGal)], pt := if mapped then [(2 ^ 27, 3)] else [], hbm := put 0 ws }
def slipTaken (ws : List Nat) (mapped : Bool) : State :=
  (slipState ws mapped).setGallery 31 (some { slipGal with slip := some { aSlip with queue := [] } })

/-- A record that holds a load, one whose word 4 sets a reserved bit, and one in a page that is not mapped. -/
theorem wit_Multicast_4 : (∀ x ∈ [([], true), ([0, 0, 0, 0, 2 ^ 17], true), ([], false)], (slipState x.1 x.2).fatal = false
      ∧ (slipState x.1 x.2).gallery? 31 = some slipGal ∧ (slipState x.1 x.2).loads = [] ∧ (slipState x.1 x.2).loadSlot = true)
    ∧ slipGal.resident = true ∧ slipGal.busy = false ∧ slipGal.loading = false ∧ slipGal.broken = false
    ∧ (slipTaken [] true).tvaCheck 1 0 64 false = .ok ∧ (∀ i, i < 16 → (words ((slipTaken [] true).tvaBytes 1 0 64)).getD i 0 = 0)
    ∧ (slipTaken [0, 0, 0, 0, 2 ^ 17] true).tvaCheck 1 0 64 false = .ok
    ∧ bits ((words ((slipTaken [0, 0, 0, 0, 2 ^ 17] true).tvaBytes 1 0 64)).getD 4 0) 31 17 ≠ 0
    ∧ (slipTaken [] false).tvaCheck 1 0 64 false ≠ .ok := by decide +kernel

/-- A Slipway load whose region must be quiet by GC 50: at its end without a fence, just before it, and at it with the fence up. -/
def slipLoad (f : Bool) : Load := { aLoad with full := false, slip := some 3, expires := some 50, started := true, fenced := f }

theorem wit_Multicast_5 : ∀ x ∈ [(false, 50), (false, 49), (true, 50)], ({ galLoad (slipLoad x.1) with gc := x.2 } : State).fatal = false
    ∧ ({ galLoad (slipLoad x.1) with gc := x.2 } : State).load? 0 = some (slipLoad x.1) := by decide +kernel

/-! ### Ill-formed terms: one for each check -/

theorem test_illFormed_cell : (Instr.droopTrip 2112).wf = false ∧ (Instr.droopTrip 2111).wf = true := by decide
theorem test_illFormed_ctx : (Instr.mtWait 0 4).wf = false ∧ (Instr.mtWait 0 3).wf = true := by decide
theorem test_illFormed_anyCtx : (Instr.waitRetry 0 8).wf = false ∧ (Instr.waitRetry 0 7).wf = true := by decide
theorem test_illFormed_su : (Instr.splitRecord 0 2).wf = false ∧ (Instr.splitRecord 0 1).wf = true := by decide
theorem test_illFormed_fn : (Instr.vfFlr 17).wf = false ∧ (Instr.vfFlr 16).wf = true := by decide
theorem test_illFormed_ring : (Instr.signalSet 0 8).wf = false ∧ (Instr.signalSet 0 7).wf = true := by decide
theorem test_illFormed_vec : (Instr.msixUnmask 0 9).wf = false ∧ (Instr.msixUnmask 0 8).wf = true := by decide
theorem test_illFormed_tenant : (Instr.tenantCreate 0).wf = false ∧ (Instr.tenantCreate 17).wf = false ∧ (Instr.tenantCreate 1).wf = true := by decide
theorem test_illFormed_engine : (Instr.engineComplete 36).wf = false ∧ (Instr.engineComplete 35).wf = true := by decide
theorem test_illFormed_job : (Instr.jobStop 4096).wf = false ∧ (Instr.jobStop 4095).wf = true := by decide
theorem test_illFormed_gallery : (Instr.galleryPark 32).wf = false ∧ (Instr.galleryPark 31).wf = true := by decide
theorem test_illFormed_group : (Instr.grpClear 64).wf = false ∧ (Instr.grpClear 63).wf = true := by decide
theorem test_illFormed_launch : (Instr.launchArm 64).wf = false ∧ (Instr.launchArm 63).wf = true := by decide
theorem test_illFormed_port : (Instr.ferLossOfLock 16).wf = false ∧ (Instr.ferLossOfLock 15).wf = true := by decide
theorem test_illFormed_stack : (Instr.reducedModeEntry 8 false).wf = false ∧ (Instr.reducedModeEntry 7 false).wf = true := by decide
theorem test_illFormed_die : (Instr.droopStepRise 4).wf = false ∧ (Instr.droopStepRise 3).wf = true := by decide
theorem test_illFormed_domain : (Instr.domainGate 32).wf = false ∧ (Instr.domainGate 31).wf = true := by decide
theorem test_illFormed_input : (Instr.streamWordArrive 0 5 0 0).wf = false ∧ (Instr.streamWordArrive 0 4 0 0).wf = true := by decide
theorem test_illFormed_packet : (Instr.rdData { pk (.wrAck .ok) with src := 4096 }).wf = false ∧ (Instr.rdData { pk (.wrAck .ok) with dst := 4096 }).wf = false
    ∧ (Instr.rdData { pk (.wrAck .ok) with tenant := 32 }).wf = false := by decide

/-- No word spells a command, and such a word is put in front of no queue. -/
theorem test_noWords : decodeTableWord 32 0x12345678 = none ∧ up.withFetchWord 32 0x12345678 = up := ⟨rfl, rfl⟩

/-! ### Jobs, tasks, phases and galleries -/

/-- A payload in host memory is what the host stored there. -/
theorem payload_host (s : State) (c : Cmd) (h : HostIn) (a n : Nat) (hc : c.payTva = false) (hf : h.fail = false) :
    s.payload c h a n = .ok (s.hostRead c.fn a n) := by simp [State.payload, hc, hf]

/-- One engine task, and the words of a job of it, on no gallery or on gallery 31: JOB_LAUNCH for the payload at 0x1000, its task at 0x1080. -/
def jobWords (gal : Nat) : List Nat :=
  [2 ^ 16 + gal, 1, 0x1080, 0, 0x10C0, 0] ++ List.replicate 10 0 ++ [16383] ++ List.replicate 15 0 ++ [1] ++ List.replicate 15 0
def jobRegs : Tab Nat := [(rTen 1 0x08, 1), (rTen 1 0x0C, 4), (rTenSig 1, 16384 * 2 ^ 16)]
def launchState (gal : Nat) (g : Tab (Option Gallery)) : State := { hostHas (entry 1 []) (jobWords gal) with regs := jobRegs, gals := g }

/-- What JOB_LAUNCH asks of the words of its payload. -/
def launchWords (w : Nat → Nat) : Prop := bits (w 0) 31 25 = 0 ∧ bits (w 0) 15 7 = 0 ∧ bits (w 1) 7 6 = 0 ∧ bits (w 1) 31 14 = 0
  ∧ (∀ i, i < 10 → w (6 + i) = 0) ∧ 1 ≤ bits (w 0) 24 16 ∧ bits (w 0) 24 16 ≤ 256 ∧ bits (w 1) 5 0 ≤ 32 ∧ bits (w 1) 13 8 ≤ 32
  ∧ (w 2 + 2 ^ 32 * w 3) % 64 = 0 ∧ (w 4 + 2 ^ 32 * w 5) % 64 = 0
  ∧ ∀ i, i < 32 → bits (w (16 + i / 2)) (16 * (i % 2) + 15) (16 * (i % 2)) < 16384

/-- The state once all three parts of the payload are read, the words of the first, and the task. -/
def launchT (s : State) : State := (s.hostStores 1 noHost).acctPay (entry 1 []) (entry 1 []).payPtr 128
def launchW (s : State) (i : Nat) : Nat := (words (s.hostRead 1 0x1000 128)).getD i 0
def launchU (s : State) : State := ((launchT s).acctPay (entry 1 []) 0x1080 64).acctPay (entry 1 []) 0x10C0 0
def launchTask (s : State) : Task := { words := words ((launchT s).hostRead 1 0x1080 64), readyGc := (launchU s).gc }
def launches (s : State) (gal : Option Nat) (g : Option Gallery) : Prop := launchW s 2 + 2 ^ 32 * launchW s 3 = 0x1080 ∧ launchW s 4 + 2 ^ 32 * launchW s 5 = 0x10C0 ∧ bits (launchW s 0) 24 16 = 1
  ∧ bits (launchW s 1) 13 8 = 0 ∧ bits (launchW s 1) 5 0 = 1 ∧ bits (launchW s 16) 15 0 = 16383 ∧ (launchU s).fnSignal 1 16383 = true
  ∧ ((bit (launchW s 0) 5 = false ∧ gal = none ∧ g = none) ∨ (bit (launchW s 0) 5 = true ∧ gal = some (bits (launchW s 0) 4 0)
      ∧ (launchU s).gallery? (bits (launchW s 0) 4 0) = g ∧ g.any (fun x => x.tenant == 1) = true))
  ∧ (launchTask s).ok 0 g = true ∧ (launchU s).rangesClear g (launchTask s) = true ∧ (launchTask s).phases = 0

theorem launches_reads (s : State) : (s.hostStores 1 noHost).payload (entry 1 []) noHost 0x1000 128 = .ok (s.hostRead 1 0x1000 128)
    ∧ (launchT s).payload (entry 1 []) noHost 0x1080 64 = .ok ((launchT s).hostRead 1 0x1080 64)
    ∧ (launchT s).payload (entry 1 []) noHost 0x10C0 0 = .ok ((launchT s).hostRead 1 0x10C0 0) :=
  ⟨payload_host _ _ _ _ _ (by decide +kernel) rfl, payload_host _ _ _ _ _ (by decide +kernel) rfl, payload_host _ _ _ _ _ (by decide +kernel) rfl⟩

/-- A job of no gallery, one of a gallery, and one of a gallery whose save image is broken. -/
theorem wit_Jobs_1 : ∀ x ∈ [(launchState 0 [], none, none), (launchState 63 [(31, some aGal)], some 31, some aGal),
    (launchState 63 [(31, some { aGal with broken := true })], some 31, some { aGal with broken := true })], launches x.1 x.2.1 x.2.2 := by
  unfold launches; decide +kernel

theorem wit_Jobs_1a : ∀ gal ∈ [0, 63], (launchState gal [(31, some aGal)]).entryAt 1 7 1 (entry 1 []) ∧ launchWords (launchW (launchState gal [])) := by
  unfold launchWords State.entryAt; decide +kernel

theorem wit_Jobs_2 : ∃ (s t : State) (fn k : Nat) (h : HostIn) (c : Cmd) (bs : List Byte), s.entryPayAt fn k 5 64 h c bs t
    ∧ bits (c.w 5) 5 0 < 36 :=
  ⟨{ hostHas { entry 5 [] with words := [5, 9, 0, 0, 0, 35, 0x1000, 0] } [0x10] with regs := jobRegs }, _, 1, 7, noHost,
    { entry 5 [] with words := [5, 9, 0, 0, 0, 35, 0x1000, 0] }, _, ⟨by unfold State.entryAt; decide +kernel, rfl, rfl⟩, by decide +kernel⟩

/-- A job of tenant 1 without a gallery. -/
def aJob : Job :=
  { tenant := 1, ref := { fn := 1, ring := 7, tag := 3 }, cmdId := none, opcode := 1, gallery := none, deadline := 1000, admitGc := 0 }
def jobState (j : Job) : State := { full with jobs := [(4095, some j)] }

theorem wit_Jobs_3 : ∃ (s : State) (j : Job) (n : Nat), s.tablesLost.contains j.tenant = false ∧ j.maps = [] ∧ j.sigs.Nodup
    ∧ (∀ n, n ∈ j.sigs → (s.signal n).st ≠ .live) ∧ s.pagesUsed j.tenant ≤ s.reg (rTen j.tenant 0x0C) % 2 ^ 18 ∧ s.l2.length ≤ l2Pool
    ∧ n ∈ j.sigs ∧ ∀ n, n ∈ j.sigs → (s.signal n).waiters = [] :=
  ⟨full, { aJob with sigs := [0, 16383] }, 16383, by decide +kernel⟩

/-- JOB_CANCEL of tag 3 of its own ring, which holds an entry of that tag; and other commands. -/
def winEntry (job : Bool) : WinEntry := { tag := 3, id := 1, job := job, dup := false, done := none }
def cancels (job : Bool) (cs : List Cmd) : State :=
  { atEntry (entry 2 [7, 3]) with cmds := entry 2 [7, 3] :: cs, rings := [(15, { st := .active, owed := 1, window := [winEntry job] })],
                                  jobs := [(4095, some aJob)] }
def cancelAt (s : State) (job : Bool) : Prop := s.entryAt 1 7 2 (entry 2 [7, 3])
  ∧ (s.ring 1 7).window.reverse.find? (fun e => e.tag == 3 && !e.dup) = some (winEntry job)

theorem wit_Jobs_4 : cancelAt (cancels true []) true ∧ (winEntry true).job = true ∧ (cancels true []).slotOf 1 7 3 = some 4095
    ∧ cancelAt (cancels false []) false ∧ (winEntry false).job = false := by unfold cancelAt State.entryAt; decide +kernel

/-- The command of that tag is still fresh: the cancellation waits. -/
theorem wit_Jobs_5 : cancelAt (cancels false [{ entry 9 [0] with id := 5, tag := 3 }]) false := by unfold cancelAt State.entryAt; decide +kernel

def cancelled : StopCause := { status := .cancelled, seq := 0 }

theorem wit_JobsCause : (jobState { aJob with stop := some cancelled }).job? 4095 = some { aJob with stop := some cancelled }
    ∧ (jobState aJob).job? 4095 = some aJob ∧ aJob.stop = none := by decide +kernel

/-- A context task of cell 0, on gallery 31. -/
def ctxTask : Task := { words := [16, 0, 0, 0, 0, 0] ++ List.replicate 10 0 }
def galJob (ts : List Task) : Job := { aJob with gallery := some 31, tasks := ts }
def galState (j : Job) : State := { jobState j with gals := [(31, aGal)], cells := [(0, { cmdCount := 1, owner := 1 })] }

/-- An engine task, and a module whose engines are in service. -/
def engTask : Task := { words := [1] ++ List.replicate 15 0 }
def engState (t : Task) : State := { jobState { aJob with tasks := [t] } with regs := [(rFeatStatus, 2 ^ 64 - 1)] }

theorem wit_Tasks_1 : ∀ x ∈ [(galState (galJob [ctxTask]), false, ctxTask), (engState engTask, true, engTask)],
    x.1.fatal = false ∧ x.1.readyTasks.find? (fun y => x.1.bindable y.1 y.2) = some (4095, 0) ∧ x.2.2.isEngine = x.2.1
      ∧ (x.1.job? 4095).bind (fun j => j.tasks[0]?) = some x.2.2 := by decide +kernel

theorem wit_Tasks_2 : ∀ x ∈ [(galState (galJob [{ ctxTask with st := .bound }]), { ctxTask with st := .bound }),
      (engState { engTask with st := .bound, eng := some 1 }, { engTask with st := .bound, eng := some 1 })],
    x.1.fatal = false ∧ (x.1.job? 4095).bind (fun j => j.tasks[0]?) = some x.2 ∧ x.2.st = .bound
      ∧ ((x.2.isEngine = false ∧ x.1.taskLive 4095 0 = false ∧ x.2.phase.current = none)
        ∨ (x.2.isEngine = true ∧ x.2.eng.isSome = true ∧ x.1.engineHolds 4095 0 = false)) := by decide +kernel

/-- A job that stops: its units told or not, its end reached or not. -/
def stopJobOf (told ab : Bool) (ts : List Task) : Job :=
  { aJob with stop := some { status := .timeout, seq := 7 }, stopped := told, abandoned := ab, tasks := ts }

/-- A stopped job with nothing left, one whose context is still in cell 0, and one whose units have not been told. -/
theorem wit_Tasks_3 : (∀ j ∈ [stopJobOf true false [], stopJobOf true false [ctxTask], stopJobOf false false []],
      (jobState j).fatal = false ∧ (jobState j).job? 4095 = some j ∧ j.stop.isSome = true ∧ j.abandoned = false)
    ∧ (jobState (stopJobOf true false [])).jobQuiet 4095 (stopJobOf true false []) = true
    ∧ ({ jobState (stopJobOf true false [ctxTask]) with cells := [(0, { mt := [(0, { st := .held, job := some 4095, task := 0 })] })] } : State).jobQuiet 4095
      (stopJobOf true false [ctxTask]) = false := by decide +kernel

/-- Jobs that end: with their command or without, and of a cause. -/
theorem wit_Tasks_4 : ∀ x ∈ [({ aJob with tasks := [{ ctxTask with st := .done }] }, []), (stopJobOf true true [], []),
      ({ stopJobOf true true [] with cmdId := some 4 }, [entry 1 []])],
    (jobState x.1).fatal = false ∧ Tab.wf none (jobState x.1).jobs = true ∧ Tab.wf {} (jobState x.1).sigs = true ∧ (jobState x.1).job? 4095 = some x.1
      ∧ ((x.1.stop = none ∧ (∀ t, t ∈ x.1.tasks → t.st = .done) ∧ x.1.dirty = []) ∨ (x.1.stop ≠ none ∧ x.1.abandoned = true))
      ∧ x.1.cmdId.bind (fun n => ({ jobState x.1 with cmds := x.2 } : State).cmds.find? (fun c => c.id == n)) = x.2.head? := by decide +kernel

/-- A task of 2 phases whose records lie from TVA 0 on: phase 0 pages 64 bytes into region 1 of cell 0, in PAGED granules. -/
def pagedTask (p : PhaseProg) : Task := { words := [16, 0, 0, 2 + 2 ^ 8, 0, 0, 16 + 2 ^ 8 * 32 + 2 ^ 17 * 3] ++ List.replicate 9 0, phase := p }
def phaseHbm : Memory := put 0 [1 + 2 ^ 16 * 5, 0, 0, 0, 64, 0, 0, 0, 1 + 2 ^ 16 * 5, 0, 0, 0, 64, 0, 0, 0, 0, 0, 2 ^ 28, 64]
def phaseState (p : PhaseProg) : State := { galState (galJob [pagedTask p]) with hbm := phaseHbm, pt := [(2 ^ 27, 3)] }
def phase0 : Phase := { relSig := 5, relVal := 0, rdySig := 0, rdyEn := false, xfers := [[0, 0, 2 ^ 28, 64]], ok := true }

/-- Its job may page phase 0 in `s`. -/
def pages (s : State) : Prop := s.fatal = false ∧ s.job? 4095 = some (galJob [pagedTask {}])
  ∧ s.mayPage 4095 (galJob [pagedTask {}]) 0 (pagedTask {}) = true ∧ s.released (pagedTask {}) 0 = true ∧ s.sag < 4

/-- Its record is in no page, breaks a rule, and is what it should be. -/
theorem wit_Phases_1 : pages { phaseState {} with pt := [] } ∧ pages { phaseState {} with hbm := [] } ∧ pages (phaseState {})
    ∧ ({ phaseState {} with hbm := [] } : State).phaseOk (galJob [pagedTask {}]) (pagedTask {}) 0 { phase0 with ok := false } = false
    ∧ (phaseState {}).phaseOk (galJob [pagedTask {}]) (pagedTask {}) 0 phase0 = true ∧ phaseRegions (pagedTask {}) 0 phase0.xfers = [(0, 1)]
    ∧ (phaseState {}).stagingRoom 1 1 = true := by unfold pages; decide +kernel

theorem wit_Phases_1a : (∃ e, ({ phaseState {} with pt := [] } : State).readPhase 1 (pagedTask {}) 0 = .error e)
    ∧ (∃ p, ({ phaseState {} with hbm := [] } : State).readPhase 1 (pagedTask {}) 0 = .ok p ∧ p.ok = false)
    ∧ (phaseState {}).readPhase 1 (pagedTask {}) 0 = .ok phase0 := ⟨⟨_, rfl⟩, ⟨_, rfl, by decide +kernel⟩, rfl⟩

/-- Phase 0 begun: its writes not made, or made, and with an addition to a signal. -/
def begun (placed rdy : Bool) : PhaseProg := { current := some 0, held := some { phase0 with rdyEn := rdy }, regions := [(0, 1)], placed := placed }

theorem wit_Phases_2 : (∀ x ∈ [(false, false), (true, false), (true, true)], (phaseState (begun x.1 x.2)).fatal = false
      ∧ (phaseState (begun x.1 x.2)).job? 4095 = some (galJob [pagedTask (begun x.1 x.2)])
      ∧ (phaseState (begun x.1 x.2)).servable (galJob [pagedTask (begun x.1 x.2)]) (pagedTask (begun x.1 x.2)) = true)
    ∧ (phaseState (begun false false)).servedFirst 4095 0 (galJob [pagedTask (begun false false)]) (pagedTask (begun false false)) = true
    ∧ (phaseState (begun false false)).sourcesEnd 1 phase0 = .ok ∧ ({ phaseState {} with pt := [] } : State).sourcesEnd 1 phase0 ≠ .ok
    ∧ ({ phaseState (begun false false) with pt := [] } : State).servable (galJob [pagedTask (begun false false)]) (pagedTask (begun false false)) = true
    ∧ ({ phaseState (begun false false) with pt := [] } : State).servedFirst 4095 0 (galJob [pagedTask (begun false false)]) (pagedTask (begun false false))
      = true := by decide +kernel

/-- A task of 4 phases whose phase 2 waits, in a module that warms; the record of phase 3 is in a page or in none. -/
def warmTask : Task := { pagedTask { next := 2 } with words := [16, 0, 0, 4 + 2 ^ 8] ++ List.replicate 12 0, st := .bound }
def warmState (pt : Tab Nat) : State := { galState (galJob [warmTask]) with regs := [(rFmCtl, 1)], feat := 0, pt := pt }

theorem wit_Phases_3 : (∀ pt ∈ [[], [(2 ^ 27, 3)]], (warmState pt).fatal = false ∧ (warmState pt).job? 4095 = some (galJob [warmTask])
      ∧ bit ((warmState pt).reg rFmCtl) 0 = true ∧ (warmState pt).sag = 0 ∧ (warmState pt).sealed = false ∧ (warmState pt).feature 5 = false
      ∧ (warmState pt).mayPage 4095 (galJob [warmTask]) 0 warmTask = true ∧ (warmState pt).released warmTask 2 = false) ∧ 2 + 1 < warmTask.phases := by
  decide +kernel

theorem wit_Phases_3a : (∃ e, (warmState []).readPhase 1 warmTask 3 = .error e) ∧ ∃ p, (warmState [(2 ^ 27, 3)]).readPhase 1 warmTask 3 = .ok p :=
  ⟨⟨_, rfl⟩, _, rfl⟩

/-- A dirty page, and one that is clean though a job still waits for it. -/
theorem wit_Phases_4 : ({ full with pages := [(3, .dirty)] } : State).pageSt 3 = .dirty ∧ ({ full with pages := [(3, .dirty)] } : State).pageInFlight 3 = false
    ∧ Tab.wf .clean ({ full with pages := [(3, .dirty)] } : State).pages = true ∧ (4 * pageSize - 1) / pageSize = 3
    ∧ (jobState { aJob with dirty := [3] }).pageSt 3 ≠ .dirty ∧ (jobState { aJob with dirty := [3] }).jobs = [(4095, some { aJob with dirty := [3] })] := by
  decide +kernel

/-- Two galleries on cell 0: 31 resident and parkable, 30 parked with a job of an earlier deadline. -/
def parkGal (save : List Nat) : Gallery := { aGal with savePages := save }
def parkedGal : Gallery := { aGal with resident := false, saved := [(0, {})] }
def parkState (save : List Nat) : State :=
  { galState (galJob []) with
    gals := [(30, some parkedGal), (31, some (parkGal save))]
    jobs := [(4094, some { aJob with gallery := some 30, deadline := 5, tasks := [ctxTask] }), (4095, some (galJob []))]
    regs := [(rGalCtl 31, 1), (rTen 1 0x0C, 40)] }

/-- The state in which the parking of gallery 31 has begun, its save image in `ps`. -/
def parkBegun (v : State) (ps : List Nat) : State := v.setGallery 31 (some { parkGal ps with busy := true })

/-- Nothing of the gallery moves. -/
def parkQuiet (u : State) : Prop := (∀ e ∈ u.jobs, ∀ j ∈ e.2, j.gallery = some 31 → j.noSuspend = false ∧ j.stop = none ∧ j.tasks = [])
  ∧ u.inTransit aGal = false ∧ (∀ k ∈ u.galCells aGal, (u.cell k).savable = true) ∧ u.flight = [] ∧ Tab.wf Cell.reset u.cells = true
  ∧ Tab.wf none u.jobs = true ∧ Tab.wf none u.gals = true

/-- A gallery with its pages and one that takes them; a packet on its way to its cell holds the saving up. -/
theorem wit_Galleries_1 : (∀ ps ∈ [[1], []], (parkState ps).fatal = false ∧ (parkState ps).gallery? 31 = some (parkGal ps)
      ∧ (parkState ps).mayPark 31 (parkGal ps) = true ∧ (parkState ps).myTurn 1 = true ∧ (parkState ps).sag < 4)
    ∧ (parkState []).pagesUsed 1 + ceilDiv 3 4 ≤ bits ((parkState []).reg (rTen 1 0x0C)) 17 0
    ∧ ((parkState []).takePages 1 4 1).isSome = true ∧ (parkState [1]).galCells aGal = [0] ∧ parkQuiet (parkBegun (parkState [1]) [1])
    ∧ ({ parkBegun (parkState [1]) [1] with flight := [pk (.ctrl .fence)] } : State).flight.any (fun p => aGal.holds p.dst && decide (p.dst < cellSites)) = true := by
  unfold parkQuiet; decide +kernel

/-- A parked gallery whose cell is good, and one whose cell has been retired. -/
def restores (bad : List Nat) : State := { parkState [1] with gals := [(30, some parkedGal)], regs := [(rTen 1 0x10, 1)], badCells := bad }

theorem wit_Galleries_2 : (∀ bad ∈ [[], [0]], (restores bad).fatal = false ∧ (restores bad).gallery? 30 = some parkedGal ∧ (restores bad).myTurn 1 = true
      ∧ (restores bad).sag < 4 ∧ (restores bad).siteTaken 30 parkedGal = false ∧ (restores bad).wants 30 ≠ []
      ∧ (((restores bad).gals.filterMap (fun e => e.2)).map (fun (p : Gallery) => if p.resident && p.tenant == 1 then ((restores bad).galCells p).length
        else 0)).sum + parkedGal.saved.length ≤ bits ((restores bad).reg (rTen 1 0x10)) 11 0)
    ∧ (restores []).goodCell 0 = true ∧ (restores [0]).goodCell 0 = false ∧ (parkedGal.saved.map Prod.fst).Nodup
    ∧ Tab.wf Cell.reset (restores []).cells = true ∧ Tab.wf none (restores []).jobs = true := by decide +kernel

/-! ### Engines -/

/-- A command of job 4095 of these words from word 0 on, ready; an engine that holds it. -/
def eCmd (ws : List Nat) : EngCmd := { id := 6, job := 4095, task := 0, cmd := (ws ++ List.replicate (16 - ws.length) 0).flatMap (leBytes 4), ready := true }
def atEngine (e : Nat) (c : EngCmd) : State := { jobState aJob with engines := [(e, [c])] }
def engPk (op : Nat) : Packet := { pkHost (.engCmd 35 4095 0 (eCmd [op]).cmd) with dst := hubS }

/-- The command with `op` as it comes to the engine, and the state once it is answered. -/
def engIn (op e : Nat) (feat : Nat) : State := { jobState aJob with flight := [{ engPk op with body := .engCmd e 4095 0 (eCmd [op]).cmd }], feat := feat }
def engSeen (op e feat : Nat) : State := (engIn op e feat).arrived { engPk op with body := .engCmd e 4095 0 (eCmd [op]).cmd }
def engNew (op e feat : Nat) : EngCmd := { id := (engSeen op e feat).cmdCtr, job := 4095, task := 0, cmd := (eCmd [op]).cmd }

/-- An UPDATE for an OE engine and for another, a SHA384, an ALLREDUCE of a group that does not exist, a COMPRESS with its feature and without. -/
theorem wit_EngineCommands_1 : (∀ x ∈ [(0x80, 35), (0x80, 0), (0x72, 34), (0x20, 16), (0x60, 30)], ∀ feat ∈ [0xFFFFFFFF, 0],
      (engIn x.1 x.2 feat).fatal = false ∧ x.2 < 36 ∧ ((engIn x.1 x.2 feat).job? 4095).isSome = true
      ∧ (engIn x.1 x.2 feat).mayArrive { engPk x.1 with body := .engCmd x.2 4095 0 (eCmd [x.1]).cmd } = true)
    ∧ (engSeen 0x80 0 0).headerGood 1 0 (engNew 0x80 0 0) = false
    ∧ (engSeen 0x80 35 0).headerGood 1 35 (engNew 0x80 35 0) = true ∧ opClass 0x80 ≠ 5 ∧ (engNew 0x80 35 0).isColl = false
    ∧ (engNew 0x20 16 0).isColl = true ∧ (engSeen 0x20 16 0).grpFor 1 (engNew 0x20 16 0).group = none
    ∧ opClass 0x60 = 5 ∧ (engSeen 0x60 30 0).feature 14 = false := by decide +kernel

/-- A FILL whose body is good, one whose length is 0, and a step decision already known for it: what activation finds. -/
def fillOf (n : Nat) : EngCmd := eCmd [0x14, 0, 0, 0, 0, 0, 0, 0, 0, 0, 0, n]

theorem wit_EngineCommands_2 : (∀ n ∈ [8, 0], (atEngine 0 (fillOf n)).fatal = false ∧ (atEngine 0 (fillOf n)).engineHeld 0 = false
      ∧ ((atEngine 0 (fillOf n)).engine 0).find? (fun c => c.ready && !c.active && c.fin.isNone && ((atEngine 0 (fillOf n)).engStopped c).isNone
        && (atEngine 0 (fillOf n)).activeRoom 0 c && (atEngine 0 (fillOf n)).collTurn c) = some (fillOf n) ∧ (fillOf n).isColl = false)
    ∧ (atEngine 0 (fillOf 8)).bodyCheck (fillOf 8) ((atEngine 0 (fillOf 8)).oeGood (fillOf 8)) = (none, [])
    ∧ ((atEngine 0 (fillOf 0)).bodyCheck (fillOf 0) ((atEngine 0 (fillOf 0)).oeGood (fillOf 0))).1 = some .badCommand := by decide +kernel

theorem wit_EngineCommands_2a : (atEngine 0 (fillOf 8)).gateLookup (fillOf 8) = .ok none := rfl

def finCmd : EngCmd := { eCmd [0x10 + 2 ^ 9, 0, 16383, 1] with active := true, fin := some (0, 0), count := 8, cond := 1 }

/-- Commands that have ended: with a signal to add to, with a record, with another status, and one whose job stops. -/
theorem wit_EngineCommands_3 : ∀ x ∈ [(finCmd, some (0, 0)), ({ finCmd with cmd := (eCmd [0x10 + 2 ^ 10]).cmd }, some (0, 0)),
      ({ finCmd with fin := some (Status.timeout.code, 5) }, some (Status.timeout.code, 5))],
    (atEngine 0 x.1).fatal = false ∧ ((atEngine 0 x.1).engine 0).find? (fun c => ((atEngine 0 x.1).engEnding c).isSome) = some x.1
      ∧ (atEngine 0 x.1).engEnding x.1 = x.2 := by decide +kernel

/-- Every opcode's command as the one an engine selects. -/
def engOps : List Nat :=
  [0x10, 0x11, 0x12, 0x13, 0x14, 0x15, 0x20, 0x21, 0x22, 0x23, 0x24, 0x25, 0x30, 0x31, 0x40, 0x41, 0x50, 0x60, 0x61, 0x70, 0x71, 0x72, 0x80]
def runCmd (op : Nat) : EngCmd := { eCmd [op, 0, 0, 0, 0, 0, 0, 0, 0, 0, 0, 4, 0, 0, 0, 1] with active := true }
def counted (op : Nat) : State := ((atEngine 0 (runCmd op)).hostStores 1 noHost).chunkCount 0 6

/-- Fills 16 bytes of HBM at TVA 0 for tenant 1, whose first page is mapped. -/
def fillCmd : EngCmd := { eCmd [0x14, 0, 0, 0, 0, 0, 0, 0, 0, 0, 0, 16, 0x01020304] with active := true }
def mapped : State := { atEngine 0 fillCmd with pt := [(2 ^ 27, 3)], hbm := put 0 [1, 2, 3, 4] }

/-- An engine with nothing to do, and one whose command waits for tokens in sealed tenancy: its tenant has no reservation. -/
theorem wit_EngineChunks_1 : (atEngine 0 (eCmd [0x10])).chunkPick 0 = none
    ∧ ({ mapped with regs := [(rSealStatus, 1)], wheel := [0] } : State).chunkPick 0 = some fillCmd
    ∧ ({ mapped with regs := [(rSealStatus, 1)], wheel := [0] } : State).chunkServed fillCmd noHost = false := by decide +kernel

theorem wit_EngineChunks_2 : ∀ op ∈ engOps, (atEngine 0 (runCmd op)).fatal = false ∧ (atEngine 0 (runCmd op)).chunkPick 0 = some (runCmd op)
    ∧ (runCmd op).op = op ∧ (atEngine 0 (runCmd op)).engFn (runCmd op) = 1
    ∧ (op = 0x15 ∨ (runCmd op).isColl = true ∨ (((counted op).chunkSlot 0 true).engPlan (runCmd op) noHost).size = 1)
    ∧ (((counted op).chunkSlot 0 true).engine 0).find? (fun d => d.id == (runCmd op).id && ((counted op).chunkSlot 0 true).canChunk 0 d
      && ((counted op).chunkSlot 0 true).chunkServed d noHost)
      = some (runCmd op) := by decide +kernel

theorem wit_EngineChunks_3 : fillCmd.op ≠ 0x15 ∧ fillCmd.isColl = false ∧ fillCmd.decision = none ∧ fillCmd.done = 0
    ∧ ((mapped.regAdd (rEng 0 1) 1).engPlan fillCmd noHost).size = 1
    ∧ ((((mapped.regAdd (rEng 0 1) 1).engPlan fillCmd noHost).s.regAdd (rEng 0 7) 0).engWrites fillCmd
      (((mapped.regAdd (rEng 0 1) 1).engPlan fillCmd noHost).part 0)).2.2 = none
    ∧ (({ mapped with pt := [] } : State).engWrites fillCmd (((mapped.regAdd (rEng 0 1) 1).engPlan fillCmd noHost).part 0)).2.2.isSome = true := by
  decide +kernel

/-- A GATHER of two rows is two chunks, the first of which can be written. -/
def gatherCmd : EngCmd := { eCmd [0x30, 0, 0, 0, 0, 0, 0, 0, 0, 0, 0, 2, 2] with active := true }

theorem wit_EngineChunks_4 : (runCmd 0x15).op = 0x15 ∧ (runCmd 0x24).isColl = true
    ∧ ({ runCmd 0x80 with decision := some { step := 0, skip := true, cause := 1, voters := 1, gsumsq := 0 } } : EngCmd).isColl = false
    ∧ ((mapped.regAdd (rEng 0 1) 1).engPlan gatherCmd noHost).size = 2
    ∧ ((((mapped.regAdd (rEng 0 1) 1).engPlan gatherCmd noHost).s).engWrites gatherCmd
      (((mapped.regAdd (rEng 0 1) 1).engPlan gatherCmd noHost).part 0)).2.2 = none := by decide +kernel

theorem wit_EnginePlans_1 : ∃ (s t : State) (c : EngCmd) (h : HostIn) (bs : List Byte), c.op = 0x10
    ∧ s.engRead c h (c.f 6 1 0) (c.a64 7) (c.w 11) = (t, none, bs) := by
  refine ⟨mapped, (mapped.engRead { fillCmd with cmd := (eCmd [0x10, 0, 0, 0, 0, 0, 0, 0, 0, 0, 0, 16]).cmd } noHost 0 0 16).1,
    { fillCmd with cmd := (eCmd [0x10, 0, 0, 0, 0, 0, 0, 0, 0, 0, 0, 16]).cmd }, noHost, [1, 2, 3, 4].flatMap (leBytes 4), ?_, ?_⟩ <;> decide +kernel

/-- The byte that another active command has written is open, the one before it is the command's own (R351). -/
theorem test_unordered_bytes : (mapped.unordered { fillCmd with others := [(0, 0x100, 1)] } (0, 0xFF, [7#8, 8#8])).2
    = [7#8, (Config.freeBytes 0 2).getD 1 0#8] := by rfl

theorem wit_EnginePlans_2 : fillCmd.op = 0x14 := by decide +kernel

theorem wit_EnginePlans_3 : ∃ (s t : State) (c : EngCmd) (h : HostIn) (bs : List Byte), c.op = 0x72
    ∧ s.engRead c h 0 (c.a64 7) (c.w 11) = (t, none, bs) := by
  refine ⟨mapped, (mapped.engRead { fillCmd with cmd := (eCmd [0x72, 0, 0, 0, 0, 0, 0, 0, 0, 0, 0, 16]).cmd } noHost 0 0 16).1,
    { fillCmd with cmd := (eCmd [0x72, 0, 0, 0, 0, 0, 0, 0, 0, 0, 0, 16]).cmd }, noHost, [1, 2, 3, 4].flatMap (leBytes 4), ?_, ?_⟩ <;> decide +kernel

/-- GCM commands whose auxiliary block at TVA 64 holds 16 bytes of tag and no AAD. -/
def gcm (op : Nat) : EngCmd := { eCmd [op, 0, 0, 0, 0, 0, 0, 0, 0, 256, 0, 16, 64] with active := true, key := List.replicate 32 7#8 }
def gcmState (op : Nat) (tag : List Byte) : State :=
  { mapped with engines := [(0, [gcm op])], hbm := Memory.writeBytes (put 0 [1, 2, 3, 4]) 80 tag }
def gcmTagOf : List Byte := gcmTag (gcm 0x71).key (List.replicate 12 0#8) [] ([1, 2, 3, 4].flatMap (leBytes 4))
def gcmBlock (tag : List Byte) : List Byte := List.replicate 16 0#8 ++ tag ++ List.replicate 32 0#8

/-- What GCM commands read, in turn: source, auxiliary block, AAD. -/
def gcmA (op : Nat) (tag : List Byte) : State × EngEnd × List Byte := (gcmState op tag).engRead (gcm op) noHost 0 ((gcm op).a64 7) ((gcm op).w 11)
def gcmB (op : Nat) (tag : List Byte) : State × EngEnd × List Byte := (gcmA op tag).1.engRead (gcm op) noHost 0 ((gcm op).a64 12) 64
def gcmC (op : Nat) (tag : List Byte) : State × EngEnd × List Byte :=
  (gcmB op tag).1.engRead (gcm op) noHost 0 ((gcm op).a64 12 + 64) (leAt (gcmB op tag).2.2 12 4)

theorem wit_EnginePlans_4 : ∀ p ∈ [(0x70, List.replicate 16 0#8), (0x71, gcmTagOf), (0x71, List.replicate 16 0#8)],
    (gcmA p.1 p.2).2 = (none, [1, 2, 3, 4].flatMap (leBytes 4)) ∧ (gcmB p.1 p.2).2 = (none, gcmBlock p.2) ∧ (gcmC p.1 p.2).2 = (none, [])
    ∧ zeros ((gcmBlock p.2).drop 32) = true ∧ (gcm p.1).op = p.1 ∧ ((gcmBlock p.2).drop 16).take 16 = p.2
    ∧ (gcmBlock p.2).take 12 = List.replicate 12 0#8 := by decide +kernel

theorem wit_EnginePlans_5 : gcmTag (gcm 0x71).key (List.replicate 12 0#8) [] ([1, 2, 3, 4].flatMap (leBytes 4)) = gcmTagOf
    ∧ gcmTagOf ≠ List.replicate 16 0#8 := ⟨rfl, by decide +kernel⟩

theorem wit_EnginePlans_7 : ∃ (s t : State) (c : EngCmd) (h : HostIn) (bs : List Byte) (u : State) (row : List Byte), c.op = 0x30 ∧ c.w 11 = 1
    ∧ s.engRead c h 0 (c.a64 9) (if bit (c.w 6) 12 then 8 else 4) = (t, none, bs) ∧ bs.length = (if bit (c.w 6) 12 then 8 else 4)
    ∧ t.engRead c h 0 (c.a64 7 + leAt bs 0 bs.length * (c.f 12 15 0 * ((Fmt.ofCode (c.f 6 5 2)).getD .fp32).width / 8))
        (c.f 12 15 0 * ((Fmt.ofCode (c.f 6 5 2)).getD .fp32).width / 8) = (u, none, row) := by
  let c : EngCmd := { eCmd [0x30, 0, 0, 0, 0, 0, 0, 0, 0, 0, 0, 1, 2] with active := true }
  refine ⟨mapped, (mapped.engRead c noHost 0 0 4).1, c, noHost, leBytes 4 1, ((mapped.engRead c noHost 0 0 4).1.engRead c noHost 0 8 8).1,
    [3, 4].flatMap (leBytes 4), ?_, ?_, ?_, ?_, ?_⟩ <;> decide +kernel

theorem wit_Gcm : (List.replicate 32 (7#8 : Byte)).length = 32 := rfl

/-! ### Reset and the stages -/

/-- The module as it is given power: the input not yet qualified; with start-up under way at each stage. -/
def dark : State := { State.reset with regs := [], ao := { State.reset.ao with powered := false, perst := false, qualified := false } }
def starting (n : Nat) : State := { up with stage := n }

theorem wit_ResetsAndStages_1 : ∃ (s : State) (low high : Nat), s.ao.qualified = false ∧ 48000 ≤ low ∧ high ≤ 60000 ∧ s.ao.perst = false
    ∧ s.ao.off = false ∧ s.ao.inS5 = false ∧ s.pwr.trip = false := ⟨dark, 48000, 60000, by decide⟩

theorem wit_ResetsAndStages_2 : ∃ s : State, s.ao.perst = false ∧ s.ao.powered = true ∧ s.ao.off = false := ⟨up, by decide⟩

theorem wit_ResetsAndStages_3 : ∃ s : State, s.ao.perst = true ∧ s.ao.powered = true ∧ s.ao.qualified = true ∧ s.ao.off = false :=
  ⟨State.reset, by decide⟩

theorem wit_ResetsAndStages_4 : ∃ (s : State) (trig : Nat), 2 ≤ trig ∧ trig ≤ 4 ∧ s.ao.powered = true ∧ s.ao.off = false ∧ s.ao.perst = false
    ∧ s.ao.landed = true := ⟨up, 4, by decide⟩

def landState : State := { up with stage := 0, ao := { up.ao with landed := false, start := true } }

theorem wit_ResetsAndStages_5 : ∃ (s : State) (q p b svn : Nat), s.ao.start = true ∧ s.ao.landed = false ∧ s.mayStage = true
    ∧ s.ao.force = none ∧ s.bootRecord = some (q, p) ∧ s.bootBank (p % 2) = some (b, false) ∧ s.bundleOf b = some svn :=
  ⟨landState, 1, 0, 0, 0, by decide +kernel⟩

theorem wit_ResetsAndStages_6 : ∃ (s t u : State) (hbm : List Nat), s.stage = 0 ∧ s.ao.landed = true ∧ s.sec.recovery = false
    ∧ s.mayStage = true ∧ t = s.recoverErases ∧ t.bundleOf t.sec.bank ≠ none
    ∧ u = (t.countBoot.chooseSettings.loadSettings.extend 7 t.countBoot.chooseSettings.loadSettings.nv.active.2.secBytes).loadRetired.trainHbm hbm
    ∧ (∃ k, k < 8 ∧ u.stackMode k ≠ 2) :=
  ⟨starting 0, _, _, [1, 2], by decide +kernel, by decide +kernel, by decide +kernel, by decide +kernel, rfl, by decide +kernel, rfl, 0,
    by decide, by decide +kernel⟩

/-- The good sites joined to a set that holds every site up to `n` steps from site 0 hold, after `k` rounds, those up to `n + k`. -/
theorem joined_step (s : State) (hs : s.badCells = []) (n : Nat) (r l : List Nat) (hr : ∀ c, c < cellSites → cellX c + cellY c ≤ n → c ∈ r)
    (hl : ∀ c, c ∈ (r.flatMap neighbours).filter (fun c => s.goodCell c && !r.contains c) → c ∈ l) :
    ∀ c, c < cellSites → cellX c + cellY c ≤ n + 1 → c ∈ r ++ l := by
  intro c hc hn
  by_cases hin : c ∈ r
  · exact List.mem_append_left _ hin
  refine List.mem_append_right _ (hl c ?_)
  have h : ∃ d, d ∈ r ∧ c ∈ neighbours d := by
    by_cases h0 : cellX c + cellY c ≤ n
    · exact absurd (hr c hc h0) hin
    simp only [cellX, cellY, gridW] at h0 hn hr
    by_cases hx : c % 44 = 0
    · refine ⟨c - 44, hr _ (by omega) (by omega), ?_⟩
      have hy : ¬ cellY (c - 44) = gridH - 1 := by simp only [cellY, gridW, gridH, cellSites] at *; omega
      simp only [neighbours, if_neg hy, gridW]
      exact List.mem_append_right _ (List.mem_singleton.mpr (by omega))
    · refine ⟨c - 1, hr _ (by omega) (by omega), ?_⟩
      have hy : ¬ cellX (c - 1) = gridW - 1 := by simp only [cellX, gridW] at *; omega
      simp only [neighbours, if_neg hy]
      exact List.mem_append_left _ (List.mem_append_left _ (List.mem_append_right _ (List.mem_singleton.mpr (by omega))))
  obtain ⟨d, hd, hcd⟩ := h
  simp only [List.mem_filter, List.mem_flatMap, Bool.and_eq_true, Bool.not_eq_true']
  exact ⟨⟨d, hd, hcd⟩, by simp [State.goodCell, hs, hc], by simpa using hin⟩

theorem joined_reach (s : State) (hs : s.badCells = []) (k n : Nat) (r : List Nat)
    (hr : ∀ c, c < cellSites → cellX c + cellY c ≤ n → c ∈ r) : ∀ c, c < cellSites → cellX c + cellY c ≤ n + k → c ∈ s.joined k r := by
  induction k generalizing n r with
  | zero => exact hr
  | succ k ih =>
    rw [State.joined]
    split
    · next h =>
      have all (m : Nat) : ∀ c, c < cellSites → cellX c + cellY c ≤ n + m → c ∈ r := by
        induction m with
        | zero => exact hr
        | succ m im => simpa [Nat.add_assoc] using joined_step s hs (n + m) r [] im (fun c hc => h ▸ hc)
      exact all (k + 1)
    · intro c hc hn
      exact ih (n + 1) _ (joined_step s hs n r _ hr (fun c hc => List.mem_eraseDups.mpr hc)) c hc (by omega)

theorem first_good (s : State) (hs : s.badCells = []) (n : Nat) : (List.range (n + 1)).find? s.goodCell = some 0 := by
  rw [List.range_succ_eq_map, List.find?_cons, show s.goodCell 0 = true by simp [State.goodCell, hs, cellSites]]

theorem reached_all (s : State) (hs : s.badCells = []) (c : Nat) (hc : c < cellSites) : c ∈ s.reached := by
  unfold State.reached
  split
  · next r hr =>
    have := (first_good s hs 2111).symm.trans hr
    cases this
    generalize hk : cellSites = k at hc ⊢
    refine joined_reach s hs k 0 [0] (fun d hd h => ?_) c (hk ▸ hc) ?_
    · simp only [cellX, cellY, gridW] at h; simp only [List.mem_singleton]; omega
    · simp only [cellX, cellY, gridW, cellSites] at *; omega
  · next h => exact absurd ((first_good s hs 2111).symm.trans h) (by simp)

theorem wit_ResetsAndStages_7 : ∃ (s t u : State) (bad : List Nat), s.stage = 1 ∧ s.mayStage = true
    ∧ t = s.extend 5 (Config.fwImage s.sec.bank 3)
    ∧ u = (bad.eraseDups.filter ({ t with badCells := (t.nv.mfgBad ++ (t.bank 0).cells ++ (t.bank 1).cells).eraseDups, cells := [], gated := [] }
      : State).goodCell).foldl (fun s c => (s.mapOut c).record .cellRetired { noRec with node := c })
      { t with badCells := (t.nv.mfgBad ++ (t.bank 0).cells ++ (t.bank 1).cells).eraseDups, cells := [], gated := [] }
    ∧ cutOff ({ u with routeBad := u.badCells, flits := [] } : State).reached = false
    ∧ (∀ c, c < cellSites → ({ u with routeBad := u.badCells, flits := [] } : State).goodCell c = true
        → c ∈ ({ u with routeBad := u.badCells, flits := [] } : State).reached) := by
  refine ⟨starting 1, _, _, [], rfl, by decide, rfl, rfl, ?_, fun c hc _ => reached_all _ rfl c hc⟩
  simp only [cutOff, List.any_eq_false, Bool.not_eq_true, Bool.not_eq_false', List.any_eq_true, List.contains_iff_mem]
  intro n hn
  have : ∃ c, c ∈ attachCells n ∧ c < cellSites := by
    revert n; decide
  obtain ⟨c, h1, h2⟩ := this
  exact ⟨c, h1, reached_all _ rfl c h2⟩

theorem wit_ResetsAndStages_8 : ∃ (s : State) (e : Nat), s.stage = 2 ∧ s.mayStage = true ∧ s.ao.training = false
    ∧ (∀ p, p < 16 → ((s.beginStage3 e).port p).st ≠ .training) :=
  ⟨starting 2, 2 ^ 36 - 1, by decide +kernel⟩

theorem wit_ResetsAndStages_9 : ∃ s : State, s.stage = 2 ∧ s.mayStage = true ∧ s.ao.training = true
    ∧ (∀ p, p < 16 → (s.port p).st ≠ .training) := ⟨{ starting 2 with ao := { up.ao with training := true } }, by decide +kernel⟩

theorem wit_ResetsAndStages_10 : ∃ s : State, s.ao.powered = true ∧ s.ao.off = false ∧ s.ao.perst = false ∧ s.ao.landed = true ∧ s.fatal = false :=
  ⟨up, by decide⟩

/-- With no site good there is no route. -/
theorem none_reached (s : State) (h : s.badCells = List.range cellSites) : s.reached = [] := by
  unfold State.reached
  split
  · next r hr =>
    have hg := List.find?_some hr
    have hm := List.mem_range.mp (List.mem_of_find?_eq_some hr)
    simp [State.goodCell, h, hm] at hg
  · rfl

def allBad : State := { up with badCells := List.range cellSites }

theorem wit_ResetsAndStages_11 : cutOff allBad.reached = true := by
  have h : allBad.reached = [] := none_reached allBad (by simp only [allBad])
  rw [h]; decide +kernel

/-- PERST changes at a module that is not given power; a start without boot records, and without a bundle in either bank. -/
def landBare (boot : Bool) : State :=
  { landState with nv := { landState.nv with banks := List.replicate 2 { boot := if boot then some (1, 0) else none, bundle := none } } }

theorem wit_ResetsAndStages_12 : dark.ao.perst = false ∧ dark.ao.powered = false ∧ (landBare false).ao.start = true ∧ (landBare false).mayStage = true
    ∧ (landBare false).bootRecord = none ∧ (landBare true).bootRecord = some (1, 0) ∧ (landBare true).bootBank 0 = none := by decide +kernel

/-- No bundle runs; every stack fails to train; a port still trains. -/
theorem wit_ResetsAndStages_13 : ({ starting 0 with nv := (landBare true).nv } : State).recoverErases.bundleOf
        ({ starting 0 with nv := (landBare true).nv } : State).recoverErases.sec.bank = none
    ∧ (∀ k, k < 8 → ((starting 0).recoverErases.countBoot.chooseSettings.loadSettings.loadRetired.trainHbm (List.replicate 8 2)).stackMode k = 2)
    ∧ (starting 2).ao.training = false
    ∧ ({ starting 2 with fer := { up.fer with ports := [(15, { st := .training })] } } : State).port 15 = { st := .training } := by decide +kernel

/-! ### The non-volatile memory -/

def storedBytes : List Byte := ({} : Settings).body 0 ++ List.replicate 48 0#8
def pfEntry (op : Nat) (inl : List Nat) : Cmd := { entry op inl with fn := 0 }
def storeAt (op : Nat) (bs : List Byte) : State :=
  { atEntry (pfEntry op []) with host := [(0, Memory.writeBytes [] 0x1000 bs)], rings := [(7, { st := .active, owed := 1 })] }

theorem wit_NonVolatile_1 : ∃ (s t : State) (fn k : Nat) (h : HostIn) (c : Cmd) (bs : List Byte) (x : Settings),
    s.entryPayAt fn k 0xE 1024 h c bs t ∧ settingsOf bs = some x :=
  ⟨storeAt 0xE storedBytes, _, 0, 7, noHost, pfEntry 0xE [], (storeAt 0xE storedBytes).hostRead 0 0x1000 1024, {},
    ⟨by unfold State.entryAt; decide +kernel, payload_host _ _ _ _ _ (by decide +kernel) rfl, rfl⟩, by decide +kernel⟩

theorem wit_NonVolatile_2 : ∃ (s : State) (image : List Byte), s.ao.powered = true ∧ s.stage ≠ 0 ∧ image.length = 1024
    ∧ (({} : Settings).manage (settingsAt image)).inRange = true := ⟨up, storedBytes, by decide +kernel⟩

def nvOp (more : Bool) : NvOp := { bank := some 1, seq := 2, val := {}, cmd := some 4, more := more, begun := some 0 }
def nvState (more : Bool) : State := { atEntry { entry 0xE [] with st := .running } with nv := { banks := [{}, { settings := none }], ops := [nvOp more] } }

theorem wit_NonVolatile_3 : ∀ ok more : Bool, ∃ (s t : State) (o : NvOp) (rest : List NvOp) (n b : Nat), s.nv.ops = o :: rest
    ∧ o.begun = some n ∧ o.bank = some b
    ∧ t = (s.endErase b 3 n).updBank b (fun x => { x with settings := if ok then some (o.seq, o.val) else none }) ∧ o.more = more :=
  fun _ more => ⟨nvState more, _, nvOp more, [], 0, 1, rfl, rfl, rfl, rfl, rfl⟩

theorem wit_NonVolatile_6 : ∃ (s : State) (q p : Nat), s.ao.powered = true ∧ s.ao.landed = true ∧ s.nv.ops = []
    ∧ s.bootRecord = some (q, p) ∧ p < 2 ∧ s.nv.banks.length = 2 :=
  ⟨{ up with nv := { banks := [{ boot := some (3, 1) }, { boot := some (2, 0) }] } }, 3, 1, by decide⟩

def svnState : State := { up with sec := { up.sec with svnFloor := 3, svnRun := 127 } }

theorem wit_NonVolatile_7 : svnState.bar 0 = true ∧ svnState.sec.svnFloor < 127 ∧ 127 ≤ svnState.sec.svnRun := by decide

theorem wit_NonVolatile_8 : svnState.bar 0 = true ∧ (3 ≤ svnState.sec.svnFloor ∨ svnState.sec.svnRun < 3) := by decide

/-! ### Security -/

/-- The bytes of a word read back from its number. -/
theorem leBytes_leNat : ∀ bs : List Byte, leBytes bs.length (leNat bs) = bs
  | [] => rfl
  | b :: bs => by
    have hb := b.isLt
    rw [List.length_cons, leNat, leBytes, Nat.add_mul_div_left _ _ (by decide), Nat.div_eq_of_lt hb, Nat.zero_add, leBytes_leNat bs]
    congr 1
    apply BitVec.eq_of_toNat_eq
    simp only [BitVec.toNat_ofNat]
    omega

/-- A token for this serial and the first nonce, VENDOR_DEBUG; what a signature is good for is `Config.tokenOk`'s. -/
def token : List Byte :=
  [0x55#8, 0x44#8, 0x39#8, 0x5A#8, 1#8, 2#8, 0#8, 0#8] ++ (List.range 16).map (fun i => Config.serial.getD i 0#8)
    ++ (List.range 32).map (fun i => (Config.nonce 0).getD i 0#8) ++ List.replicate 200 0#8
def tokState : State := { up with regs := (List.range 64).map (fun i => (0x70100 + 4 * i, leAt token (4 * i) 4)) }

theorem get_map (f g : Nat → Nat) (hf : ∀ i j, f i = f j → i = j) (k : Nat) : ∀ l : List Nat, k ∈ l →
    Tab.get 0 (l.map (fun i => (f i, g i))) (f k) = g k
  | i :: l, h => by
    rw [List.map_cons, Tab.get]
    split
    · next e => rw [hf _ _ e]
    · next e => exact get_map f g hf k l ((List.mem_cons.mp h).resolve_left (fun hk => e (hk ▸ rfl)))

theorem fours (n : Nat) (bs : List Byte) (h : bs.length = 4 * n) : (List.range n).flatMap (fun i => (bs.drop (4 * i)).take 4) = bs := by
  induction n generalizing bs with
  | zero => exact (List.eq_nil_of_length_eq_zero h).symm
  | succ n ih =>
    rw [List.range_succ_eq_map, List.flatMap_cons, List.flatMap_map]
    have := ih (bs.drop 4) (by rw [List.length_drop]; omega)
    simp only [List.drop_drop, Nat.add_comm 4] at this
    simp only [Nat.succ_eq_add_one, Nat.mul_add, Nat.mul_one, this, Nat.mul_zero, List.drop_zero, List.take_append_drop]

theorem token_bytes : tokState.tokenBytes = token := by
  have hl : token.length = 4 * 64 := by decide +kernel
  rw [State.tokenBytes, ← fours 64 token hl]
  simp only [List.flatMap_def]
  refine congrArg List.flatten (List.map_congr_left (fun i hi => ?_))
  rw [List.mem_range] at hi
  rw [State.reg, tokState, get_map (fun i => 0x70100 + 4 * i) _ (fun _ _ h => by omega) i _ (List.mem_range.mpr hi), leAt]
  have : ((token.drop (4 * i)).take 4).length = 4 := by rw [List.length_take, List.length_drop, hl]; omega
  exact (congrArg (leBytes · _) this.symm).trans (leBytes_leNat _)

theorem wit_Security_1 (h : Config.tokenOk 2 up.nv.active.2.ownerKey token = true) : ∃ s : State, s.bar 0 = true ∧ s.sec.relocked = false
    ∧ s.tokenResult = 1 := by
  refine ⟨tokState, rfl, rfl, ?_⟩
  simp only [State.tokenResult, token_bytes]
  rw [if_neg (by decide), if_neg (by decide), if_neg (by simp [token]), if_neg (fun h => h rfl), if_neg (by rw [show byteAt token 5 = 2 from rfl, show tokState.nv = up.nv from rfl, h]; decide),
    if_neg (by decide +kernel)]

theorem wit_Security_2 : ∃ s : State, s.bar 0 = true ∧ s.sec.relocked = false ∧ s.tokenResult ≠ 1 := ⟨up, rfl, rfl, by decide +kernel⟩

theorem wit_Security_3 : ∃ s : State, s.bar 0 = true ∧ s.sec.dbg ≠ 0 := ⟨{ up with sec := { up.sec with dbg := 2 } }, by decide⟩

theorem wit_Security_5 : up.bar 0 = true ∧ 0x7F < 0x80 ∧ 16 ≤ 16 := by decide

/-- What is answered by an error: an index past 10, keys that are not up, a slot without a chain, four sessions, no such session. -/
def fullSessions : State := { up with sec := { up.sec with sessions := [0, 1, 2, 3].map (fun i => { id := i, root := none }) } }

theorem wit_Security_6 : up.spdmUp = true ∧ (10 < 11 ∧ 11 ≠ 0xFF) ∧ ({ up with sec := { up.sec with keysUp := false } } : State).sec.keysUp = false
    ∧ fullSessions.spdmUp = true ∧ (List.range 4).find? (fun i => (fullSessions.session? i).isNone) = none ∧ up.session? 3 = none := by decide +kernel

def keyState : State := { up with ferKeys := [(16, { cur := none, prev := some [7], since := 0 })], gc := 10000000000 }

theorem wit_Security_7 : ∃ (s : State) (n : Nat), n ≤ 16 ∧ (s.ferKey n).prev.isSome = true ∧ (s.ferKey n).since + 10000000000 ≤ s.gc :=
  ⟨keyState, 16, by decide +kernel⟩

/-- Session 3 of provisioning root 7, which may set every tenant's keys; tenant 1 exists. -/
def sessState : State :=
  { up with
    regs := [(rTenStatus 1, 1), (rLinkInfo, 3)]
    nv := { up.nv with active := (1, { roots := List.replicate 7 (List.replicate 48 0#8, 0) ++ [(List.replicate 48 1#8, 2 ^ 31 + 2 ^ 17 - 1)] }) }
    sec := { up.sec with sessions := [{ id := 3, root := some 7 }], ideSets := [(1, [1])], ideOn := some 0 } }
def keyReq (slot : Nat) : List Byte :=
  [BitVec.ofNat 8 slot, BitVec.ofNat 8 (if slot < 0x80 then 1 else slot - 0x80), 0#8] ++ List.replicate 45 0#8

theorem wit_Security_8 : ∃ (s : State) (id r : Nat) (req : List Byte) (x : Session), s.spdmUp = true ∧ s.session? id = some x
    ∧ x.root = some r ∧ s.setKeyCode r req ≠ 0 := ⟨sessState, 3, 7, [], { id := 3, root := some 7 }, by decide +kernel⟩

theorem wit_Security_9 : ∀ slot ∈ [0, 0x7F, 0x80, 0x81], sessState.spdmUp = true ∧ sessState.session? 3 = some { id := 3, root := some 7 }
    ∧ sessState.setKeyCode 7 (keyReq slot) = 0 ∧ byteAt (keyReq slot) 0 = slot := by decide +kernel

theorem wit_Security_11 : ∃ (s : State) (slot : Nat) (c : List Byte), s.spdmUp = true ∧ s.chainOf slot = some c := ⟨up, 0, _, rfl, rfl⟩

theorem wit_Security_12 : ∃ (s : State) (slot : Nat), s.spdmUp = true ∧ s.chainOf slot = none := ⟨up, 7, rfl, rfl⟩

theorem wit_Security_13 : ∃ s : State, s.spdmUp = true ∧ s.sec.keysUp = true := ⟨up, rfl, rfl⟩

theorem wit_Security_15 : ∃ s : State, s.spdmUp = true ∧ s.sec.keysUp = false := ⟨{ up with sec := { up.sec with keysUp := false } }, rfl, rfl⟩

theorem wit_Security_16 : ∃ (s : State) (i : Nat), s.spdmUp = true ∧ (List.range 4).find? (fun i => (s.session? i).isNone) = some i
    ∧ s.sec.keysUp = true := ⟨{ up with sec := { up.sec with sessions := [0, 1, 2].map (fun i => { id := i, root := none }) } }, 3, by decide +kernel⟩

/-- Whether a chain has a root is a certificate parser's matter, which `Config.chainRoot` leaves open: the state is met with any such chain. -/
theorem wit_Security_17 (chain hash : List Byte) (h : Config.chainRoot chain = some hash) : ∃ (s : State) (i : Nat), s.spdmUp = true
    ∧ (List.range 4).find? (fun i => (s.session? i).isNone) = some i ∧ s.sec.keysUp = true ∧ Config.chainRoot chain = some hash :=
  ⟨up, 0, rfl, rfl, rfl, h⟩

theorem wit_Security_19 : sessState.spdmUp = true ∧ sessState.session? 3 = some { id := 3, root := some 7 } ∧ Tab.get [] sessState.sec.ideSets 1 ≠ []
    ∧ bits (sessState.reg rLinkInfo) 2 0 ≠ 0 ∧ sessState.sec.ideOn ≠ some 1 ∧ sessState.sec.ideOn = some 0 ∧ sessState.session? 2 = none := by decide +kernel


/-! ### Recovery -/

theorem wit_Recovery_1 : up.stackMode 7 ≠ 2 ∧ up.sag = 0 ∧ up.pwr.mode = 0 ∧ 1 ≤ up.stage ∧ up.fatal = false ∧ up.stackMode 7 = 0 := by decide +kernel

def spareState : State := { up with pages := [(3, .marked), (4, .used)], regs := [(rStack 0, 0)] }

theorem wit_Recovery_2 : ∃ (s t : State) (p new : Nat), s.pageSt p = .marked ∧ s.fatal = false ∧ s.sparePage p = some (new, t) := by
  have h : (spareState.sparePage 3).isSome = true := by decide +kernel
  obtain ⟨x, hx⟩ := Option.isSome_iff_exists.mp h
  exact ⟨spareState, x.2, 3, x.1, by decide +kernel, rfl, hx⟩

theorem wit_Recovery_4 : up.bar 3 = true ∧ up.goodCell 2111 = true ∧ up.goodCell 2112 = false := by decide +kernel

theorem wit_Recovery_6 : up.ao.landed = true ∧ up.ao.powered = true := by decide

def dueCmd (op : Nat) (job : Option Nat) : Cmd := { entry op [] with st := .running, expires := some 7, job := job }
def dueState (op : Nat) (job : Option Nat) : State := { jobState aJob with cmds := [dueCmd op job], gc := 7 }

theorem wit_Recovery_7 : ∀ op ∈ [8, 9], (dueState op none).fatal = false ∧ (dueState op none).cmds.find? (fun c => c.id == 4) = some (dueCmd op none)
    ∧ (dueCmd op none).expires = some 7 ∧ 7 ≤ (dueState op none).gc ∧ (dueCmd op none).st = .running ∧ (dueCmd op none).op = op := by decide +kernel

theorem wit_Recovery_9 : ∃ (s : State) (id e : Nat) (c : Cmd) (k : Nat) (j : Job), s.fatal = false ∧ s.cmds.find? (fun c => c.id == id) = some c
    ∧ c.expires = some e ∧ e ≤ s.gc ∧ c.st = .running ∧ jobOp c.op = true ∧ c.job = some k ∧ s.job? k = some j ∧ j.suspended = false
    ∧ j.stop = none ∧ (∀ p, p < 16 → s.pausedBy k p = false) :=
  ⟨dueState 1 (some 4095), 4, 7, dueCmd 1 (some 4095), 4095, aJob, by decide +kernel⟩

/-- A page that has no spare, in a stack whose pages are all in use; a load whose command is late; a pair that is still forming. -/
theorem wit_Recovery_10 : ({ dueState 3 none with loads := [aLoad] } : State).loads.findIdx? (fun l => l.cmd == some 4) = some 0
    ∧ ({ dueState 3 none with loads := [aLoad] } : State).load? 0 = some aLoad ∧ aLoad.committed = false ∧ aLoad.result = none ∧ aLoad.txOnly = false
    ∧ aLoad.fenced = false ∧ ({ dueState 0xF none with tether := { st := .forming, cmd := some 4 } } : State).tether.st = .forming
    ∧ (dueCmd 0xF none).op = 0xF := by decide +kernel

/-- A cell that two records name as uncorrectable. -/
def uncorrRec (a : Nat) : FaultRec := { noRec with kind := .cellUncorrectable, node := 7, addr := a, seq := a }
theorem wit_Recovery_11 : ({ up with log := { up.log with ring := [uncorrRec 1, uncorrRec 2] } } : State).failing? 7 = some 2 := by decide +kernel

/-! ### Debug and trace -/

/-- The debug block open, cell 0 selected (halted with 7 steps left) at offset 64 of space 2 or 5. -/
def dbgState (space : Nat) : State :=
  { galState aJob with
    cells := [(0, { owner := 1, halted := true, stepLeft := 7, stepEnd := 5 })]
    sec := { up.sec with dbg := 1 }
    regs := [(rDbgSel, 2 ^ 16 * space), (rDbgBase, 64), (rSigSel, 9), (rSigVal, 5)]
    gc := 4 }

theorem wit_Debug_1 : (dbgState 5).dbgMayHalt true = true ∧ (dbgState 5).dbgMayHalt false = true ∧ 0 ∈ (dbgState 5).dbgCells true
    ∧ 0 ∈ (dbgState 5).dbgCells false ∧ Tab.wf Cell.reset (dbgState 5).cells = true := by decide +kernel

theorem wit_Debug_3 : ∃ (s : State) (c : Nat), (s.cell c).stepLeft ≠ 0 ∧ (s.cell c).stepEnd ≤ s.acycles (cellDie c) :=
  ⟨{ dbgState 5 with pwr := { up.pwr with acyc := [(0, 25000)] } }, 0, by decide +kernel⟩

theorem wit_Debug_5 : ∃ (s : State) (n v : Nat), s.bar 3 = true ∧ n = bits (s.reg rSigSel) 13 0 ∧ v = s.reg rSigVal % 2 ^ 32
    ∧ (s.dbgOpen = true ∨ s.sigTenant n = 0) := ⟨dbgState 5, 9, 5, by decide +kernel⟩

theorem wit_Debug_6 : ∃ (s : State) (n v : Nat), s.bar 3 = true ∧ n = bits (s.reg rSigSel) 13 0 ∧ v = s.reg rSigVal % 2 ^ 32
    ∧ s.dbgOpen = false ∧ s.sigTenant n ≠ 0 :=
  ⟨{ full with regs := [(rTenSig 1, 16384 * 2 ^ 16), (rSigSel, 16383), (rSigVal, 5)] }, 16383, 5, by decide +kernel⟩

theorem wit_Debug_7 : ∀ off ∈ [0, 0x7FF8], ∃ cell space a, cell = (dbgState 5).dbgCell ∧ space = bits ((dbgState 5).reg rDbgSel) 18 16
    ∧ a = bits ((dbgState 5).reg rDbgBase) 20 0 + off ∧ off % 8 = 0 ∧ off + 8 ≤ 0x8000 ∧ a + 8 ≤ spaceSize space ∧ (dbgState 5).dbgBlock = true
    ∧ (dbgState 5).winGrants cell space false = true ∧ (dbgState 5).bar 3 = true ∧ (dbgState 5).winGrants cell space true = true ∧ space ≠ 2 := by
  intro off h
  refine ⟨0, 5, 64 + off, ?_⟩
  revert off; decide +kernel

theorem wit_Debug_9 : up.bar 3 = true ∧ up.trace.copying = false ∧ up.fatal = false ∧ up.ao.powered = true := by decide

def waitRec : TraceRec := { gc := 0, kind := 1, tenant := 0, lost := false, job := 0, data := [] }

theorem wit_Debug_11 : ∃ (s : State) (r : TraceRec), s.trace.wait = some r ∧ r.gc + 16000 ≤ s.gc :=
  ⟨{ up with trace := { up.trace with wait := some waitRec }, gc := 16000 }, waitRec, by decide⟩

theorem wit_Debug_15 : up.regOpen 0 0x30040 = true ∧ 0x30040 % 8 = 0 ∧ regWide 0 0x30040 = true ∧ up.regOpen 0 0x2000 = true
    ∧ regWide 0 0x2000 = false := by decide +kernel

/-- The window without a session, a write of a cell that runs, and a write of the memory tile. -/
theorem wit_Debug_16 : ({ dbgState 5 with sec := up.sec } : State).winGrants 0 5 false = false
    ∧ ({ dbgState 5 with cells := [(0, { owner := 1 })] } : State).winGrants 0 5 true = false ∧ (dbgState 2).winGrants 0 2 true = true
    ∧ bits ((dbgState 2).reg rDbgSel) 18 16 = 2 := by decide +kernel

/-! ### The step gate -/

/-- A gate of tenant 1 and group 7, the child of device 2 or the root (device 3), with child 9 and one contribution at TVA 0. -/
def gset (parent : Nat) : GateSet :=
  { tenant := 1, tc := 0, group := 7, parent := parent, kids := [9], stepBase := 0, timeoutMs := 10, contribCount := 1, contribTva := 0
    contribSig := 9, decideSig := 8, decideTva := 64, gnormMax := 0x3F800000 }
def aGate (parent : Nat) : Gate := { set := gset parent, c := 0, v := 0 }
def gateState (g : Gate) : State :=
  { full with gate := some g, pt := [(2 ^ 27, 3)], hbm := put 0 [0, 0x3F800000, 1], sigs := [(9, { counter := 1, st := .live })]
              fer := { full.fer with devId := 3, idValid := true } }

theorem wit_Gate_1 : ∃ (s t : State) (ctl : Nat), s.fatal = false ∧ bit ctl 0 = true ∧ s.bar 3 = true ∧ s.gate = none ∧ s.feature 9 = true
    ∧ t = s.setReg (rGate 0) (ctl % 2 + 2 ^ 8 * bits ctl 12 8 + 2 ^ 16 * bits ctl 18 16) := ⟨full, _, 1, rfl, rfl, rfl, rfl, rfl, rfl⟩

theorem wit_Gate_2 : full.fatal = false ∧ full.bar 3 = true := by decide

/-- A gate whose contribution is there, whose vote is in time or late, and whose contributions lie in no page. -/
theorem wit_Gate_3 : (∀ c ∈ [0, 1], (gateState { aGate 3 with c := c }).gateOf false = some { aGate 3 with c := c } ∧ (gateState { aGate 3 with c := c }).sag < 3)
    ∧ (aGate 3).votes = true ∧ 1 ≤ ((gateState (aGate 3)).signal 9).counter ∧ (gateState (aGate 3)).tvaCheck 1 0 16 false = .ok
    ∧ ({ gateState (aGate 3) with pt := [] } : State).tvaCheck 1 0 16 false ≠ .ok := by decide +kernel

theorem wit_Gate_8 : ∃ (s : State) (al : Bool) (g : Gate) (t : Nat), s.fatal = false ∧ s.gateOf al = some g ∧ g.start = some t
    ∧ s.gateRoot al g = true ∧ (∀ p, p < 16 → (s.port p).stalled = false)
    ∧ t + 1000000 * g.set.timeoutMs ≤ s.gc :=
  ⟨{ gateState { aGate 3 with start := some 0 } with gc := 10000000 }, false, { aGate 3 with start := some 0 }, 0, by decide +kernel⟩

/-- Votes of the gate itself and of its child: ok or not, with a sum of squares. -/
def voted (ok : Bool) (x : Nat) : Gate :=
  { aGate 3 with own := [({ step := 0, ok := ok, voters := 1, sumsq := x }, 0, true)], kids := [(9, { step := 0, ok := true, voters := 1, sumsq := 0 })] }

theorem wit_Root : (voted false 0).combined.ok = false ∧ (voted true 0x40000000).combined.ok = true
    ∧ (FVal.decode .fp32 (voted true 0x40000000).set.gnormMax).lt (FVal.decode .fp32 (voted true 0x40000000).combined.sumsq) = true
    ∧ (voted true 0x3F800000).combined.ok = true ∧ (FVal.decode .fp32 (voted true 0x3F800000).combined.sumsq).isNan = false
    ∧ (FVal.decode .fp32 (voted true 0x3F800000).set.gnormMax).isNan = false
    ∧ (FVal.decode .fp32 (voted true 0x3F800000).set.gnormMax).lt (FVal.decode .fp32 (voted true 0x3F800000).combined.sumsq) = false := by
  decide +kernel

theorem wit_Root_4 : (gateState (aGate 2)).gate = some (aGate 2) ∧ (aGate 2).set.parent ≠ (gateState (aGate 2)).ferId false := by decide +kernel

/-! ### Shards and the tethered pair -/

/-- A shard job over one descriptor at TVA 0, its stream in HBM. -/
def shardWords (export_ : Bool) : List Nat := [1, 0, 0, if export_ then 0x2000 else 0x1000] ++ List.replicate 12 0

def shardEntry (e : Bool) : Cmd := entry (if e then 0xA else 0xB) []
def shardState (e : Bool) : State := { hostHas (shardEntry e) (shardWords e) with regs := jobRegs }
def shardPaid (e : Bool) : State := ((shardState e).hostStores 1 noHost).acctPay (shardEntry e) (shardEntry e).payPtr 64

/-- The entry stands ready and its payload is read; the job is admitted or (its tenant's tables are lost) is not. -/
theorem wit_Shards : ∀ e : Bool, (shardState e).entryPayAt 1 7 (if e then 0xA else 0xB) 64 noHost (shardEntry e) ((shardWords e).flatMap (leBytes 4)) (shardPaid e)
    ∧ (shardJob e ((shardWords e).flatMap (leBytes 4))).isSome = true
    ∧ (((shardPaid e).admitJob (shardEntry e) 0 ((shardPaid e).newJob (shardEntry e))).job? 0).isSome = true
    ∧ ((({ shardPaid e with tablesLost := [1] } : State).admitJob (shardEntry e) 0 ((shardPaid e).newJob (shardEntry e))).job? 0) = none := by
  intro e
  have h1 : (shardEntry e).payTva = false ∧ ((shardState e).hostStores 1 noHost).hostRead (shardEntry e).fn (shardEntry e).payPtr 64
      = (shardWords e).flatMap (leBytes 4) := by revert e; decide +kernel
  have h2 : (shardState e).entryAt 1 7 (if e then 0xA else 0xB) (shardEntry e) := by
    clear h1; unfold State.entryAt; revert e; decide +kernel
  refine ⟨⟨h2, (payload_host _ _ _ _ _ h1.1 rfl).trans (congrArg Except.ok h1.2), rfl⟩, ?_⟩
  clear h1 h2; revert e; decide +kernel

/-- A compressed export, for which feature 14 is needed, and a payload whose count is 0. -/
theorem wit_Shards_2 : (shardJob true ([1 + 2 ^ 23 + 2 ^ 24, 0, 0, 0x2000].flatMap (leBytes 4))).any (fun j => j.z.isSome) = true
    ∧ ({ shardPaid true with feat := 0 } : State).feature 14 = false ∧ shardJob true (List.replicate 64 0#8) = none
    ∧ shardJob false (List.replicate 64 0#8) = none := by decide +kernel

def tethWords (op : Nat) : List Nat :=
  match op with
  | 0 => [2 ^ 8, 9, 0, 0, 0, 1000 + 2 ^ 16 * 8, 0, 0, 1] ++ List.replicate 7 0
  | 2 => [2, 0, 0, 0, 0, 0, 0, 0, 1, 9 + 2 ^ 16 * 8] ++ List.replicate 6 0
  | n => n :: List.replicate 15 0
def tethEnt : Cmd := pfEntry 0xF []
def tethState (op : Nat) (x : Tether) (g : Option Gate) : State :=
  { atEntry tethEnt with
    host := [(0, put 0x1000 (tethWords op))]
    rings := [(7, { st := .active, owed := 1 })]
    regs := [(rTenStatus 1, 1), (rTenSig 1, 16384 * 2 ^ 16), (rFdom 1, 5)]
    pt := [(2 ^ 27, 3)]
    hbm := put 0 [0x80, 0, 0, 0, 0, 0, 0, 256]
    feat := 0x7FFF
    tether := x, aliasGate := g }
def tethPaid (op : Nat) (x : Tether) (g : Option Gate) : State := ((tethState op x g).hostStores 0 noHost).acctPay tethEnt tethEnt.payPtr 64

/-- The entry of each operation stands ready, with what the operation's clause asks beside it. -/
theorem wit_Tether_entry : ∀ y ∈ [(0, ({} : Tether), none), (1, {}, none), (2, { st := .holdingAlias, partner := 9 }, some (aGate 3)),
    (3, { st := .paired, partner := 9 }, none), (4, { st := .catchingUp, partner := 9 }, none)],
    (tethState y.1 y.2.1 y.2.2).entryPayAt 0 7 0xF 64 noHost tethEnt ((tethWords y.1).flatMap (leBytes 4)) (tethPaid y.1 y.2.1 y.2.2)
    ∧ ((tethWords y.1).flatMap (leBytes 4)).length = 64 ∧ (tethPaid y.1 y.2.1 y.2.2).feature 6 = true
    ∧ bits ((words ((tethWords y.1).flatMap (leBytes 4))).getD 0 0) 2 0 = y.1 ∧ tethPlain y.1 (words ((tethWords y.1).flatMap (leBytes 4))) = true := by
  intro y hy
  have h : (tethState y.1 y.2.1 y.2.2).entryAt 0 7 0xF tethEnt := by unfold State.entryAt; revert y; decide +kernel
  have hb : ((tethState y.1 y.2.1 y.2.2).hostStores 0 noHost).hostRead 0 0x1000 64 = (tethWords y.1).flatMap (leBytes 4) := by
    clear h; revert y; decide +kernel
  refine ⟨⟨h, (payload_host _ _ _ _ _ (by decide +kernel) rfl).trans (congrArg Except.ok hb), rfl⟩, ?_⟩
  clear h hb; revert y; decide +kernel

theorem wit_Tether_1 : ∃ (t : State) (es : List (List Byte)) (w : Nat → Nat), t = tethPaid 0 {} none
    ∧ w = (fun i => (words ((tethWords 0).flatMap (leBytes 4))).getD i 0) ∧ t.formGood (words ((tethWords 0).flatMap (leBytes 4))) = true
    ∧ t.mirrorList (bits (w 0) 12 8) (w 6 + 2 ^ 32 * w 7) (w 8) = .ok es ∧ w 5 ≠ 0 ∧ bits (w 5) 15 0 ≠ 0 ∧ bits (w 5) 23 16 ≠ 0 := by
  have h : (match (tethPaid 0 {} none).mirrorList 1 0 1 with | .ok _ => true | .error _ => false) = true := by decide +kernel
  split at h
  · next es he => exact ⟨_, es, _, rfl, rfl, by decide +kernel, he, by decide +kernel, by decide +kernel, by decide +kernel⟩
  · cases h

theorem wit_Tether_2 : (tethPaid 2 { st := .holdingAlias, partner := 9 } (some (aGate 3))).tether.st = .holdingAlias
    ∧ (tethPaid 2 { st := .holdingAlias, partner := 9 } (some (aGate 3))).aliasGate = some (aGate 3)
    ∧ (tethPaid 2 { st := .holdingAlias, partner := 9 } (some (aGate 3))).gateSetOk { (aGate 3).set with contribCount := 1, contribSig := 9, decideSig := 8, contribTva := 0, decideTva := 0 } = true
    ∧ (tethPaid 3 { st := .paired, partner := 9 } none).tether.st = .paired ∧ (tethPaid 3 { st := .paired, partner := 9 } none).tethUpdate = false
    ∧ (tethPaid 3 { st := .paired, partner := 9 } none).tether.resync = none
    ∧ (tethPaid 4 { st := .catchingUp, partner := 9 } none).tether.st = .catchingUp := by decide +kernel

def pairState (x : Tether) : State :=
  { full with tether := x, gc := 10000000, fer := { full.fer with devId := 3, idValid := true, ports := [(15, { st := .up })], epochs := [(9, 1)] } }

theorem wit_Tether_6 : ∃ s : State, s.fatal = false ∧ s.tether.st.beats = true ∧ s.tether.hbSent + 1000 * s.tether.hbUs ≤ s.gc :=
  ⟨pairState { st := .paired, partner := 9 }, by decide⟩

theorem wit_Tether_7 : ∃ s : State, s.fatal = false ∧ s.tether.st = .paired ∧ s.sag < 3 ∧ s.partnerSilent = true :=
  ⟨pairState { st := .paired, partner := 9 }, by decide⟩

def beat : FMsg := ferMsg kHeartbeat 7 3 9 0 1 0 0 0 (leBytes 2 9 ++ leBytes 2 2 ++ leBytes 2 1 ++ leBytes 2 0 ++ leBytes 8 77)

theorem wit_Tether_8 : ∃ (s t : State) (p : Nat) (m : FMsg), s.fatal = false ∧ s.ferOpen p = true ∧ m.kind = kHeartbeat ∧ s.ferMine m = true
    ∧ t = s.takeRx p m ∧ t.stray p m = false ∧ t.tether.st = .paired ∧ m.src = t.tether.partner ∧ m.len = 16 ∧ m.data.length = 16
    ∧ leAt m.data 2 1 ≠ 1 ∧ t.tether.peerEpoch = some (leAt m.data 4 2) ∧ t.tether.failing = false :=
  ⟨pairState { st := .paired, partner := 9, peerEpoch := some 1 }, _, 15, beat, rfl, by decide +kernel, by decide +kernel, by decide +kernel, rfl,
    by decide +kernel⟩

theorem wit_Tether_9 : ∃ (s : State) (e : Nat), s.fatal = false ∧ s.tether.claiming = true ∧ s.tether.refusedGc = none ∧ s.tether.peerLast = e
    ∧ e ≠ 0 ∧ e < 65535 := ⟨pairState { st := .solo, claiming := true, peerLast := 65534 }, 65534, by decide⟩

theorem wit_Tether_10 : ∃ (s : State) (g : Nat), s.fatal = false ∧ s.tether.refusedGc = some g ∧ s.tether.claiming = true
    ∧ g + 10000000 ≤ s.gc := ⟨pairState { st := .solo, claiming := true, refusedGc := some 0 }, 0, by decide⟩

theorem wit_Tether_11 : ∃ (s : State) (p : PeerInfo), s.fatal = false ∧ s.tether.st = .catchingUp ∧ s.tether.mirrors = [] ∧ s.tether.peer = some p :=
  ⟨pairState { st := .catchingUp, peer := some { gate := some (gset 2) } }, { gate := some (gset 2) }, by decide⟩

/-! ### Ferier messages -/

/-- The state once a received message has left the buffer. -/
def rxOf (s : State) (r : RxMsg) : State := s.updFer (fun f => { f with rx := f.rx.erase r })

/-- Everything of `State.msgAt`, as it is computed. -/
def rxGood (s : State) (p : Nat) (m : FMsg) (c : RxCtx) (r : RxMsg) : Bool :=
  decide (s.fatal = false ∧ s.ferOpen p = true ∧ (rxOf s r).stray p m = false
    ∧ (rxOf s r).ferMine m = true ∧ (rxOf s r).lowPower = false ∧ Tab.get 0 (rxOf s r).fer.epochs m.src = m.epoch ∧ s.rxEntry p m = some r
    ∧ c.again = r.tried ∧ ((rxOf s r).rxStream m).base ≤ m.seq ∧ ((rxOf s r).rxStream m).marked.contains m.seq = false
    ∧ m.seq < ((rxOf s r).rxStream m).base + 4096 ∧ (((rxOf s r).rxStream m).marked ≠ [] ∨ m.seq = ((rxOf s r).rxStream m).base)
    ∧ msgShape m = true ∧ (rxOf s r).tenantOf m.fdom = some c.t ∧ (m.tc = 7 → c.t = 0)
    ∧ (c.al = true → (rxOf s r).tether.st ≠ .catchingUp) ∧ (rxOf s r).openMsg c.t m = some c.m ∧ c.al = (rxOf s r).refAlias m
    ∧ c.first = (m.seq == ((rxOf s r).rxStream m).base) ∧ c.port = p)

theorem msgAt_of (s : State) (p : Nat) (m : FMsg) (c : RxCtx) (r : RxMsg) (h : rxGood s p m c r = true) : s.msgAt p m c (rxOf s r) := by
  obtain ⟨h1, h2, h3, h4, h5, h6, h7, h8, h9⟩ := of_decide_eq_true h
  exact ⟨h1, h2, h3, h4, h5, h6, ⟨r, h7, rfl, h8⟩, h9⟩

/-- Device 3's port 15 has received `m` from device 9; domain 5 is tenant 1's. -/
def rxState (s : State) (m : FMsg) : State :=
  { s with
    fer := { full.fer with devId := 3, idValid := true, ports := [(15, { st := .up })], epochs := [(9, 1)], rx := [{ port := 15, m := m }]
                           gets := [{ tag := 7, dst := 9, use := .mcast 4 0 }] }
    regs := [(rTenSig 1, 16384 * 2 ^ 16), (rFdom 1, 5), (rGrp 0 0, 1), (rGrp 0 4, 7 + 2 ^ 16), (rGrp 0 8, 2)]
    groups := [(0, [3, 9])]
    pt := [(2 ^ 27, 3)] }
def rxCtx (t : Nat) (m : FMsg) : RxCtx := { t := t, al := false, first := true, again := false, port := 15, m := m }
def rxAfter (s : State) (m : FMsg) : State := rxOf (rxState s m) { port := 15, m := m }
def fmsg (kind dom w5 w6 w7 : Nat) (data : List Byte) : FMsg := ferMsg kind 0 3 9 dom 1 w5 w6 w7 data
def zeros16 : List Byte := List.replicate 16 0#8

theorem rx_at (s : State) (m : FMsg) (t : Nat)
    (h : rxGood (rxState s m) 15 m (rxCtx t m) { port := 15, m := m } = true) : (rxState s m).msgAt 15 m (rxCtx t m) (rxAfter s m) :=
  msgAt_of _ 15 m (rxCtx t m) { port := 15, m := m } h

theorem wit_FerMessages_1 : ∃ (s u : State) (p : Nat) (m : FMsg) (c : RxCtx), s.msgAt p m c u ∧ m.kind = kPut ∧ c.m.addr % 16 = 0
    ∧ 16 ≤ c.m.len ∧ bit (c.m.w 6) 31 = false ∧ c.m.w 7 = 0 ∧ bit (c.m.w 6) 30 = false ∧ c.m.fdom ≠ 0 ∧ c.again = false
    ∧ u.tvaCheck c.t (u.rxTva c c.m.addr) c.m.len true = .ok ∧ u.tvaServed c.t (u.rxTva c c.m.addr) c.m.len = true :=
  ⟨_, _, 15, fmsg kPut 5 (pageSize - 16) 0 0 zeros16, _, rx_at full _ 1 (by decide +kernel), by decide +kernel⟩

theorem wit_FerMessages_2 : ∃ (s u : State) (p : Nat) (m : FMsg) (c : RxCtx), s.msgAt p m c u ∧ m.kind = kPut ∧ c.m.addr % 16 = 0
    ∧ 16 ≤ c.m.len ∧ bit (c.m.w 6) 31 = false ∧ c.m.w 7 = 0 ∧ bit (c.m.w 6) 30 = false ∧ c.m.fdom ≠ 0 ∧ c.again = false
    ∧ u.tvaCheck c.t (u.rxTva c c.m.addr) c.m.len true ≠ .ok :=
  ⟨_, _, 15, fmsg kPut 5 pageSize 0 0 zeros16, _, rx_at full _ 1 (by decide +kernel), by decide +kernel⟩

theorem wit_FerMessages_3 : ∃ (s u : State) (p : Nat) (m : FMsg) (c : RxCtx), s.msgAt p m c u ∧ m.kind = kGet ∧ c.m.len = 16
    ∧ 16 ≤ leAt c.m.data 0 4 ∧ leAt c.m.data 0 4 ≤ 16384 ∧ leAt c.m.data 0 4 % 16 = 0 ∧ bits (c.m.w 6) 31 16 = 0
    ∧ zeros (c.m.data.drop 8) = true ∧ u.ferRoom c.m.src = true ∧ u.tvaCheck c.t (u.rxTva c c.m.addr) (leAt c.m.data 0 4) false = .ok
    ∧ u.tvaServed c.t (u.rxTva c c.m.addr) (leAt c.m.data 0 4) = true :=
  ⟨_, _, 15, fmsg kGet 5 0 0 0 (leBytes 8 16384 ++ List.replicate 8 0#8), _, rx_at full _ 1 (by decide +kernel), by decide +kernel⟩

/-- A PUT that adds to a signal, and a reply with mirrored bytes. -/
theorem wit_FerMessages_13 : ∃ (s u : State) (p : Nat) (m : FMsg) (c : RxCtx), s.msgAt p m c u ∧ m.kind = kPut ∧ bit (c.m.w 6) 30 = true
    ∧ u.fnSignal c.t (u.rxSig c (bits (c.m.w 6) 29 16)) = true ∧ c.first = true ∧ u.tvaCheck c.t (u.rxTva c c.m.addr) c.m.len true = .ok :=
  ⟨_, _, 15, fmsg kPut 5 0 (2 ^ 30 + 2 ^ 16 * 9) 0 zeros16, _, rx_at full _ 1 (by decide +kernel), by decide +kernel⟩

def mirrorGet : GetReq := { tag := 8, dst := 9, use := .mirror 64 }
def mirrorState (m : FMsg) : State :=
  { rxState { full with tether := { st := .paired, tenant := 1, partner := 9 } } m with fer := { (rxState full m).fer with gets := [mirrorGet] } }

theorem wit_FerMessages_14 : ∃ (s u : State) (p : Nat) (m : FMsg) (c : RxCtx), s.msgAt p m c u ∧ m.kind = kGetResp
    ∧ u.fer.gets.find? (fun g => g.tag == c.m.w 7 && g.dst == c.m.src) = some mirrorGet ∧ bits (c.m.w 5) 7 0 = 0
    ∧ (u.updFer (fun f => { f with gets := f.gets.erase mirrorGet })).tvaCheck 1 64 c.m.len true = .ok :=
  ⟨_, _, 15, fmsg kGetResp 0 0 0 8 zeros16, rxCtx 0 (fmsg kGetResp 0 0 0 8 zeros16),
    msgAt_of (mirrorState (fmsg kGetResp 0 0 0 8 zeros16)) 15 _ _ { port := 15, m := fmsg kGetResp 0 0 0 8 zeros16 } (by decide +kernel), by decide +kernel⟩

/-- A SIGNAL, an ATOMIC and a QMSG that came before one of their stream that is still missing. -/
def earlyState (m : FMsg) : State :=
  { rxState full m with fer := { (rxState full m).fer with streams := [{ src := 9, dst := 3, tc := 0, base := 0, marked := [2] }] } }
def earlyCtx (m : FMsg) : RxCtx := { rxCtx 1 m with first := false }

theorem wit_FerMessages_15 : ∀ x ∈ [(kSignal, 16383 + 2 ^ 16, 5, 0), (kAtomic, 8, 3 * 2 ^ 16, 15), (kQmsg, 4095, 0, 0)],
    rxGood (earlyState ((fmsg x.1 5 x.2.1 x.2.2.1 x.2.2.2 (if x.1 = kSignal then [] else if x.1 = kQmsg then zeros16 ++ zeros16 else zeros16)).withSeq 1)) 15
      ((fmsg x.1 5 x.2.1 x.2.2.1 x.2.2.2 (if x.1 = kSignal then [] else if x.1 = kQmsg then zeros16 ++ zeros16 else zeros16)).withSeq 1)
      (earlyCtx ((fmsg x.1 5 x.2.1 x.2.2.1 x.2.2.2 (if x.1 = kSignal then [] else if x.1 = kQmsg then zeros16 ++ zeros16 else zeros16)).withSeq 1))
      { port := 15, m := (fmsg x.1 5 x.2.1 x.2.2.1 x.2.2.2 (if x.1 = kSignal then [] else if x.1 = kQmsg then zeros16 ++ zeros16 else zeros16)).withSeq 1 }
      = true := by decide +kernel

theorem wit_FerMessages_4 : ∃ (s u : State) (p : Nat) (m : FMsg) (c : RxCtx), s.msgAt p m c u ∧ m.kind = kGetResp
    ∧ u.fer.gets.find? (fun g => g.tag == c.m.w 7 && g.dst == c.m.src) = none :=
  ⟨_, _, 15, fmsg kGetResp 0 0 0 8 zeros16, _, rx_at full _ 0 (by decide +kernel), by decide +kernel⟩

theorem wit_FerMessages_5 : ∃ (s u : State) (p : Nat) (m : FMsg) (c : RxCtx) (g : GetReq) (gal off : Nat), s.msgAt p m c u ∧ m.kind = kGetResp
    ∧ u.fer.gets.find? (fun g => g.tag == c.m.w 7 && g.dst == c.m.src) = some g ∧ g.use = .mcast gal off ∧ bits (c.m.w 5) 7 0 = 0 :=
  ⟨_, _, 15, fmsg kGetResp 0 0 0 7 zeros16, _, { tag := 7, dst := 9, use := .mcast 4 0 }, 4, 0, rx_at full _ 0 (by decide +kernel), by decide +kernel⟩

theorem wit_FerMessages_6 : ∃ (s u : State) (p : Nat) (m : FMsg) (c : RxCtx) (old : List Byte) (a : AtomSlot) (new : Nat), s.msgAt p m c u
    ∧ m.kind = kAtomic ∧ c.m.len = 16 ∧ c.m.addr % 8 = 0 ∧ bits (c.m.w 6) 19 16 < 4 ∧ bits (c.m.w 6) 31 20 = 0 ∧ bits (c.m.w 7) 31 4 = 0
    ∧ c.first = true ∧ u.tvaCheck c.t (u.rxTva c c.m.addr) 8 true = .ok ∧ u.tvaCheck c.t (u.rxTva c c.m.addr) 8 false = .ok
    ∧ u.ferRoom c.m.src = true ∧ u.tvaServed c.t (u.rxTva c c.m.addr) 8 = true ∧ old = u.tvaBytes c.t (u.rxTva c c.m.addr) 8 ∧ a = { seq := c.m.seq, old := old }
    ∧ new = atomicOp (bits (c.m.w 6) 19 16) (leNat old) (leAt c.m.data 0 8) (leAt c.m.data 8 8) :=
  by
  refine ⟨_, _, 15, fmsg kAtomic 5 8 (3 * 2 ^ 16) 15 zeros16, _, _, _, _, rx_at full _ 1 (by decide +kernel), ?_, ?_, ?_, ?_, ?_, ?_, rfl, ?_, ?_, ?_, ?_, rfl, rfl, rfl⟩
    <;> decide +kernel

theorem wit_FerMessages_7 : ∃ (s u : State) (p : Nat) (m : FMsg) (c : RxCtx), s.msgAt p m c u ∧ m.kind = kAtomicResp :=
  ⟨_, _, 15, fmsg kAtomicResp 5 0 0 0 zeros16, _, rx_at full _ 1 (by decide +kernel), by decide +kernel⟩

theorem wit_FerMessages_8 : ∃ (s u : State) (p : Nat) (m : FMsg) (c : RxCtx) (n : Nat), s.msgAt p m c u ∧ m.kind = kSignal ∧ c.m.len = 0
    ∧ n = u.rxSig c (bits (c.m.w 5) 13 0) ∧ bits (c.m.w 5) 17 16 < 2 ∧ bits (c.m.w 5) 31 18 = 0 ∧ bits (c.m.w 5) 15 14 = 0 ∧ c.m.w 7 = 0
    ∧ u.fnSignal c.t n = true ∧ n < 16384 ∧ c.first = true :=
  ⟨_, _, 15, fmsg kSignal 5 (16383 + 2 ^ 16) 5 0 [], _, 16383, rx_at full _ 1 (by decide +kernel), by decide +kernel⟩

theorem wit_FerMessages_9 : ∃ (s u : State) (p : Nat) (m : FMsg) (c : RxCtx) (n : Nat) (l : MsgLogic), s.msgAt p m c u ∧ m.kind = kQmsg
    ∧ c.m.len = 32 ∧ c.m.w 5 = n ∧ n < 4096 ∧ c.m.w 6 = 0 ∧ c.m.w 7 = 0 ∧ c.al = false ∧ c.first = true ∧ u.goodCell n = true
    ∧ (u.cell n).owner ≠ 0 ∧ (u.cell n).owner ≠ fenceTag ∧ c.t = (u.cell n).owner ∧ (u.cell n).msg = some l
    ∧ (l.inbox.filter (fun e => !e.2.2)).length + u.reserved n < 16 :=
  ⟨_, _, 15, fmsg kQmsg 5 2111 0 0 (zeros16 ++ zeros16), _, 2111,
    inbox 15,
    rx_at { full with cells := [(2111, inboxCell 15)] } _ 1 (by decide +kernel), by decide +kernel⟩

/-- An ALL_REDUCE of 32 elements in two parts on group 7, this module rank 0; the peer was granted one fragment. -/
def collCmd : EngCmd :=
  { eCmd [0x20, 0, 0, 0, 0, 0, 7, 0, 0, 0, 0, 32] with active := true, coll := some { grp := 0, no := 4, n := 2, rank := 0, ordered := false, limitIn := [(1, 1)] } }
def collSt : CollSt := { grp := 0, no := 4, n := 2, rank := 0, ordered := false, limitIn := [(1, 1)] }
def collState : State := { jobState aJob with engines := [(8, [collCmd])] }

theorem wit_FerMessages_10 : ∀ x ∈ [(0, 0), (1, 1)], ∃ (s u : State) (p : Nat) (m : FMsg) (c : RxCtx) (g e peer : Nat) (cm : EngCmd) (k : CollSt) (v : State),
    s.msgAt p m c u ∧ m.kind = kColl ∧ u.grpOf (bits (c.m.w 5) 15 0) = some g ∧ u.collOn g = some (e, cm, k) ∧ collAgrees cm k c.m = true
    ∧ u.engTenant cm = c.t ∧ u.devRank g c.m.src = some peer ∧ Tab.get 0 k.arrived peer < Tab.get 0 k.limitIn peer
    ∧ collFragOk cm k peer (collPhase c.m) (bits (c.m.w 7) 11 0) (bits (c.m.w 7) 31 12) c.m.len = true ∧ collPhase c.m = collPhase m
    ∧ v = u.updColl e cm.id (fun x => { x with arrived := Tab.put 0 x.arrived peer (Tab.get 0 k.arrived peer + 1), left := x.left - 1 })
    ∧ collPhase m = x.1 := by
  intro x hx
  simp only [List.mem_cons, List.not_mem_nil, or_false] at hx
  rcases hx with rfl | rfl
  · refine ⟨_, _, 15, fmsg kColl 5 7 4 0 (List.replicate 64 0#8), _, 0, 8, 1, collCmd, collSt, _, rx_at collState _ 1 (by decide +kernel), ?_, ?_, ?_, ?_, ?_, ?_, ?_, ?_, rfl, rfl, ?_⟩
      <;> decide +kernel
  · refine ⟨_, _, 15, fmsg kColl 5 (7 + 2 ^ 26) 4 1 (List.replicate 64 0#8), _, 0, 8, 1, collCmd, collSt, _, rx_at collState _ 1 (by decide +kernel), ?_, ?_, ?_, ?_, ?_, ?_, ?_, ?_, rfl, rfl, ?_⟩
      <;> decide +kernel

theorem wit_FerMessages_12 : ∀ k ∈ [false, true], ∃ (s u : State) (p : Nat) (m : FMsg) (c : RxCtx) (g peer : Nat), s.msgAt p m c u ∧ m.kind = kColl
    ∧ collPhase m = 2 ∧ u.grpOf (bits (c.m.w 5) 15 0) = some g ∧ u.devRank g c.m.src = some peer ∧ (u.collOn g).isSome = k ∧ c.m.len = 0 := by
  intro k _
  cases k
  · exact ⟨_, _, 15, fmsg kColl 5 (7 + 2 ^ 27) 4 (2 ^ 12) [], _, 0, 1, rx_at full _ 1 (by decide +kernel), by decide +kernel⟩
  · exact ⟨_, _, 15, fmsg kColl 5 (7 + 2 ^ 27) 5 (2 ^ 12) [], _, 0, 1, rx_at collState _ 1 (by decide +kernel), by decide +kernel⟩

/-- A gate message of group 7 for step 0. -/
def gateMsg (kind n : Nat) : FMsg := fmsg kind 0 0 0 0 (leBytes 4 7 ++ leBytes 4 1 ++ List.replicate (n - 8) 0#8)

theorem wit_Gate_5 : ∃ (s u : State) (p : Nat) (m : FMsg) (c : RxCtx) (g : Gate), s.msgAt p m c u ∧ u.gateOf c.al = some g
    ∧ leAt c.m.data 0 2 = g.set.group ∧ m.kind = kVote ∧ gateMsgOk c 32 = true :=
  ⟨_, _, 15, gateMsg kVote 32, _, aGate 3, rx_at (gateState (aGate 3)) _ 0 (by decide +kernel), by decide +kernel⟩

theorem wit_Gate_6 : ∃ (s u : State) (p : Nat) (m : FMsg) (c : RxCtx) (g : Gate), s.msgAt p m c u ∧ u.gateOf c.al = some g
    ∧ leAt c.m.data 0 2 = g.set.group ∧ m.kind = kDecision ∧ gateMsgOk c 32 = true ∧ c.m.src = g.set.parent ∧ u.gateRoot c.al g = false
    ∧ leAt c.m.data 8 8 = g.c :=
  ⟨_, _, 15, gateMsg kDecision 32, _, aGate 9, rx_at (gateState (aGate 9)) _ 0 (by decide +kernel), by decide +kernel⟩

theorem wit_Gate_7 : ∃ (s u : State) (p : Nat) (m : FMsg) (c : RxCtx) (g : Gate), s.msgAt p m c u ∧ u.gateOf c.al = some g
    ∧ leAt c.m.data 0 2 = g.set.group ∧ m.kind = kReport ∧ gateMsgOk c 64 = true ∧ 1 ≤ leAt c.m.data 4 1 ∧ leAt c.m.data 4 1 ≤ 17
    ∧ u.gateRoot c.al g = true :=
  ⟨_, _, 15, gateMsg kReport 64, _, aGate 3, rx_at (gateState (aGate 3)) _ 0 (by decide +kernel), by decide +kernel⟩

/-! ### Ferier ports, retries and settings -/

def portState (q : Port) : State := { full with gc := 1000000000, fer := { full.fer with devId := 3, idValid := true, ports := [(15, q)] } }

theorem wit_FerPorts_1 : full.fatal = false ∧ full.bar 3 = true ∧ Tab.wf {} full.fer.ports = true := by decide

theorem wit_FerPorts_2 : ∃ (s : State) (p : Nat), s.fatal = false ∧ p < 16 ∧ (s.port p).st = .training ∧ (∀ q, q < 16 → (s.port q).st.isUp = false)
    ∧ (s.port p).ident = true ∧ s.gc ≤ (s.port p).since + 500000000 :=
  ⟨portState { st := .training, ident := true, since := 500000000 }, 15, by decide +kernel⟩

theorem wit_FerPorts_4 : ∃ (s : State) (p : Nat), s.fatal = false ∧ (s.port p).st.isUp = true := ⟨portState { st := .keepalive }, 15, by decide⟩

def aFlit : Flit := { ftype := 1, fseq := 0, ack := 4095, nak := false, tc := 0, first := 15, crdTc := 0, crdCount := 0, payload := [] }

/-- A flit with the CRC of its bytes. -/
def goodFlit (f : Flit) : Flit := { f with crc := crc64 (flitBytes f) }

theorem wit_FerPorts_5 : ∃ (s : State) (p : Nat), s.fatal = false ∧ (s.port p).st = .retrain ∧ s.gc ≤ (s.port p).since + 20000000
    ∧ (s.port p).buf ≠ [] := ⟨portState { st := .retrain, since := 980000000, buf := [aFlit] }, 15, by decide⟩

theorem wit_FerPorts_6 : ∃ (s : State) (p : Nat), s.fatal = false ∧ (s.port p).st = .replay ∧ (s.port p).since + 64000 ≤ s.gc
    ∧ 50000000 < ((s.port p).spans.map (spanTicks s.gc)).sum :=
  ⟨portState { st := .replay, since := 949999999, spans := [(949999999, 1000000000)] }, 15, by decide⟩

/-- A flit whose CRC does not hold, a keepalive, and data that are next and that are not. -/
theorem wit_FerPorts_8 : (portState { st := .up }).fatal = false ∧ ((portState { st := .up }).port 15).st.isUp = true ∧ flitGood aFlit = false
    ∧ flitGood { goodFlit aFlit with uncorr := 1 } = false ∧ flitGood (goodFlit { aFlit with ftype := 0 }) = true ∧ flitGood (goodFlit aFlit) = true
    ∧ (∀ n ∈ [0, 1], flitGood (goodFlit { aFlit with fseq := n }) = true
      ∧ (((portState { st := .up }).flitLink 15 (goodFlit { aFlit with fseq := n })).port 15).st.isUp = true)
    ∧ 0 = ((((portState { st := .up }).flitLink 15 (goodFlit aFlit)).port 15).rxSeq + 1) % 4096 := by decide +kernel

/-- A port that stays in training past 500 ms, one already up with another device's number, and a retraining that takes more than 20 ms. -/
theorem wit_FerPorts_9 : (∀ q ∈ [({ st := .training, since := 499999999 } : Port), { st := .retrain, since := 979999999 }],
      (portState q).fatal = false ∧ ((portState q).port 15).since = q.since ∧ (portState q).gc = 1000000000)
    ∧ (portState { st := .up }).fer.devId ≠ 9 % 4096 ∧ ((portState { st := .up }).port 15).st.isUp = true := by decide +kernel

/-- A PUT sent to device 9, refused or not: the outstanding message, a NAK of a reason, an ACK. -/
def outMsg (o : OutMsg) : State :=
  { portState { st := .up } with fer := { (portState { st := .up }).fer with out := [o], rx := [{ port := 15, m := fmsg kPut 5 0 0 0 zeros16, since := 0 }] } }
def sentPut : OutMsg := { m := ferMsg kPut 0 9 3 5 1 0 0 0 zeros16, owner := .none, tenant := 1 }
def nakMsg (reason : Nat) : FMsg := ferMsg kNak 7 3 9 0 1 (reason + 2 ^ 16) 0 0 []

theorem wit_FerRetries_1 : ∃ (s : State) (p : Nat) (m : FMsg), s.fatal = false ∧ s.ferOpen p = true ∧ m.kind = kAck ∧ s.ferMine m = true :=
  ⟨outMsg sentPut, 15, ferMsg kAck 7 3 9 0 1 0 0 0 [], by decide +kernel⟩

theorem wit_FerRetries_2 : ∀ y ∈ [(1, 6, 0), (2, 0, 3), (3, 0, 0), (15, 0, 0)], ∃ (s t : State) (p : Nat) (m : FMsg) (hit : OutMsg → Bool) (o : OutMsg),
    s.fatal = false ∧ s.ferOpen p = true ∧ m.kind = kNak ∧ s.ferMine m = true ∧ t = (s.takeRx p m).regAdd (rFerCtr 3) 1
    ∧ hit = (fun (o : OutMsg) => sameMsg (s.refAlias m) m.src m.stc m.seq o && o.m.epoch == bits (m.w 5) 31 16)
    ∧ t.fer.out.find? hit = some o ∧ bits (m.w 5) 3 0 = y.1 ∧ o.naks = y.2.1 ∧ o.fulls = y.2.2 := by
  intro y hy
  refine ⟨outMsg { sentPut with naks := y.2.1, fulls := y.2.2 }, _, 15, nakMsg y.1, _, { sentPut with naks := y.2.1, fulls := y.2.2 }, rfl, rfl, ?_, ?_, rfl, rfl,
    ?_, ?_, rfl, rfl⟩ <;> revert y <;> decide +kernel

theorem wit_FerRetries_5 : ∀ y ∈ [(none, false), (some 1000000000, false), (some 1000000000, true)], ∃ (s : State) (al : Bool) (dst tc seq : Nat) (o : OutMsg),
    s.fatal = false ∧ s.fer.out.find? (sameMsg al dst tc seq) = some o ∧ s.lowPower = false ∧ s.ferOrphan o = false ∧ o.port = none ∧ o.due = y.1
    ∧ o.full = y.2 ∧ (∀ t, y.1 = some t → t ≤ s.gc) ∧ o.sentGc + 250000 ≤ s.gc ∧ o.retx < 8 := by
  intro y hy
  refine ⟨outMsg { sentPut with due := y.1, full := y.2, retx := 7 }, false, 9, 0, 0, { sentPut with due := y.1, full := y.2, retx := 7 }, rfl, ?_, rfl, rfl, rfl,
    rfl, rfl, ?_, ?_, (by decide : 7 < 8)⟩
  · revert y; decide +kernel
  · simp only [List.mem_cons, List.not_mem_nil, or_false] at hy
    rcases hy with rfl | rfl | rfl <;> intro t ht <;> cases ht <;> decide
  · revert y; decide +kernel

theorem wit_FerRetries_8 : ∃ (s : State) (p : Nat) (m : FMsg) (r : RxMsg), s.fatal = false
    ∧ s.fer.rx.find? (fun r => r.port == p && r.m == m) = some r ∧ r.since + 16000 ≤ s.gc ∧ seqKind m.kind = true
    ∧ (s.refAlias m = false ∨ s.tether.st ≠ .catchingUp) :=
  ⟨outMsg sentPut, 15, fmsg kPut 5 0 0 0 zeros16, { port := 15, m := fmsg kPut 5 0 0 0 zeros16, since := 0 }, by decide +kernel⟩

/-- Sent eight times without an answer, of a tenant and of the owner; a refused message of a command that is gone. -/
theorem wit_FerRetries_7 : (∀ o ∈ [{ sentPut with retx := 8 }, { sentPut with retx := 8, m := ferMsg kPut 0 9 3 0 1 0 0 0 zeros16 },
      { sentPut with due := some 1, owner := .engine 6 }],
    (outMsg o).fer.out.find? (sameMsg false 9 0 0) = some o ∧ (outMsg o).lowPower = false ∧ o.sentGc + 250000 ≤ (outMsg o).gc)
    ∧ (outMsg sentPut).ferOrphan { sentPut with owner := .engine 6 } = true ∧ (outMsg sentPut).ferOrphan sentPut = false := by decide +kernel

theorem wit_FerRetries_9 : ∃ (s : State) (t d : Nat), s.fatal = false ∧ 1 ≤ t ∧ t ≤ 16 ∧ s.bar 3 = true ∧ d < 65536 ∧ d ≠ 0
    ∧ (∀ k, 1 ≤ k → k ≤ 16 → k ≠ t → s.reg (rFdom k) ≠ d) :=
  ⟨full, 16, 65535, rfl, by decide, by decide, rfl, by decide, by decide, fun k h1 h2 _ => by
    have : ∀ k, k ≤ 16 → 1 ≤ k → full.reg (rFdom k) ≠ 65535 := by decide +kernel
    exact this k h2 h1⟩

theorem wit_FerRetries_10 : ∃ (s : State) (t d k : Nat), s.fatal = false ∧ 1 ≤ t ∧ t ≤ 16 ∧ s.bar 3 = true ∧ d < 65536 ∧ 1 ≤ k ∧ k ≤ 16 ∧ k ≠ t
    ∧ d ≠ 0 ∧ s.reg (rFdom k) = d := ⟨{ full with regs := [(rFdom 1, 5)] }, 16, 5, 1, by decide +kernel⟩

/-- A group of no rank, and one that a collective uses. -/
theorem wit_FerRetries_12 : full.grpUsed 63 = false ∧ (full.hostStores 0 noHost).grpSize 63 = 0
    ∧ ({ collState with regs := [(rGrp 0 0, 1), (rGrp 0 4, 7)] } : State).grpUsed 0 = true := by decide +kernel

def grpState : State :=
  { portState { st := .up } with regs := [(rGrp 63 4, 9), (rGrp 63 8, 2 + 2 ^ 16), (rGrp 63 0x10, 0x1000)], host := [(0, put 0x1000 [9 + 2 ^ 16 * 3])] }

theorem wit_FerRetries_11 : ∃ (s t : State) (i : Nat) (h : HostIn) (tbl : List Nat), s.fatal = false ∧ i < 64 ∧ s.bar 3 = true ∧ s.grpUsed i = false
    ∧ t = s.hostStores 0 h ∧ h.fail = false ∧ 1 ≤ t.grpSize i ∧ t.grpSize i ≤ 4096 ∧ t.grpRank i < t.grpSize i ∧ t.grpField i 4 20 16 ≤ 16
    ∧ t.reg (rGrp i 0x10) % 64 = 0
    ∧ tbl = (List.range (t.grpSize i)).map (fun r => leNat (t.hostRead 0 (t.reg (rGrp i 0x10) + 2 * r) 2)) ∧ tbl[t.grpRank i]? = some t.fer.devId
    ∧ tbl.Nodup ∧ (∀ j, j < 64 → j ≠ i → t.grpValid j = true → t.grpField j 4 15 0 ≠ t.grpField i 4 15 0) :=
  ⟨grpState, grpState.hostStores 0 noHost, 63, noHost, [9, 3], rfl, by decide +kernel, by decide +kernel, by decide +kernel, rfl, rfl, by decide +kernel⟩

/-! ### Rings -/

/-- Ring 7 of VF 1 with an entry waiting at bus address 0x4000. -/
def ringOf (ctl : Nat) : Ring := { st := .active, ctl := ctl, sqBase := 0x4000, cqBase := 0x8000, dbAddr := 0x7000, dbTail := 1 }
def ringState (r : Ring) : State := { full with vfEn := true, rings := [(15, r)], host := [(1, put 0x4000 [9, 5])], gc := 100000 }

theorem wit_Rings_consume : ∃ (s t : State) (fn k : Nat) (h : HostIn), s.fatal = false ∧ k < 8 ∧ s.fnExists fn = true ∧ (s.ring fn k).st = .active
    ∧ (s.ring fn k).sqHead ≠ (s.ring fn k).dbTail ∧ (s.ring fn k).mode ≠ 2 ∧ h.fail = false ∧ t = s.hostStores fn h
    ∧ t.mayConsume fn k (byteAt (t.entryBytes fn k) 0) = true :=
  ⟨ringState (ringOf 1), _, 1, 7, noHost, rfl, by decide, by decide, by decide +kernel, by decide +kernel, by decide +kernel, rfl, rfl,
    by decide +kernel⟩

/-- A ring whose entries are cached, its line not yet held; and a tag seen before, whose command has ended or has not. -/
theorem wit_Rings_consume_2 : ((ringState (ringOf 5)).ring 1 7).mode = 2 ∧ (ringState (ringOf 5)).line? 1 7 .sq 0x4000 = none
    ∧ (ringState (ringOf 5)).mayConsume 1 7 (byteAt ((ringState (ringOf 5)).entryBytes 1 7) 0) = true
    ∧ ∀ d ∈ [none, some { tag := 5, status := 0, opcode := 9, late := false, cond := 0, slow := 0, detail := 0, start := 0, fin := 0, slot := none }],
      ((ringState { ringOf 1 with window := [{ tag := 5, id := 1, job := false, dup := false, done := d }] }).ring 1 7).window.reverse.find?
        (fun e => e.tag == 5) = some { tag := 5, id := 1, job := false, dup := false, done := d } := by decide +kernel

theorem wit_Rings_entry : ∃ (s : State) (fn k : Nat) (bs : List Byte) (r : Ring) (op tag : Nat), r = s.ring fn k ∧ op = (words bs).getD 0 0 % 256
    ∧ tag = (words bs).getD 1 0 ∧ 1 ≤ op ∧ op ≤ 15 ∧ r.window.reverse.find? (fun e => e.tag == tag) = none :=
  ⟨ringState (ringOf 1), 1, 7, [9, 5].flatMap (leBytes 4), ringOf 1, 9, 5, by decide +kernel⟩

theorem wit_Doorbells_1 : ∃ (s : State) (fn k t hd : Nat), diff32 t (s.ring fn k).dbTail < 2 ^ 31 ∧ diff32 hd (s.ring fn k).dbHead < 2 ^ 31
    ∧ t < 2 ^ 32 ∧ hd < 2 ^ 32 ∧ diff32 t (s.ring fn k).sqHead ≤ 2 ^ (s.ring fn k).sqLog2
    ∧ diff32 (s.ring fn k).cqTail hd ≤ 2 ^ (s.ring fn k).cqLog2 := ⟨ringState (ringOf 1), 1, 7, 64, 0, by decide +kernel⟩

theorem wit_Doorbells_2 : ∃ (s : State) (fn k : Nat), s.fatal = false ∧ k < 8 ∧ s.fnExists fn = true ∧ (s.ring fn k).st = .active :=
  ⟨ringState (ringOf 1), 1, 7, by decide +kernel⟩

theorem wit_Doorbells_3 : ∀ mode ∈ [1, 2], ∃ (s : State) (fn k : Nat) (h : HostIn), s.fatal = false ∧ k < 8 ∧ s.fnExists fn = true
    ∧ (s.ring fn k).st = .active ∧ h.fail = false ∧ (s.ring fn k).mode = mode ∧ (s.ring fn k).pollGc ≤ s.gc := by
  intro mode hm
  refine ⟨ringState (ringOf (1 + 2 * mode)), 1, 7, noHost, ?_⟩
  revert mode; decide +kernel

def aLine (k : LineKind) (evict : Bool) : HostLine := { fn := 1, ring := 7, addr := 0x4000, kind := k, data := List.replicate 64 0#8, evict := evict }

theorem wit_Doorbells_5 : ∀ y ∈ [(LineKind.cq, false), (.cq, true), (.sq, false)], ∃ (s : State) (fn k a : Nat) (l : HostLine), s.fatal = false ∧ k < 8
    ∧ s.line? fn k y.1 a = some l ∧ l.evict = y.2 := by
  intro y hy
  refine ⟨{ ringState (ringOf 5) with lines := [aLine y.1 y.2] }, 1, 7, 0x4000, aLine y.1 y.2, rfl, by decide, ?_, rfl⟩
  revert y; decide +kernel

def offRing (ctl : Nat) : State := { ringState { ringOf 0 with st := .disabled, ctl := ctl } with regs := [(rFeatStatus, 1), (rTenStatus 1, 1)] }

theorem wit_Rings_1 : ∀ ctl ∈ [1, 3], ∃ (s : State) (fn k : Nat) (r : Ring), k < 8 ∧ s.fnExists fn = true ∧ s.bar 3 = true ∧ bit ctl 0 = true
    ∧ (s.ring fn k).st = .disabled ∧ r = { s.ring fn k with ctl := ctl % 16 } ∧ s.mayEnable fn r = true ∧ r.mode ≠ 2 := by
  intro ctl hc
  refine ⟨offRing 0, 1, 7, { (offRing 0).ring 1 7 with ctl := ctl % 16 }, ?_⟩
  revert ctl; decide +kernel

theorem wit_Rings_2 : ∃ (s : State) (fn k ctl : Nat) (r : Ring), k < 8 ∧ s.fnExists fn = true ∧ s.bar 3 = true ∧ bit ctl 0 = true
    ∧ (s.ring fn k).st = .disabled ∧ r = { s.ring fn k with ctl := ctl % 16 } ∧ s.mayEnable fn r = false :=
  ⟨offRing 0, 1, 7, 7, _, by decide, by decide, by decide, by decide, by decide +kernel, rfl, by decide +kernel⟩

theorem wit_Rings_3 : ∀ st ∈ [RingSt.active, .error], ∃ (s : State) (fn k : Nat), k < 8 ∧ s.fnExists fn = true ∧ s.bar 3 = true
    ∧ (s.ring fn k).st = st := by
  intro st hs
  refine ⟨ringState { ringOf 1 with st := st }, 1, 7, ?_⟩
  revert st; decide +kernel

theorem wit_Rings_4 : ∃ (s : State) (fn k : Nat), s.fatal = false ∧ k < 8 ∧ (s.ring fn k).st = .draining ∧ (s.ring fn k).owed = 0 :=
  ⟨ringState { ringOf 1 with st := .draining }, 1, 7, by decide +kernel⟩

theorem wit_Rings_5 : ∃ (s : State) (fn k : Nat), s.fatal = false ∧ k < 8 ∧ (s.ring fn k).irqEn = true ∧ 0 < (s.ring fn k).irqN
    ∧ (s.ring fn k).irqGc + 1000 * bits (s.ring fn k).irq 25 16 ≤ s.gc :=
  ⟨ringState { ringOf 9 with irqN := 1, irq := 2 + 2 ^ 16 * 100 }, 1, 7, by decide +kernel⟩

theorem wit_Rings_6 : ∃ (s t : State) (fn v : Nat), v < 9 ∧ s.fnExists fn = true ∧ s.bar 3 = true
    ∧ t = s.setReg (rMsix fn v + 12) (setBit (s.reg (rMsix fn v + 12)) 0 false) := ⟨ringState (ringOf 1), _, 1, 8, by decide, rfl, rfl, rfl⟩

/-! ### Functions, features and tenants -/

theorem wit_Functions_1 : ∃ (s : State) (fn : Nat), 1 ≤ fn ∧ s.fnExists fn = true ∧ (∀ k, k < 8 → (s.ring fn k).st = .disabled) :=
  ⟨{ full with vfEn := true }, 16, by decide⟩

theorem wit_Functions_2 : ∃ s : State, s.pfOnly = false ∧ s.stage ≠ 0 := ⟨full, by decide⟩

theorem wit_Functions_4 : ∃ (s : State) (fn k : Nat), k < 8 ∧ (s.ring fn k).st ≠ .disabled := ⟨ringState (ringOf 1), 1, 7, by decide +kernel⟩

theorem wit_Functions_6 : ∀ y ∈ [(0x240, true), (0x40, false), (1, false)], ∃ (s : State) (value : Nat), bit value 0 = true ∧ s.bar 3 = true
    ∧ s.stage = 3 ∧ bit (s.reg rFeatStatus) 0 = false
    ∧ decide ((s.reg rFeatAccept &&& s.reg rFeatOffered) = s.reg rFeatAccept ∧ featDeps (s.reg rFeatAccept) = true) = y.2 := by
  intro y hy
  refine ⟨{ up with regs := [(rFeatOffered, 0x240), (rFeatAccept, y.1)] }, 1, ?_⟩
  revert y; decide +kernel

theorem wit_Tenants_1 : ∃ (s : State) (n : Nat), 1 ≤ n ∧ n ≤ 16 ∧ s.bar 3 = true ∧ bits (s.reg (rTenStatus n)) 1 0 = 0 ∧ s.stage = 3
    ∧ bit (s.reg rFeatStatus) 0 = true ∧ s.sealed = false ∧ Tab.wf 0 s.regs = true := ⟨{ full with regs := [(rFeatStatus, 1)] }, 16, by decide +kernel⟩

theorem wit_Tenants_2 : ∃ (s : State) (n : Nat), 1 ≤ n ∧ n ≤ 16 ∧ s.bar 3 = true ∧ bits (s.reg (rTenStatus n)) 1 0 = 1
    ∧ (∀ k, k < 8 → (s.ring n k).st = .disabled) := ⟨{ full with regs := [(rTenStatus 16, 1)] }, 16, by decide +kernel⟩

theorem wit_Tenants_4 : ∃ (s : State) (n base count : Nat), 1 ≤ n ∧ n ≤ 16 ∧ s.bar 3 = true ∧ base < 16384 ∧ base + count ≤ 16384
    ∧ (∀ u, 1 ≤ u → u ≤ 16 → u ≠ n → bits (s.reg (rTenSig u)) 30 16 = 0) ∧ s.sigs = [] :=
  ⟨up, 1, 0, 16384, by decide, by decide, rfl, by decide, by decide, fun _ _ _ _ => by simp [State.reg, up, Tab.get, bits], rfl⟩

theorem wit_Tenants_6 : up.bar 3 = true := rfl

theorem wit_Tenants_7 : ∃ s : State, s.fatal = false ∧ bit (s.reg rShareStatus) 1 = true := ⟨{ up with regs := [(rShareStatus, 2)] }, by decide +kernel⟩

theorem wit_Tenants_8 : ∀ en : Bool, ∃ s : State, s.bar 3 = true ∧ s.feature 8 = true ∧ en ≠ s.sealed := by
  intro en
  refine ⟨{ full with regs := if en then [] else [(rSealStatus, 1)] }, ?_⟩
  revert en; decide +kernel

theorem wit_Tenants_9 : ∃ s : State, s.fatal = false ∧ bit (s.reg rSealStatus) 1 = true ∧ s.jobs = [] ∧ s.shareHeld = false :=
  ⟨{ full with regs := [(rSealStatus, 2)] }, by decide +kernel⟩

theorem wit_Tenants_10 : ∃ (s : State) (b : Int), s.fatal = false ∧ s.bill.next = some b ∧ s.time.valid = true ∧ b ≤ s.wallNow :=
  ⟨{ full with gc := 1000000, bill := { next := some 1000000 }, time := { full.time with valid := true } }, 1000000, by decide⟩

theorem wit_Tenants_11 : ∃ s : State, s.fatal = false ∧ s.stage = 3 ∧ s.bill.energyGc + 1000000 ≤ s.gc := ⟨{ full with gc := 1000000 }, by decide⟩

/-- A tenant that is there already, one that is not, a range of signals past the last, a seal already as it is to be, and a seal that waits. -/
theorem wit_Tenants_12 : bits (({ full with regs := [(rTenStatus 16, 1)] } : State).reg (rTenStatus 16)) 1 0 ≠ 0 ∧ bits (full.reg (rTenStatus 16)) 1 0 ≠ 1
    ∧ 16384 < 1 + 16384 ∧ full.sealed = false ∧ full.bar 3 = true ∧ full.feature 8 = true ∧ bit (full.reg rSealStatus) 1 = false
    ∧ ({ full with regs := [(rSealStatus, 3)] } : State).sealed = true ∧ ({ full with regs := [(rSealStatus, 2)] } : State).jobs.any (fun j => j.2.isSome) = false
    ∧ sealOk [16] (fun _ => 1) (0 :: List.replicate 16 1) = true := by decide +kernel

/-! ### Time -/

def clock (t : TimeSt) (gc : Nat) : State := { full with time := t, gc := gc }

theorem wit_Time_1 : ∀ v ∈ [100000000, 2 ^ 32 - 100000000], ∃ s : State, s.bar 1 = true ∧ s.time.ppsEn = false ∧ s.time.role ≠ 2 ∧ s.time.valid = true
    ∧ -100000000 ≤ sext 32 v ∧ sext 32 v ≤ 100000000 := by
  intro v hv
  refine ⟨clock { valid := true } 0, ?_⟩
  revert v; decide +kernel

theorem wit_Time_2 : ∃ s : State, s.time.slewing = true ∧ s.time.slew = 0 := ⟨clock { slewing := true } 0, by decide⟩

theorem wit_Time_3 : ∀ gc ∈ [999900000, 1000100000], ∃ (s : State) (x e : Int), s.time.ppsEn = true ∧ s.time.pps = .locked ∧ s.time.running = true
    ∧ s.stage ≠ 0 ∧ s.time.refLost = false ∧ s.time.edge = true ∧ s.time.edgeGc + 999900000 ≤ s.gc ∧ s.gc ≤ s.time.edgeGc + 1000100000
    ∧ x = ((s.gc : Int) - s.time.delay) % 1000000000 ∧ e = (if x ≤ 500000000 then x else x - 1000000000) := by
  intro gc h
  refine ⟨clock { ppsEn := true, pps := .locked, running := true, edge := true } gc, _, _, rfl, rfl, rfl, (by decide : (3 : Nat) ≠ 0), rfl, rfl, ?_, ?_, rfl, rfl⟩ <;>
  revert gc <;> decide

theorem wit_Time_4 : ∃ s : State, s.time.ppsEn = true ∧ s.time.pps = .locked ∧ s.time.since + 1500000000 ≤ s.gc :=
  ⟨clock { ppsEn := true, pps := .locked } 1500000000, by decide⟩

theorem wit_Time_5 : ∃ s : State, s.fatal = false ∧ s.time.role = 2 ∧ s.stage = 3 ∧ s.time.reqGc + 1000000 * s.time.interval ≤ s.gc :=
  ⟨clock { role := 2 } 125000000, by decide⟩

def syncMsg (ty n : Nat) : FMsg := ferMsg kTime 7 3 9 0 1 0 0 0 (leBytes 2 ty ++ leBytes 2 n ++ List.replicate 28 0#8)

theorem wit_Time_6 : ∃ (s u : State) (p : Nat) (m : FMsg) (c : RxCtx), s.msgAt p m c u ∧ m.kind = kTime ∧ s.syncType m ≠ 1 ∧ syncOk c 0 = true
    ∧ u.time.role ≠ 0 := ⟨_, _, 15, syncMsg 0 4, _, rx_at (clock { role := 1 } 0) _ 0 (by decide +kernel), by decide +kernel⟩

theorem wit_Time_7 : ∃ (s u : State) (p : Nat) (m : FMsg) (c : RxCtx) (r : SyncEx), s.msgAt p m c u ∧ m.kind = kTime ∧ s.syncType m = 1
    ∧ syncOk c 1 = true ∧ u.time.role = 2 ∧ c.m.src = u.time.master ∧ u.time.exch = none ∧ u.time.req = some r ∧ r.n = leAt c.m.data 2 2 :=
  ⟨_, _, 15, syncMsg 1 4, _, { n := 4, t1 := 0 }, rx_at (clock { role := 2, master := 9, req := some { n := 4, t1 := 0 } } 0) _ 0 (by decide +kernel),
    by decide +kernel⟩

theorem wit_Time_8 : ∃ (s : State) (fn k : Nat) (c : Cmd), s.entryAt fn k 0xD c ∧ c.payTva = true ∧ s.tvaCheck fn c.payPtr 64 true = .ok :=
  ⟨{ atEntry { entry 0xD [] with words := [0xD + 2 ^ 8, 9, 0, 0, 0, 0, 0, 0] } with pt := [(2 ^ 27, 3)] }, 1, 7,
    { entry 0xD [] with words := [0xD + 2 ^ 8, 9, 0, 0, 0, 0, 0, 0] }, by unfold State.entryAt; decide +kernel⟩

theorem wit_Time_9 : ∃ (s : State) (fn k : Nat) (c : Cmd), s.entryAt fn k 0xD c ∧ c.payTva = false :=
  ⟨atEntry (entry 0xD []), 1, 7, entry 0xD [], by unfold State.entryAt; decide +kernel⟩

theorem wit_Time_10 : ∃ (s : State) (k : Nat), k < 64 ∧ s.bar 1 = true ∧ (s.slot k).st ≠ 1
    ∧ s.present (bits (s.reg (rLaunch k 8)) 20 16) = true ∧ bits (s.reg (rLaunch k 8)) 20 16 ≤ 16
    ∧ (bits (s.reg (rLaunch k 8)) 20 16 = 0 ∨ s.sigTenant (bits (s.reg (rLaunch k 8)) 13 0) = bits (s.reg (rLaunch k 8)) 20 16)
    ∧ (bit (s.reg (rLaunch k 8)) 15 = false ∨ s.time.valid = true) :=
  ⟨{ full with regs := [(rTenStatus 1, 1), (rTenSig 1, 16384 * 2 ^ 16), (rLaunch 63 8, 16383 + 2 ^ 16)] }, 63, by decide +kernel⟩

theorem wit_Time_11 : ∃ (s : State) (k : Nat), s.fatal = false ∧ k < 64 ∧ s.bar 1 = true ∧ (s.slot k).st = 1 ∧ bit (s.reg (rLaunch k 8)) 15 = false
    ∧ s.reg (rLaunch k 0) ≤ s.gc := ⟨{ full with launch := [(63, { st := 1 })] }, 63, by decide +kernel⟩

/-- A clock that is disciplined; an edge with none before it, one after holdover, one too early and one too late; the edges lost. -/
theorem wit_Time_12 : (clock { ppsEn := true } 0).bar 1 = true ∧ sext 64 1 % 1000000000 ≠ 0 ∧ sext 64 3000000000 % 1000000000 = 0
    ∧ sext 32 (2 ^ 32 - 100000001) < -100000000
    ∧ (∀ x ∈ [({ ppsEn := true, pps := .acquiring, running := true } : TimeSt), { ppsEn := true, pps := .holdover, running := true, edge := true }],
      (clock x 5).time.ppsEn = true ∧ (clock x 5).time.pps ≠ .fault ∧ (clock x 5).time.running = true ∧ (clock x 5).stage ≠ 0 ∧ (clock x 5).time.refLost = false)
    ∧ (∀ gc ∈ [999899999, 1000100001], (clock { ppsEn := true, pps := .locked, running := true, edge := true } gc).time.edge = true
      ∧ (gc < 0 + 999900000 ∨ 0 + 1000100000 < gc)) := by decide +kernel

/-- A launch slot that names no tenant, and one that is armed. -/
theorem wit_Time_13 : full.present 17 = false ∧ full.bar 1 = true ∧ (({ full with launch := [(63, { st := 1 })] } : State).slot 63).st = 1 := by decide +kernel

/-! ### Power and heat -/

def power (p : PowerSt) : State := { full with pwr := p, gc := 1000000000, regs := [(rPwrCtl, 2)] }

theorem wit_Power_1 : full.bar 0 = true ∧ bit 1 0 = true := by decide

theorem wit_Power_2 : ∃ s : State, s.pwr.request = true ∧ s.pwr.mode = 0 ∧ s.stage = 3 ∧ s.fatal = false ∧ s.idleNow = true :=
  ⟨power { request := true }, by decide⟩

theorem wit_Power_3 : ∃ s : State, s.pwr.mode = 2 ∧ s.sag < 4 ∧ s.fatal = false
    ∧ (bit (s.reg rPwrCtl) 0 = false ∨ s.ringWaits = true ∨ s.pwr.wake = true) := ⟨power { mode := 2, wake := true }, by decide +kernel⟩

theorem wit_Power_4 : ∃ (s : State) (n : Nat), n < 32 ∧ 2 ≤ s.stage ∧ s.fatal = false ∧ bit (s.reg rApGate) n = true ∧ n ∉ s.gated
    ∧ s.domainUsed n = false := ⟨{ full with regs := [(rApGate, 2 ^ 31)] }, 31, by decide +kernel⟩

theorem wit_Power_5 : ∃ s : State, s.ao.powered = true ∧ s.ao.off = false ∧ bit (s.reg rPwrCtl) 1 = true ∧ s.pwr.capGc + 1000000 ≤ s.gc :=
  ⟨power {}, by decide +kernel⟩

theorem wit_Power_6 : ∀ y ∈ [(0, List.replicate 50 46999), (1, [44999, 44999]), (2, [42999, 42999]), (3, [40999, 40999])], ∃ (s : State) (n : Nat), s.shedding = true
    ∧ n = s.pwr.stage + 1 ∧ n ≤ 4 ∧ sagFalls n y.2 = true := by
  intro y hy
  refine ⟨power { stage := y.1 }, y.1 + 1, ?_⟩
  revert y; decide +kernel

theorem wit_Power_7 : ∀ y ∈ [(1, 48000), (4, 42000)], ∃ (s : State) (low : Nat), s.shedding = true ∧ 1 ≤ s.pwr.stage ∧ s.pwr.stage ≤ 4
    ∧ sagMv s.pwr.stage + 1000 ≤ low := by
  intro y hy
  refine ⟨power { stage := y.1 }, y.2, ?_⟩
  revert y; decide +kernel

theorem wit_Power_8 : ∃ (s : State) (vs : List Nat), s.shedding = true ∧ s.pwr.stage = 4 ∧ sagFalls 5 vs = true :=
  ⟨power { stage := 4 }, [38999, 38999], by decide +kernel⟩

theorem wit_Power_9 : ∃ (s : State) (vs : List Nat), s.shedding = true ∧ 5 ≤ vs.length ∧ (∀ v, v ∈ vs.drop (vs.length - 5) → 62000 < v)
    ∧ s.ao.powered = true := ⟨power {}, List.replicate 5 62001, by decide +kernel⟩

/-- Every sensor at 50 °C, die 0 as given. -/
def temps (die0 : Int) : List Int := die0 :: List.replicate 57 800

theorem wit_Power_11 : ∃ (s : State) (ts : List Int) (g : Nat), s.ao.powered = true ∧ s.ao.off = false ∧ ts.length = 58
    ∧ (List.range 14).find? (fun g => decide (tripAt g + 80 ≤ groupTemp ts g)) = some g := ⟨power {}, temps 1840, 0, by decide +kernel⟩

theorem wit_Power_12 : ∃ (s t : State) (ts : List Int), s.ao.powered = true ∧ s.ao.off = false ∧ ts.length = 58
    ∧ t = ((List.range 14).take 12).foldl (fun s g => s.thermLevel g (groupTemp ts g)) (s.updPwr (fun p => { p with
        therm := ts.zipIdx.foldl (fun (t : Tab Int) (x : Int × Nat) => Tab.put 0 t x.2 x.1) [] }))
    ∧ Tab.wf 0 s.pwr.tripN = true ∧ (∀ g, g < 14 → groupTemp ts g < tripAt g) ∧ t.pwr.trip = false :=
  ⟨power {}, _, temps 1759, by decide, by decide, by decide, rfl, by decide, by decide +kernel, by decide +kernel⟩

theorem wit_Power_13 : ∃ (s : State) (c : Nat), c < cellSites ∧ 0 < s.gc ∧ 2 ≤ s.stage ∧ s.arrayHeld = false ∧ s.cellGated c = false :=
  ⟨power {}, 2111, by decide +kernel⟩

theorem wit_Power_14 : ∃ (s : State) (d : Nat), d < 4 ∧ 0 < s.gc ∧ Tab.wf false s.pwr.stretched = true ∧ Tab.get false s.pwr.stretched d = true
    ∧ Tab.get 0 s.pwr.droopGc d + ceilDiv (256 * 1250) (s.aclk d) ≤ s.gc :=
  ⟨power { stretched := [(3, true)] }, 3, by decide +kernel⟩

theorem wit_Power_15 : ∃ (s : State) (d : Nat), d < 4 ∧ Tab.get 0 s.pwr.droop d ≠ 0 ∧ Tab.get false s.pwr.stretched d = false
    ∧ Tab.get 0 s.pwr.calmGc d + 1000000000 ≤ s.gc := ⟨power { droop := [(3, 1)] }, 3, by decide +kernel⟩

/-- The third sample in turn at a group's limit. -/
theorem wit_Power_17 : (power { tripN := [(0, 2)] }).ao.powered = true ∧ (temps 1760).length = 58 ∧ (∀ g, g < 14 → groupTemp (temps 1760) g < tripAt g + 80)
    ∧ tripAt 0 ≤ groupTemp (temps 1760) 0 ∧ 3 ≤ Tab.get 0 (power { tripN := [(0, 2)] }).pwr.tripN 0 + 1 := by decide +kernel

theorem wit_Power_16 : ∀ lost : Bool, ∃ s : State, s.time.refLost = lost ∧ s.time.ppsEn = false ∧ s.ao.powered = true ∧ s.ao.off = false
    ∧ s.ao.perst = false := fun lost => ⟨clock { refLost := lost } 0, rfl, rfl, rfl, rfl, rfl⟩

/-! ### Reads of registers -/

/-- A clock past 32 bits: its low half read latches its high half, which a later half of another count does not change (R10). -/
def late : State := { full with gc := 0x123456789 }

theorem test_read_latches : readWide 0 0x30000 = true ∧ (late.busRead 0 0 0x30000 4).1 = 0x23456789
    ∧ (({ (late.busRead 0 0 0x30000 4).2 with gc := 0x200000000 } : State).busRead 0 0 0x30004 4).1 = 1
    ∧ (late.busRead 0 0 0x30000 8).1 = 0x123456789 ∧ (late.busRead 0 0 0x30004 8).1 = 0 := by decide +kernel

/-- TEN_STATUS of tenant 3 after its creation reads PRESENT (the example of spec/26_register_reference.md), and is a 32-bit register. -/
theorem test_read_ten_status : (({ full with regs := [(rTenStatus 3, 1)] } : State).busRead 0 0 0x200C4 4).1 = 1 ∧ readWide 0 0x200C0 = false := by
  decide +kernel

theorem wit_RegistersRead : (3 ≠ 4 ∧ 3 ≠ 8) ∧ 0x30000 % 8 = 0 ∧ 0x30000 < 0x90000 ∧ (ringState (ringOf 1)).fnExists 1 = true
    ∧ (ringState (ringOf 1)).bar 3 = true ∧ ((ringState (ringOf 1)).busRead 1 2 0x7000 8).1 = 1
    ∧ (({ up with badCells := [33] } : State).cellMapWord 1).testBit 1 = false := by decide +kernel

end Sys2Proof.Tests
end

section
/-!
O19: the bytes FILL and COPY leave in a memory tile (R192). Both are one `Cell.memWrite`, of which only the bytes written matter
to what the tile holds: the granules it senses on the way keep theirs.
-/
namespace Sys2Proof.Machine
open Sys2Proof

/-! ### Byte lists, byte by byte -/

/-- Byte `i` of a number's little-endian bytes (R6). -/
theorem getD_leBytes {n i : Nat} (h : i < n) (x : Nat) (d : Byte) :
    (leBytes n x).getD i d = BitVec.ofNat 8 (x / 2 ^ (8 * i)) := by
  induction n generalizing i x with
  | zero => exact absurd h (Nat.not_lt_zero i)
  | succ n ih =>
    cases i with
    | zero => simp [leBytes]
    | succ i =>
      have hpow : 256 * 2 ^ (8 * i) = 2 ^ (8 * (i + 1)) := by rw [Nat.mul_add, Nat.pow_add, Nat.mul_comm]
      rw [leBytes, List.getD_cons_succ, ih (Nat.lt_of_succ_lt_succ h), Nat.div_div_eq_div_mul, hpow]

/-- Byte `i` of a run read from a memory. -/
theorem getD_readBytes (m : Memory) (a : Nat) {n i : Nat} (h : i < n) (d : Byte) :
    (m.readBytes a n).getD i d = m.read (a + i) := by
  induction n generalizing i a with
  | zero => exact absurd h (Nat.not_lt_zero i)
  | succ n ih =>
    cases i with
    | zero => rfl
    | succ i => rw [Memory.readBytes, List.getD_cons_succ, ih (a + 1) (Nat.lt_of_succ_lt_succ h), Nat.add_right_comm, Nat.add_assoc]

/-! ### What a write into the tile does to its bytes -/

/-- Sensing corrects or poisons granules and leaves the bytes (R195). -/
@[simp] theorem Cell.sense_mem (c : Cell) (a n : Nat) : (c.sense a n).mem = c.mem := by
  unfold Cell.sense
  split <;> rfl

/-- Sensing granules in turn leaves the bytes. -/
theorem Cell.foldl_sense_mem (gs : List Nat) (c : Cell) :
    (gs.foldl (fun c g => c.sense (8 * g) 8) c).mem = c.mem := by
  induction gs generalizing c with
  | nil => rfl
  | cons g gs ih => rw [List.foldl_cons, ih, Cell.sense_mem]

/-- A write's read-modify-write of partly covered granules changes no byte outside the write (R182). -/
@[simp] theorem Cell.memWrite_mem (c : Cell) (a : Nat) (bs : List Byte) : (c.memWrite a bs).mem = c.mem.writeBytes a bs :=
  congrArg (Memory.writeBytes · a bs) (Cell.foldl_sense_mem _ c)

/-! ### FILL and COPY -/

/-- FILL's byte at `x` is byte `x % 8` of the pattern (R192). -/
theorem Cell.read_fill (c : Cell) (dst len pat x : Nat) : (c.fill dst len pat).mem.read x =
    if dst ≤ x ∧ x < dst + len then BitVec.ofNat 8 (pat / 2 ^ (8 * (x % 8))) else c.mem.read x := by
  rw [Cell.fill, Cell.memWrite_mem, Memory.read_writeBytes, List.length_map, List.length_range]
  refine ite_congr rfl (fun ⟨hlo, hhi⟩ => ?_) (fun _ => rfl)
  have hk : x - dst < len := by omega
  have hx : dst + (x - dst) = x := by omega
  have hbyte := getD_leBytes (Nat.mod_lt x (by decide : 0 < 8)) pat 0#8
  simpa [List.getD_eq_getElem?_getD, hk, hx] using hbyte

/-- COPY's byte at `x` is the byte its source address held before the COPY, in the range it writes (R192). -/
theorem Cell.read_copy (c : Cell) (dst src len x : Nat) : (c.copy dst src len).mem.read x =
    if dst ≤ x ∧ x < dst + len then c.mem.read (src + (x - dst)) else c.mem.read x := by
  have hmem : (c.copy dst src len).mem = c.mem.writeBytes dst (c.mem.readBytes src len) := Cell.memWrite_mem c dst _
  rw [hmem, Memory.read_writeBytes, Memory.length_readBytes]
  exact ite_congr rfl (fun ⟨hlo, hhi⟩ => getD_readBytes c.mem src (by omega) _) (fun _ => rfl)

/-- Settles O19: each operation is one write into the tile, read back byte by byte; COPY's bytes are read from the tile before
its write. -/
theorem fillAndCopyBytes : Obligations.FillAndCopyBytes := by
  unfold Obligations.FillAndCopyBytes
  exact ⟨Cell.read_fill, Cell.read_copy⟩

end Sys2Proof.Machine
end

section
/-!
O1, O3, O5, O6: a step performs the front command, every command answers a next state, and a stopped module stays stopped (R641).
Where the module is stopped, a command either does nothing, or writes no job, load, entry or engine command: `State.sameWork` says
so once for each shared operation such a command uses.
-/
namespace Sys2Proof.Machine
open Sys2Proof

/-! ### Operations that leave the work of the module as it is -/

/-- `t` holds the work of `s`: the same jobs, loads, entries and engine commands, the same waiting commands and the same stop. -/
def State.sameWork (s t : State) : Prop :=
  t.fatal = s.fatal ∧ t.jobs = s.jobs ∧ t.loads = s.loads ∧ t.cmds = s.cmds ∧ t.engines = s.engines ∧ t.pending = s.pending

theorem State.sameWork_refl (s : State) : s.sameWork s := ⟨rfl, rfl, rfl, rfl, rfl, rfl⟩

theorem State.sameWork.trans {s t u : State} (h : s.sameWork t) (h' : t.sameWork u) : s.sameWork u := by
  obtain ⟨h1, h2, h3, h4, h5, h6⟩ := h
  obtain ⟨k1, k2, k3, k4, k5, k6⟩ := h'
  exact ⟨k1.trans h1, k2.trans h2, k3.trans h3, k4.trans h4, k5.trans h5, k6.trans h6⟩

/-- A stopped module with the same work is stopped. -/
theorem State.Stopped.of_sameWork {s t : State} (hs : s.Stopped) (h : s.sameWork t) : t.Stopped := by
  obtain ⟨h1, h2, h3, h4, h5, h6⟩ := hs
  obtain ⟨k1, k2, k3, k4, k5, k6⟩ := h
  exact ⟨k1.trans h1, k2.trans h2, k3.trans h3, k4.trans h4, k5.trans h5, k6.symm ▸ h6⟩

/-- Operations that each leave the work as it is leave it so one after another. -/
theorem State.sameWork_foldl {α : Type} {f : State → α → State} (hf : ∀ (s : State) a, s.sameWork (f s a)) (l : List α) (s : State) :
    s.sameWork (l.foldl f s) :=
  List.foldlRecOn l f s.sameWork_refl (fun t ht a _ => ht.trans (hf t a))

/-- A choice between two states that hold the same work. -/
theorem State.sameWork_ite {s t u : State} {p : Prop} [Decidable p] (ht : s.sameWork t) (hu : s.sameWork u) :
    s.sameWork (if p then t else u) := by
  split
  · exact ht
  · exact hu

theorem State.sameWork_setReg (s : State) (k v : Nat) : s.sameWork (s.setReg k v) := ⟨rfl, rfl, rfl, rfl, rfl, rfl⟩
theorem State.sameWork_setField (s : State) (k hi lo v : Nat) : s.sameWork (s.setField k hi lo v) := ⟨rfl, rfl, rfl, rfl, rfl, rfl⟩
theorem State.sameWork_regAdd (s : State) (k n : Nat) : s.sameWork (s.regAdd k n) := ⟨rfl, rfl, rfl, rfl, rfl, rfl⟩
theorem State.sameWork_setCell (s : State) (i : Nat) (c : Cell) : s.sameWork (s.setCell i c) := ⟨rfl, rfl, rfl, rfl, rfl, rfl⟩
theorem State.sameWork_updPwr (s : State) (f : PowerSt → PowerSt) : s.sameWork (s.updPwr f) := ⟨rfl, rfl, rfl, rfl, rfl, rfl⟩
theorem State.sameWork_updTime (s : State) (f : TimeSt → TimeSt) : s.sameWork (s.updTime f) := ⟨rfl, rfl, rfl, rfl, rfl, rfl⟩
theorem State.sameWork_updSec (s : State) (f : SecSt → SecSt) : s.sameWork (s.updSec f) := ⟨rfl, rfl, rfl, rfl, rfl, rfl⟩
theorem State.sameWork_updNv (s : State) (f : NvSt → NvSt) : s.sameWork (s.updNv f) := ⟨rfl, rfl, rfl, rfl, rfl, rfl⟩
theorem State.sameWork_updAo (s : State) (f : AoSt → AoSt) : s.sameWork (s.updAo f) := ⟨rfl, rfl, rfl, rfl, rfl, rfl⟩
theorem State.sameWork_setFnCfg (s : State) (fn : Nat) (c : FnCfg) : s.sameWork (s.setFnCfg fn c) := ⟨rfl, rfl, rfl, rfl, rfl, rfl⟩

theorem State.sameWork_pldmEvent (s : State) : s.sameWork s.pldmEvent := ⟨rfl, rfl, rfl, rfl, rfl, rfl⟩
theorem State.sameWork_drawFree (s : State) : s.sameWork s.drawFree.2 := ⟨rfl, rfl, rfl, rfl, rfl, rfl⟩

theorem State.sameWork_record (s : State) (k : Kind) (r : FaultRec) (b : Bool) : s.sameWork (s.record k r b) := by
  obtain ⟨l, ao, g, h, e⟩ := s.record_eq k r b
  rw [e]; exact ⟨rfl, rfl, rfl, rfl, rfl, rfl⟩

theorem State.sameWork_raise (s : State) (fn v : Nat) : s.sameWork (s.raise fn v) := by
  obtain ⟨g, h, e⟩ := s.raise_eq fn v
  rw [e]; exact ⟨rfl, rfl, rfl, rfl, rfl, rfl⟩

theorem State.sameWork_traceEv (s : State) (k t j : Nat) (d : List Nat) : s.sameWork (s.traceEv k t j d) := by
  obtain ⟨x, e⟩ := s.traceEv_eq k t j d
  rw [e]; exact ⟨rfl, rfl, rfl, rfl, rfl, rfl⟩

/-! ### Sending over the Ferier Link -/

/-- What a port that changes, and what leaves through it, may write: the transport, the trace, the counters and the notes of time
sync. -/
def State.linkWrites (s t : State) : Prop := ∃ f x r m, t = { s with fer := f, trace := x, regs := r, time := m }

theorem State.linkWrites_refl (s : State) : s.linkWrites s := ⟨_, _, _, _, rfl⟩

theorem State.linkWrites.trans {s t u : State} (h : s.linkWrites t) (h' : t.linkWrites u) : s.linkWrites u := by
  obtain ⟨_, _, _, _, rfl⟩ := h
  obtain ⟨_, _, _, _, rfl⟩ := h'
  exact ⟨_, _, _, _, rfl⟩

theorem State.linkWrites_foldl {α : Type} {f : State → α → State} (hf : ∀ (s : State) a, s.linkWrites (f s a)) (l : List α) (s : State) :
    s.linkWrites (l.foldl f s) :=
  List.foldlRecOn l f s.linkWrites_refl (fun t ht a _ => ht.trans (hf t a))

theorem State.linkWrites.sameWork {s t : State} (h : s.linkWrites t) : s.sameWork t := by
  obtain ⟨_, _, _, _, rfl⟩ := h
  exact ⟨rfl, rfl, rfl, rfl, rfl, rfl⟩

theorem State.linkWrites_setPort (s : State) (p : Nat) (q : Port) : s.linkWrites (s.setPort p q) := by
  unfold State.setPort
  dsimp only
  split
  · exact ⟨_, _, _, _, rfl⟩
  · obtain ⟨x, e⟩ := State.traceEv_eq (s.updFer fun f => { f with ports := Tab.put {} f.ports p q }) 9 0 0
      [p, (Tab.get {} s.fer.ports p).st.ctorIdx, q.st.ctorIdx]
    rw [e]; exact ⟨_, _, _, _, rfl⟩

theorem State.linkWrites_regAdd (s : State) (k n : Nat) : s.linkWrites (s.regAdd k n) := ⟨_, _, _, _, rfl⟩

theorem State.linkWrites_pumpPort (s : State) (p : Nat) : s.linkWrites (s.pumpPort p) := by
  unfold State.pumpPort
  dsimp only
  split
  · exact s.linkWrites_refl
  · exact (s.linkWrites_setPort p _).trans (State.linkWrites_regAdd _ _ _)

theorem State.linkWrites_emit (s : State) (p : Nat) (m : FMsg) : s.linkWrites (s.emit p m) :=
  (s.linkWrites_setPort p _).trans (State.linkWrites_pumpPort _ p)

theorem State.linkWrites_transmit (s : State) (o : OutMsg) : s.linkWrites (s.transmit o).1 := by
  unfold State.transmit
  split
  · exact s.linkWrites_emit _ _
  · exact s.linkWrites_refl

theorem State.linkWrites_noteSent (s : State) (o : FerOwner) (again : Bool) : s.linkWrites (s.noteSent o again) := by
  unfold State.noteSent
  split <;> exact ⟨_, _, _, _, rfl⟩

theorem State.linkWrites_updFer (s : State) (f : Ferier → Ferier) : s.linkWrites (s.updFer f) := ⟨_, _, _, _, rfl⟩

theorem State.linkWrites_ferInject (s : State) (o : OutMsg) : s.linkWrites (s.ferInject o) := by
  unfold State.ferInject
  extract_lets k n t
  have ht : s.linkWrites t := s.linkWrites_regAdd _ _
  have hx := t.linkWrites_transmit { o with m := o.m.withSeq n }
  clear_value t
  generalize t.transmit { o with m := o.m.withSeq n } = x at hx ⊢
  exact ((ht.trans hx).trans (State.linkWrites_updFer _ _)).trans (State.linkWrites_noteSent _ _ _)

theorem State.linkWrites_ferPump (s : State) : s.linkWrites s.ferPump := by
  refine (s.linkWrites_updFer _).trans (State.linkWrites_foldl (fun t o => ?_) _ _)
  split
  · exact t.linkWrites_ferInject o
  · exact t.linkWrites_updFer _

theorem State.linkWrites_portsWake (s : State) : s.linkWrites s.portsWake := by
  refine State.linkWrites.trans (State.linkWrites_foldl (fun t p => ?_) _ s)
    ((State.linkWrites_ferPump _).trans (State.linkWrites_foldl State.linkWrites_pumpPort _ _))
  split
  · exact t.linkWrites_setPort p _
  · exact t.linkWrites_refl

theorem State.linkWrites_portsRest (s : State) : s.linkWrites s.portsRest := by
  refine State.linkWrites_foldl (fun t p => ?_) _ s
  split
  · exact t.linkWrites_setPort p _
  · exact t.linkWrites_refl

/-- Heartbeats write the transport, the trace, the counters and when the last one left. -/
theorem State.heartbeat_eq (s : State) : ∃ f x r m h, s.heartbeat = { s with fer := f, trace := x, regs := r, time := m, tether := h } := by
  unfold State.heartbeat
  extract_lets t st pay m up fabric own ports
  obtain ⟨f, x, r, tm, e⟩ := State.linkWrites_foldl (fun (u : State) p => u.linkWrites_emit p m) ports s
  rw [e]; exact ⟨_, _, _, _, _, rfl⟩

/-- The heartbeats of a failing module write what one writes. -/
theorem State.failing_eq (s : State) : ∃ f x r m h, s.failing = { s with fer := f, trace := x, regs := r, time := m, tether := h } := by
  unfold State.failing
  split
  · refine List.foldlRecOn (motive := fun (t : State) => ∃ f x r m h, t = { s with fer := f, trace := x, regs := r, time := m, tether := h })
      _ _ ⟨_, _, _, _, _, rfl⟩ ?_
    rintro t ⟨_, _, _, _, _, rfl⟩ _ _
    obtain ⟨_, _, _, _, _, e⟩ := State.heartbeat_eq _
    rw [e]; exact ⟨_, _, _, _, _, rfl⟩
  · exact ⟨_, _, _, _, _, rfl⟩

/-! ### The fatal stop -/

/-- What a fatal stop leaves: the state with its work ended, the crash record in AO, and what the record and the heartbeats
write. -/
theorem State.fatalStop_eq (s : State) (code : Nat) (hs : s.fatal = false) : ∃ l, ∃ ao : AoSt, ∃ g h f x m te,
    s.fatalStop code = ({ s with fatal := true, log := l, regs := g, host := h, fer := f, trace := x, time := m, tether := te,
                                 ao := { ao with crash := some { noRec with kind := .fatal, level := 4, node := hubN, unit := 0xD,
                                                                            code := code, gc := s.gc, seq := s.nextSeq } } } : State).haltAll := by
  obtain ⟨l, ao, g, h, e⟩ := s.record_eq .fatal { noRec with node := hubN, unit := 0xD, code := code } true
  simp only [State.fatalStop, hs, Bool.false_eq_true, if_false, e]
  obtain ⟨f, x, g', m, te, e'⟩ := State.failing_eq _
  exact ⟨_, _, _, _, _, _, _, _, congrArg State.haltAll e'⟩

/-- Settles O6: the record and the heartbeats of the stop touch neither what `haltAll` clears nor the crash record in AO. -/
theorem fatalStopEndsAllWork : Obligations.FatalStopEndsAllWork := by
  intro s code hs
  obtain ⟨l, ao, g, h, f, x, m, te, e⟩ := s.fatalStop_eq code hs
  rw [e]
  exact ⟨rfl, rfl, rfl, rfl, rfl, rfl, rfl, rfl, rfl, _, rfl, rfl, rfl, rfl, fun hp => ⟨rfl, rfl, rfl, rfl, rfl, hp⟩⟩

/-! ### What a stopped module still does -/

theorem State.sameWork_spend (s : State) (t st n : Nat) : s.sameWork (s.spend t st n) :=
  State.sameWork_ite ⟨rfl, rfl, rfl, rfl, rfl, rfl⟩ s.sameWork_refl

theorem State.sameWork_moved (s : State) (t l : Nat) (write : Bool) (n : Nat) : s.sameWork (s.moved t l write n) :=
  State.sameWork.trans ⟨rfl, rfl, rfl, rfl, rfl, rfl⟩ (State.sameWork_spend _ _ _ _)

theorem State.sameWork_writeBack (s : State) (c : CLine) : s.sameWork (s.writeBack c) := by
  unfold State.writeBack
  extract_lets st t
  have ht : s.sameWork t := ⟨rfl, rfl, rfl, rfl, rfl, rfl⟩
  clear_value t
  exact State.sameWork_ite s.sameWork_refl ((ht.trans (t.sameWork_regAdd _ _)).trans (State.sameWork_moved _ _ _ _ _))

theorem State.sameWork_flushLines (s : State) (p : CLine → Bool) : s.sameWork (s.flushLines p) :=
  (State.sameWork_foldl State.sameWork_writeBack _ s).trans ⟨rfl, rfl, rfl, rfl, rfl, rfl⟩

theorem State.sameWork_restOrWake (s : State) : s.sameWork s.restOrWake := by
  unfold State.restOrWake
  extract_lets t u
  have ht : s.sameWork t := State.sameWork_ite (s.sameWork_flushLines _) s.sameWork_refl
  have hu : s.sameWork u := ht.trans ⟨rfl, rfl, rfl, rfl, rfl, rfl⟩
  exact State.sameWork_ite (hu.trans u.linkWrites_portsRest.sameWork) (hu.trans u.linkWrites_portsWake.sameWork)

theorem State.sameWork_sagSet (s : State) : s.sameWork s.sagSet :=
  State.sameWork.trans ⟨rfl, rfl, rfl, rfl, rfl, rfl⟩ (State.sameWork_restOrWake _)

theorem State.sameWork_sagRecord (s : State) (stage mv : Nat) (entry : Bool) : s.sameWork (s.sagRecord stage mv entry) := by
  unfold State.sagRecord
  extract_lets t
  have ht : s.sameWork t := State.sameWork_ite ⟨rfl, rfl, rfl, rfl, rfl, rfl⟩ s.sameWork_refl
  exact ((ht.trans (State.sameWork_record _ _ _ _)).trans (State.sameWork_traceEv _ _ _ _ _)).trans ⟨rfl, rfl, rfl, rfl, rfl, rfl⟩

theorem State.sameWork_bwRecompute (s : State) (c : BwCause) (q : Nat) : s.sameWork (s.bwRecompute c q) := by
  unfold State.bwRecompute
  dsimp only
  split
  · exact s.sameWork_refl
  · exact (s.sameWork_setReg _ _).trans (State.sameWork_record _ _ _ _)

theorem State.sameWork_thermLevel (s : State) (g : Nat) (x : Int) : s.sameWork (s.thermLevel g x) := by
  unfold State.thermLevel
  extract_lets old up warm t new seq _ u v
  have ht : s.sameWork t := s.sameWork_updPwr _
  have hu : s.sameWork u := (ht.trans (t.sameWork_updPwr _)).trans (State.sameWork_record _ _ _ _)
  have hv : s.sameWork v := (hu.trans (u.sameWork_traceEv _ _ _ _)).trans (State.sameWork_pldmEvent _)
  exact State.sameWork_ite ht (State.sameWork_ite hv
    ((hv.trans (v.sameWork_setField _ _ _ _)).trans (State.sameWork_bwRecompute _ _ _)))

theorem State.sameWork_jobFault_none (s : State) (k : Kind) (st : Status) (r : FaultRec) : s.sameWork (s.jobFault k none st r) := by
  unfold State.jobFault
  extract_lets _ t
  have ht : s.sameWork t := State.sameWork_ite ⟨rfl, rfl, rfl, rfl, rfl, rfl⟩ s.sameWork_refl
  exact ht.trans (State.sameWork_record _ _ _ _)

theorem State.sameWork_memtPoison_none (s : State) (cell : Nat) (gs : List Nat) : s.sameWork (s.memtPoison cell gs none) := by
  unfold State.memtPoison
  split
  · exact s.sameWork_refl
  · dsimp only
    split
    · exact ⟨rfl, rfl, rfl, rfl, rfl, rfl⟩
    · exact State.sameWork.trans ⟨rfl, rfl, rfl, rfl, rfl, rfl⟩ (State.sameWork_foldl (fun t g => t.sameWork_jobFault_none _ _ _) _ _)

theorem State.sameWork_memtSense (s : State) (cell a n : Nat) : s.sameWork (s.memtSense cell a n) :=
  State.sameWork.trans ⟨rfl, rfl, rfl, rfl, rfl, rfl⟩ (State.sameWork_memtPoison_none _ _ _)

theorem State.sameWork_memtCheck (s : State) (cell : Nat) (p : Packet) (a : Nat) (ok : Bool) : s.sameWork (s.memtCheck cell p a ok).2 := by
  unfold State.memtCheck
  dsimp only
  split
  · exact s.sameWork_record _ _ _
  · split
    · exact s.sameWork_record _ _ _
    · exact s.sameWork_refl

theorem State.sameWork_memtRead (s : State) (cell : Nat) (p : Packet) (a n : Nat) (ok : Bool) :
    s.sameWork (s.memtRead cell p a n ok).2.2 := by
  have hc := s.sameWork_memtCheck cell p a ok
  unfold State.memtRead
  split
  · next t e =>
    rw [e] at hc
    exact hc.trans (t.sameWork_memtSense cell a n)
  · next t e =>
    rw [e] at hc
    exact hc

theorem State.sameWork_winRead (s : State) (cell space a n : Nat) (snap : Bool) : s.sameWork (s.winRead cell space a n snap) := by
  have hm := State.sameWork_memtRead s.drawFree.2 cell (winPacket cell a) a n true
  unfold State.winRead
  dsimp only
  split
  case h_3 => exact (s.sameWork_drawFree.trans hm).trans ⟨rfl, rfl, rfl, rfl, rfl, rfl⟩
  all_goals exact s.sameWork_drawFree.trans ⟨rfl, rfl, rfl, rfl, rfl, rfl⟩

end Sys2Proof.Machine
end

section
/-!
O5, continued: time, non-volatile memory, halts, rings and function resets leave the work of the module as it is.
-/
namespace Sys2Proof.Machine
open Sys2Proof

theorem State.sameWork_droopFall (s : State) (d : Nat) : s.sameWork (s.droopFall d) := by
  unfold State.droopFall
  extract_lets _ past open_ x k t mhz
  have ht : s.sameWork t := s.sameWork_updPwr _
  clear_value t
  split
  · exact ht
  · exact (ht.trans (t.sameWork_updPwr _)).trans (State.sameWork_record _ _ _ _)

theorem State.sameWork_setRing (s : State) (fn k : Nat) (r : Ring) : s.sameWork (s.setRing fn k r) := ⟨rfl, rfl, rfl, rfl, rfl, rfl⟩
theorem State.sameWork_setBill (s : State) (t : Nat) (b : Billing) : s.sameWork (s.setBill t b) := ⟨rfl, rfl, rfl, rfl, rfl, rfl⟩

theorem State.sameWork_zeroAcct (s : State) (t : Nat) : s.sameWork (s.zeroAcct t) :=
  State.sameWork_foldl (fun u _ => u.sameWork_setReg _ _) _ s

theorem State.sameWork_billRecord (s : State) (t : Nat) (ws : List Nat) : s.sameWork (s.billRecord t ws) := s.sameWork_setBill _ _

theorem State.sameWork_closeOne (s : State) (t : Nat) (w : Int) (r f : Bool) : s.sameWork (s.closeOne t w r f) :=
  ((s.sameWork_billRecord _ _).trans (State.sameWork_setBill _ _ _)).trans (State.sameWork_zeroAcct _ _)

theorem State.sameWork_closePeriod (s : State) (w : Int) (f : Bool) : s.sameWork (s.closePeriod w f) := by
  unfold State.closePeriod
  extract_lets t
  have ht : s.sameWork t := State.sameWork_foldl (fun u t => u.sameWork_closeOne t w false f) s.billed s
  clear_value t
  exact ht.trans ⟨rfl, rfl, rfl, rfl, rfl, rfl⟩

theorem State.sameWork_timeStep (s : State) (old : Int) : s.sameWork (s.timeStep old) := by
  unfold State.timeStep
  split
  · exact s.sameWork_refl
  · extract_lets now past edge after rec_ t
    have ht : s.sameWork t := State.sameWork_foldl (fun u t => u.sameWork_billRecord t (rec_ t)) s.billed s
    clear_value t
    exact State.sameWork_ite (ht.trans (t.sameWork_closePeriod _ _)) ht

theorem State.sameWork_correct (s : State) (sync : Bool) (e : Int) (span : Nat) : s.sameWork (s.correct sync e span) := by
  unfold State.correct
  extract_lets put st n drift f _ s1 old gc t1 t2 t3 t4
  have hput : ∀ (u : State) p k, u.sameWork (put u p k) := fun u p k => u.sameWork_updTime _
  have h1 : s.sameWork t1 := ⟨rfl, rfl, rfl, rfl, rfl, rfl⟩
  have h3 : s.sameWork t3 := (h1.trans (t1.sameWork_updTime _)).trans (hput t2 _ _)
  have h4 : s.sameWork t4 := State.sameWork_ite (h3.trans (t3.sameWork_timeStep _)) h3
  have hs1 : s.sameWork s1 := s.sameWork_updTime _
  clear_value put t1 t2 t3 t4 s1
  split
  · split
    · exact (hput s _ _).trans (State.sameWork_record _ _ _ _)
    · exact hs1.trans (hput s1 _ _)
  · split
    · exact h4.trans (State.sameWork_record _ _ _ _)
    · exact (s.sameWork_updTime _).trans (hput _ _ _)

theorem State.sameWork_updBank (s : State) (b : Nat) (f : NvBank → NvBank) : s.sameWork (s.updBank b f) := s.sameWork_updNv _

theorem State.sameWork_eraseNo (s : State) : s.sameWork s.eraseNo.2 := s.sameWork_updNv _

theorem State.sameWork_journalRoom (s : State) (b : Nat) : s.sameWork (s.journalRoom b) := by
  unfold State.journalRoom
  exact State.sameWork_ite s.sameWork_refl (((s.sameWork_eraseNo.trans (State.sameWork_updBank _ _ _)).trans
    (State.sameWork_updBank _ _ _)).trans (State.sameWork_regAdd _ _ _))

theorem State.sameWork_beginErase (s : State) (b k : Nat) : s.sameWork (s.beginErase b k).2 :=
  ((s.sameWork_journalRoom b).trans (State.sameWork_eraseNo _)).trans (State.sameWork_updBank _ _ _)

theorem State.sameWork_nvStart (s : State) : s.sameWork s.nvStart := by
  unfold State.nvStart
  split
  · exact s.sameWork_refl
  · exact State.sameWork_ite s.sameWork_refl (((s.sameWork_beginErase _ 3).trans (State.sameWork_updBank _ _ _)).trans
      (State.sameWork_updNv _ _))

theorem State.sameWork_setHalt (s : State) (ks : List Nat) (on : Bool) (n : Nat) : s.sameWork (s.setHalt ks on n) :=
  State.sameWork_foldl (fun u k => u.sameWork_setCell k _) ks s

theorem State.sameWork_releaseLines (s : State) (fn k : Nat) : s.sameWork (s.releaseLines fn k) := by
  unfold State.releaseLines
  extract_lets mine t
  have ht : s.sameWork t := State.sameWork_foldl
    (fun u l => State.sameWork_ite (t := u.hostWrite fn l.addr l.data) ⟨rfl, rfl, rfl, rfl, rfl, rfl⟩ u.sameWork_refl) mine s
  clear_value t
  exact ht.trans ⟨rfl, rfl, rfl, rfl, rfl, rfl⟩

/-- A function's reset leaves a module without entries and jobs as it is. -/
theorem State.sameWork_resetFn (s : State) (fn : Nat) (hj : s.jobs = []) (hc : s.cmds = []) : s.sameWork (s.resetFn fn) := by
  unfold State.resetFn
  extract_lets s1 s2 s3 s4 s5 s6
  have h1 : s.sameWork s1 :=
    State.sameWork_foldl (fun u k => (u.sameWork_releaseLines fn k).trans (State.sameWork_setRing _ _ _ _)) _ s
  clear_value s1
  have h2 : s.sameWork s2 := by
    obtain ⟨k1, k2, k3, k4, k5, k6⟩ := h1
    have hf : s1.cmds.filter (fun c => c.fn != fn) = s.cmds := by simp [k4, hc]
    exact ⟨k1, k2, k3, hf, k5, k6⟩
  clear_value s2
  have h3 : s2.sameWork s3 := by
    have : s2.jobs = [] := h2.2.1.trans hj
    rw [show s3 = s2 by simp only [s3, this, List.foldl_nil]]
    exact s2.sameWork_refl
  clear_value s3
  have h4 : s3.sameWork s4 := State.sameWork_foldl (fun u k => State.sameWork_foldl (fun v i => v.sameWork_setReg _ _) _ u) _ s3
  clear_value s4
  have h5 : s4.sameWork s5 := State.sameWork_foldl (fun u i => u.sameWork_setReg _ _) _ s4
  clear_value s5
  have h6 : s5.sameWork s6 := State.sameWork_foldl (fun u v => ((u.sameWork_setReg _ _).trans (State.sameWork_setReg _ _ _)).trans
    (State.sameWork_setReg _ _ _)) _ s5
  have h := (((h2.trans h3).trans h4).trans h5).trans h6
  clear_value s6
  exact ((h.trans (s6.sameWork_setReg _ _)).trans (State.sameWork_setFnCfg _ _ _)).trans (State.sameWork_bwRecompute _ _ _)

/-- Resets of functions leave a stopped module's work as it is. -/
theorem State.Stopped.sameWork_resetFns {s : State} (hs : s.Stopped) (l : List Nat) : s.sameWork (l.foldl State.resetFn s) :=
  List.foldlRecOn l State.resetFn s.sameWork_refl (fun t ht fn _ => by
    obtain ⟨_, hj, _, hc, _, _⟩ := hs.of_sameWork ht
    exact ht.trans (t.sameWork_resetFn fn hj hc))

/-- The bits of BAR0 that work from a stage on take no write in a fatal stop (R641). -/
theorem State.bar_fatal {s : State} (h : s.fatal = true) (n : Nat) : s.bar n = false := by simp [State.bar, h]

theorem State.mayStage_fatal {s : State} (h : s.fatal = true) : s.mayStage = false := by simp [State.mayStage, h]

end Sys2Proof.Machine
end

section
/-!
O5, continued: each command at a stopped module, and what a step does (O1, O3).
-/
namespace Sys2Proof.Machine
open Sys2Proof

/-- Completing a store's entry does nothing where no entry is outstanding. -/
theorem State.sameWork_storeDone {s : State} (hc : s.cmds = []) (o : NvOp) (st : Status) : s.sameWork (s.storeDone o st) := by
  have hn : o.cmd.bind (fun n => s.cmds.find? (fun c => c.id == n)) = none := by rw [hc]; cases o.cmd <;> rfl
  unfold State.storeDone
  rw [hn]
  exact s.sameWork_refl

theorem State.sameWork_endErase (s : State) (b k n : Nat) : s.sameWork (s.endErase b k n) :=
  (s.sameWork_updBank _ _).trans (State.sameWork_regAdd _ _ _)

theorem sameWork_nvErase {s : State} (hc : s.cmds = []) (ok : Bool) : ∃ t, execNvEraseComplete ok s = .next t ∧ s.sameWork t := by
  refine ⟨_, rfl, ?_⟩
  split
  · exact s.sameWork_refl
  · split
    · next o rest _ _ _ n b _ _ =>
      have h1 := (s.sameWork_endErase b 3 n).trans (State.sameWork_updBank _ b
        (fun x => { x with settings := if ok then some (o.seq, o.val) else none }))
      refine State.sameWork_ite ((h1.trans (State.sameWork_updNv _ _)).trans (State.sameWork_nvStart _)) ?_
      have h2 := h1.trans (State.sameWork_updNv _ (fun x => { x with ops := rest }))
      exact (h2.trans (State.sameWork_storeDone (h2.2.2.2.1.trans hc) o _)).trans (State.sameWork_nvStart _)
    · exact s.sameWork_refl

theorem State.sameWork_pldmSettingsWrite (s : State) (image : List Byte) :
    ∃ t, execPldmSettingsWrite image s = .next t ∧ s.sameWork t :=
  ⟨_, rfl, State.sameWork_ite s.sameWork_refl ((s.sameWork_updNv _).trans (State.sameWork_nvStart _))⟩

theorem State.sameWork_firmwareUpdate (s : State) (svn : Nat) (valid : Bool) :
    ∃ t, execFirmwareUpdate svn valid s = .next t ∧ s.sameWork t :=
  ⟨_, rfl, State.sameWork_ite s.sameWork_refl ((s.sameWork_updBank _ _).trans (State.sameWork_updBank _ _ _))⟩

theorem State.sameWork_ppsEdge (s : State) : ∃ t, execPpsEdge s = .next t ∧ s.sameWork t := by
  refine ⟨_, rfl, ?_⟩
  exact State.sameWork_ite s.sameWork_refl (State.sameWork_ite (s.sameWork_regAdd _ _)
    ((s.sameWork_updTime _).trans (State.sameWork_correct _ _ _ _)))

theorem State.sameWork_ppsLost (s : State) : ∃ t, execPpsLost s = .next t ∧ s.sameWork t :=
  ⟨_, rfl, State.sameWork_ite ((s.sameWork_updTime _).trans (State.sameWork_record _ _ _ _)) s.sameWork_refl⟩

theorem State.sameWork_refclkReturn (s : State) : ∃ t, execRefclkReturn s = .next t ∧ s.sameWork t :=
  ⟨_, rfl, State.sameWork_ite s.sameWork_refl
    (State.sameWork_ite ((s.sameWork_updTime _).trans (State.sameWork_updAo _ _)) (s.sameWork_updTime _))⟩

theorem State.sameWork_perstDeassert (s : State) : ∃ t, execPerstDeassert s = .next t ∧ s.sameWork t :=
  ⟨_, rfl, State.sameWork_ite s.sameWork_refl
    (State.sameWork_ite (((s.sameWork_updAo _).trans (State.sameWork_updTime _ _)).trans (State.sameWork_updAo _ _)) (s.sameWork_updAo _))⟩

theorem State.sameWork_sagStageEnter (s : State) (samples : List Nat) : ∃ t, execSagStageEnter samples s = .next t ∧ s.sameWork t :=
  ⟨_, rfl, State.sameWork_ite s.sameWork_refl (State.sameWork_ite (s.sameWork_updPwr _)
    ((((s.sameWork_updPwr _).trans (State.sameWork_updPwr _ _)).trans (State.sameWork_sagRecord _ _ _ _)).trans
      (State.sameWork_sagSet _)))⟩

theorem State.sameWork_sagStageExit (s : State) (low mv : Nat) : ∃ t, execSagStageExit low mv s = .next t ∧ s.sameWork t :=
  ⟨_, rfl, State.sameWork_ite s.sameWork_refl
    (((s.sameWork_updPwr _).trans (State.sameWork_sagRecord _ _ _ _)).trans (State.sameWork_sagSet _))⟩

theorem State.sameWork_powerCapEval (s : State) (mean now : Nat) : ∃ t, execPowerCapEval mean now s = .next t ∧ s.sameWork t := by
  refine ⟨_, rfl, State.sameWork_ite s.sameWork_refl ?_⟩
  extract_lets t cap k u
  have ht : s.sameWork t := s.sameWork_updPwr _
  have hu : s.sameWork u := ht.trans (t.sameWork_updPwr _)
  clear_value t u
  exact State.sameWork_ite (ht.trans (t.sameWork_updPwr _)) (State.sameWork_ite ht
    (State.sameWork_ite (hu.trans (u.sameWork_updPwr _)) (State.sameWork_ite (hu.trans (u.sameWork_updPwr _)) hu)))

theorem State.sameWork_droopTrip (s : State) (cell : Nat) : ∃ t, execDroopTrip cell s = .next t ∧ s.sameWork t :=
  ⟨_, rfl, State.sameWork_ite s.sameWork_refl ((((s.sameWork_setReg _ _).trans (State.sameWork_regAdd _ _ _)).trans
    (State.sameWork_updPwr _ _)).trans (State.sameWork_droopFall _ _))⟩

theorem State.sameWork_droopStretchEnd (s : State) (die : Nat) : ∃ t, execDroopStretchEnd die s = .next t ∧ s.sameWork t :=
  ⟨_, rfl, State.sameWork_ite s.sameWork_refl ((s.sameWork_droopFall _).trans (State.sameWork_updPwr _ _))⟩

theorem State.sameWork_droopStepRise (s : State) (die : Nat) : ∃ t, execDroopStepRise die s = .next t ∧ s.sameWork t :=
  ⟨_, rfl, State.sameWork_ite s.sameWork_refl (s.sameWork_updPwr _)⟩

theorem State.sameWork_memtScrub (s : State) (cell : Nat) (found : List (Nat × Bool)) :
    ∃ t, execMemtScrub cell found s = .next t ∧ s.sameWork t := by
  refine ⟨_, rfl, State.sameWork_ite s.sameWork_refl ?_⟩
  have h := fun c => (s.sameWork_setCell cell c).trans (State.sameWork_memtSense _ cell (64 * (s.cell cell).scrubPos) 64)
  exact State.sameWork_ite ((h _).trans (State.sameWork_record _ _ _ _)) (h _)

theorem State.sameWork_traceEntryDrop (s : State) : ∃ t, execTraceEntryDrop s = .next t ∧ s.sameWork t := by
  refine ⟨_, rfl, ?_⟩
  split
  · exact s.sameWork_refl
  · exact State.sameWork_ite s.sameWork_refl ⟨rfl, rfl, rfl, rfl, rfl, rfl⟩

theorem State.sameWork_cellStepEnd (s : State) (cell : Nat) : ∃ t, execCellStepEnd cell s = .next t ∧ s.sameWork t :=
  ⟨_, rfl, State.sameWork_ite s.sameWork_refl ((s.sameWork_setHalt _ _ _).trans (State.sameWork_record _ _ _ _))⟩

/-- The samples of the sensors write no work where none is critical (R606, R607). -/
theorem State.sameWork_thermSample (s : State) (temps : List Int) (n : Nat) (hc : endsFatal (.thermSample temps n) = false) :
    ∃ t, execThermSample temps n s = .next t ∧ s.sameWork t := by
  refine ⟨_, rfl, ?_⟩
  split
  · exact s.sameWork_refl
  · next hp =>
    have hlen : temps.length = 58 := by simp at hp; exact hp.2
    have hnone : (List.range 14).find? (fun g => decide (tripAt g + 80 ≤ groupTemp temps g)) = none := by
      have hall : (List.range 14).any (fun g => decide (tripAt g + 80 ≤ groupTemp temps g)) = false := by
        rw [endsFatal, hlen] at hc
        exact hc
      exact List.find?_eq_none.2 (List.any_eq_false.1 hall)
    extract_lets u groups v _ w
    have hv : s.sameWork v := (s.sameWork_updPwr _).trans (State.sameWork_foldl (fun t g => t.sameWork_thermLevel _ _) _ _)
    have hw : s.sameWork w := hv.trans (v.sameWork_updPwr _)
    clear_value v w
    rw [hnone]
    dsimp only
    split
    · exact State.sameWork_ite hw (((hw.trans (w.sameWork_updPwr _)).trans (State.sameWork_record _ _ _ _)).trans (State.sameWork_sagSet _))
    · exact State.sameWork_ite ((hw.trans (w.sameWork_updPwr _)).trans (State.sameWork_sagSet _)) hw

/-- The debug window of a stopped module reads and does not write (R641, R650). -/
theorem State.sameWork_dbgWindowAccess {s : State} (hf : s.fatal = true) (write : Bool) (off : Nat) (wide : Bool) (data : Nat) :
    ∃ t, execDbgWindowAccess write off wide data s = .next t ∧ s.sameWork t := by
  cases write with
  | true => exact ⟨s, congrArg Host.Outcome.next (if_pos (by simp [State.bar_fatal hf])), s.sameWork_refl⟩
  | false =>
    refine ⟨_, rfl, ?_⟩
    refine State.sameWork_ite s.sameWork_refl (State.sameWork_ite ⟨rfl, rfl, rfl, rfl, rfl, rfl⟩ (State.sameWork_ite ⟨rfl, rfl, rfl, rfl, rfl, rfl⟩ ?_))
    exact s.sameWork_winRead _ _ _ _ _

theorem State.Stopped.sameWork_vfEnable {s : State} (hs : s.Stopped) (on : Bool) : ∃ t, execVfEnable on s = .next t ∧ s.sameWork t := by
  have hu : ∀ u : State, s.sameWork u → s.sameWork { u with vfEn := false } := fun u h => h.trans ⟨rfl, rfl, rfl, rfl, rfl, rfl⟩
  exact ⟨_, rfl, State.sameWork_ite (State.sameWork_ite s.sameWork_refl ⟨rfl, rfl, rfl, rfl, rfl, rfl⟩)
    (hu _ (hs.sameWork_resetFns (List.range 17).tail))⟩

theorem State.sameWork_ideOff (s : State) : s.sameWork s.ideOff := (s.sameWork_setField _ _ _ _).trans (State.sameWork_updSec _ _)

theorem State.Stopped.sameWork_pcieLinkRetrain {s : State} (hs : s.Stopped) (rate width : Nat) (cxl : Bool) :
    ∃ t, execPcieLinkRetrain rate width cxl s = .next t ∧ s.sameWork t := by
  refine ⟨_, rfl, ?_⟩
  split
  · exact s.sameWork_refl
  · extract_lets full v t
    have ht : s.sameWork t := s.sameWork_setReg _ _
    have h := ht.trans ((hs.of_sameWork ht).sameWork_resetFns (List.range 17).tail)
    have hu : ∀ u : State, s.sameWork u → s.sameWork { u with vfEn := false, pfOnly := true } :=
      fun u h => h.trans ⟨rfl, rfl, rfl, rfl, rfl, rfl⟩
    exact State.sameWork_ite (ht.trans t.sameWork_ideOff) (State.sameWork_ite ht (hu _ h))

/-! ### The requests the security block answers in a fatal stop -/

theorem State.sameWork_answerSpdm (s : State) (r : SpdmReply) : s.sameWork (s.answerSpdm r) := s.sameWork_updSec _

/-- A request inside a session answers an error or runs. -/
theorem State.sameWork_ideKm (s : State) (session set : Nat) {run : State → State} (h : s.sameWork (run s)) :
    s.sameWork (s.ideKm session set run) :=
  State.sameWork_ite s.sameWork_refl (State.sameWork_ite (s.sameWork_answerSpdm _) h)

theorem State.sameWork_setKey (s : State) (session : Nat) (req : List Byte) : ∃ t, execSetKey session req s = .next t ∧ s.sameWork t := by
  refine ⟨_, rfl, State.sameWork_ite s.sameWork_refl ?_⟩
  split
  · exact s.sameWork_answerSpdm _
  · exact State.sameWork_ite (s.sameWork_answerSpdm _) (State.sameWork_ite ⟨rfl, rfl, rfl, rfl, rfl, rfl⟩ ⟨rfl, rfl, rfl, rfl, rfl, rfl⟩)

theorem State.sameWork_getCertificate (s : State) (slot off len : Nat) :
    ∃ t, execGetCertificate slot off len s = .next t ∧ s.sameWork t := by
  refine ⟨_, rfl, State.sameWork_ite s.sameWork_refl ?_⟩
  split <;> exact s.sameWork_answerSpdm _

theorem State.sameWork_getMeasurements (s : State) (index : Nat) (nonce : List Byte) (sign : Bool) :
    ∃ t, execGetMeasurements index nonce sign s = .next t ∧ s.sameWork t :=
  ⟨_, rfl, State.sameWork_ite s.sameWork_refl (State.sameWork_ite (s.sameWork_answerSpdm _) (s.sameWork_answerSpdm _))⟩

theorem State.sameWork_challenge (s : State) (slot : Nat) (nonce : List Byte) :
    ∃ t, execChallenge slot nonce s = .next t ∧ s.sameWork t :=
  ⟨_, rfl, State.sameWork_ite s.sameWork_refl (State.sameWork_ite (s.sameWork_answerSpdm _)
    (State.sameWork_ite (s.sameWork_answerSpdm _) (s.sameWork_answerSpdm _)))⟩

theorem State.sameWork_keyExchange (s : State) (chain : Option (List Byte)) (nonce : List Byte) :
    ∃ t, execKeyExchange chain nonce s = .next t ∧ s.sameWork t := by
  refine ⟨_, rfl, State.sameWork_ite s.sameWork_refl ?_⟩
  split
  · exact s.sameWork_answerSpdm _
  · exact State.sameWork_ite (s.sameWork_answerSpdm _) ((s.sameWork_updSec _).trans (State.sameWork_answerSpdm _ _))

theorem State.sameWork_endSession (s : State) (session : Nat) : ∃ t, execEndSession session s = .next t ∧ s.sameWork t :=
  ⟨_, rfl, State.sameWork_ite s.sameWork_refl (State.sameWork_ite (s.sameWork_answerSpdm _)
    ((s.sameWork_updSec _).trans (State.sameWork_answerSpdm _ _)))⟩

theorem State.sameWork_keyUpdate (s : State) (session : Nat) : ∃ t, execKeyUpdate session s = .next t ∧ s.sameWork t :=
  ⟨_, rfl, State.sameWork_ite s.sameWork_refl (State.sameWork_ite (s.sameWork_answerSpdm _)
    ((s.sameWork_updSec _).trans (State.sameWork_answerSpdm _ _)))⟩

theorem State.sameWork_keyProg (s : State) (session set : Nat) (key : List Byte) :
    ∃ t, execKeyProg session set key s = .next t ∧ s.sameWork t :=
  ⟨_, rfl, s.sameWork_ideKm _ _ ((s.sameWork_updSec _).trans (State.sameWork_answerSpdm _ _))⟩

theorem State.sameWork_kSetGo (s : State) (session set : Nat) : ∃ t, execKSetGo session set s = .next t ∧ s.sameWork t :=
  ⟨_, rfl, s.sameWork_ideKm _ _ (State.sameWork_ite (s.sameWork_answerSpdm _)
    (((s.sameWork_updSec _).trans (State.sameWork_setField _ _ _ _ _)).trans (State.sameWork_answerSpdm _ _)))⟩

theorem State.sameWork_kSetStop (s : State) (session set : Nat) : ∃ t, execKSetStop session set s = .next t ∧ s.sameWork t := by
  refine ⟨_, rfl, s.sameWork_ideKm _ _ ?_⟩
  exact State.sameWork_ite ((((s.sameWork_updSec _).trans (State.sameWork_updSec _ _)).trans (State.sameWork_setField _ _ _ _ _)).trans
    (State.sameWork_answerSpdm _ _)) ((s.sameWork_updSec _).trans (State.sameWork_answerSpdm _ _))

theorem State.sameWork_ideQuery (s : State) (session : Nat) : ∃ t, execIdeQuery session s = .next t ∧ s.sameWork t :=
  ⟨_, rfl, s.sameWork_ideKm _ _ (s.sameWork_answerSpdm _)⟩

theorem State.sameWork_haltWrite (s : State) (scope on : Bool) (n code : Nat) : s.sameWork (s.haltWrite scope on n code) :=
  State.sameWork_ite ((s.sameWork_setHalt _ _ _).trans (State.sameWork_record _ _ _ _)) s.sameWork_refl

/-- A module stops once. -/
theorem State.sameWork_fatalStop {s : State} (hf : s.fatal = true) (code : Nat) : s.sameWork (s.fatalStop code) := by
  rw [State.fatalStop, if_pos hf]
  exact s.sameWork_refl

/-! ### Every command of a stopped module -/

/-- Until a power event or a reset a command of a stopped module writes no work: most do nothing (R641). -/
theorem exec_sameWork_of_stopped {s : State} (hs : s.Stopped) (c : Instr) (hc : endsFatal c = false) :
    ∃ t, exec c s = .next t ∧ s.sameWork t := by
  have hf : s.fatal = true := hs.1
  have hb := State.bar_fatal hf
  have hm := State.mayStage_fatal hf
  have hcm : s.cmds = [] := hs.2.2.2.1
  cases c with
  | powerOn | perstAssert | devReset | refclkLoss | sagS5Enter | overvoltage | powerLoss => exact Bool.noConfusion hc
  | ringEnable | ringDisable | msixUnmask | featCommit | wallSlewWrite | launchArm | svnCommit | debugUnlock | debugLock | slotClear
  | shareCommit | sealCtlWrite | sigRangeWrite | tenantCreate | tenantRemove | deepIdleRequest | apGateWrite | snapshotTake
  | signalHandSet | traceCopy =>
    exact ⟨s, congrArg Host.Outcome.next (if_pos (by simp [hb])), s.sameWork_refl⟩
  | wallBaseWrite | ppsEnWrite | launchDisarm | ferKeyRetire =>
    exact ⟨s, congrArg Host.Outcome.next (if_neg (by simp [hb])), s.sameWork_refl⟩
  | registerWrite => exact ⟨s, congrArg Host.Outcome.next (if_pos (by simp [State.regOpen, hb])), s.sameWork_refl⟩
  | cellHalt | cellResume => exact ⟨_, rfl, s.sameWork_haltWrite _ _ _ _⟩
  | cellStep => exact ⟨_, rfl, State.sameWork_ite (s.sameWork_haltWrite _ _ _ _) s.sameWork_refl⟩
  | cellRetirement cell write =>
    cases write with
    | true => exact ⟨s, congrArg Host.Outcome.next ((if_pos rfl).trans (if_pos (by simp [hb]))), s.sameWork_refl⟩
    | false => exact ⟨s, congrArg Host.Outcome.next ((if_neg Bool.false_ne_true).trans (if_pos (by simp [hf]))), s.sameWork_refl⟩
  | landing | stage1 | stage2 | stage3 => exact ⟨s, congrArg Host.Outcome.next (if_pos (by simp [hm])), s.sameWork_refl⟩
  | pfFlr | deepIdleEnter | deepIdleExit | domainGate | heartbeatSend | widePortYield | hbmPatrol | pageMigrate | reducedModeEntry =>
    exact ⟨s, congrArg Host.Outcome.next (if_pos (by simp [hf])), s.sameWork_refl⟩
  | watchdogExpire | fatalStop => exact ⟨_, rfl, State.sameWork_ite (s.sameWork_fatalStop hf _) s.sameWork_refl⟩
  | vfFlr fn => exact ⟨_, rfl, State.sameWork_ite (s.sameWork_resetFn fn hs.2.1 hcm) s.sameWork_refl⟩
  | vfEnable on => exact hs.sameWork_vfEnable on
  | pcieLinkRetrain rate width cxl => exact hs.sameWork_pcieLinkRetrain rate width cxl
  | d3hotTransition fn d3 => exact ⟨_, rfl, State.sameWork_ite s.sameWork_refl (State.sameWork_ite s.sameWork_refl (s.sameWork_setFnCfg _ _))⟩
  | atsInvalidate fn pages => exact ⟨_, rfl, s.sameWork_setFnCfg _ _⟩
  | wallSlewEnd => exact ⟨_, rfl, State.sameWork_ite (s.sameWork_updTime _) s.sameWork_refl⟩
  | ppsEdge => exact s.sameWork_ppsEdge
  | ppsLost => exact s.sameWork_ppsLost
  | refclkReturn => exact s.sameWork_refclkReturn
  | perstDeassert => exact s.sameWork_perstDeassert
  | powerCapEval mean now => exact s.sameWork_powerCapEval mean now
  | sagStageEnter samples => exact s.sameWork_sagStageEnter samples
  | sagStageExit low mv => exact s.sameWork_sagStageExit low mv
  | thermSample temps n => exact s.sameWork_thermSample temps n hc
  | droopTrip cell => exact s.sameWork_droopTrip cell
  | droopStretchEnd die => exact s.sameWork_droopStretchEnd die
  | droopStepRise die => exact s.sameWork_droopStepRise die
  | nvEraseComplete ok => exact sameWork_nvErase hcm ok
  | pldmSettingsWrite image => exact s.sameWork_pldmSettingsWrite image
  | firmwareUpdate svn valid => exact s.sameWork_firmwareUpdate svn valid
  | previousKeyExpire slot => exact ⟨_, rfl, State.sameWork_ite ⟨rfl, rfl, rfl, rfl, rfl, rfl⟩ s.sameWork_refl⟩
  | setKey session req => exact s.sameWork_setKey session req
  | getCertificate slot off len => exact s.sameWork_getCertificate slot off len
  | getMeasurements index nonce sign => exact s.sameWork_getMeasurements index nonce sign
  | challenge slot nonce => exact s.sameWork_challenge slot nonce
  | keyExchange chain nonce => exact s.sameWork_keyExchange chain nonce
  | endSession session => exact s.sameWork_endSession session
  | keyUpdate session => exact s.sameWork_keyUpdate session
  | keyProg session set key => exact s.sameWork_keyProg session set key
  | kSetGo session set => exact s.sameWork_kSetGo session set
  | kSetStop session set => exact s.sameWork_kSetStop session set
  | ideQuery session => exact s.sameWork_ideQuery session
  | memtScrub cell found => exact s.sameWork_memtScrub cell found
  | cellStepEnd cell => exact s.sameWork_cellStepEnd cell
  | dbgWindowAccess write off wide data => exact State.sameWork_dbgWindowAccess hf write off wide data
  | traceEntryDrop => exact s.sameWork_traceEntryDrop
  | pldmEventRead => exact ⟨_, rfl, State.sameWork_ite (s.sameWork_updAo _) s.sameWork_refl⟩
  | smbusArp addr => exact ⟨_, rfl, State.sameWork_ite (s.sameWork_updAo _) s.sameWork_refl⟩
  | jtagInstruction op => exact ⟨_, rfl, State.sameWork_ite (s.sameWork_updAo _) s.sameWork_refl⟩
  | _ => exact ⟨s, congrArg Host.Outcome.next (if_pos hf), s.sameWork_refl⟩

/-! ### One step -/

/-- Settles O1: the queue is not empty. -/
theorem stepRunsFrontCommand : Obligations.StepRunsFrontCommand := fun _ _ _ => rfl

/-- Settles O3: no arm of the dispatch answers anything but a next state. -/
theorem everyCommandAnswersANextState : Obligations.EveryCommandAnswersANextState := by
  intro c s
  cases c <;> exact ⟨_, rfl⟩

/-- In a fatal stop a tick moves the time base alone (R641). -/
theorem State.tick_fatal {s : State} (hf : s.fatal = true) : ∃ g m, s.tick = { s with gc := g, time := m } := by
  unfold State.tick
  split
  · exact ⟨s.gc, s.time, rfl⟩
  · exact ⟨s.timeTick.gc, s.timeTick.time, rfl⟩

/-- Settles O5: with commands waiting the front one writes no work, and the queue only loses it; with none a tick moves the time base
alone. -/
theorem fatalStopLasts : Obligations.FatalStopLasts := by
  intro s t hs hstep
  obtain ⟨hf, hj, hl, hc, he, hp⟩ := hs
  cases hq : s.pending with
  | nil =>
    have ht : s.tick = t := by simpa [step, hq] using hstep
    obtain ⟨g, m, e⟩ := State.tick_fatal hf
    rw [← ht, e]
    exact ⟨hf, hj, hl, hc, he, hp⟩
  | cons c rest =>
    have ht : exec c { s with pending := rest } = .next t := by simpa [step, hq] using hstep
    rw [hq] at hp
    have hr : ({ s with pending := rest } : State).Stopped := ⟨hf, hj, hl, hc, he, fun d hd => hp d (List.mem_cons_of_mem c hd)⟩
    obtain ⟨u, hu, hw⟩ := exec_sameWork_of_stopped hr c (hp c List.mem_cons_self)
    rw [hu] at ht
    cases ht
    exact hr.of_sameWork hw

end Sys2Proof.Machine
end

section
/-!
O2, O4: the tick on an empty queue, field by field (log 5), and the state after reset.
-/
namespace Sys2Proof.Machine
open Sys2Proof

/-! ### The tick -/

/-- `t` is `s` but for its registers. -/
def State.sameButRegs (s t : State) : Prop := t = { s with regs := t.regs }

theorem State.sameButRegs_refl (s : State) : s.sameButRegs s := rfl

theorem State.sameButRegs.trans {s t u : State} (h : s.sameButRegs t) (h' : t.sameButRegs u) : s.sameButRegs u := by
  unfold State.sameButRegs at *
  rw [h', h]

/-- Counters advanced one after another write the registers alone. -/
theorem State.sameButRegs_foldl {α : Type} {f : State → α → State} (hf : ∀ (s : State) a, s.sameButRegs (f s a)) (l : List α)
    (s : State) : s.sameButRegs (l.foldl f s) :=
  List.foldlRecOn (motive := fun t => s.sameButRegs t) l f s.sameButRegs_refl (fun t ht a _ => ht.trans (hf t a))

theorem State.sameButRegs_tickIf (s : State) (b : Bool) (k : Nat) : s.sameButRegs (s.tickIf b k) := by
  cases b
  · exact s.sameButRegs_refl
  · rfl

theorem State.sameButRegs_ringTick (s : State) (fn k : Nat) : s.sameButRegs (s.ringTick fn k) := by
  unfold State.ringTick
  extract_lets r op roomy t
  have ht : s.sameButRegs t := rfl
  clear_value t
  split
  · exact s.sameButRegs_refl
  · split
    · exact ht.trans rfl
    · exact ht

theorem State.sameButRegs_portTick (s : State) (p : Nat) : s.sameButRegs (s.portTick p) :=
  (s.sameButRegs_tickIf _ _).trans (State.sameButRegs_foldl (fun u _ => u.sameButRegs_tickIf _ _) _ _)

/-- The counters of ticks are registers (R336, R375, R399, R458, R528). -/
theorem State.sameButRegs_tickCounters (s : State) : s.sameButRegs s.tickCounters := by
  unfold State.tickCounters
  extract_lets t1 t2 t3 t4 t5
  have h1 : s.sameButRegs t1 := State.sameButRegs_foldl (fun u _ => u.sameButRegs_ringTick _ _) _ _
  have h2 : t1.sameButRegs t2 := (t1.sameButRegs_tickIf _ _).trans (State.sameButRegs_tickIf _ _ _)
  have h3 : t2.sameButRegs t3 :=
    State.sameButRegs_foldl (fun u _ => (u.sameButRegs_tickIf _ _).trans (State.sameButRegs_tickIf _ _ _)) _ _
  have h4 : t3.sameButRegs t4 := State.sameButRegs_foldl (fun u _ => u.sameButRegs_tickIf _ _) _ _
  have h5 : t4.sameButRegs t5 := State.sameButRegs_foldl (fun u _ => u.sameButRegs_portTick _) _ _
  clear_value t1 t2 t3 t4 t5
  exact ((((h1.trans h2).trans h3).trans h4).trans h5).trans (t5.sameButRegs_tickIf _ _)

theorem State.timeTick_eq (s : State) : s.timeTick = { s with gc := s.gc + 1, time := s.timeTick.time } := rfl

/-- A tick of the A-clocks writes their counts and the cells. -/
theorem State.clockTick_eq (s : State) : s.clockTick = { s with pwr := s.clockTick.pwr, cells := s.clockTick.cells } := rfl

/-- Ports that stand still move the clocks of messages, jobs and gates alone. -/
theorem State.stallTick_eq (s : State) :
    s.stallTick = { s with fer := s.stallTick.fer, cmds := s.stallTick.cmds, gate := s.stallTick.gate, aliasGate := s.stallTick.aliasGate } := by
  unfold State.stallTick
  split <;> rfl

theorem State.tick_stopped_base {s : State} (h : s.time.running = false) : s.tick = s := by
  simp [State.tick, h]

theorem State.tick_running_fatal {s : State} (h : s.time.running = true) (hf : s.fatal = true) : s.tick = s.timeTick := by
  simp [State.tick, h, hf]

/-- `t` is `s` but for what time alone drives. -/
def State.ticked (s t : State) : Prop :=
  t = { s with gc := t.gc, time := t.time, pwr := t.pwr, cells := t.cells, regs := t.regs, tokens := t.tokens, jobs := t.jobs
               fer := t.fer, cmds := t.cmds, gate := t.gate, aliasGate := t.aliasGate }

theorem State.ticked.trans {s t u : State} (h : s.ticked t) (h' : t.ticked u) : s.ticked u := by
  unfold State.ticked at *
  rw [h', h]

theorem State.sameButRegs.ticked {s t : State} (h : s.sameButRegs t) : s.ticked t := by
  unfold State.sameButRegs at h
  rw [h]
  rfl

theorem State.ticked_accrue (s : State) : s.ticked s.accrue := rfl

theorem State.ticked_clockTick (s : State) : s.ticked s.clockTick := rfl

theorem State.ticked_timeTick (s : State) : s.ticked s.timeTick := rfl

theorem State.ticked_stallTick (s : State) : s.ticked s.stallTick := by
  rw [s.stallTick_eq]
  rfl

/-- What a running tick writes (log 5). -/
theorem State.ticked_tick {s : State} (h : s.time.running = true) : s.ticked s.tick := by
  unfold State.tick
  rw [if_neg (by simp [h])]
  split
  · rfl
  · extract_lets t
    have hj : s.ticked t := rfl
    have hc : t.ticked t.tickCounters := t.sameButRegs_tickCounters.ticked
    exact ((hj.trans hc).trans ((State.ticked_accrue _).trans (State.ticked_clockTick _))).trans
      ((State.ticked_stallTick _).trans (State.ticked_timeTick _))

theorem State.gc_timeTick (s : State) : s.timeTick.gc = s.gc + 1 := rfl

theorem State.gc_accrue (s : State) : s.accrue.gc = s.gc := rfl

theorem State.gc_clockTick (s : State) : s.clockTick.gc = s.gc := rfl

theorem State.gc_stallTick (s : State) : s.stallTick.gc = s.gc := by
  rw [s.stallTick_eq]

theorem State.sameButRegs.gc {s t : State} (h : s.sameButRegs t) : t.gc = s.gc := by
  unfold State.sameButRegs at h
  rw [h]

/-- A running tick is one T-cycle of the GC (R555). -/
theorem State.gc_tick {s : State} (h : s.time.running = true) : s.tick.gc = s.gc + 1 := by
  unfold State.tick
  rw [if_neg (by simp [h])]
  split
  · rfl
  · extract_lets t
    rw [State.gc_timeTick, State.gc_stallTick, State.gc_clockTick, State.gc_accrue, t.sameButRegs_tickCounters.gc]
    rfl

/-- Settles O2: each part of the tick writes the fields that time drives. -/
theorem idleStepIsOneTick : Obligations.IdleStepIsOneTick := by
  unfold Obligations.IdleStepIsOneTick
  intro s hp
  refine ⟨?_, State.tick_stopped_base, State.gc_tick, State.ticked_tick, fun hr hf => ?_⟩
  · unfold step
    rw [hp]
  · rw [State.tick_running_fatal hr hf]
    rfl

/-! ### Reset -/

/-- Every MSI-X vector is masked after reset (R525). -/
theorem State.reset_reg_msix : ∀ fn < 17, ∀ v < 9, State.reset.reg (rMsix fn v + 12) = 1 := by decide +kernel

/-- After reset only tenant 0 is PRESENT (R529). -/
theorem State.reset_present : ∀ n < 17, State.reset.present n = decide (n = 0) := by decide +kernel

/-- Settles O4, field by field. -/
theorem resetState : Obligations.ResetState := by
  unfold Obligations.ResetState
  refine ⟨rfl, rfl, rfl, rfl, rfl, rfl, rfl, rfl, rfl, rfl, rfl, rfl, rfl, rfl, fun fn k => ⟨rfl, rfl⟩, fun p => rfl,
    fun fn v hf hv => State.reset_reg_msix fn (by omega) v hv, by decide +kernel, fun n h1 h2 => ?_, by decide +kernel⟩
  rw [State.reset_present n (by omega)]
  exact decide_eq_false (by omega)

end Sys2Proof.Machine
end

section
/-!
O7, O10, O11: the element-wise, compare and reduction instructions of the vector tile (R126, R128, R136 to R141).
-/
namespace Sys2Proof.Machine
open Sys2Proof

/-! ### An instruction's command at its instruction -/

/-- A command that runs an instruction inside its cell does so where its context stands at it. -/
theorem exec_vtOp_at {s : State} {cell ctx : Nat} {e : VEnv} {cmd : Instr} {op : Nat} {run : VEnv → VOut} (h : s.vtAt cell ctx e)
    (ho : e.i.op = op) (hc : exec cmd s = .next (if s.fatal then s else s.vtOp cell ctx op run)) :
    exec cmd s = .next (s.vtFinish cell ctx e.i (run e)) := by
  rw [hc, if_neg (by simp [h.1]), State.vtOp_at op run h ho]

/-- A command whose run computes `g` per element into vd, where `ok` holds. -/
theorem VElementwise.of_vtOp {cmd : Nat → Nat → Instr} {op k d : Nat} {ok : VEnv → Prop} {g : VEnv → Nat → Nat × Nat} {run : VEnv → VOut}
    (hc : ∀ s cell ctx, exec (cmd cell ctx) s = .next (if s.fatal then s else s.vtOp cell ctx op run))
    (hop : 16 ≤ op) (hx : op ≠ 0x18)
    (hr : ∀ e, ok e → run e = { c := e.putReg e.i.vd (e.elems (e.reg e.i.vd) (g e)).1, x := e.advance (e.elems (e.reg e.i.vd) (g e)).2
                                occ := k * e.groups + d }) : VElementwise cmd op k d ok g := by
  refine VElementwise.of_run hop hx fun s cell ctx e h ho hk => ?_
  rw [exec_vtOp_at h ho (hc s cell ctx), hr e hk]

/-- An element-wise instruction of R149's figure `k`. -/
theorem VElementwise.of_vElem {cmd : Nat → Nat → Instr} {op k : Nat} {g : VEnv → Nat → Nat × Nat}
    (hc : ∀ s cell ctx, exec (cmd cell ctx) s = .next (if s.fatal then s else s.vtOp cell ctx op (vElem k g)))
    (hop : 16 ≤ op) (hx : op ≠ 0x18) : VElementwise cmd op k 0 (fun _ => True) g :=
  VElementwise.of_vtOp hc hop hx fun _ _ => rfl

/-- A compare into md. -/
theorem VMaskwise.of_vCmp {cmd : Nat → Nat → Instr} {op : Nat} {g : VEnv → Nat → Bool × Nat}
    (hc : ∀ s cell ctx, exec (cmd cell ctx) s = .next (if s.fatal then s else s.vtOp cell ctx op (vCmp g)))
    (hop : 16 ≤ op) (hx : op ≠ 0x18) : VMaskwise cmd op (fun _ => True) g := by
  refine VMaskwise.of_run hop hx fun s cell ctx e h ho _ => ?_
  rw [exec_vtOp_at h ho (hc s cell ctx)]
  rfl

/-- Settles O7: each is an element-wise instruction. -/
theorem vectorFloatingPoint : Obligations.VectorFloatingPoint := by
  unfold Obligations.VectorFloatingPoint
  refine ⟨?_, ?_, ?_, ?_, ?_, ?_, ?_, ?_, ?_, ?_, ?_, ?_, ?_, ?_, ?_, ?_, ?_, ?_, ?_⟩ <;>
    exact VElementwise.of_vElem (fun _ _ _ => rfl) (by decide) (by decide)

/-- Settles O10: the compares write their mask, the conversions their elements. -/
theorem vectorComparesAndConversions : Obligations.VectorComparesAndConversions := by
  unfold Obligations.VectorComparesAndConversions
  refine ⟨?_, ?_, ?_, ?_, ?_⟩
  · simp only [List.forall_mem_cons, List.not_mem_nil, false_implies, implies_true, and_true]
    refine ⟨?_, ?_, ?_, ?_, ?_, ?_⟩ <;> exact VMaskwise.of_vCmp (fun _ _ _ => rfl) (by decide) (by decide)
  all_goals exact VElementwise.of_vElem (fun _ _ _ => rfl) (by decide) (by decide)

/-! ### Reductions -/

/-- Element 0 of vd is written and no other. -/
theorem VReducing.of_vReduce {cmd : Nat → Nat → Instr} {op : Nat} {f : VEnv → Nat → Nat → Nat × Nat} {r : VEnv → Nat × Nat}
    (hc : ∀ s cell ctx, exec (cmd cell ctx) s = .next (if s.fatal then s else s.vtOp cell ctx op (fun e => vReduce (f e) e)))
    (hop : 16 ≤ op) (hx : op ≠ 0x18)
    (hv : ∀ e, BitVec.ofNat 32 ((e.reduced (f e)).1.getD 0) = BitVec.ofNat 32 (r e).1) (hf : ∀ e, (e.reduced (f e)).2 = (r e).2) :
    VReducing cmd op 6 r := by
  intro s cell ctx e h ho
  have hst : e.x.stopping = false := h.2.2.2.2.2.2.2.2.1
  refine ⟨Tab.putRun 0#32 e.c.vr (4096 * e.i.vd + e.x.part.vrBase) [BitVec.ofNat 32 (r e).1], ?_, fun key => ?_⟩
  · rw [exec_vtOp_at h ho (hc s cell ctx), State.vtFinish_done _ _ rfl hst rfl (by omega)]
    simp only [vReduce, VEnv.putReg, List.map_cons, List.map_nil, hv, hf, VEnv.advance_next _ _ (show 16 ≤ e.i.op by omega), VEnv.groups, ceilDiv]
    rfl
  · rw [Tab.get_putRun]
    by_cases hk : key = 4096 * e.i.vd + e.x.part.vrBase
    · simp [hk]
    · rw [if_neg (by simp only [List.length_singleton]; omega), if_neg hk]

/-- A reduction that is its tree. -/
theorem VReducing.of_tree {cmd : Nat → Nat → Instr} {op : Nat} {f : VEnv → Nat → Nat → Nat × Nat}
    (hc : ∀ s cell ctx, exec (cmd cell ctx) s = .next (if s.fatal then s else s.vtOp cell ctx op (fun e => vReduce (f e) e)))
    (hop : 16 ≤ op) (hx : op ≠ 0x18) : VReducing cmd op 6 (fun e => ((e.reduced (f e)).1.getD 0, (e.reduced (f e)).2)) :=
  VReducing.of_vReduce hc hop hx (fun _ => by dsimp only) (fun _ => by dsimp only)

/-- IRSUM's operation on two elements (R141). -/
def irAdd (a b : Nat) : Nat × Nat := ((a + b) % 2 ^ 32, 0)

/-- What a partial result adds to the sum. -/
def partVal (p : Option Nat × Nat) : Nat := p.1.getD 0

/-- A list is built by adding elements at its end. -/
theorem append_singleton_induction {α : Type} {motive : List α → Prop} (nil : motive [])
    (append_singleton : ∀ l x, motive l → motive (l ++ [x])) (l : List α) : motive l := by
  rw [← l.reverse_reverse]
  induction l.reverse with
  | nil => exact nil
  | cons x l ih =>
    rw [List.reverse_cons]
    exact append_singleton _ x ih

/-- Sums of equal remainders have equal remainders. -/
theorem mod_add_congr {n a b c d : Nat} (h : a % n = b % n) (h' : c % n = d % n) : (a + c) % n = (b + d) % n := by
  rw [Nat.add_mod, h, h', ← Nat.add_mod]

theorem partVal_redOp_irAdd (p q : Option Nat × Nat) : partVal (redOp irAdd p q) % 2 ^ 32 = (partVal p + partVal q) % 2 ^ 32 := by
  obtain ⟨_ | x, a⟩ := p <;> obtain ⟨_ | y, b⟩ := q
  case some.some => exact Nat.mod_mod _ _
  all_goals simp only [redOp, partVal, Option.getD_none, Option.getD_some, Nat.zero_add, Nat.add_zero]

/-- The flags of two partial results that have none. -/
theorem redOp_irAdd_flags {p q : Option Nat × Nat} (hp : p.2 = 0) (hq : q.2 = 0) : (redOp irAdd p q).2 = 0 := by
  obtain ⟨_ | x, a⟩ := p <;> obtain ⟨_ | y, b⟩ := q <;> simp_all [redOp, irAdd]

/-- The halving tree adds every partial result once. -/
theorem partVal_redTree_irAdd (k : Nat) (ps : List (Option Nat × Nat)) (hl : ps.length = 2 ^ k) :
    partVal (redTree irAdd k ps) % 2 ^ 32 = (ps.map partVal).sum % 2 ^ 32 := by
  induction k generalizing ps with
  | zero =>
    obtain ⟨p, rfl⟩ := List.length_eq_one_iff.mp hl
    rw [List.map_singleton, List.sum_cons, List.sum_nil, Nat.add_zero]
    rfl
  | succ k ih =>
    have hzip : ∀ xs ys : List (Option Nat × Nat), xs.length = ys.length →
        ((List.zipWith (redOp irAdd) xs ys).map partVal).sum % 2 ^ 32 = ((xs.map partVal).sum + (ys.map partVal).sum) % 2 ^ 32 := by
      intro xs
      induction xs with
      | nil =>
        intro ys h
        rw [List.length_eq_zero_iff.mp h.symm]
        rfl
      | cons x xs ihx =>
        rintro (_ | ⟨y, ys⟩) h
        · exact absurd h (Nat.succ_ne_zero _)
        · rw [List.zipWith_cons_cons, List.map_cons, List.map_cons, List.map_cons, List.sum_cons, List.sum_cons, List.sum_cons,
            Nat.add_add_add_comm]
          exact mod_add_congr (partVal_redOp_irAdd x y) (ihx ys (Nat.succ.inj h))
    have hp : 2 ^ (k + 1) = 2 * 2 ^ k := by rw [Nat.pow_succ, Nat.mul_comm]
    have htake : (ps.take (2 ^ k)).length = (ps.drop (2 ^ k)).length := by
      rw [List.length_take, List.length_drop, hl]
      omega
    calc partVal (redTree irAdd (k + 1) ps) % 2 ^ 32
        = ((List.zipWith (redOp irAdd) (ps.take (2 ^ k)) (ps.drop (2 ^ k))).map partVal).sum % 2 ^ 32 :=
          ih _ (by rw [List.length_zipWith, List.length_take, List.length_drop, hl]; omega)
      _ = (((ps.take (2 ^ k)).map partVal).sum + ((ps.drop (2 ^ k)).map partVal).sum) % 2 ^ 32 := hzip _ _ htake
      _ = (ps.map partVal).sum % 2 ^ 32 := by rw [← List.sum_append, ← List.map_append, List.take_append_drop]

/-- The halving tree of partial results without flags has none. -/
theorem redTree_irAdd_flags (k : Nat) (ps : List (Option Nat × Nat)) (h : ∀ p ∈ ps, p.2 = 0) : (redTree irAdd k ps).2 = 0 := by
  induction k generalizing ps with
  | zero =>
    cases ps with
    | nil => rfl
    | cons p ps => exact h p (by simp)
  | succ k ih =>
    refine ih _ fun p hp => ?_
    obtain ⟨x, hx, y, hy, rfl⟩ : ∃ x ∈ ps.take (2 ^ k), ∃ y ∈ ps.drop (2 ^ k), redOp irAdd x y = p := by
      rw [List.mem_iff_getElem] at hp
      obtain ⟨n, hn, rfl⟩ := hp
      obtain ⟨hx, hy⟩ := Nat.lt_min.mp (List.length_zipWith (f := redOp irAdd) ▸ hn)
      exact ⟨_, List.getElem_mem hx, _, List.getElem_mem hy, by rw [List.getElem_zipWith]⟩
    exact redOp_irAdd_flags (h x (List.mem_of_mem_take hx)) (h y (List.mem_of_mem_drop hy))

/-- What element `j` adds to the sum. -/
def VEnv.addend (e : VEnv) (j : Nat) : Nat := if decide (j < e.x.vl) && e.active j then e.s1 j else 0

/-- A lane's partial result over the element indices `l`. -/
def VEnv.laneSum (e : VEnv) (l : List Nat) : Option Nat × Nat :=
  l.foldl (fun p j => if decide (j < e.x.vl) && e.active j then redOp irAdd p (some (e.s1 j), 0) else p) (none, 0)

theorem VEnv.laneSum_spec (e : VEnv) (l : List Nat) :
    partVal (e.laneSum l) % 2 ^ 32 = (l.map e.addend).sum % 2 ^ 32 ∧ (e.laneSum l).2 = 0 := by
  induction l using append_singleton_induction with
  | nil => exact ⟨rfl, rfl⟩
  | append_singleton l j ih =>
    unfold VEnv.laneSum at *
    rw [List.foldl_append, List.foldl_cons, List.foldl_nil, List.map_append, List.sum_append, List.map_singleton, List.sum_singleton]
    unfold VEnv.addend at *
    split
    · exact ⟨(partVal_redOp_irAdd _ _).trans (mod_add_congr ih.1 rfl), redOp_irAdd_flags ih.2 rfl⟩
    · exact ih

/-- A sum of zeros. -/
theorem sum_map_zero {f : Nat → Nat} {l : List Nat} (h : ∀ x ∈ l, f x = 0) : (l.map f).sum = 0 := by
  induction l with
  | nil => rfl
  | cons x l ih => rw [List.map_cons, List.sum_cons, h x List.mem_cons_self, ih fun y hy => h y (List.mem_cons_of_mem _ hy)]

/-- The sum of two functions' values is the sum of their sums. -/
theorem sum_map_add (f g : Nat → Nat) (l : List Nat) : (l.map (fun x => f x + g x)).sum = (l.map f).sum + (l.map g).sum := by
  induction l with
  | nil => rfl
  | cons x l ih => rw [List.map_cons, List.map_cons, List.map_cons, List.sum_cons, List.sum_cons, List.sum_cons, ih, Nat.add_add_add_comm]

/-- A sum over lanes and groups is one over the elements. -/
theorem sum_lanes_groups (f : Nat → Nat) (n : Nat) :
    ((List.range 64).map (fun l => (((List.range n).map (fun g => 64 * g + l)).map f).sum)).sum = ((List.range (64 * n)).map f).sum := by
  induction n with
  | zero => exact sum_map_zero fun _ _ => rfl
  | succ n ih =>
    have hlane : ∀ l, (((List.range (n + 1)).map (fun g => 64 * g + l)).map f).sum
        = (((List.range n).map (fun g => 64 * g + l)).map f).sum + f (64 * n + l) := fun l => by
      rw [List.range_succ, List.map_append, List.map_append, List.sum_append, List.map_singleton, List.map_singleton, List.sum_cons, List.sum_nil,
        Nat.add_zero]
    rw [Nat.mul_succ, show List.range (64 * n + 64) = _ from List.range_add, List.map_append, List.sum_append, ← ih, List.map_map, List.map_congr_left fun l _ => hlane l, sum_map_add,
      Function.comp_def]

/-- The addends below VL are those of the active elements, and there are no others. -/
theorem VEnv.sum_addend (e : VEnv) (n : Nat) (hn : e.x.vl ≤ n) :
    ((List.range n).map e.addend).sum = (((List.range e.x.vl).filter e.active).map e.s1).sum := by
  obtain ⟨k, rfl⟩ := Nat.exists_eq_add_of_le hn
  rw [List.range_add, List.map_append, List.sum_append]
  have htail : (((List.range k).map (e.x.vl + ·)).map e.addend).sum = 0 := by
    have hzero : ∀ x ∈ List.range k, e.addend (e.x.vl + x) = 0 := fun x _ => by
      rw [VEnv.addend, decide_eq_false (Nat.not_lt.mpr (Nat.le_add_right _ _)), Bool.false_and]
      rfl
    rw [List.map_map]
    exact sum_map_zero hzero
  have hhead : ∀ l : List Nat, (∀ j ∈ l, j < e.x.vl) → (l.map e.addend).sum = ((l.filter e.active).map e.s1).sum := by
    intro l hl
    induction l with
    | nil => rfl
    | cons j l ih =>
      have hj := hl j (by simp)
      rw [List.map_cons, List.sum_cons, ih fun i hi => hl i (by simp [hi]), List.filter_cons]
      cases ha : e.active j <;> simp [VEnv.addend, hj, ha]
  rw [htail, Nat.add_zero, hhead _ fun j hj => List.mem_range.mp hj]

/-- IRSUM's reduction is the sum of the active elements (R141). -/
theorem VEnv.reduced_irAdd (e : VEnv) :
    (e.reduced irAdd).1.getD 0 % 2 ^ 32 = (((List.range e.x.vl).filter e.active).map e.s1).sum % 2 ^ 32 ∧ (e.reduced irAdd).2 = 0 := by
  have hlanes : ∀ ls : List Nat, ((ls.map (fun l => e.laneSum ((List.range e.groups).map (fun g => 64 * g + l)))).map partVal).sum % 2 ^ 32
      = (ls.map (fun l => (((List.range e.groups).map (fun g => 64 * g + l)).map e.addend).sum)).sum % 2 ^ 32 := by
    intro ls
    induction ls with
    | nil => rfl
    | cons l ls ih => exact mod_add_congr (e.laneSum_spec _).1 ih
  constructor
  · calc partVal (e.reduced irAdd) % 2 ^ 32
        = _ % 2 ^ 32 := partVal_redTree_irAdd 6 _ (by simp)
      _ = _ % 2 ^ 32 := hlanes (List.range 64)
      _ = _ % 2 ^ 32 := congrArg (· % 2 ^ 32) (sum_lanes_groups e.addend e.groups)
      _ = _ := congrArg (· % 2 ^ 32) (e.sum_addend _ (by simp only [VEnv.groups, ceilDiv]; omega))
  · refine redTree_irAdd_flags 6 _ fun p hp => ?_
    obtain ⟨l, _, rfl⟩ := List.mem_map.mp hp
    exact (e.laneSum_spec _).2

/-- Settles O11: FRSUM, FRMAX and FRMIN are the tree itself, IRSUM's tree is the sum. -/
theorem vectorReductions : Obligations.VectorReductions := by
  unfold Obligations.VectorReductions
  refine ⟨?_, ?_, ?_, ?_⟩
  · exact VReducing.of_tree (f := fun _ a b => ((accAdd a (FVal.decode .fp32 b)).1,
      (accAdd a (FVal.decode .fp32 b)).2.toBits ||| (snanCond (FVal.decode .fp32 a) (FVal.decode .fp32 b)).toBits))
      (fun _ _ _ => rfl) (by decide) (by decide)
  · exact VReducing.of_tree (f := fun e a b => (fmax32 e.fp32Native a b, (snanCond (FVal.decode .fp32 a) (FVal.decode .fp32 b)).toBits))
      (fun _ _ _ => rfl) (by decide) (by decide)
  · exact VReducing.of_tree (f := fun e a b => (fmin32 e.fp32Native a b, (snanCond (FVal.decode .fp32 a) (FVal.decode .fp32 b)).toBits))
      (fun _ _ _ => rfl) (by decide) (by decide)
  · refine VReducing.of_vReduce (f := fun _ => irAdd) (fun _ _ _ => rfl) (by decide) (by decide) (fun e => ?_) (fun e => e.reduced_irAdd.2)
    apply BitVec.eq_of_toNat_eq
    rw [BitVec.toNat_ofNat, BitVec.toNat_ofNat]
    exact e.reduced_irAdd.1

end Sys2Proof.Machine
end

section
/-!
O13: vector loads and stores (R127, R131, R132). Elements are packed as one stream of bits (R42), so the proofs speak of single bits.
-/
namespace Sys2Proof.Machine
open Sys2Proof

/-! ### Bits of a byte stream (R42) -/

/-- Bit `i` of a byte stream. -/
def bitAt (bs : List Byte) (i : Nat) : Bool := (byteAt bs (i / 8)).testBit (i % 8)

theorem testBit_byteAt_cons_zero (b : Byte) (bs : List Byte) (r : Nat) : (byteAt (b :: bs) 0).testBit r = b.toNat.testBit r := rfl

theorem bitAt_cons_lt (b : Byte) (bs : List Byte) {i : Nat} (h : i < 8) : bitAt (b :: bs) i = b.toNat.testBit i := by
  rw [bitAt, Nat.div_eq_of_lt h, Nat.mod_eq_of_lt h]
  rfl

theorem bitAt_cons_add (b : Byte) (bs : List Byte) (i : Nat) : bitAt (b :: bs) (i + 8) = bitAt bs i := by
  rw [bitAt, bitAt, Nat.add_div_right _ (by decide), Nat.add_mod_right]
  rfl

/-- Bits past the end of a stream are 0. -/
theorem bitAt_of_le (bs : List Byte) {i : Nat} (h : 8 * bs.length ≤ i) : bitAt bs i = false := by
  rw [bitAt, byteAt, List.getD_eq_getElem?_getD, List.getElem?_eq_none (by omega)]
  simp

/-- The number a byte stream spells has its bits. -/
theorem testBit_leNat (bs : List Byte) (i : Nat) : (leNat bs).testBit i = bitAt bs i := by
  induction bs generalizing i with
  | nil => simp [leNat, bitAt, byteAt]
  | cons b bs ih =>
    rw [leNat, show (256 : Nat) = 2 ^ 8 by rfl, Nat.add_comm, Nat.testBit_two_pow_mul_add _ b.isLt]
    split
    · next h => rw [bitAt_cons_lt b bs h]
    · next h =>
      obtain ⟨j, rfl⟩ := Nat.exists_eq_add_of_le' (Nat.le_of_not_lt h)
      rw [bitAt_cons_add, Nat.add_sub_cancel, ih]

/-- The bytes of a number have its bits. -/
theorem bitAt_leBytes {n i : Nat} (x : Nat) (h : i < 8 * n) : bitAt (leBytes n x) i = x.testBit i := by
  rw [bitAt, byteAt, getD_leBytes (by omega), BitVec.toNat_ofNat, Nat.testBit_mod_two_pow, Nat.testBit_div_two_pow]
  simp [Nat.mod_lt, Nat.mod_add_div]

theorem length_leBytes (n x : Nat) : (leBytes n x).length = n := by
  induction n generalizing x with
  | zero => rfl
  | succ n ih => rw [leBytes, List.length_cons, ih]

theorem bitAt_readBytes (m : Memory) (a : Nat) {n i : Nat} (h : i < 8 * n) :
    bitAt (m.readBytes a n) i = (m.read (a + i / 8)).toNat.testBit (i % 8) := by
  rw [bitAt, byteAt, getD_readBytes m a (by omega)]

/-- A run of bytes of a stream has the bits that lie in it. -/
theorem bitAt_drop_take (bs : List Byte) (k n : Nat) {i : Nat} (h : i < 8 * n) : bitAt ((bs.drop k).take n) i = bitAt bs (8 * k + i) := by
  have hd : (8 * k + i) / 8 = k + i / 8 := by omega
  have hm : (8 * k + i) % 8 = i % 8 := by omega
  rw [bitAt, bitAt, hd, hm, byteAt, byteAt, List.getD_eq_getElem?_getD, List.getElem?_take_of_lt (by omega), List.getElem?_drop,
    List.getD_eq_getElem?_getD]

/-- Element `j` of a stream has its `n` bits (R42). -/
theorem testBit_streamElem (bs : List Byte) (n j : Nat) {b : Nat} (h : b < n) : (streamElem bs n j).testBit b = bitAt bs (n * j + b) := by
  rw [streamElem, Nat.testBit_mod_two_pow, Nat.testBit_shiftRight, testBit_leNat, bitAt_drop_take _ _ _ (by omega)]
  simp only [h, decide_true, Bool.true_and]
  congr 1
  omega

/-- The bits of packed elements, element after element. -/
theorem testBit_packed (n : Nat) (es : List Nat) (j : Nat) {b : Nat} (h : b < n) (hj : j < es.length) :
    (es.foldr (fun e acc => e % 2 ^ n + acc * 2 ^ n) 0).testBit (n * j + b) = (es.getD j 0).testBit b := by
  induction es generalizing j with
  | nil => simp at hj
  | cons e es ih =>
    rw [List.foldr_cons, Nat.add_comm, Nat.mul_comm _ (2 ^ n), Nat.testBit_two_pow_mul_add _ (Nat.mod_lt _ (Nat.two_pow_pos _))]
    cases j with
    | zero => simp [h]
    | succ j =>
      rw [if_neg (by rw [Nat.mul_succ]; omega), show n * (j + 1) + b - n = n * j + b by rw [Nat.mul_succ]; omega, ih j (by simpa using hj),
        List.getD_cons_succ]

theorem bitAt_packElems (n : Nat) (es : List Nat) {j b : Nat} (h : b < n) (hj : j < es.length) :
    bitAt (packElems n es) (n * j + b) = (es.getD j 0).testBit b := by
  have hle : n * j + n ≤ n * es.length := by rw [← Nat.mul_succ]; exact Nat.mul_le_mul_left n hj
  rw [packElems, bitAt_leBytes _ (by omega), testBit_packed n es j h hj]

/-! ### The bytes a store leaves (R127, R128) -/

/-- A stored stream is as long as its span. -/
theorem VEnv.length_storeBytes (e : VEnv) (n : Nat) (old : List Byte) (g : Nat → Nat × Nat) :
    (e.storeBytes n old g).1.length = (n * e.x.vl + 7) / 8 := by
  have hp : (packElems n (e.elems (fun j => streamElem old n j) g).1).length = (n * e.x.vl + 7) / 8 := by
    rw [packElems, length_leBytes]
    simp [VEnv.elems]
  unfold VEnv.storeBytes
  dsimp only
  split
  · exact hp
  · rw [List.length_append, List.length_take, List.length_singleton, hp]
    omega

/-- A byte's low bits replaced. -/
theorem testBit_low_high (a b : Nat) {k i : Nat} (hi : i < 8) :
    (BitVec.ofNat 8 (a % 2 ^ k + b / 2 ^ k * 2 ^ k)).toNat.testBit i = if i < k then a.testBit i else b.testBit i := by
  rw [BitVec.toNat_ofNat, Nat.testBit_mod_two_pow, Nat.add_comm, Nat.mul_comm, Nat.testBit_two_pow_mul_add _ (Nat.mod_lt _ (Nat.two_pow_pos _))]
  simp only [hi, decide_true, Bool.true_and, Nat.testBit_mod_two_pow, Nat.testBit_div_two_pow]
  split
  · next h => simp [h]
  · next h => rw [Nat.sub_add_cancel (by omega)]

/-- Bits below VL's elements are those packed, the rest of the last byte is the old (R127). -/
theorem VEnv.bitAt_storeBytes (e : VEnv) (n : Nat) (old : List Byte) (g : Nat → Nat × Nat) {i : Nat} (hi : i < 8 * ((n * e.x.vl + 7) / 8)) :
    bitAt (e.storeBytes n old g).1 i =
      if i < n * e.x.vl then bitAt (packElems n (e.elems (fun j => streamElem old n j) g).1) i else bitAt old i := by
  have hp : (packElems n (e.elems (fun j => streamElem old n j) g).1).length = (n * e.x.vl + 7) / 8 := by
    rw [packElems, length_leBytes]
    simp [VEnv.elems]
  unfold VEnv.storeBytes
  dsimp only
  generalize packElems n (e.elems (fun j => streamElem old n j) g).1 = packed at hp
  split
  · rw [if_pos (by omega)]
  · next ht =>
    by_cases hl : i / 8 < packed.length - 1
    · rw [if_pos (by omega), bitAt, byteAt, List.getD_eq_getElem?_getD, List.getElem?_append_left (by rw [List.length_take]; omega),
        List.getElem?_take_of_lt hl, ← List.getD_eq_getElem?_getD]
      rfl
    · have hd : i / 8 = packed.length - 1 := by omega
      have hb : byteAt (packed.take (packed.length - 1) ++ [BitVec.ofNat 8 (byteAt packed (packed.length - 1) % 2 ^ (n * e.x.vl % 8)
          + byteAt old (packed.length - 1) / 2 ^ (n * e.x.vl % 8) * 2 ^ (n * e.x.vl % 8))]) (packed.length - 1)
          = (BitVec.ofNat 8 (byteAt packed (packed.length - 1) % 2 ^ (n * e.x.vl % 8)
          + byteAt old (packed.length - 1) / 2 ^ (n * e.x.vl % 8) * 2 ^ (n * e.x.vl % 8))).toNat := by
        rw [byteAt, List.getD_eq_getElem?_getD, List.getElem?_append_right (by rw [List.length_take]; omega), List.length_take,
          Nat.min_eq_left (Nat.sub_le _ _), Nat.sub_self]
        rfl
      rw [bitAt, hd, hb, testBit_low_high _ _ (by omega), bitAt, bitAt, hd]
      exact ite_congr (by rw [eq_iff_iff]; omega) (fun _ => rfl) (fun _ => rfl)

theorem VEnv.getD_elems (e : VEnv) (old : Nat → Nat) (g : Nat → Nat × Nat) {j : Nat} (hj : j < e.x.vl) :
    (e.elems old g).1.getD j 0 = if e.active j then (g j).1 else if e.i.mmode = 2 then 0 else old j := by
  simp only [VEnv.elems, List.map_map, List.getD_eq_getElem?_getD, List.getElem?_map, List.getElem?_range hj, Option.map_some,
    Option.getD_some, Function.comp]
  split <;> rfl

/-- The bits of element `j` after a store (R128). -/
theorem VEnv.bitAt_storeBytes_elem (e : VEnv) (n : Nat) (old : List Byte) (g : Nat → Nat × Nat) {j b : Nat} (hj : j < e.x.vl) (hb : b < n) :
    bitAt (e.storeBytes n old g).1 (n * j + b) = e.chosen j (bitAt old (n * j + b)) ((g j).1.testBit b) false := by
  have hle : n * j + n ≤ n * e.x.vl := by rw [← Nat.mul_succ]; exact Nat.mul_le_mul_left n hj
  rw [e.bitAt_storeBytes n old g (by omega), if_pos (by omega), bitAt_packElems n _ hb (by simpa [VEnv.elems] using hj), e.getD_elems _ _ hj]
  unfold VEnv.chosen
  split
  · rfl
  · split
    · simp
    · exact testBit_streamElem old n j hb

/-! ### Loads -/

/-- A local range that passes the checks of R152, R120 and R636. -/
theorem VEnv.localCheck_done {e : VEnv} {a n align : Nat} {read : Bool} (ha : a % align = 0) (hw : e.x.inWindow a n = true)
    (hx : e.x.xferOverlaps a n = false) (hb : read = true → e.c.localBad a n = none) : e.localCheck a n align read = .done := by
  unfold VEnv.localCheck
  cases read <;> simp_all

/-- Elements without flags raise none. -/
theorem VEnv.elems_flags_zero (e : VEnv) (old : Nat → Nat) {g : Nat → Nat × Nat} (hg : ∀ j, (g j).2 = 0) : (e.elems old g).2 = 0 := by
  refine List.foldlRecOn (motive := fun x => x = 0) _ _ rfl ?_
  rintro _ rfl r hr
  obtain ⟨j, _, rfl⟩ := List.mem_map.mp hr
  split <;> simp [hg]

/-- Elements that agree below VL give the same results. -/
theorem VEnv.elems_congr (e : VEnv) (old : Nat → Nat) {g g' : Nat → Nat × Nat} (hg : ∀ j, j < e.x.vl → g j = g' j) :
    e.elems old g = e.elems old g' := by
  unfold VEnv.elems
  have hmap : (List.range e.x.vl).map (fun j => if e.active j then g j else (if e.i.mmode = 2 then 0 else old j, 0))
      = (List.range e.x.vl).map (fun j => if e.active j then g' j else (if e.i.mmode = 2 then 0 else old j, 0)) :=
    List.map_congr_left fun j hj => by rw [hg j (List.mem_range.mp hj)]
  rw [hmap]

/-- A mask bit of a bit stream (R131). -/
theorem streamElem_one (m : Memory) (a n : Nat) {j : Nat} (h : j < 8 * n) :
    streamElem (m.readBytes a n) 1 j = ((m.read (a + j / 8)).toNat.testBit (j % 8)).toNat := by
  have hb := testBit_streamElem (m.readBytes a n) 1 j (b := 0) (by decide)
  rw [Nat.add_zero, Nat.one_mul, bitAt_readBytes m a h] at hb
  have hlt : streamElem (m.readBytes a n) 1 j < 2 := Nat.mod_lt _ (by decide)
  rw [← hb, Nat.testBit_zero]
  obtain h0 | h1 : streamElem (m.readBytes a n) 1 j = 0 ∨ streamElem (m.readBytes a n) 1 j = 1 := by omega
  · simp [h0]
  · simp [h1]

/-- An error that arises first is remembered, then the load runs (R636). -/
theorem exec_localErr {cmd : Option Nat → Instr} {s : State} {cell a op ctx : Nat} {run : VEnv → VOut} (hf : s.fatal = false)
    (hc : ∀ err u, exec (cmd err) u = .next (if u.fatal then u else (u.localErr cell err).vtOp cell ctx op run)) :
    exec (cmd (some a)) s = exec (cmd none) (s.localErr cell (some a)) := by
  have hl : (s.localErr cell (some a)).fatal = false := by
    unfold State.localErr
    dsimp only
    split <;> exact hf
  rw [hc, hc, hf, hl]
  rfl

/-- VLD (R131, R132). -/
theorem vElementwise_vld : VElementwise (fun c k => .vld c k none) 0x10 1 0
    (fun e => e.ea % e.elAlign = 0 ∧ e.x.inWindow e.ea (e.span e.f.width) = true ∧ e.x.xferOverlaps e.ea (e.span e.f.width) = false
      ∧ e.c.localBad e.ea (e.span e.f.width) = none)
    (fun e j => (loadElem e.f (streamElem (e.c.loc.readBytes e.ea (e.span e.f.width)) e.f.width j), 0)) := by
  refine VElementwise.of_vtOp (run := vLoad) (fun _ _ _ => rfl) (by decide) (by decide) ?_
  rintro e ⟨ha, hw, hx, hb⟩
  unfold vLoad
  dsimp only
  rw [VEnv.localCheck_done ha hw hx fun _ => hb, VEnv.elems_flags_zero e _ fun _ => rfl]
  simp

/-- VLDB (R55, R131). -/
theorem vElementwise_vldb : VElementwise (fun c k => .vldb c k none) 0x12 1 0
    (fun e => e.ea % 64 = 0 ∧ e.x.inWindow e.ea (e.span e.f.width) = true ∧ e.x.xferOverlaps e.ea (e.span e.f.width) = false
      ∧ e.c.localBad e.ea (e.span e.f.width) = none ∧ e.sa % 64 = 0 ∧ e.x.inWindow e.sa (e.x.vl / e.blk) = true
      ∧ e.x.xferOverlaps e.sa (e.x.vl / e.blk) = false ∧ e.c.localBad e.sa (e.x.vl / e.blk) = none)
    (fun e j => let v := rne32 (blockElem e.f (byteAt (e.c.loc.readBytes e.sa (e.x.vl / e.blk)) (j / e.blk))
        (streamElem (e.c.loc.readBytes e.ea (e.span e.f.width)) e.f.width j))
      (v.1, v.2.toBits)) := by
  refine VElementwise.of_vtOp (run := vLoadB) (fun _ _ _ => rfl) (by decide) (by decide) ?_
  rintro e ⟨ha, hw, hx, hb, ha', hw', hx', hb'⟩
  unfold vLoadB
  dsimp only
  rw [VEnv.localCheck_done ha hw hx fun _ => hb, VEnv.localCheck_done ha' hw' hx' fun _ => hb']
  simp

/-- MLD (R131). -/
theorem vMaskwise_mld : VMaskwise (fun c k => .mld c k none) 0x14
    (fun e => e.x.inWindow e.ea (e.span 1) = true ∧ e.x.xferOverlaps e.ea (e.span 1) = false ∧ e.c.localBad e.ea (e.span 1) = none)
    (fun e j => ((e.c.loc.read (e.ea + j / 8)).toNat.testBit (j % 8), 0)) := by
  refine VMaskwise.of_run (by decide) (by decide) ?_
  rintro s cell ctx e h ho ⟨hw, hx, hb⟩
  rw [exec_vtOp_at (run := vMaskLoad) h ho rfl]
  have hbits : e.elems (fun j => (e.maskBit (e.i.vd % 4) j).toNat) (fun j => (streamElem (e.c.loc.readBytes e.ea (e.span 1)) 1 j, 0))
      = e.elems (fun j => (e.maskBit (e.i.vd % 4) j).toNat) (fun j => (((e.c.loc.read (e.ea + j / 8)).toNat.testBit (j % 8)).toNat, 0)) :=
    e.elems_congr _ fun j hj => by rw [streamElem_one _ _ _ (by unfold VEnv.span; omega)]
  unfold vMaskLoad
  dsimp only
  rw [VEnv.localCheck_done (Nat.mod_one _) hw hx fun _ => hb, hbits, VEnv.elems_flags_zero e _ fun _ => rfl]

/-! ### Stores -/

/-- The bytes a store of `n`-bit elements leaves in its span, and its flags. -/
def VEnv.stored (e : VEnv) (n : Nat) (g : Nat → Nat × Nat) : List Byte × Nat := e.storeBytes n (e.c.loc.readBytes e.ea (e.span n)) g

/-- The span of a store holds the bits stored. -/
theorem VEnv.testBit_stored (e : VEnv) (n : Nat) (g : Nat → Nat × Nat) {i : Nat} (hi : i < 8 * ((n * e.x.vl + 7) / 8)) :
    ((e.c.putLocal e.ea (e.stored n g).1).loc.read (e.ea + i / 8)).toNat.testBit (i % 8) = bitAt (e.stored n g).1 i := by
  have hlen : (e.stored n g).1.length = (n * e.x.vl + 7) / 8 := e.length_storeBytes _ _ _
  rw [Cell.putLocal, Memory.read_writeBytes, hlen, if_pos (by omega), Nat.add_sub_cancel_left]
  rfl

/-- A store, from what its run leaves. -/
theorem VStoring.of_vtOp {cmd : Nat → Nat → Instr} {op : Nat} {w align : VEnv → Nat} {g : VEnv → Nat → Nat × Nat} {run : VEnv → VOut}
    (hc : ∀ s cell ctx, exec (cmd cell ctx) s = .next (if s.fatal then s else s.vtOp cell ctx op run))
    (hop : 16 ≤ op) (hx : op ≠ 0x18)
    (hr : ∀ e, e.ea % align e = 0 → e.x.inWindow e.ea (e.span (w e)) = true → e.x.xferOverlaps e.ea (e.span (w e)) = false →
      run e = { c := e.c.putLocal e.ea (e.stored (w e) (g e)).1, x := e.advance (e.stored (w e) (g e)).2, occ := e.groups }) :
    VStoring cmd op w align g := by
  intro s cell ctx e h ho ha hw hov
  have hst : e.x.stopping = false := h.2.2.2.2.2.2.2.2.1
  have hlen : (e.stored (w e) (g e)).1.length = (w e * e.x.vl + 7) / 8 := e.length_storeBytes _ _ _
  refine ⟨(e.c.putLocal e.ea (e.stored (w e) (g e)).1).loc, (e.c.putLocal e.ea (e.stored (w e) (g e)).1).locBad,
    e.x.flags ||| (e.stored (w e) (g e)).2, ?_, fun a hout => ?_, fun b hlo hhi => ?_, fun j hj b hb => ?_, fun x => ?_,
    e.raised_elems _ (g e)⟩
  · rw [exec_vtOp_at h ho (hc s cell ctx), hr e ha hw hov, State.vtFinish_done _ _ rfl hst rfl (by omega), e.advance_next _ (by omega)]
    rfl
  · rw [Cell.putLocal, Memory.read_writeBytes, hlen, if_neg (by omega)]
  · rw [e.testBit_stored _ _ hhi, VEnv.stored, e.bitAt_storeBytes _ _ _ hhi, if_neg (by omega), bitAt_readBytes _ _ (by exact hhi)]
  · have hle : w e * j + w e ≤ w e * e.x.vl := by rw [← Nat.mul_succ]; exact Nat.mul_le_mul_left _ hj
    rw [e.testBit_stored _ _ (by omega), VEnv.stored, e.bitAt_storeBytes_elem _ _ _ hj hb, bitAt_readBytes _ _ (by unfold VEnv.span; omega)]
  · rw [Cell.putLocal, hlen]
    simp only [List.mem_filter, Bool.not_eq_true', Bool.and_eq_false_iff, decide_eq_false_iff_not, Classical.not_and_iff_not_or_not]

/-- VST (R131, R132). -/
theorem vStoring_vst :
    VStoring .vst 0x11 (fun e => e.f.width) (fun e => e.elAlign) (fun e j => storeElem e.f e.i.mode e.i.sat (e.r16 j) (e.reg e.i.vd j)) := by
  refine VStoring.of_vtOp (run := vStore) (fun _ _ _ => rfl) (by decide) (by decide) fun e ha hw hx => ?_
  unfold vStore
  dsimp only
  rw [VEnv.localCheck_done ha hw hx (by simp)]
  rfl

/-- MST (R127, R131). -/
theorem vStoring_mst : VStoring .mst 0x15 (fun _ => 1) (fun _ => 1) (fun e j => ((e.maskBit (e.i.vd % 4) j).toNat, 0)) := by
  refine VStoring.of_vtOp (run := vMaskStore) (fun _ _ _ => rfl) (by decide) (by decide) fun e ha hw hx => ?_
  have hfl : (e.stored 1 (fun j => ((e.maskBit (e.i.vd % 4) j).toNat, 0))).2 = 0 :=
    e.elems_flags_zero _ fun _ => rfl
  unfold vMaskStore
  dsimp only
  rw [VEnv.localCheck_done ha hw hx (by simp), hfl]
  rfl

/-- Settles O13: the loads element by element, the stores bit by bit. -/
theorem vectorLoadsAndStores : Obligations.VectorLoadsAndStores := by
  unfold Obligations.VectorLoadsAndStores
  exact ⟨⟨vElementwise_vld, vElementwise_vldb, vMaskwise_mld, fun s cell k a hf =>
    ⟨exec_localErr (cmd := fun x => .vld cell k x) hf fun _ _ => rfl, exec_localErr (cmd := fun x => .vldb cell k x) hf fun _ _ => rfl,
      exec_localErr (cmd := fun x => .mld cell k x) hf fun _ _ => rfl⟩⟩, vStoring_vst, vStoring_mst⟩

end Sys2Proof.Machine
end

section
/-!
O14: VRECV where another context of the cell waits at a channel too shallow for it (R213).
-/
namespace Sys2Proof.Machine
open Sys2Proof

/-- A cell whose vector context 0 stands at a VRECV from channel 0, which holds the word it needs, while context 1 is LATE at a VRECV from
channel 1, of depth 0. -/
def shortReceiverCell : Cell :=
  { Cell.reset with
    mem := Memory.writeBytes [] 0 ([0x16, 0].flatMap (leBytes 4)), progCount := 1, chanCfg := [(0, 8 * 2 ^ 6)]
    chans := [(0, { fifo := [{ data := List.replicate 128 1#8, eor := true, circuit := 0, job := none }] })]
    vt := [(0, { st := .active, vl := 32, part := { vrCap := 128, ocSize := 64 } }), (1, { st := .late, instr := some (0x16, 1) })] }

/-- The module with that cell at its site 0. -/
def shortReceiver : State :=
  { State.reset with stage := 3, regs := [], cells := [(0, shortReceiverCell)], ao := { State.reset.ao with perst := false, landed := true } }

/-- What the VRECV of context 0 sees. -/
def shortReceiverEnv : VEnv :=
  { c := shortReceiverCell, x := shortReceiverCell.vtx 0, i := shortReceiverCell.vtInstr 0, fp32Native := shortReceiver.feature 0 }

theorem shortReceiver_vtAt : shortReceiver.vtAt 0 0 shortReceiverEnv ∧ shortReceiverEnv.i.op = 0x16 := by unfold State.vtAt; decide +kernel

/-- The fault records written so far, of what a command answers. -/
def recordsAfter (o : Out) : Nat :=
  match o with
  | .next t => t.log.count
  | _ => 0

/-- The VRECV records STREAM_SHORT for the context that waits (R213). -/
theorem shortReceiver_records : recordsAfter (exec (.vrecv 0 0) shortReceiver) = 1 := by decide +kernel

/-- An instruction that has retired writes no record. -/
theorem State.vtDone_log (s : State) (cell k : Nat) (c : Cell) (x : VtCtx) (occ : Nat) : (s.vtDone cell k c x occ).log = s.log := by
  unfold State.vtDone State.acctCyc
  cases x.job <;> rfl

/-- Refutes O14: VRECV looks at every context of its cell that is LATE, and where one waits for more words than its channel's depth it
records STREAM_SHORT (R213), which the clause for VRECV leaves out. -/
theorem not_vectorBlocksStreamsAndXfer : ¬ Obligations.VectorBlocksStreamsAndXfer := by
  unfold Obligations.VectorBlocksStreamsAndXfer
  rintro ⟨⟨_, hrecv, _⟩, _⟩
  obtain ⟨vr, he, _⟩ := hrecv shortReceiver 0 0 shortReceiverEnv _ _ _ shortReceiver_vtAt.1 shortReceiver_vtAt.2 rfl (by decide +kernel)
  have hlog := congrArg recordsAfter he
  rw [shortReceiver_records, recordsAfter, State.vtDone_log] at hlog
  exact absurd hlog (show ¬ 1 = shortReceiver.log.count by decide)

end Sys2Proof.Machine
end

section
/-!
O17: the matrix tile's commands that run, hand over and retire tiles and switch contexts (R82 to R106).
-/
namespace Sys2Proof.Machine
open Sys2Proof

/-- Neither the end of a tile nor a wait for operands is a fault. -/
theorem State.mmaFault_done (s : State) (cell k : Nat) (job : Option Nat) (ptr : Nat) : s.mmaFault cell k job ptr .done = s := rfl

theorem State.mmaFault_late (s : State) (cell k : Nat) (job : Option Nat) (ptr : Nat) : s.mmaFault cell k job ptr .late = s := rfl

/-- MMA at its command runs. -/
theorem exec_mma_at {s : State} {cell ctx : Nat} {w : List Nat} (h : s.mtAt cell ctx 1 w) :
    exec (.mma cell ctx none) s = .next (s.runMma cell ctx (s.mtCell cell ctx) (((s.cell cell).mtx ctx).take 1 w) w) :=
  congrArg Host.Outcome.next ((if_neg (by simp [h.1])).trans (State.mtCommand_at _ h))

/-- An MMA that may run, to the end of its tile (R82, R103). -/
theorem State.runMma_run {s u : State} {cell k : Nat} {c c' : Cell} {x x' : MtCtx} {w : List Nat} {fa fb : Fmt} {la lb : Layout}
    {e : TileEnd} {cr : List Nat} {draw : Nat} (ht : (Mma.ofWords w).types s.arrFeat.mx16 = some (fa, fb, la, lb))
    (hr : x.cannotRun (Mma.ofWords w) = false) (hd : s.raceDraw x = (draw, u))
    (hm : c.mmaTile (Mma.ofWords w) fa fb la lb { x with st := .active } draw = (c', x', e, cr)) (hs : x'.stopping = false) :
    s.runMma cell k c x w = match e with
      | .late => ((((u.owe cr).acctCyc 0 x'.job (mtSpent c c')).setCell cell (c'.setMtx k { x' with st := .late })).shortCell cell)
      | .done => if (Mma.ofWords w).epi = 0xFF then
          ((u.owe cr).acctCyc 0 x'.job (mtSpent c c')).setCell cell (c'.mtSettle ((u.owe cr).acctCyc 0 x'.job (mtSpent c c')).arrFeat k
            { ({ x' with holds := true, sticky := x'.sticky ||| x'.tag } : MtCtx).advance with holds := true })
        else ((u.owe cr).acctCyc 0 x'.job (mtSpent c c')).setCell cell (c'.setMtx k { x' with finished := true })
      | e => (((u.owe cr).acctCyc 0 x'.job (mtSpent c c')).setCell cell (c'.setMtx k x')).mmaFault cell k x'.job x'.ptr e := by
  unfold State.runMma
  simp only [ht, hr, hd, hm, hs, Bool.false_eq_true, if_false]
  cases e <;> rfl

theorem MmaRec.retired_of {r : MmaRec} (h1 : r.toHand = 0) (h2 : r.inEpi = 0) (h3 : r.acks = 0) : r.retired = true := by
  simp [MmaRec.retired, h1, h2, h3]

/-- TILE_HANDOVER of a tile that is not lost (R106, R146). -/
theorem exec_tileHandover_at {s : State} {cell ctx : Nat} {w : List Nat} {c : Cell} {x : MtCtx} {m : Mma} (hf : s.fatal = false)
    (hr : s.cellRuns cell = true) (hc : c = s.cell cell) (hx : x = c.mtx ctx) (hm : m = Mma.ofWords w) (hw : x.cmd = some w)
    (hfin : x.finished = true) (h1 : (c.vtx ctx).st ≠ .faulted) (h2 : (c.vtx ctx).stopping = false) :
    (2 < c.ftqUsed + (if m.pair && bit m.epi 6 then 2 else 1) →
      exec (.tileHandover cell ctx) s = .next (s.setCell cell (c.setMtx ctx { x with st := .held })))
    ∧ (c.ftqUsed + (if m.pair && bit m.epi 6 then 2 else 1) ≤ 2 → ∃ (q : FtqEntry) (y : MtCtx),
      exec (.tileHandover cell ctx) s =
        .next (s.setCell cell (({ c with ftq := c.ftq ++ [q], ftqCount := c.ftqCount + 1 }.count .mtEvtTiles 1).mtSettle s.arrFeat ctx y))
      ∧ q.id = c.ftqCount ∧ q.mctx = ctx ∧ q.tile = x.acc ∧ q.lo = (if m.pair && bit m.epi 6 then some x.lo else none) ∧ q.tag = x.tag
      ∧ q.epi = m.epi ∧ q.cmd = w ∧ q.job = x.job ∧ q.taken = false
      ∧ q.rowBlk = m.rFirst + ((visitOrder m.rCount m.cCount).getD x.visit (0, 0)).1 * m.rStep
      ∧ q.colBlk = m.cFirst + ((visitOrder m.rCount m.cCount).getD x.visit (0, 0)).2
      ∧ y.sticky = x.sticky ||| x.tag ∧ y.acc = [] ∧ y.lo = [] ∧ y.finished = false ∧ y.holds = false ∧ y.job = x.job
      ∧ (if x.visit + 1 < m.rCount * m.cCount then y.ptr = x.ptr ∧ y.visit = x.visit + 1 else y.ptr = x.ptr + 1 ∧ y.visit = 0)) := by
  have he : exec (.tileHandover cell ctx) s = execTileHandover cell ctx s := rfl
  have hlost : ¬ ((c.vtx ctx).st = .faulted ∨ (c.vtx ctx).stopping = true) := by simp [h1, h2]
  unfold execTileHandover at he
  rw [if_neg (by simp [hf])] at he
  dsimp only at he
  rw [← hc, ← hx, hw] at he
  dsimp only at he
  rw [← hm, hr, hfin] at he
  generalize hp : (m.pair && bit m.epi 6) = pair at *
  simp only [execTileHandover.epiPairBit, hp, hlost, not_false_eq_true, and_true, if_false, Bool.not_true, Bool.or_self, Bool.false_eq_true,
    decide_false, Bool.not_false] at he
  constructor
  · intro hfull
    rw [he, if_pos hfull]
    obtain ⟨⟩ := x
    simp only at hw hfin
    subst hw hfin
    rfl
  · intro hroom
    rw [if_neg (by omega)] at he
    by_cases hv : x.visit + 1 < m.rCount * m.cCount
    · have hv' : x.unstage.visit + 1 < m.rCount * m.cCount := hv
      simp only [if_pos hv, if_pos hv'] at he ⊢
      exact ⟨_, _, he, rfl, rfl, rfl, rfl, rfl, rfl, rfl, rfl, rfl, rfl, rfl, rfl, rfl, rfl, rfl, rfl, rfl, rfl, rfl⟩
    · have hv' : ¬ x.unstage.visit + 1 < m.rCount * m.cCount := hv
      simp only [if_neg hv, if_neg hv'] at he ⊢
      exact ⟨_, _, he, rfl, rfl, rfl, rfl, rfl, rfl, rfl, rfl, rfl, rfl, rfl, rfl, rfl, rfl, rfl, rfl, rfl, rfl, rfl⟩

/-- Settles O17, command by command. -/
theorem matrixTilesComputedAndHandedOver : Obligations.MatrixTilesComputedAndHandedOver := by
  unfold Obligations.MatrixTilesComputedAndHandedOver
  refine ⟨?mma, ?handover, ?retire, ?ready, ?switch⟩
  case mma =>
    rintro s u cell ctx w fa fb la lb c x e cr draw h ht hr hd hm t rfl hs
    have hrun := (exec_mma_at h).trans (congrArg Host.Outcome.next (State.runMma_run ht hr hd hm hs))
    refine ⟨?_, ?_, ?_⟩
    · rintro rfl hepi
      exact hrun.trans (congrArg Host.Outcome.next (if_neg hepi))
    · rintro rfl hepi
      exact hrun.trans (congrArg Host.Outcome.next (if_pos hepi))
    · rintro rfl
      exact hrun
  case handover =>
    intro s cell ctx w c x m hf hr hc hx hm hw hfin h1 h2
    exact exec_tileHandover_at hf hr hc hx hm hw hfin h1 h2
  case retire =>
    rintro s cell ctx c x r rs hf rfl rfl hmm hh he ha
    refine congrArg Host.Outcome.next ((if_neg (by simp [hf])).trans ?_)
    simp only [hmm, MmaRec.retired_of hh he ha, Bool.not_true, Bool.false_eq_true, if_false]
    split <;> rfl
  case ready =>
    intro s u cell ctx draw c x e cr hf hr hst hd hm
    have hrun : exec (.mtContextReady cell ctx) s = .next ((((u.owe cr).setCell cell (c.setMtx ctx
        (if e = .done then { x with st := if c.mtSel = ctx then .active else .ready } else x))).mmaFault cell ctx
        (if e = .done then { x with st := if c.mtSel = ctx then .active else .ready } else x).job
        (if e = .done then { x with st := if c.mtSel = ctx then .active else .ready } else x).ptr e).shortCell cell) := by
      refine congrArg Host.Outcome.next ((if_neg (by simp [hf])).trans ?_)
      simp only [hr, hst, Bool.not_true, ne_eq, not_true_eq_false, decide_false, Bool.or_self, Bool.false_eq_true, if_false, hd]
      rw [show (s.cell cell).mtSense ((s.cell cell).mtx ctx) = s.mtCell cell ctx from rfl, hm]
    refine ⟨?_, ?_⟩
    · rintro rfl
      exact hrun
    · rintro rfl
      exact hrun
  case switch =>
    intro s cell k hf hr hn1 hn2 hk
    have hcannot : ((s.cell cell).mtx (s.cell cell).mtSel).st.cannotIssue = true := by
      unfold MtSt.cannotIssue
      split <;> simp_all
    refine congrArg Host.Outcome.next ((if_neg (by simp [hf])).trans ?_)
    simp only [hr, hcannot, Bool.not_true, Bool.or_self, Bool.false_eq_true, if_false, hk]

end Sys2Proof.Machine
end

section
/-!
O25, O31: signal operations at the signal's home (R255 to R264), and a job's first cause (R328).
-/
namespace Sys2Proof.Machine
open Sys2Proof

/-! ### A job's first cause -/

/-- A key written with a value that is not the unlisted one reads as written, in any table. -/
theorem Tab.get_put_of_ne {α : Type} [DecidableEq α] {d v : α} (hv : v ≠ d) (t : Tab α) (k : Nat) : Tab.get d (Tab.put d t k v) k = v := by
  induction t with
  | nil => simp [Tab.put, hv, Tab.get]
  | cons x t ih =>
    obtain ⟨a, b⟩ := x
    simp only [Tab.put, hv, if_false]
    split
    · simp [Tab.get]
    · split
      · next hka => simp [Tab.get, hka]
      · next hne => simp [Tab.get, Ne.symm hne, ih]

/-- A job that has no cause takes the one it is stopped for. -/
theorem State.stopJob_first {s : State} {k : Nat} {j : Job} (st : Status) (seq : Nat) (h : s.job? k = some j) (hj : j.stop = none) :
    s.stopJob (some k) st seq = { s.setJob k (some { j with stop := some { status := st, seq := s.causeOf k j st seq } }) with
      jobCause := Tab.put 0 s.jobCause k (s.causeOf k j st seq) } := by
  simp only [State.stopJob, h, hj]
  rfl

/-- Settles O31: a stop writes the job's cause where it has none, and nothing where it has one. -/
theorem jobsKeepTheirFirstCause : Obligations.JobsKeepTheirFirstCause := by
  unfold Obligations.JobsKeepTheirFirstCause
  intro s k seq st j h
  refine ⟨fun c hc => State.stopJob_stopped s k j st seq h (by rw [hc]; rfl), fun hj => ?_⟩
  have hget : (s.stopJob (some k) st seq).job? k = some { j with stop := some { status := st, seq := s.causeOf k j st seq } } := by
    rw [State.stopJob_first st seq h hj]
    exact Tab.get_put_of_ne (by simp) s.jobs k
  refine ⟨{ status := st, seq := s.causeOf k j st seq }, rfl, hget, fun i hi => ?_, ?_, ?_, ?_, fun st' seq' => ?_⟩
  · rw [State.stopJob_first st seq h hj]
    exact s.job_setJob_other k i _ hi
  · rw [State.stopJob_first st seq h hj]
    rfl
  · rw [State.stopJob_first st seq h hj]
    rfl
  · rw [State.stopJob_first st seq h hj]
    rfl
  · exact State.stopJob_stopped _ k _ st' seq' hget rfl

/-! ### What leaves the signals as they are -/

theorem State.meshWrites.sigs {s t : State} (h : s.meshWrites t) : t.sigs = s.sigs := by
  obtain ⟨_, _, _, _, _, _, _, _, _, rfl⟩ := h
  rfl

@[simp] theorem State.send_sigs (s : State) (p : Packet) : (s.send p).sigs = s.sigs := (s.send_eq p).sigs

@[simp] theorem State.loadTables_sigs (s : State) : s.loadTables.sigs = s.sigs := s.loadTables_eq.sigs

@[simp] theorem State.wake_sigs (s : State) (home sig n : Nat) (iss : Issuer) (o : WakeOutcome) : (s.wake home sig n iss o).sigs = s.sigs :=
  s.send_sigs _

@[simp] theorem State.countHome_sigs (s : State) (home k n : Nat) : (s.countHome home k n).sigs = s.sigs := by
  unfold State.countHome
  split <;> rfl

@[simp] theorem State.record_sigs (s : State) (k : Kind) (r : FaultRec) (b : Bool) : (s.record k r b).sigs = s.sigs := by
  obtain ⟨l, ao, g, h, e⟩ := s.record_eq k r b
  rw [e]

@[simp] theorem State.updMsg_sigs (s : State) (cell : Nat) (f : MsgLogic → MsgLogic) : (s.updMsg cell f).sigs = s.sigs := rfl

/-- Operations that each leave the signals leave them one after another. -/
theorem State.foldl_sigs {α : Type} {f : State → α → State} (hf : ∀ (s : State) a, (f s a).sigs = s.sigs) (l : List α) (s : State) :
    (l.foldl f s).sigs = s.sigs :=
  List.foldlRecOn (motive := fun t => t.sigs = s.sigs) l f rfl (fun _ ht a _ => (hf _ a).trans ht)

/-- Returned credits are ADDs on their way, not yet at a signal (R270). -/
@[simp] theorem State.releaseEntries_sigs (s : State) (cell d : Nat) : (s.releaseEntries cell d).sigs = s.sigs := by
  unfold State.releaseEntries
  split
  · rfl
  · dsimp only
    rw [State.foldl_sigs]
    · rfl
    · intro u e
      split
      · exact u.send_sigs _
      · rfl

@[simp] theorem State.sigEffects_sigs (s : State) (sig old : Nat) (add : Bool) : (s.sigEffects sig old add).sigs = s.sigs := by
  unfold State.sigEffects
  extract_lets g d t
  split
  · rfl
  · show t.sigs = s.sigs
    unfold t
    split
    · rfl
    · split
      · next m _ =>
        extract_lets u
        have hu : u.sigs = s.sigs := by unfold u; split <;> rfl
        split
        · rw [State.releaseEntries_sigs, hu]
        · exact hu
      · rfl

/-! ### A signal that changes -/

/-- `t` holds `g` at signal `n` and the signals of `s` elsewhere. -/
def State.signalBecomes (s t : State) (n : Nat) (g : Signal) : Prop :=
  t.signal n = g ∧ ∀ i, i ≠ n → t.signal i = s.signal i

theorem State.signalBecomes.of_sigs {s t u : State} {n : Nat} {g : Signal} (h : s.signalBecomes t n g) (hu : u.sigs = t.sigs) :
    s.signalBecomes u n g := by
  unfold State.signalBecomes State.signal at *
  rw [hu]
  exact h

theorem State.signalBecomes_setSignal {s : State} (hwf : Tab.wf {} s.sigs = true) (n : Nat) (g : Signal) :
    s.signalBecomes (s.setSignal n g) n g :=
  ⟨Tab.get_put_same _ hwf n g, fun _ hi => Tab.get_put_other _ _ g hi⟩

/-- Waiters whose value is reached leave the queue, and no other signal changes (R255). -/
theorem State.signalBecomes_testWaiters {s t : State} {n : Nat} {g : Signal} (hwf : Tab.wf {} t.sigs = true) (h : s.signalBecomes t n g) :
    s.signalBecomes (t.testWaiters n) n { g with waiters := g.waiters.filter (fun w => decide (g.counter < w.value)) } := by
  obtain ⟨hn, ho⟩ := h
  have hsigs : (t.testWaiters n).sigs = (t.setSignal n { g with waiters := g.waiters.filter (fun w => decide (g.counter < w.value)) }).sigs := by
    unfold State.testWaiters
    dsimp only
    rw [hn, State.foldl_sigs (fun u w => u.wake_sigs _ _ _ _ _)]
    have hrest : (g.waiters.partition (fun w => decide (w.value ≤ g.counter))).2 = g.waiters.filter (fun w => decide (g.counter < w.value)) := by
      rw [List.partition_eq_filter_filter]
      exact List.filter_congr fun w _ => by rw [Function.comp_apply, ← decide_not, decide_eq_decide]; exact Nat.not_le
    rw [hrest]
    split
    · rfl
    · exact State.countHome_sigs _ _ _ _
  have hset := State.signalBecomes_setSignal hwf n { g with waiters := g.waiters.filter (fun w => decide (g.counter < w.value)) }
  exact State.signalBecomes.of_sigs ⟨hset.1, fun i hi => (hset.2 i hi).trans (ho i hi)⟩ hsigs

theorem State.signalBecomes_giveSignal {s t : State} {n : Nat} {g : Signal} (hs : t.sigs = s.sigs) (hwf : Tab.wf {} s.sigs = true)
    (hg : g = s.signal n) (v owner : Nat) (st : SigSt) :
    s.signalBecomes (t.giveSignal n v owner st) n
      { g with counter := v, owner := owner, st := st, satRec := false, waiters := g.waiters.filter (fun w => decide (v < w.value)) } := by
  have hset := State.signalBecomes_setSignal (hs ▸ hwf) n { t.signal n with counter := v, owner := owner, st := st, satRec := false }
  have hgt : t.signal n = g := by rw [hg, State.signal, State.signal, hs]
  have h0 : s.signalBecomes (t.setSignal n { t.signal n with counter := v, owner := owner, st := st, satRec := false }) n
      { g with counter := v, owner := owner, st := st, satRec := false } :=
    ⟨hgt ▸ hset.1, fun i hi => (hset.2 i hi).trans (by rw [State.signal, State.signal, hs])⟩
  exact State.signalBecomes_testWaiters (Tab.wf_put _ (hs ▸ hwf) _ _) h0

theorem State.signalBecomes_addSignal {s t : State} {n : Nat} {g : Signal} (hs : t.sigs = s.sigs) (hwf : Tab.wf {} s.sigs = true)
    (hg : g = s.signal n) (v : Nat) :
    s.signalBecomes (t.addSignal n v) n
      { g with counter := min (g.counter + v) 0xFFFFFFFF, satRec := g.satRec || decide (0xFFFFFFFF < g.counter + v)
               waiters := g.waiters.filter (fun w => decide (min (g.counter + v) 0xFFFFFFFF < w.value)) } := by
  have hgt : t.signal n = g := by rw [hg, State.signal, State.signal, hs]
  unfold State.addSignal
  rw [hgt]
  extract_lets g' sum sat u src u'
  have hset := State.signalBecomes_setSignal (hs ▸ hwf) n { g with counter := min sum 0xFFFFFFFF, satRec := g.satRec || sat }
  have hu : s.signalBecomes u n { g with counter := min sum 0xFFFFFFFF, satRec := g.satRec || sat } :=
    ⟨hset.1, fun i hi => (hset.2 i hi).trans (by rw [State.signal, State.signal, hs])⟩
  have hu' : u'.sigs = u.sigs := by
    unfold u'
    split
    · exact State.record_sigs _ _ _ _
    · rfl
  exact State.signalBecomes_testWaiters (by rw [hu']; exact Tab.wf_put _ (hs ▸ hwf) _ _) (hu.of_sigs hu')

/-! ### An operation at its home -/

/-- A SIG packet at its signal's home is applied there. -/
theorem State.sigArrive_home {s : State} {p : Packet} {op : SigOp} {sig v : Nat} {iss : Issuer} (hn : s.goodNode p.dst = true)
    (ho : s.goodCell p.dst = true → s.cellOpen p.dst = true) (ha : s.mayArrive p = true) (hb : p.body = .sig op sig v iss) (hsig : sig < 16384)
    (hh : (p.dst = hubN ∧ (s.signal sig).home = 0) ∨ p.dst + 1 = (s.signal sig).home) :
    s.sigArrive p op = ((s.arrived p).sigOp op sig v iss p.tenant p.src p.cls).loadTables := by
  have hopen : ¬ (s.goodCell p.dst = true ∧ (!s.cellOpen p.dst) = true) := by
    rintro ⟨h1, h2⟩
    simp [ho h1] at h2
  unfold State.sigArrive
  rw [hb]
  simp only [Nat.mod_eq_of_lt hsig, hn, hopen, ne_eq, not_true_eq_false, Bool.not_true, Bool.false_eq_true, or_self, if_false,
    s.arrive_met p _ ha, hh, if_true]

/-- An operation of a tenant of the signal's range, or of tenant 0, is counted and performed (R259). -/
theorem State.sigOp_admitted {s : State} {op : SigOp} {sig v : Nat} {iss : Issuer} {tenant src : Nat} {cls : SrcClass}
    (ht : tenant = 0 ∨ tenant = s.sigTenant sig) : s.sigOp op sig v iss tenant src cls =
      match op with
      | .set =>
        if (s.signal sig).st ≠ .abandoned then
          ((s.countHome (s.signal sig).home 0 1).giveSignal sig v (s.signal sig).owner (s.signal sig).st).sigEffects sig (s.signal sig).counter false
        else if cls = .host then
          ((s.countHome (s.signal sig).home 0 1).giveSignal sig v 0 .free).sigEffects sig (s.signal sig).counter false
        else s.countHome (s.signal sig).home 0 1
      | .add =>
        if (s.signal sig).st ≠ .abandoned then
          ((s.countHome (s.signal sig).home 0 1).addSignal sig v).sigEffects sig (s.signal sig).counter true
        else s.countHome (s.signal sig).home 0 1
      | .wait =>
        if (s.signal sig).st = .abandoned then
          (((s.countHome (s.signal sig).home 0 1).countHome (s.signal sig).home 1 1).countHome (s.signal sig).home 3 1).wake (s.signal sig).home
            sig (s.signal sig).counter iss .abandoned
        else if v ≤ (s.signal sig).counter then
          ((s.countHome (s.signal sig).home 0 1).countHome (s.signal sig).home 1 1).wake (s.signal sig).home sig (s.signal sig).counter iss .satisfied
        else if (s.countHome (s.signal sig).home 0 1).poolFull (s.signal sig).home tenant then
          ((s.countHome (s.signal sig).home 0 1).countHome (s.signal sig).home 2 1).wake (s.signal sig).home sig (s.signal sig).counter iss .retry
        else (s.countHome (s.signal sig).home 0 1).setSignal sig
          { s.signal sig with waiters := (s.signal sig).waiters ++ [{ value := v, tenant := tenant, iss := iss }] } := by
  unfold State.sigOp
  exact if_neg (by rintro ⟨h1, h2⟩; exact ht.elim h1 h2)

/-- Settles O25: the operation at the home, case by case. -/
theorem signalOperationsAtTheirHome : Obligations.SignalOperationsAtTheirHome := by
  unfold Obligations.SignalOperationsAtTheirHome
  rintro s t p op sig v iss g hf hn ho ha hwf hb hsig hg rfl hh ht
  have hop : s.sigArrive p op = ((s.arrived p).sigOp op sig v iss p.tenant p.src p.cls).loadTables :=
    State.sigArrive_home hn ho ha hb hsig (hg ▸ hh)
  rw [State.sigOp_admitted (show p.tenant = 0 ∨ p.tenant = (s.arrived p).sigTenant sig from ht),
    show (s.arrived p).signal sig = g from hg.symm] at hop
  have hsigs : ((s.arrived p).countHome g.home 0 1).sigs = s.sigs := State.countHome_sigs _ _ _ _
  have hset : exec (.sigSet p) s = .next (s.sigArrive p .set) := congrArg Host.Outcome.next (if_neg (by simp [hf]))
  have hadd : exec (.sigAdd p) s = .next (s.sigArrive p .add) := congrArg Host.Outcome.next (if_neg (by simp [hf]))
  have hwait : exec (.sigWait p) s = .next (s.sigArrive p .wait) := congrArg Host.Outcome.next (if_neg (by simp [hf]))
  refine ⟨?_, ?_, ?_, ?_, ?_, ?_, ?_, ?_, ?_⟩
  · rintro rfl hst
    have hbec := State.signalBecomes_giveSignal hsigs hwf hg v g.owner g.st
    rw [hset, hop]
    simp only [hst, ne_eq, not_false_eq_true, if_true]
    exact ⟨_, rfl, hbec.of_sigs (by rw [State.loadTables_sigs, State.sigEffects_sigs])⟩
  · rintro rfl hst hcls
    have hbec := State.signalBecomes_giveSignal hsigs hwf hg v 0 .free
    rw [hset, hop]
    simp only [hst, hcls, ne_eq, not_true_eq_false, if_false, if_true]
    exact ⟨_, rfl, hbec.of_sigs (by rw [State.loadTables_sigs, State.sigEffects_sigs])⟩
  · rintro rfl hst hcls
    rw [hset, hop]
    simp only [hst, hcls, ne_eq, not_true_eq_false, if_false]
  · rintro rfl hst
    have hbec := State.signalBecomes_addSignal hsigs hwf hg v
    rw [hadd, hop]
    simp only [hst, ne_eq, not_false_eq_true, if_true]
    exact ⟨_, rfl, hbec.of_sigs (by rw [State.loadTables_sigs, State.sigEffects_sigs])⟩
  · rintro rfl hst
    rw [hadd, hop]
    simp only [hst, ne_eq, not_true_eq_false, if_false]
  · rintro rfl hst
    rw [hwait, hop]
    simp only [hst, if_true]
  · rintro rfl hst hv
    rw [hwait, hop]
    simp only [hst, hv, if_false, if_true]
  · rintro rfl hst hv hp
    rw [hwait, hop]
    simp only [hst, Nat.not_le.mpr hv, hp, Bool.false_eq_true, if_false]
  · rintro rfl hst hv hp
    rw [hwait, hop]
    simp only [hst, Nat.not_le.mpr hv, hp, if_false, if_true]

end Sys2Proof.Machine
end

section
/-!
O38, O39: the engines' sort is stable (R365), and AES-256-GCM decryption is its encryption (R279, R371).
-/
namespace Sys2Proof.Machine
open Sys2Proof

/-! ### Stable sorting -/

theorem insertBy_perm {α : Type} (lt : α → α → Bool) (x : α) (l : List α) : (insertBy lt x l).Perm (x :: l) := by
  induction l with
  | nil => exact List.Perm.refl _
  | cons y ys ih =>
    rw [insertBy]
    split
    · exact List.Perm.refl _
    · exact (ih.cons y).trans (List.Perm.swap x y ys)

theorem sortBy_append {α : Type} (lt : α → α → Bool) (l : List α) (x : α) : sortBy lt (l ++ [x]) = insertBy lt x (sortBy lt l) := by
  rw [sortBy, List.foldl_append]
  rfl

theorem sortBy_perm {α : Type} (lt : α → α → Bool) (l : List α) : (sortBy lt l).Perm l := by
  induction l using append_singleton_induction with
  | nil => exact List.Perm.refl _
  | append_singleton l x ih =>
    rw [sortBy_append]
    exact (insertBy_perm lt x _).trans ((ih.cons x).trans (List.perm_append_singleton x l).symm)

/-- `a` stands before `b`: by its key, or by its position where the keys are equal. -/
def standsBefore (key : Nat × Nat → Int) (a b : Nat × Nat) : Prop := key a < key b ∨ (key a = key b ∧ a.2 < b.2)

/-- An element behind all positions goes behind those its key is not less than. -/
theorem pairwise_insertBy (key : Nat × Nat → Int) (lt : Nat × Nat → Nat × Nat → Bool) (hlt : ∀ a b, lt a b = true ↔ key a < key b)
    {x : Nat × Nat} {l : List (Nat × Nat)} (hx : ∀ y ∈ l, y.2 < x.2) (hl : l.Pairwise (standsBefore key)) :
    (insertBy lt x l).Pairwise (standsBefore key) := by
  induction l with
  | nil => exact List.pairwise_singleton _ x
  | cons y ys ih =>
    obtain ⟨hy, hys⟩ := List.pairwise_cons.mp hl
    rw [insertBy]
    split
    · next hxy =>
      have hxy := (hlt x y).mp hxy
      refine List.pairwise_cons.mpr ⟨fun z hz => Or.inl ?_, hl⟩
      rcases List.mem_cons.mp hz with rfl | hz
      · exact hxy
      · rcases hy z hz with h | ⟨h, _⟩ <;> omega
    · next hxy =>
      have hyx : key y ≤ key x := by simpa [hlt] using hxy
      refine List.pairwise_cons.mpr ⟨fun z hz => ?_, ih (fun z hz => hx z (List.mem_cons_of_mem y hz)) hys⟩
      rcases List.mem_cons.mp ((insertBy_perm lt x ys).mem_iff.mp hz) with rfl | hz
      · rcases Int.lt_or_eq_of_le hyx with h | h
        · exact Or.inl h
        · exact Or.inr ⟨h, hx y List.mem_cons_self⟩
      · exact hy z hz

/-- Sorting elements of rising positions puts them in order, equal keys by position. -/
theorem pairwise_sortBy (key : Nat × Nat → Int) (lt : Nat × Nat → Nat × Nat → Bool) (hlt : ∀ a b, lt a b = true ↔ key a < key b)
    {l : List (Nat × Nat)} (hl : l.Pairwise (fun a b => a.2 < b.2)) : (sortBy lt l).Pairwise (standsBefore key) := by
  induction l using append_singleton_induction with
  | nil => exact List.Pairwise.nil
  | append_singleton l x ih =>
    obtain ⟨hl, _, hlast⟩ := List.pairwise_append.mp hl
    rw [sortBy_append]
    exact pairwise_insertBy key lt hlt (fun y hy => hlast y ((sortBy_perm lt l).mem_iff.mp hy) x (by simp)) (ih hl)

/-- The positions a row gives its keys rise. -/
theorem pairwise_zipIdx (keys : List Nat) : keys.zipIdx.Pairwise (fun a b => a.2 < b.2) := by
  have h : (keys.zipIdx.map Prod.snd).Pairwise (· < ·) := by
    rw [List.zipIdx_map_snd]
    exact List.pairwise_lt_range'
  exact List.pairwise_map.mp h

/-- The key a direction sorts by: the greater first where it descends. -/
def directedKey (f : Fmt) (desc : Bool) (a : Nat × Nat) : Int := if desc then - f.sortKey a.1 else f.sortKey a.1

/-- Settles O38: insertion behind the elements it is not less than is stable. -/
theorem sortsAreStable : Obligations.SortsAreStable := by
  unfold Obligations.SortsAreStable
  intro f desc keys
  refine ⟨sortBy_perm _ _, ?_⟩
  have hsort := pairwise_sortBy (directedKey f desc)
    (fun (a b : Nat × Nat) => if desc then decide (f.sortKey b.1 < f.sortKey a.1) else decide (f.sortKey a.1 < f.sortKey b.1))
    (fun a b => by cases desc <;> simp [directedKey]) (pairwise_zipIdx keys)
  refine hsort.imp fun {a b} h => ?_
  cases desc <;> simpa [standsBefore, directedKey] using h

/-! ### AES-256-GCM -/

/-- A word of the key schedule has four bytes. -/
def fourByte (w : List Nat) : Prop := w.length = 4

/-- The key schedule grows by words of four bytes. -/
theorem keyExpand_words (k i rcon : Nat) (w : List (List Nat)) (hl : 8 ≤ w.length) (hw : ∀ x ∈ w, fourByte x) :
    (keyExpand k i rcon w).length = w.length + k ∧ ∀ x ∈ keyExpand k i rcon w, fourByte x := by
  induction k generalizing i rcon w with
  | zero => exact ⟨rfl, hw⟩
  | succ k ih =>
    have hword : ∀ n < 8, fourByte (w.getD n []) := by
      intro n hn
      rw [List.getD_eq_getElem?_getD, List.getElem?_eq_getElem (by omega), Option.getD_some]
      exact hw _ (List.getElem_mem _)
    have hnext : ∀ t', fourByte t' → ∀ rcon', (keyExpand k (i + 1) rcon' (List.zipWith (· ^^^ ·) (w.getD 7 []) t' :: w)).length = w.length + (k + 1)
        ∧ ∀ x ∈ keyExpand k (i + 1) rcon' (List.zipWith (· ^^^ ·) (w.getD 7 []) t' :: w), fourByte x := by
      intro t' ht' rcon'
      have hnew : fourByte (List.zipWith (· ^^^ ·) (w.getD 7 []) t') := by
        rw [fourByte, List.length_zipWith, hword 7 (by decide), ht']
        rfl
      obtain ⟨h1, h2⟩ := ih (i + 1) rcon' (List.zipWith (· ^^^ ·) (w.getD 7 []) t' :: w) (by rw [List.length_cons]; omega)
        (by rintro x hx; exact (List.mem_cons.mp hx).elim (fun e => e ▸ hnew) (hw x))
      exact ⟨by rw [h1, List.length_cons]; omega, h2⟩
    have hsub : fourByte ((w.getD 0 []).map sbox) := by rw [fourByte, List.length_map]; exact hword 0 (by decide)
    rw [keyExpand]
    refine hnext _ ?_ _
    split
    · match (w.getD 0 []).map sbox, hsub with
      | [a, b, c, d], _ => rfl
    · split
      · exact hsub
      · exact hword 0 (by decide)

/-- The last round key of a 32-byte key has 16 bytes. -/
theorem length_lastRoundKey {key : List Byte} (h : key.length = 32) : ((roundKeys key).getD 14 []).length = 16 := by
  have hw0 : ∀ x ∈ ((List.range 8).map (fun i => ((key.drop (4 * i)).take 4).map BitVec.toNat)).reverse, fourByte x := by
    intro x hx
    obtain ⟨i, hi, rfl⟩ := List.mem_map.mp (List.mem_reverse.mp hx)
    have hi := List.mem_range.mp hi
    rw [fourByte, List.length_map, List.length_take, List.length_drop, h]
    omega
  obtain ⟨hl, hw⟩ := keyExpand_words 52 8 1 _ (by simp) hw0
  have hk : (roundKeys key).getD 14 [] = (((keyExpand 52 8 1 ((List.range 8).map (fun i => ((key.drop (4 * i)).take 4).map BitVec.toNat)).reverse).reverse.drop
      56).take 4).flatten := rfl
  rw [hk]
  generalize hW : (keyExpand 52 8 1 ((List.range 8).map (fun i => ((key.drop (4 * i)).take 4).map BitVec.toNat)).reverse).reverse = W at *
  have hlast : ((W.drop 56).take 4).length = 4 := by
    rw [List.length_take, List.length_drop, ← hW, List.length_reverse, hl]
    simp
  have hmem : ∀ x ∈ (W.drop 56).take 4, x.length = 4 := fun x hx =>
    hw x (List.mem_reverse.mp (hW ▸ List.mem_of_mem_drop (List.mem_of_mem_take hx)))
  rw [List.length_flatten, List.map_congr_left hmem, List.map_const', hlast]
  rfl

/-- A block of key stream has 16 bytes, whatever stands in it. -/
theorem length_aesBlock {key : List Byte} (h : key.length = 32) (b : List Byte) : (aesBlock (roundKeys key) b).length = 16 := by
  unfold aesBlock
  rw [List.length_map, List.length_zipWith, length_lastRoundKey h]
  simp [shiftRows]

/-- The stream combined twice leaves the text. -/
theorem zipWith_xor_twice (x k : List Byte) (h : x.length ≤ k.length) : List.zipWith (· ^^^ ·) (List.zipWith (· ^^^ ·) x k) k = x := by
  induction x generalizing k with
  | nil => simp
  | cons a x ih =>
    cases k with
    | nil => simp at h
    | cons b k => simp [ih k (by simpa using h), BitVec.xor_assoc]

theorem ctrMode_nil (rk : List (List Nat)) (iv : List Byte) (k c : Nat) : ctrMode rk iv k c [] = [] := by
  cases k <;> simp [ctrMode]

/-- Counter mode undone by itself, block by block. -/
theorem ctrMode_twice {rk : List (List Nat)} (hrk : ∀ b, (aesBlock rk b).length = 16) (iv : List Byte) (k c : Nat) (bs : List Byte)
    (hb : bs.length ≤ 16 * k) : ctrMode rk iv k c (ctrMode rk iv k c bs) = bs ∧ (ctrMode rk iv k c bs).length = bs.length := by
  induction k generalizing c bs with
  | zero =>
    have hnil : bs = [] := List.length_eq_zero_iff.mp (by omega)
    exact ⟨hnil.symm, by rw [hnil]; rfl⟩
  | succ k ih =>
    by_cases hnil : bs = []
    · simp [hnil, ctrMode]
    · obtain ⟨hih, hlen⟩ := ih (c + 1) (bs.drop 16) (by rw [List.length_drop]; omega)
      have hstep : ∀ x : List Byte, x ≠ [] → ctrMode rk iv (k + 1) c x
          = List.zipWith (· ^^^ ·) (x.take 16) (aesBlock rk (iv ++ beBytes 4 c)) ++ ctrMode rk iv k (c + 1) (x.drop 16) :=
        fun x hx => by rw [ctrMode, if_neg hx]
      have hfirst : (List.zipWith (· ^^^ ·) (bs.take 16) (aesBlock rk (iv ++ beBytes 4 c))).length = min 16 bs.length := by
        rw [List.length_zipWith, hrk, List.length_take]
        omega
      have hpos : 0 < bs.length := List.length_pos_iff.mpr hnil
      rw [hstep bs hnil]
      generalize hA : List.zipWith (· ^^^ ·) (bs.take 16) (aesBlock rk (iv ++ beBytes 4 c)) = A at *
      have hrest : ctrMode rk iv k (c + 1) (bs.drop 16) = [] ∨ A.length = 16 := by
        by_cases hl : bs.length ≤ 16
        · left; rw [List.drop_eq_nil_of_le hl, ctrMode_nil]
        · right; omega
      generalize hB : ctrMode rk iv k (c + 1) (bs.drop 16) = B at *
      have htake : (A ++ B).take 16 = A := by
        rcases hrest with rfl | h
        · rw [List.append_nil, List.take_of_length_le (by omega)]
        · rw [← h, List.take_left]
      have hdrop : (A ++ B).drop 16 = B := by
        rcases hrest with rfl | h
        · rw [List.append_nil, List.drop_eq_nil_of_le (by omega)]
        · rw [← h, List.drop_left]
      refine ⟨?_, by rw [List.length_append, hfirst, hlen, List.length_drop]; omega⟩
      rw [hstep _ (by rw [← List.length_pos_iff, List.length_append]; omega), htake, hdrop, hih, ← hA,
        zipWith_xor_twice _ _ (by rw [hrk, List.length_take]; omega), List.take_append_drop]

/-- Settles O39: counter mode is its own inverse. -/
theorem gcmDecryptsWhatItEncrypts : Obligations.GcmDecryptsWhatItEncrypts := by
  unfold Obligations.GcmDecryptsWhatItEncrypts
  intro key iv bs h
  obtain ⟨htwice, hlen⟩ := ctrMode_twice (length_aesBlock h) iv (bs.length / 16 + 1) 2 bs (by omega)
  refine ⟨?_, hlen⟩
  unfold gcmCrypt
  rw [hlen, htwice]

end Sys2Proof.Machine
end

section
/-!
O50: messages of the Ferier link performed in their window (R445 to R450, R461, R466, R467).
-/
namespace Sys2Proof.Machine
open Sys2Proof

/-! ### How receiving a message ends -/

theorem State.ferReceive_done {s u v : State} {p : Nat} {m : FMsg} {c : RxCtx} {want : FMsg → Bool} {perform : RxCtx → State → RxEnd}
    (h : s.msgAt p m c u) (hw : want m = true) (hp : perform c u = .done v) : s.ferReceive p m want perform = v.msgDone p c.t m := by
  rw [State.ferReceive_at want perform h rfl hw, hp]

theorem State.ferReceive_refuse {s u v : State} {p k : Nat} {m : FMsg} {c : RxCtx} {want : FMsg → Bool} {perform : RxCtx → State → RxEnd}
    (h : s.msgAt p m c u) (hw : want m = true) (hp : perform c u = .refuse v k) : s.ferReceive p m want perform = v.msgRefused p k m := by
  rw [State.ferReceive_at want perform h rfl hw, hp]

/-- A message that waits stays in the receive buffer, tried. -/
theorem State.ferReceive_hold {s u v : State} {p : Nat} {m : FMsg} {c : RxCtx} {r : RxMsg} {want : FMsg → Bool}
    {perform : RxCtx → State → RxEnd} (h : s.msgAt p m c u) (hr : s.rxEntry p m = some r) (hw : want m = true) (hp : perform c u = .hold v) :
    s.ferReceive p m want perform = v.updFer (fun f => { f with rx := f.rx ++ [{ r with held := true, tried := true }] }) := by
  rw [State.ferReceive_at want perform h rfl hw, hp, hr]
  rfl

/-- A field of no more than the higher bits of one that is 0 is 0. -/
theorem bits_eq_zero_of {x hi lo lo' hi' : Nat} (h : bits x hi lo = 0) (hl : lo ≤ lo') (hh : hi' ≤ hi) : bits x hi' lo' = 0 := by
  apply Nat.eq_of_testBit_eq
  intro i
  have hz := congrArg (fun y => y.testBit (i + (lo' - lo))) h
  simp only [bits, Nat.testBit_mod_two_pow, Nat.testBit_shiftRight, Nat.zero_testBit, Bool.and_eq_false_iff, decide_eq_false_iff_not] at hz ⊢
  rcases hz with hz | hz
  · left; omega
  · right; rwa [show lo' + i = lo + (i + (lo' - lo)) by omega]

/-! ### What performing a message does -/

/-- A message outside domain 0 tells the tether nothing (R472). -/
theorem State.tetherSee_domain {s : State} {c : RxCtx} (a : Nat) (h : c.m.fdom ≠ 0) : s.tetherSee c a = s := by
  unfold State.tetherSee
  rw [if_pos (Or.inr (Or.inl h))]

/-- A PUT of good form outside domain 0 that is seen for the first time. -/
theorem performPut_eq {c : RxCtx} {s : State} (ha : c.m.addr % 16 = 0) (hl : 16 ≤ c.m.len) (h31 : bit (c.m.w 6) 31 = false) (h7 : c.m.w 7 = 0)
    (hd : c.m.fdom ≠ 0) (hag : c.again = false)
    (hs : bit (c.m.w 6) 30 = true → s.fnSignal c.t (s.rxSig c (bits (c.m.w 6) 29 16)) = true ∧ s.rxSig c (bits (c.m.w 6) 29 16) < 16384) :
    performPut c s =
      if s.tvaCheck c.t (s.rxTva c c.m.addr) c.m.len true ≠ .ok then .refuse s nUnmapped
      else if s.tvaServed c.t (s.rxTva c c.m.addr) c.m.len = false then .later s
      else if bit (c.m.w 6) 30 = true ∧ c.first = false then .hold (s.tvaStore c.t (s.rxTva c c.m.addr) c.m.data)
      else .done (if bit (c.m.w 6) 30 then
        (s.tvaStore c.t (s.rxTva c c.m.addr) c.m.data).hubSignal .add (s.rxSig c (bits (c.m.w 6) 29 16)) 1 c.t .engine
          { node := hubN, unit := 0xF, tag := 0 }
        else s.tvaStore c.t (s.rxTva c c.m.addr) c.m.data) := by
  have hform : ¬ (c.m.addr % 16 ≠ 0 ∨ c.m.len < 16 ∨ bit (c.m.w 6) 31 = true ∨ c.m.w 7 ≠ 0) := by simp [ha, h31, h7, Nat.not_lt.mpr hl]
  have hsig : ¬ (bit (c.m.w 6) 30 = true ∧ (s.fnSignal c.t (s.rxSig c (bits (c.m.w 6) 29 16))
      && decide (s.rxSig c (bits (c.m.w 6) 29 16) < 16384)) = false) := by
    rintro ⟨h, hn⟩
    simp [hs h] at hn
  unfold performPut
  simp only [hform, hsig, hd, hag, false_and, and_false, if_false, Bool.not_false, true_and, Bool.false_eq_true, State.tetherSee_domain _ hd,
    Bool.not_eq_true']

theorem performGet_ok {c : RxCtx} {s : State} {n : Nat} (hn : n = leAt c.m.data 0 4) (hl : c.m.len = 16) (h16 : 16 ≤ n) (hle : n ≤ 16384)
    (hm : n % 16 = 0) (hw : bits (c.m.w 6) 31 16 = 0) (hz : zeros (c.m.data.drop 8) = true) (hr : s.ferRoom c.m.src = true)
    (hc : s.tvaCheck c.t (s.rxTva c c.m.addr) n false = .ok) (hv : s.tvaServed c.t (s.rxTva c c.m.addr) n = true) :
    performGet c s = .done ((s.tvaTouch c.t (s.rxTva c c.m.addr) n).ferSend c.al .none c.t kGetResp c.m.tc c.m.src 0 0 (c.m.w 7)
      (s.tvaBytes c.t (s.rxTva c c.m.addr) n)) := by
  have hspace : bits (c.m.w 6) 17 16 = 0 := bits_eq_zero_of hw (Nat.le_refl _) (by decide)
  have hrest : bits (c.m.w 6) 31 18 = 0 := bits_eq_zero_of hw (by decide) (Nat.le_refl _)
  have hform : ¬ (c.m.len ≠ 16 ∨ n < 16 ∨ 16384 < n ∨ n % 16 ≠ 0 ∨ 2 ≤ 0 ∨ (0 : Nat) ≠ 0 ∨ (!zeros (c.m.data.drop 8)) = true) := by
    simp [hl, hm, hz]
    omega
  unfold performGet
  simp only [← hn, hspace, hrest, hform, hr, hc, hv, if_false, Bool.not_true, Bool.false_eq_true, if_true, Nat.zero_ne_one]

/-- An ATOMIC of good form waits for those before it, then operates where its bytes are served. -/
theorem performAtomic_eq {c : RxCtx} {s : State} (hl : c.m.len = 16) (ha : c.m.addr % 8 = 0) (hop : bits (c.m.w 6) 19 16 < 4)
    (h6 : bits (c.m.w 6) 31 20 = 0) (h7 : bits (c.m.w 7) 31 4 = 0) :
    (c.first = false → performAtomic c s = .hold s)
    ∧ (c.first = true → s.tvaCheck c.t (s.rxTva c c.m.addr) 8 true = .ok → s.tvaCheck c.t (s.rxTva c c.m.addr) 8 false = .ok →
      s.ferRoom c.m.src = true → s.tvaServed c.t (s.rxTva c c.m.addr) 8 = true → ∀ old, old = s.tvaBytes c.t (s.rxTva c c.m.addr) 8 →
      performAtomic c s = .done ((((s.tvaTouch c.t (s.rxTva c c.m.addr) 8).tvaStore c.t (s.rxTva c c.m.addr) (leBytes 8
        (atomicOp (bits (c.m.w 6) 19 16) (leNat old) (leAt c.m.data 0 8) (leAt c.m.data 8 8)))).updFer (fun f =>
          { f with atoms := Tab.put none f.atoms (16 * c.m.src + bits (c.m.w 7) 3 0) (some { seq := c.m.seq, old := old }) })).atomicReply c.m
        { seq := c.m.seq, old := old })) := by
  have hform : ¬ (c.m.len ≠ 16 ∨ c.m.addr % 8 ≠ 0 ∨ 4 ≤ bits (c.m.w 6) 19 16 ∨ bits (c.m.w 6) 31 20 ≠ 0 ∨ bits (c.m.w 7) 31 4 ≠ 0) := by
    simp [hl, ha, h6, h7, hop]
  unfold performAtomic
  refine ⟨fun hfirst => ?_, fun hfirst hw hr hroom hv old hold => ?_⟩
  · simp only [hform, hfirst, if_false, Bool.not_false, if_true]
  · simp only [hform, hfirst, hw, hr, hroom, hv, ← hold, if_false, Bool.not_true, Bool.false_eq_true, ne_eq, not_true_eq_false]

/-- A SIGNAL of good form that its tenant may send waits for those before it, then operates. -/
theorem performSignal_eq {c : RxCtx} {s : State} (hl : c.m.len = 0) (hop : bits (c.m.w 5) 17 16 < 2) (h5 : bits (c.m.w 5) 31 18 = 0)
    (h5' : bits (c.m.w 5) 15 14 = 0) (h7 : c.m.w 7 = 0) (hs : s.fnSignal c.t (s.rxSig c (bits (c.m.w 5) 13 0)) = true)
    (hn : s.rxSig c (bits (c.m.w 5) 13 0) < 16384) : performSignal c s =
      if c.first = false then .hold s
      else .done (s.hubSignal (if bits (c.m.w 5) 17 16 = 0 then .set else .add) (s.rxSig c (bits (c.m.w 5) 13 0)) (c.m.w 6) c.t .engine
        { node := hubN, unit := 0xF, tag := 0 }) := by
  have hform : ¬ (c.m.len ≠ 0 ∨ 2 ≤ bits (c.m.w 5) 17 16 ∨ bits (c.m.w 5) 31 18 ≠ 0 ∨ bits (c.m.w 5) 15 14 ≠ 0 ∨ c.m.w 7 ≠ 0) := by
    simp [hl, h5, h5', h7, hop]
  unfold performSignal
  simp only [hform, hs, hn, decide_true, Bool.and_self, Bool.not_true, Bool.false_eq_true, if_false, Bool.not_eq_true']

/-- A QMSG of good form waits for those before it, then joins the queue it names where that has room. -/
theorem performQmsg_eq {c : RxCtx} {s : State} (hl : c.m.len = 32) (h5 : c.m.w 5 < 4096) (h6 : c.m.w 6 = 0) (h7 : c.m.w 7 = 0)
    (hal : c.al = false) :
    (c.first = false → performQmsg c s = .hold s)
    ∧ (∀ n l, c.m.w 5 = n → c.first = true → s.goodCell n = true → (s.cell n).owner ≠ 0 → (s.cell n).owner ≠ fenceTag →
      (c.t = 0 ∨ c.t = (s.cell n).owner) → (s.cell n).msg = some l → (l.inbox.filter (fun e => !e.2.2)).length + s.reserved n < 16 →
      performQmsg c s = .done (s.msgAccept n l
        { src := if c.port < 8 then hubN else hubS, dst := n, tenant := c.t, cls := .engine, share := s.shareOf c.t, tag := 0
          body := .msg 0 false c.m.src true ((c.m.data.drop 4).take 28) } 0 false c.m.src true ((c.m.data.drop 4).take 28))) := by
  have hlow : bits (c.m.w 5) 11 0 = c.m.w 5 := by simp only [bits, Nat.shiftRight_zero]; omega
  have hhigh : bits (c.m.w 5) 31 12 = 0 := by simp only [bits, Nat.shiftRight_eq_div_pow]; omega
  have hform : ¬ (c.m.len ≠ 32 ∨ bits (c.m.w 5) 31 12 ≠ 0 ∨ c.m.w 6 ≠ 0 ∨ c.m.w 7 ≠ 0) := by simp [hl, hhigh, h6, h7]
  unfold performQmsg
  refine ⟨fun hfirst => ?_, fun n l hn hfirst hg h0 hf ht hm hroom => ?_⟩
  · simp only [hform, hal, hfirst, if_false, Bool.not_false, if_true, Bool.false_eq_true]
  · subst hn
    simp only [hform, hal, hfirst, hlow, hg, h0, hf, ht, hm, hroom, or_self, if_false, Bool.not_true, if_true, Bool.false_eq_true]

/-- A fragment that agrees with the active command and has a place there (R461, R466). -/
theorem performColl_eq {c : RxCtx} {s : State} {g e peer : Nat} {cm : EngCmd} {k : CollSt} (hg : s.grpOf (bits (c.m.w 5) 15 0) = some g)
    (hc : s.collOn g = some (e, cm, k)) (ha : collAgrees cm k c.m = true) (ht : s.engTenant cm = c.t) (hp : s.devRank g c.m.src = some peer)
    (hn : Tab.get 0 k.arrived peer < Tab.get 0 k.limitIn peer)
    (hf : collFragOk cm k peer (collPhase c.m) (bits (c.m.w 7) 11 0) (bits (c.m.w 7) 31 12) c.m.len = true) (v : State)
    (hv : v = (s.regAdd (rEng e 1) 1).updColl e cm.id (fun x =>
      { x with arrived := Tab.put 0 x.arrived peer (Tab.get 0 k.arrived peer + 1), left := x.left - 1 })) :
    performColl c s = .done (((((if collPhase c.m = 0 then
        v.collReduce e cm k peer (bits (c.m.w 5) 28 28) (bits (c.m.w 7) 11 0) (bits (c.m.w 7) 31 12) c.m.data
      else v.collGather e cm k peer (bits (c.m.w 7) 11 0) (bits (c.m.w 7) 31 12) c.m.data)).collConsumed e cm.id peer).collPump e
        cm.id).collCheck e cm.id) := by
  unfold performColl
  simp only [hg, hc, ha, ht, hp, hf, hv, Nat.not_le.mpr hn, bne_self_eq_false, Bool.not_true, Bool.or_self, Bool.false_eq_true, if_false]

/-- Settles O50: each message by what performing it does. -/
theorem ferierMessagesPerformed : Obligations.FerierMessagesPerformed := by
  unfold Obligations.FerierMessagesPerformed
  intro s u p m c h
  have hf : ¬ s.fatal = true := by simp [h.1]
  refine ⟨?put, ?get, ?getNone, ?getResp, ?atomic, ?atomicResp, ?signal, ?qmsg, ?waits, ?frag, ?grant⟩
  case put =>
    rintro a n v hk rfl ha hl h31 h7 hd hag rfl rfl
    have hrun : ∀ x, x = s.ferReceive p m (fun m => m.kind == kPut) performPut → exec (.put p m) s = .next x :=
      fun x hx => congrArg Host.Outcome.next ((if_neg hf).trans hx.symm)
    have hw : (m.kind == kPut) = true := by simp [hk]
    refine ⟨fun hs hc hv => hrun _ ?_, fun hs hfn hn hc hv hfirst => hrun _ ?_, fun hs hc => hrun _ ?_⟩
    · refine (State.ferReceive_done h hw ?_).symm
      rw [performPut_eq ha hl h31 h7 hd hag (by simp [hs])]
      simp [hs, hc, hv]
    · refine (State.ferReceive_done h hw ?_).symm
      rw [performPut_eq ha hl h31 h7 hd hag (fun _ => ⟨hfn, hn⟩)]
      simp [hs, hc, hv, hfirst]
    · refine (State.ferReceive_refuse h hw ?_).symm
      rw [performPut_eq ha hl h31 h7 hd hag (by simp [hs]), if_pos hc]
  case get =>
    rintro a n hk rfl hn hl h16 hle hm hw6 hz hr hc hv
    exact congrArg Host.Outcome.next ((if_neg hf).trans (State.ferReceive_done h (by simp [hk]) (performGet_ok hn hl h16 hle hm hw6 hz hr hc hv)))
  case getNone =>
    intro hk hnone
    refine congrArg Host.Outcome.next ((if_neg hf).trans (State.ferReceive_done h (by simp [hk]) ?_))
    simp only [performGetResp, hnone]
  case getResp =>
    rintro g v hk hsome rfl
    have hw : (m.kind == kGetResp) = true := by simp [hk]
    refine ⟨fun gal off huse hst => ?_, fun a huse hst hc => ?_⟩
    · refine congrArg Host.Outcome.next ((if_neg hf).trans (State.ferReceive_done h hw ?_))
      simp only [performGetResp, hsome, huse, hst, if_true]
    · refine congrArg Host.Outcome.next ((if_neg hf).trans (State.ferReceive_done h hw ?_))
      simp only [performGetResp, hsome, huse, hst, hc, ne_eq, not_true_eq_false, if_false]
  case atomic =>
    rintro a old x new hk rfl hl ha hop h6 h7 hfirst hw hr hroom hv hold rfl rfl
    exact congrArg Host.Outcome.next ((if_neg hf).trans (State.ferReceive_done h (by simp [hk])
      ((performAtomic_eq hl ha hop h6 h7).2 hfirst hw hr hroom hv old hold)))
  case atomicResp =>
    intro hk
    exact congrArg Host.Outcome.next ((if_neg hf).trans (State.ferReceive_done h (by simp [hk]) rfl))
  case signal =>
    rintro n hk hl rfl hop h5 h5' h7 hs hn hfirst
    refine congrArg Host.Outcome.next ((if_neg hf).trans (State.ferReceive_done h (by simp [hk]) ?_))
    rw [performSignal_eq hl hop h5 h5' h7 hs hn, if_neg (by simp [hfirst])]
  case qmsg =>
    intro n l hk hl h5 hlt h6 h7 hal hfirst hg h0 hfence ht hm hroom
    exact congrArg Host.Outcome.next ((if_neg hf).trans (State.ferReceive_done h (by simp [hk])
      ((performQmsg_eq hl (h5 ▸ hlt) h6 h7 hal).2 n l h5 hfirst hg h0 hfence ht hm hroom)))
  case waits =>
    intro r hr hfirst
    refine ⟨?_, ?_, ?_⟩
    · rintro ⟨hk, hl, hop, h5, h5', h7, hs, hn⟩
      refine congrArg Host.Outcome.next ((if_neg hf).trans (State.ferReceive_hold h hr (by simp [hk]) ?_))
      rw [performSignal_eq hl hop h5 h5' h7 hs hn, if_pos hfirst]
    · rintro ⟨hk, hl, ha, hop, h6, h7⟩
      exact congrArg Host.Outcome.next ((if_neg hf).trans (State.ferReceive_hold h hr (by simp [hk])
        ((performAtomic_eq hl ha hop h6 h7).1 hfirst)))
    · rintro ⟨hk, hl, h5, h6, h7, hal⟩
      exact congrArg Host.Outcome.next ((if_neg hf).trans (State.ferReceive_hold h hr (by simp [hk]) ((performQmsg_eq hl h5 h6 h7 hal).1 hfirst)))
  case frag =>
    intro g e peer cm k v hk hg hc ha ht hp hn hfrag hphase hv
    have hperf := performColl_eq hg hc ha ht hp hn hfrag v hv
    refine ⟨fun w h0 hw => ?_, fun w h1 hw => ?_⟩
    · rw [hphase, if_pos h0, ← hw] at hperf
      exact congrArg Host.Outcome.next ((if_neg hf).trans (State.ferReceive_done h (by simp [hk, h0]) hperf))
    · rw [hphase, if_neg (by omega), ← hw] at hperf
      refine congrArg Host.Outcome.next ((if_neg hf).trans (State.ferReceive_done h (by simp [hk, h1]) ?_))
      rw [if_neg (by omega), hperf]
  case grant =>
    rintro g peer v hk hphase hg hp hl rfl
    have hw : (m.kind == kColl && collPhase m == 2) = true := by simp [hk, hphase]
    refine ⟨fun hnone => ?_, fun e cm k hsome hagree => ?_⟩
    · refine congrArg Host.Outcome.next ((if_neg hf).trans (State.ferReceive_done h hw ?_))
      simp only [performGrant, hg, hp, hnone, hl, ne_eq, not_true_eq_false, if_false]
    · refine congrArg Host.Outcome.next ((if_neg hf).trans (State.ferReceive_done h hw ?_))
      have hok : ¬ (c.m.w 6 = k.no % 2 ^ 32 ∧ (!collAgrees cm k c.m) = true) := by
        rintro ⟨h6, hna⟩
        simp [hagree h6] at hna
      simp only [performGrant, hg, hp, hsome, hl, hok, ne_eq, not_true_eq_false, if_false]

end Sys2Proof.Machine
end

section
/-!
O12: the control instructions of the vector tile (R90, R126, R130, R143, R145).
-/
namespace Sys2Proof.Machine
open Sys2Proof

/-- A command that runs an instruction runs it where its context stands at it. -/
theorem exec_vtFetchRun_at {s : State} {cell ctx : Nat} {e : VEnv} {cmd : Instr} {op : Nat} {run : VEnv → State} (h : s.vtAt cell ctx e)
    (ho : e.i.op = op) (hc : exec cmd s = .next (if s.fatal then s else s.vtFetchRun cell ctx op run)) : exec cmd s = .next (run e) := by
  rw [hc, if_neg (by simp [h.1]), State.vtFetchRun_at op run h ho]

theorem State.vtAt.stopping {s : State} {cell ctx : Nat} {e : VEnv} (h : s.vtAt cell ctx e) : e.x.stopping = false := by
  obtain ⟨_, _, _, _, _, _, _, _, hs, _⟩ := h
  exact hs

/-- A control instruction's next context: no rounding advances the SR counter (R143). -/
theorem VEnv.advance_control (e : VEnv) (h : e.i.op < 16) : e.advance 0 = { e.x with idx := e.x.idx + 1 } := by
  have hop : ¬ 16 ≤ e.i.op := by omega
  simp [VEnv.advance, VEnv.srNext, hop]

/-- A control instruction that has acted retires after one cycle. -/
theorem State.vtFinish_control {s : State} {cell ctx : Nat} {e : VEnv} (h : s.vtAt cell ctx e) (ho : e.i.op < 16) :
    s.vtFinish cell ctx e.i { c := e.c, x := e.advance 0 } = s.vtDone cell ctx e.c { e.x with idx := e.x.idx + 1 } 1 := by
  rw [e.advance_control ho]
  exact State.vtFinish_done _ _ rfl h.stopping rfl (by omega)

/-- A control instruction that only changes its context. -/
theorem VControl.of_vCtl {cmd : Nat → Nat → Instr} {op : Nat} {g g' : VEnv → VtCtx}
    (hc : ∀ s cell ctx, exec (cmd cell ctx) s = .next (if s.fatal then s else s.vtOp cell ctx op (vCtl g)))
    (hx : op ≠ 0x18) (hg : ∀ e, e.i.op = op → g e = g' e) (hs : ∀ e, (g' e).stopping = e.x.stopping) : VControl cmd op g' := by
  intro s cell ctx e h ho
  rw [exec_vtFetchRun_at h ho (hc s cell ctx), vCtl, hg e ho]
  exact congrArg Host.Outcome.next (State.vtFinish_done _ _ rfl ((hs e).trans h.stopping) rfl (ho ▸ hx))

theorem VtCtx.setA_stopping (x : VtCtx) (n v : Nat) : (x.setA n v).stopping = x.stopping := by
  unfold VtCtx.setA
  split <;> rfl

/-- LOOP, SETVL, ASET, AADD, SRSEED and FLCLR. -/
theorem vControl_instructions :
    VControl .vtLoop 0x03 (fun e =>
      let n := (if e.x.loopCtr = 0 then e.i.imm else e.x.loopCtr) - 1
      { e.x with loopCtr := n, idx := if n ≠ 0 then bits e.i.lo 20 8 else e.x.idx + 1 })
    ∧ VControl .setvl 0x04 (fun e => { e.x with idx := e.x.idx + 1, vl := e.i.imm })
    ∧ VControl .aset 0x05 (fun e => { e.x with idx := e.x.idx + 1 }.setA (bits e.i.lo 9 8) (e.i.imm % 2 ^ 20))
    ∧ VControl .aadd 0x06 (fun e => { e.x with idx := e.x.idx + 1 }.setA (bits e.i.lo 9 8)
        ((e.areg (bits e.i.lo 9 8) + e.i.imm) % 2 ^ 20))
    ∧ VControl .srseed 0x07 (fun e => { e.x with idx := e.x.idx + 1, srCtr := 0, srSeed := if bit e.i.lo 8
        then e.x.srSeed % 2 ^ 32 + 2 ^ 32 * e.i.imm else e.x.srSeed / 2 ^ 32 * 2 ^ 32 + e.i.imm })
    ∧ VControl .flclr 0x08 (fun e => { e.x with idx := e.x.idx + 1, flags := 0 }) := by
  refine ⟨?_, ?_, ?_, ?_, ?_, ?_⟩
  · exact VControl.of_vCtl (fun _ _ _ => rfl) (by decide) (fun _ _ => rfl) (fun _ => rfl)
  · exact VControl.of_vCtl (fun _ _ _ => rfl) (by decide) (fun e ho => by rw [e.advance_control (by omega)]) (fun _ => rfl)
  · exact VControl.of_vCtl (fun _ _ _ => rfl) (by decide) (fun e ho => by rw [e.advance_control (by omega)])
      (fun _ => VtCtx.setA_stopping _ _ _)
  · exact VControl.of_vCtl (fun _ _ _ => rfl) (by decide) (fun e ho => by rw [e.advance_control (by omega)])
      (fun _ => VtCtx.setA_stopping _ _ _)
  · exact VControl.of_vCtl (fun _ _ _ => rfl) (by decide) (fun e ho => by rw [e.advance_control (by omega)]) (fun _ => rfl)
  · exact VControl.of_vCtl (fun _ _ _ => rfl) (by decide) (fun e ho => by rw [e.advance_control (by omega)]) (fun _ => rfl)

/-- Settles O12: the instructions of their context alone, then END, WAIT, POST and XFENCE, which act or wait. -/
theorem vectorControlInstructions : Obligations.VectorControlInstructions := by
  unfold Obligations.VectorControlInstructions
  refine ⟨vControl_instructions, fun s cell ctx e h => ⟨fun ho hr => ⟨fun j hj => ?_, fun hj => ?_⟩, fun ho hr => ?_, fun ho => ?_,
    fun ho hr => ?_, fun ho hr => ?_, fun ho hx => ?_, fun ho hx => ?_⟩⟩
  · rw [exec_vtFetchRun_at h ho rfl, if_pos hr, hj]
  · rw [exec_vtFetchRun_at h ho rfl, if_pos hr, hj]
  · rw [exec_vtFetchRun_at h ho rfl, if_neg (by simp [hr])]
  · rw [exec_vtFetchRun_at h ho rfl]
  · rw [exec_vtFetchRun_at h ho rfl, if_pos hr, State.vtFinish_control h (by omega)]
  · rw [exec_vtFetchRun_at h ho rfl, if_neg (by simp [hr])]
  · rw [exec_vtFetchRun_at h ho rfl, if_pos hx, State.vtFinish_control h (by omega)]
  · rw [exec_vtFetchRun_at h ho rfl, if_neg hx]

end Sys2Proof.Machine
end

section
/-!
O15, O16: EPILOGUE and the vector tile's context switch (R147 to R172), and the matrix tile's control commands (R87 to R90, R108).
-/
namespace Sys2Proof.Machine
open Sys2Proof

/-! ### EPILOGUE -/

/-- What EPILOGUE does at its context: LATE without a tile, else the run of the menu. -/
theorem exec_epilogue_at {s : State} {cell ctx : Nat} {e : VEnv} (h : s.vtAt cell ctx e) (ho : e.i.op = 0x09) :
    exec (.epilogue cell ctx none) s = .next (match e.c.ftq.find? (fun q => q.mctx == ctx && !q.taken) with
      | none => s.vtFinish cell ctx e.i (e.stop .late)
      | some q => s.epiFinish cell ctx e.i q (epilogueRun cell s.arrFeat (s.epiTarget cell) q e.c e.x (e.i.imm % 65536))) :=
  exec_vtFetchRun_at (run := fun e => match e.c.ftq.find? (fun q => q.mctx == ctx && !q.taken) with
    | none => s.vtFinish cell ctx e.i (e.stop .late)
    | some q => s.epiFinish cell ctx e.i q (epilogueRun cell s.arrFeat (s.epiTarget cell) q e.c e.x (e.i.imm % 65536))) h ho rfl

/-- An access that stops late leaves its context at its instruction. -/
theorem State.vtFinish_late {s : State} {cell ctx : Nat} {e : VEnv} (h : s.vtAt cell ctx e) :
    s.vtFinish cell ctx e.i (e.stop .late) = s.setCell cell (e.c.setVtx ctx (e.x.holding e.i .late)) := by
  unfold State.vtFinish VEnv.stop
  dsimp only
  rw [State.owe_nil, h.stopping]
  rfl

/-- Settles O15: EPILOGUE's outcomes, its end, and the switch of contexts. -/
theorem epilogueAndVectorSwitch : Obligations.EpilogueAndVectorSwitch := by
  unfold Obligations.EpilogueAndVectorSwitch
  refine ⟨?taken, ?late, ?error, ?ended, ?switch⟩
  case taken =>
    rintro s cell ctx e q o ps n c h ho hq hrun hfin hpeers rfl rfl rfl
    have hall : o.peers.find? (fun r => !s.ferGood (s.cell cell).owner r.tc (if r.data.length % 16 = 0 ∧ r.tva % 16 = 0 then 0 else 1)) = none :=
      List.find?_eq_none.mpr fun r hr => by simp [hpeers r hr]
    rw [exec_epilogue_at h ho, hq]
    dsimp only
    rw [hrun]
    unfold State.epiFinish
    simp only [hfin, hall]
  case late =>
    intro s cell ctx e h ho hq
    rw [exec_epilogue_at h ho, hq]
    exact congrArg Host.Outcome.next (State.vtFinish_late h)
  case error =>
    intro s cell ctx a hf
    have hl : (s.localErr cell (some a)).fatal = false := by
      unfold State.localErr
      dsimp only
      split <;> exact hf
    have hrun : ∀ err u, exec (.epilogue cell ctx err) u = execEpilogue cell ctx err u := fun _ _ => rfl
    rw [hrun, hrun]
    unfold execEpilogue
    rw [hf, hl]
    rfl
  case ended =>
    rintro s t cell ctx id x c d hf rfl hopen rfl hid hstage rfl
    refine congrArg Host.Outcome.next ((if_neg (by simp [hf])).trans ?_)
    simp only [hid, hopen, hstage, Bool.not_true, Bool.false_eq_true, if_false, ne_eq, not_true_eq_false] <;> rfl
  case switch =>
    intro s cell k hf hr hepi hn1 hn2 hk
    refine congrArg Host.Outcome.next ((if_neg (by simp [hf])).trans ?_)
    simp only [hr, hepi, hk, beq_eq_false_iff_ne.mpr hn1, beq_eq_false_iff_ne.mpr hn2, Bool.not_true, Option.isSome_none, Bool.or_self,
      Bool.false_eq_true, if_false]

/-! ### The matrix tile's control commands -/

/-- Only an MMA is taken into its context's hand. -/
theorem MtCtx.take_of_ne {o : Nat} (h : o ≠ 1) (x : MtCtx) (w : List Nat) : x.take o w = x := if_pos (Or.inl h)

/-- A control command at its context runs. -/
theorem exec_mtCommand_at {s : State} {cell ctx op : Nat} {w : List Nat} {cmd : Instr} {run : Cell → MtCtx → List Nat → State}
    (h : s.mtAt cell ctx op w) (ho : op ≠ 1) (hc : exec cmd s = .next (if s.fatal then s else s.mtCommand cell ctx op run)) :
    exec cmd s = .next (run (s.mtCell cell ctx) ((s.cell cell).mtx ctx) w) := by
  rw [hc, if_neg (by simp [h.1]), State.mtCommand_at run h, MtCtx.take_of_ne ho]

/-- Settles O16, command by command. -/
theorem matrixControlCommands : Obligations.MatrixControlCommands := by
  unfold Obligations.MatrixControlCommands
  rintro s cell ctx w c x rfl rfl
  refine ⟨fun h => ?_, fun h hm => ?_, fun h hm => ?_, fun h hn => ?_, fun h hn => ?_, fun h hm j hj => ?_, fun h hm hj => ?_, fun h hm => ?_⟩
  · rw [exec_mtCommand_at h (by decide) rfl]
  · rw [exec_mtCommand_at h (by decide) rfl, if_pos hm]
  · rw [exec_mtCommand_at h (by decide) rfl, if_neg hm]
  · rw [exec_mtCommand_at h (by decide) rfl]
    simp only [if_pos hn]
  · rw [exec_mtCommand_at h (by decide) rfl]
    simp only [hn, ne_eq, not_true_eq_false, if_false]
  · rw [exec_mtCommand_at h (by decide) rfl, if_pos hm, hj]
  · rw [exec_mtCommand_at h (by decide) rfl, if_pos hm, hj]
  · rw [exec_mtCommand_at h (by decide) rfl, if_neg hm]

end Sys2Proof.Machine
end

section
/-!
O18, O20: reads and writes of a memory tile, and its FILL and COPY operations (R185 to R194).
-/
namespace Sys2Proof.Machine
open Sys2Proof

/-! ### The check of a memory-tile access (R189) -/

theorem State.memtCheck_ok {s : State} {cell a : Nat} {p : Packet} {ok : Bool} (h : s.ownerAdmits cell p = true) (hok : ok = true) :
    s.memtCheck cell p a ok = (.ok, s) := by
  simp [State.memtCheck, h, hok]

theorem State.memtCheck_access {s : State} {cell a : Nat} {p : Packet} {ok : Bool} (h : s.ownerAdmits cell p = false) :
    s.memtCheck cell p a ok = (.access, s.record .memtAccess
      { noRec with node := cell, unit := 2, tenant := p.tenant, addr := a, idx0 := p.src, extra1 := p.cls.ctorIdx }) := by
  simp [State.memtCheck, h]

/-- RD at an open cell is met as the tile's read. -/
theorem exec_rd_cell {s : State} {p : Packet} {a n : Nat} (found : List (Nat × Bool)) (h : s.cellMeets p) (hb : p.body = .rd a n) :
    exec (.rd p found) s = .next ((fun t : State => ((t.memtRead p.dst p a n (meshRangeOk a n)).2.2.send
      ((t.memtRead p.dst p a n (meshRangeOk a n)).2.2.respTo p (.rdData (t.memtRead p.dst p a n (meshRangeOk a n)).1
        (t.memtRead p.dst p a n (meshRangeOk a n)).2.1))).loadTables) ((s.setCell p.dst ((s.cell p.dst).arise a found)).arrived p)) := by
  obtain ⟨hf, hg, ht, ha⟩ := h
  refine congrArg Host.Outcome.next ((if_neg (by simp [hf])).trans ?_)
  rw [hb]
  dsimp only
  rw [if_pos hg, if_pos ht]
  exact State.arrive_met _ p _ ha

/-- WR at an open cell is met as the tile's write. -/
theorem exec_wr_cell {s : State} {p : Packet} {a : Nat} {bs : List Byte} (h : s.cellMeets p) (hb : p.body = .wr a bs) :
    exec (.wr p) s = .next ((fun t : State => ((t.memtWrite p.dst p a bs (meshRangeOk a bs.length)).2.send
      ((t.memtWrite p.dst p a bs (meshRangeOk a bs.length)).2.respTo p (.wrAck
        (t.memtWrite p.dst p a bs (meshRangeOk a bs.length)).1))).loadTables) (s.arrived p)) := by
  obtain ⟨hf, hg, ht, ha⟩ := h
  refine congrArg Host.Outcome.next ((if_neg (by simp [hf])).trans ?_)
  rw [hb]
  dsimp only
  rw [if_pos hg, if_pos ht]
  exact State.arrive_met _ p _ ha

/-- Settles O18: accesses the owner check admits and those it does not, those of a slice, and the bytes a write leaves. -/
theorem memoryTileReadsAndWrites : Obligations.MemoryTileReadsAndWrites := by
  unfold Obligations.MemoryTileReadsAndWrites
  refine ⟨?rd, ?wr, ?slice, ?bytes⟩
  case rd =>
    rintro s t u p a n found h hb rfl
    rw [exec_rd_cell found h hb]
    refine ⟨fun hadm hrange hu hpoison => ?_, fun hadm hu => ?_⟩
    · have hread : ((s.setCell p.dst ((s.cell p.dst).arise a found)).arrived p).memtRead p.dst p a n (meshRangeOk a n)
          = (.ok, (u.cell p.dst).mem.readBytes a n, u) := by
        unfold State.memtRead
        rw [State.memtCheck_ok hadm hrange]
        dsimp only
        rw [← hu, if_pos hpoison]
      dsimp only
      rw [hread]
    · have hread : ((s.setCell p.dst ((s.cell p.dst).arise a found)).arrived p).memtRead p.dst p a n (meshRangeOk a n)
          = (.access, List.replicate n 0#8, u) := by
        unfold State.memtRead
        rw [State.memtCheck_access hadm, hu]
      dsimp only
      rw [hread]
  case wr =>
    rintro s t u p a bs h hb rfl
    rw [exec_wr_cell h hb]
    refine ⟨fun hadm hrange hu => ?_, fun hadm hu => ?_⟩
    · have hwrite : (s.arrived p).memtWrite p.dst p a bs (meshRangeOk a bs.length) = (.ok, u) := by
        unfold State.memtWrite
        rw [State.memtCheck_ok hadm hrange, hu]
      dsimp only
      rw [hwrite]
    · have hwrite : (s.arrived p).memtWrite p.dst p a bs (meshRangeOk a bs.length) = (.access, u) := by
        unfold State.memtWrite
        rw [State.memtCheck_access hadm, hu]
      dsimp only
      rw [hwrite]
  case slice =>
    intro s t p a n bs st hf hcell hnode ha
    refine ⟨fun hb hserves hread hat => ?_, fun hb hserves hwrite => ?_⟩
    · refine congrArg Host.Outcome.next ((if_neg (by simp [hf])).trans ?_)
      rw [hb]
      dsimp only
      rw [if_neg (by simp [hcell]), if_pos hnode, if_neg (by simp [hserves]), State.arrive_met s p _ ha, if_pos hat]
      dsimp only [List.filter_nil]
      rw [hread]
    · refine congrArg Host.Outcome.next ((if_neg (by simp [hf])).trans ?_)
      rw [hb]
      dsimp only
      rw [if_neg (by simp [hcell]), if_pos hnode, if_neg (by simp [hserves]), State.arrive_met s p _ ha, hwrite]
  case bytes =>
    intro c a bs x
    rw [Cell.memWrite_mem, Memory.read_writeBytes]
    rfl

/-! ### FILL and COPY -/

@[simp] theorem Cell.sense_route (c : Cell) (a n : Nat) : (c.sense a n).route = c.route := by
  unfold Cell.sense
  split <;> rfl

/-- A write into the tile leaves the route table. -/
@[simp] theorem Cell.memWrite_route (c : Cell) (a : Nat) (bs : List Byte) : (c.memWrite a bs).route = c.route :=
  List.foldlRecOn (motive := fun d => d.route = c.route) _ _ rfl (fun d hd _ _ => (Cell.sense_route d _ _).trans hd)

/-- An admitted FILL or COPY waits behind those in progress. -/
theorem State.mtOpArrive_admitted {s : State} {p : Packet} {b : List Byte} {op : Nat} (h : s.cellMeets p) (hb : p.body = .mtOp b)
    (hroom : (s.cell p.dst).mtOps.length < 5) (hadm : (s.arrived p).ownerAdmits p.dst p = true) (hok : fillCopyOk b = true)
    (hop : (FillCopy.ofBytes b).op = op) : s.mtOpArrive p op =
      ((s.arrived p).setCell p.dst { (s.arrived p).cell p.dst with mtOps := ((s.arrived p).cell p.dst).mtOps ++ [p] }).loadTables := by
  obtain ⟨_, hg, ht, ha⟩ := h
  unfold State.mtOpArrive
  rw [hb]
  dsimp only
  rw [if_pos ⟨hg, ht, Or.inl hop, hroom⟩, State.arrive_met s p _ ha, State.memtCheck_ok hadm hok]

/-- Settles O20: the two operations queue alike, and the one at the head is performed. -/
theorem fillAndCopyOperations : Obligations.FillAndCopyOperations := by
  unfold Obligations.FillAndCopyOperations
  constructor
  · rintro s t p b h hb hroom rfl hadm hok
    exact ⟨fun hop => congrArg Host.Outcome.next ((if_neg (by simp [h.1])).trans (State.mtOpArrive_admitted h hb hroom hadm hok hop)),
      fun hop => congrArg Host.Outcome.next ((if_neg (by simp [h.1])).trans (State.mtOpArrive_admitted h hb hroom hadm hok hop))⟩
  · rintro s u v w cell p q rest b f hf hopen hops hb rfl hcase rfl rfl
    refine congrArg Host.Outcome.next ((if_neg (by simp [hf])).trans ?_)
    simp only [hops, hopen, hb, Bool.not_true, Bool.false_eq_true, if_false]
    rcases hcase with ⟨hop, rfl, rfl⟩ | ⟨hop, rfl, hpoison, rfl⟩
    · have hne : ¬ (1 : Nat) = 2 := by decide
      simp only [hop, hne, if_false, if_true, and_true, Cell.fill, Cell.memWrite_route]
    · have hne : ¬ (2 : Nat) = 1 := by decide
      simp only [hop, hne, if_false, if_true, hpoison, and_true, Cell.copy, Cell.memWrite_route]

end Sys2Proof.Machine
end

section
/-!
O21: control requests at a cell, the scrub and the narrow port's yield (R118, R183, R188, R197, R236, R237, R293, R294).
-/
namespace Sys2Proof.Machine
open Sys2Proof

/-- A control request that a row performs is answered OK from a class that may send it, ACCESS from another (R236, R237). -/
theorem State.ctrlArrive_at {s : State} {p : Packet} {q : CtrlReq} {run : CtrlReq → State → Option State} (h : s.cellMeets p)
    (hb : p.body = .ctrl q) {f : State → State} (hr : ∀ t, run q t = some (f t)) : s.ctrlArrive p run =
      if ctrlClass p.cls then ((f (s.arrived p)).send ((s.arrived p).respTo p (.opDone .ok))).loadTables
      else ((s.arrived p).send ((s.arrived p).respTo p (.opDone .access))).loadTables := by
  obtain ⟨_, hg, ht, ha⟩ := h
  unfold State.ctrlArrive
  rw [hb]
  dsimp only
  rw [if_pos ⟨hg, ht, by rw [hr]; rfl⟩, State.arrive_met s p _ ha, hr]
  cases ctrlClass p.cls <;> rfl

/-- From a class that may send control requests. -/
theorem State.ctrlArrive_ok {s : State} {p : Packet} {q : CtrlReq} {run : CtrlReq → State → Option State} (f : State → State)
    (h : s.cellMeets p) (hb : p.body = .ctrl q) (hr : ∀ t, run q t = some (f t)) (hc : ctrlClass p.cls = true) :
    (if s.fatal then s else s.ctrlArrive p run) = ((f (s.arrived p)).send ((s.arrived p).respTo p (.opDone .ok))).loadTables := by
  rw [if_neg (by simp [h.1]), State.ctrlArrive_at h hb hr, if_pos hc]

/-- From another class. -/
theorem State.ctrlArrive_access {s : State} {p : Packet} {q : CtrlReq} {run : CtrlReq → State → Option State} (f : State → State)
    (h : s.cellMeets p) (hb : p.body = .ctrl q) (hr : ∀ t, run q t = some (f t)) (hc : ctrlClass p.cls = false) :
    (if s.fatal then s else s.ctrlArrive p run) = ((s.arrived p).send ((s.arrived p).respTo p (.opDone .access))).loadTables := by
  rw [if_neg (by simp [h.1]), State.ctrlArrive_at h hb hr, if_neg (by simp [hc])]

/-- A cell once the contexts a request names are bound where they are enabled and IDLE (R118, R324). -/
def Cell.bound (c : Cell) (f : ArrFeat) (k : Nat) (mt vt pair : Bool) (ms vs job task : Nat) : Cell :=
  let d := if mt = true ∧ c.cmdCount ≠ 0 ∧ (c.mtx k).st = .idle then c.bindMt f k job task ms pair else c
  if vt = true ∧ (Tab.get {} d.parts k).vrCap ≠ 0 ∧ (d.vtx k).st = .idle then d.bindVt k job task vs else d

/-- No granule of the word in error: none is corrected and none degrades the tile. -/
theorem scrub_clean {c : Cell} {a : Nat} (h : c.memErr.filter (fun g => granIn a 64 g.1) = []) :
    c.memErr.filter (fun g => granIn a 64 g.1 && g.2 == 1) = [] := by
  rw [List.filter_eq_nil_iff] at h ⊢
  intro g hg
  simp [h g hg]

/-- MEMT_SCRUB of a word without an error (R197). -/
theorem exec_memtScrub_clean {s : State} {cell : Nat} (ho : s.cellOpen cell = true) (hs : s.scrubStopped = false)
    (h : (s.cell cell).memErr.filter (fun g => granIn (64 * (s.cell cell).scrubPos) 64 g.1) = []) :
    exec (.memtScrub cell []) s = .next (State.memtSense (s.setCell cell
      (if (s.cell cell).scrubPos + 1 = 16384 then { s.cell cell with scrubPos := 0, scrubCur := [], scrubPrev := (s.cell cell).scrubCur }
        else { s.cell cell with scrubPos := (s.cell cell).scrubPos + 1 })) cell (64 * (s.cell cell).scrubPos) 64) := by
  have harise : (s.cell cell).arise (64 * (s.cell cell).scrubPos) [] = s.cell cell := rfl
  refine congrArg Host.Outcome.next ((if_neg (by simp [ho, hs])).trans ?_)
  simp only [harise, scrub_clean h, List.map_nil, List.any_nil, List.append_nil, Bool.false_or]
  have hlen : (decide ((s.cell cell).scrubCur.length ≤ 8) && decide (8 < (s.cell cell).scrubCur.length)) = false := by
    simp
  rw [hlen, if_neg (by decide)]
  by_cases hw : (s.cell cell).scrubPos + 1 = 16384
  · rw [if_pos hw, decide_eq_true hw]
    rfl
  · rw [if_neg hw, decide_eq_false hw]
    rfl

/-- Settles O21: each request from a class that may send it and from another, then the scrub and the yield. -/
theorem controlRequestsScrubAndYield : Obligations.ControlRequestsScrubAndYield := by
  unfold Obligations.ControlRequestsScrubAndYield
  refine ⟨?ctrl, ?scrub, ?yield⟩
  case ctrl =>
    rintro s t p c h rfl rfl
    refine ⟨fun hc => ⟨fun r hb => ?_, fun r hb => ?_, fun hb => ?_, fun o hb => ?_, fun on hb => ?_, ?_⟩, ?_⟩
    · exact congrArg Host.Outcome.next (State.ctrlArrive_ok
        (fun t => t.setCell p.dst { t.cell p.dst with ready := setBit (t.cell p.dst).ready (r % 16) true }) h hb (fun _ => rfl) hc)
    · exact congrArg Host.Outcome.next (State.ctrlArrive_ok
        (fun t => t.setCell p.dst { t.cell p.dst with ready := setBit (t.cell p.dst).ready (r % 16) false }) h hb (fun _ => rfl) hc)
    · exact congrArg Host.Outcome.next (State.ctrlArrive_ok (fun t => t.setCell p.dst { t.cell p.dst with
        fenced := true, owner := fenceTag, ownerSaved := if (t.cell p.dst).fenced then (t.cell p.dst).ownerSaved else (t.cell p.dst).owner })
        h hb (fun _ => rfl) hc)
    · exact congrArg Host.Outcome.next (State.ctrlArrive_ok
        (fun t => t.setCell p.dst { t.cell p.dst with fenced := false, owner := o }) h hb (fun _ => rfl) hc)
    · exact congrArg Host.Outcome.next (State.ctrlArrive_ok
        (fun t => t.setCell p.dst { t.cell p.dst with halted := on, stepLeft := 0, stepEnd := 0 }) h hb (fun _ => rfl) hc)
    · rintro k mt vt pair ms vs job task d e hb rfl rfl
      exact congrArg Host.Outcome.next (State.ctrlArrive_ok (fun t => (t.setCell p.dst
        ((t.cell p.dst).bound t.arrFeat k mt vt pair ms vs job task)).markOpen p.dst) h hb (fun _ => rfl) hc)
    · rintro hc q hb
      refine ⟨?_, ?_, ?_, ?_⟩
      · rintro r rfl
        exact congrArg Host.Outcome.next (State.ctrlArrive_access
          (fun t => t.setCell p.dst { t.cell p.dst with ready := setBit (t.cell p.dst).ready (r % 16) true }) h hb (fun _ => rfl) hc)
      · rintro r rfl
        exact congrArg Host.Outcome.next (State.ctrlArrive_access
          (fun t => t.setCell p.dst { t.cell p.dst with ready := setBit (t.cell p.dst).ready (r % 16) false }) h hb (fun _ => rfl) hc)
      · rintro rfl
        exact congrArg Host.Outcome.next (State.ctrlArrive_access (fun t => t.setCell p.dst { t.cell p.dst with
          fenced := true, owner := fenceTag, ownerSaved := if (t.cell p.dst).fenced then (t.cell p.dst).ownerSaved else (t.cell p.dst).owner })
          h hb (fun _ => rfl) hc)
      · rintro k mt vt pair ms vs job task rfl
        exact congrArg Host.Outcome.next (State.ctrlArrive_access (fun t => (t.setCell p.dst
          ((t.cell p.dst).bound t.arrFeat k mt vt pair ms vs job task)).markOpen p.dst) h hb (fun _ => rfl) hc)
  case scrub =>
    rintro s cell c ho hs rfl h
    exact exec_memtScrub_clean ho hs h
  case yield =>
    rintro s t cell p hf ho hr rfl hp
    have hrun : exec (.widePortYield cell) s = .next (match p.body with
        | .rd a n => (s.setCell cell ({ s.cell cell with narrowRefused := 0 }.count .memtCycStarve 1)).memtRd p a n
        | .wr a bs => (s.setCell cell ({ s.cell cell with narrowRefused := 0 }.count .memtCycStarve 1)).memtWr p a bs
        | _ => s.setCell cell ({ s.cell cell with narrowRefused := 0 }.count .memtCycStarve 1)) := by
      refine congrArg Host.Outcome.next ((if_neg (by simp [hf, ho, hr])).trans ?_)
      simp only [hp] <;> rfl
    exact ⟨fun a n hb => by rw [hrun, hb], fun a bs hb => by rw [hrun, hb]⟩

end Sys2Proof.Machine
end

section
/-!
O22: responses at their requester and what is sent again (R130, R236, R262, R264, R269, R359).
-/
namespace Sys2Proof.Machine
open Sys2Proof

/-- The hubs are no cells. -/
theorem State.goodCell_hubS (s : State) : s.goodCell hubS = false := by simp [State.goodCell, hubS, cellSites]

theorem State.goodCell_hubN (s : State) : s.goodCell hubN = false := by simp [State.goodCell, hubN, cellSites]

/-- A cell that is open is no hub. -/
theorem State.cellOpen_ne {s : State} {cell : Nat} (h : s.cellOpen cell = true) : cell ≠ hubN ∧ cell ≠ hubS := by
  have hg : s.goodCell cell = true := by
    unfold State.cellOpen at h
    simp only [Bool.and_eq_true] at h
    exact h.1.1
  constructor
  · rintro rfl
    rw [s.goodCell_hubN] at hg
    exact absurd hg (by decide)
  · rintro rfl
    rw [s.goodCell_hubS] at hg
    exact absurd hg (by decide)

/-- A response at its requester is met there. -/
theorem State.respArrive_at {s : State} {p : Packet} (f : State → State) (h : s.respMeets p) :
    s.respArrive p f = (f (s.arrived p)).loadTables := by
  obtain ⟨_, ho, ha⟩ := h
  unfold State.respArrive
  rw [if_neg (by rintro ⟨hg, hn⟩; simp [ho hg] at hn), State.arrive_met s p f ha]

/-- A context that waits reads back as written. -/
theorem Cell.mtx_setMtx_wait (c : Cell) (k : Nat) {x : MtCtx} (h : x.wait ≠ none) : (c.setMtx k x).mtx k = x :=
  Tab.get_put_of_ne (fun e => h (congrArg MtCtx.wait e)) c.mt k

theorem Cell.vtx_setVtx_wait (c : Cell) (k : Nat) {x : VtCtx} (h : x.wait ≠ none) : (c.setVtx k x).vtx k = x :=
  Tab.get_put_of_ne (fun e => h (congrArg VtCtx.wait e)) c.vt k

/-- A satisfied wake moves the matrix context that waits for its signal past its WAIT (R264). -/
theorem State.ctxWake_mtx {s : State} {cell unit sig tag : Nat} {w : CtxWait} (hu : unit < 4) (hw : ((s.cell cell).mtx unit).wait = some w)
    (hs : w.sig = sig) (ht : ((s.cell cell).mtx unit).bindTag = tag) : s.ctxWake cell unit sig tag .satisfied =
      s.setCell cell ((s.cell cell).mtSettle s.arrFeat unit { ((s.cell cell).mtx unit).advance with wait := none }) := by
  unfold State.ctxWake
  simp only [hu, if_true, hw, ht, hs, beq_self_eq_true, Bool.and_self, Bool.not_true, Bool.false_eq_true, if_false]

theorem State.ctxWake_vtx {s : State} {cell unit sig tag : Nat} {w : CtxWait} (hu : 4 ≤ unit)
    (hw : ((s.cell cell).vtx (unit - 4)).wait = some w) (hs : w.sig = sig) (ht : ((s.cell cell).vtx (unit - 4)).bindTag = tag) :
    s.ctxWake cell unit sig tag .satisfied = s.setCell cell (((s.cell cell).vtSettle (unit - 4)
      { (s.cell cell).vtx (unit - 4) with wait := none, instr := none, idx := ((s.cell cell).vtx (unit - 4)).idx + 1 }).count .vtEvtInstr 1) := by
  unfold State.ctxWake
  simp only [Nat.not_lt.mpr hu, hw, ht, hs, beq_self_eq_true, Bool.and_self, Bool.not_true, Bool.false_eq_true, if_false]

/-- A WAIT answered RETRY is sent again (R262). -/
theorem State.ctxRetry_mtx {s : State} {cell ctx : Nat} {w : CtxWait} (ho : s.cellOpen cell = true) (hr : w.retry = true) (hu : ctx < 4)
    (hw : ((s.cell cell).mtx ctx).wait = some w) : s.ctxRetry cell ctx =
      (s.setCell cell ((s.cell cell).setMtx ctx { (s.cell cell).mtx ctx with wait := some { w with retry := false } })).cellSignal cell ctx
        .wait w.sig w.value ((s.cell cell).mtx ctx).bindTag := by
  unfold State.ctxRetry
  simp only [hu, if_true, hw, hr, ho, decide_eq_false (show ¬ 8 ≤ ctx by omega), Bool.not_true, Bool.or_self, Bool.false_eq_true, if_false,
    Cell.mtx_setMtx_wait _ ctx (x := { (s.cell cell).mtx ctx with wait := some { w with retry := false } }) (by simp)]

theorem State.ctxRetry_vtx {s : State} {cell ctx : Nat} {w : CtxWait} (ho : s.cellOpen cell = true) (hr : w.retry = true) (h4 : 4 ≤ ctx)
    (h8 : ctx < 8) (hw : ((s.cell cell).vtx (ctx - 4)).wait = some w) : s.ctxRetry cell ctx =
      (s.setCell cell ((s.cell cell).setVtx (ctx - 4) { (s.cell cell).vtx (ctx - 4) with wait := some { w with retry := false } })).cellSignal
        cell ctx .wait w.sig w.value ((s.cell cell).vtx (ctx - 4)).bindTag := by
  unfold State.ctxRetry
  simp only [Nat.not_lt.mpr h4, hw, hr, ho, decide_eq_false (show ¬ 8 ≤ ctx by omega), Bool.not_true, Bool.or_self, Bool.false_eq_true,
    if_false, Cell.vtx_setVtx_wait _ (ctx - 4) (x := { (s.cell cell).vtx (ctx - 4) with wait := some { w with retry := false } }) (by simp)]

/-- Settles O22: each response at its requester, then the messages and waits sent again. -/
theorem responsesReachTheirRequester : Obligations.ResponsesReachTheirRequester := by
  unfold Obligations.ResponsesReachTheirRequester
  refine ⟨?data, ?done, ?ack, ?wake, ?nak, ?engNak, ?resend, ?engResend, ?retry, ?hostRetry, ?engRetry⟩
  case data =>
    intro s p st d h hb
    refine congrArg Host.Outcome.next ((if_neg (by simp [h.1])).trans ?_)
    rw [hb]
    exact State.respArrive_at id h
  case done =>
    intro s p st h hb
    refine congrArg Host.Outcome.next ((if_neg (by simp [h.1])).trans ?_)
    rw [hb]
    exact State.respArrive_at id h
  case ack =>
    rintro s t p r h hb hg hcls rfl hfind
    refine congrArg Host.Outcome.next ((if_neg (by simp [h.1])).trans ?_)
    rw [hb]
    refine (State.respArrive_at _ h).trans (congrArg State.loadTables ((if_pos ⟨hg, rfl, hcls⟩).trans ?_))
    unfold State.epiAck
    simp only [hfind]
  case wake =>
    rintro s t p sig count unit tag node w h hg hb hsig rfl
    have hrun : unit < 8 → exec (.sigWake p) s = .next ((s.arrived p).ctxWake p.dst unit sig tag .satisfied).loadTables := by
      intro hu
      refine congrArg Host.Outcome.next ((if_neg (by simp [h.1])).trans ?_)
      rw [hb]
      exact (State.respArrive_at _ h).trans (congrArg State.loadTables ((if_pos hg).trans (if_pos hu)))
    constructor
    · rintro x hu rfl hw ht
      rw [hrun (by omega), State.ctxWake_mtx hu hw hsig ht]
    · rintro x h4 h8 rfl hw ht
      rw [hrun h8, State.ctxWake_vtx h4 hw hsig ht]
  case nak =>
    rintro s t p st m held h hg hb rfl hm hfind htries
    refine congrArg Host.Outcome.next ((if_neg (by simp [h.1])).trans ?_)
    rw [hb]
    refine (State.respArrive_at _ h).trans (congrArg State.loadTables ((if_pos hg).trans ?_))
    unfold State.msgRefusedAt
    obtain ⟨q, n, again⟩ := held
    simp only [hm, hfind, show n < 4 from htries, if_true]
  case engNak =>
    rintro s t p e c h hd hb rfl hfind hsent hfin htries
    refine congrArg Host.Outcome.next ((if_neg (by simp [h.1])).trans ?_)
    rw [hb]
    refine (State.respArrive_at _ h).trans (congrArg State.loadTables ((if_neg ?_).trans ((if_pos hd).trans ?_)))
    · rw [hd, State.goodCell_hubS]
      decide
    · unfold State.engNak
      simp only [hfind, hsent, hfin, htries, Bool.not_true, Option.isSome_none, Bool.or_self, Bool.false_eq_true, if_false, if_true]
  case resend =>
    intro s cell m held hf ho hm hfind
    refine congrArg Host.Outcome.next ((if_neg (by simp [hf])).trans ((if_neg (State.cellOpen_ne ho).2).trans ?_))
    unfold State.cellResend
    simp only [hm, hfind, ho, if_true]
  case engResend =>
    intro s e c hf hfind
    refine congrArg Host.Outcome.next ((if_neg (by simp [hf])).trans ((if_pos rfl).trans ?_))
    unfold State.engResend
    rw [hfind]
  case retry =>
    intro s cell ctx w hf ho hr
    have hrun : exec (.waitRetry cell ctx) s = .next (s.ctxRetry cell ctx) := congrArg Host.Outcome.next
      ((if_neg (by simp [hf])).trans ((if_neg (State.cellOpen_ne ho).1).trans (if_neg (State.cellOpen_ne ho).2)))
    exact ⟨fun hu hw => by rw [hrun, State.ctxRetry_mtx ho hr hu hw], fun h4 h8 hw => by rw [hrun, State.ctxRetry_vtx ho hr h4 h8 hw]⟩
  case hostRetry =>
    intro s id c hf hfind
    refine congrArg Host.Outcome.next ((if_neg (by simp [hf])).trans ((if_pos rfl).trans ?_))
    unfold State.hostRetry
    rw [hfind]
  case engRetry =>
    intro s id e c hf hfind
    refine congrArg Host.Outcome.next ((if_neg (by simp [hf])).trans ((if_neg (by decide)).trans ((if_pos rfl).trans ?_)))
    unfold State.engRetry
    rw [hfind]

end Sys2Proof.Machine
end

section
/-!
O23: stream words forwarded by the slot table, and credits returned (R203 to R214).
-/
namespace Sys2Proof.Machine
open Sys2Proof

/-- The word at the head of a link lies there, due in a cycle of its slot. -/
theorem State.due_of_linkHead {s : State} {cell port slot : Nat} {l : LinkWord} (h : s.linkHead cell port slot = some l) : l.due % 8 = slot := by
  unfold State.linkHead at h
  split at h
  · next k _ =>
    split at h
    · next hd => rw [← Option.some.inj h]; exact of_decide_eq_true (Bool.and_eq_true_iff.mp hd).1
    · exact absurd h (by simp)
  · exact absurd h (by simp)

/-- A word whose output leads over no boundary is not held up there (R214). -/
theorem State.crossFull_eq {s : State} {cell inPort t chan : Nat} {o n : Nat} (ho : (s.cell cell).outputFor inPort (t % 8) chan = some o)
    (hn : neighbour cell o = some n) :
    s.crossFull cell inPort t chan = (cellDie n != cellDie cell && decide (16 ≤ (s.crossing n (oppPort o)).length)) := by
  unfold State.crossFull
  simp only [ho, Option.bind_some, hn, Option.map_some]

theorem State.crossFull_none {s : State} {cell inPort t chan : Nat}
    (h : ((s.cell cell).outputFor inPort (t % 8) chan).bind (fun o => neighbour cell o) = none) : s.crossFull cell inPort t chan = false := by
  unfold State.crossFull
  cases ho : (s.cell cell).outputFor inPort (t % 8) chan with
  | none => rfl
  | some o =>
    rw [ho, Option.bind_some] at h
    simp only [Option.bind_some, h, Option.map_none]

/-- A word at the head of a link that is not held up at a boundary is forwarded, and its circuit refilled. -/
theorem exec_streamWordArrive_link {s : State} {cell port slot chan : Nat} {l : LinkWord} (hf : s.fatal = false) (ho : s.cellOpen cell = true)
    (hs : slot < 8) (hp : port < 4) (hl : s.linkHead cell port slot = some l) (hc : s.crossFull cell port l.due 0 = false) :
    exec (.streamWordArrive cell port slot chan) s = .next
      (((State.reach { s with links := s.links.erase l } (cellDie cell) l.due).forward cell port l.due 0 l.word).refill 160 l.word.circuit) := by
  refine congrArg Host.Outcome.next ((if_neg (by simp [hf])).trans ?_)
  simp only [ho, Nat.mod_eq_of_lt hs, Nat.ne_of_lt hp, hl, hc, Bool.not_true, Bool.false_eq_true, if_false]

/-- A word forwarded to a neighbour. -/
theorem State.forward_neighbour {s : State} {cell inPort t chan o n : Nat} (w : SWord) (ho : (s.cell cell).outputFor inPort (t % 8) chan = some o)
    (h4 : o < 4) (hn : neighbour cell o = some n) : s.forward cell inPort t chan w =
      { s.setCell cell ((s.cell cell).count (busyCtr o) 1) with
        links := s.links ++ [{ cell := n, port := oppPort o, crossed := cellDie n != cellDie cell, word := w
                               due := if (cellDie n != cellDie cell) = true then
                                 (s.setCell cell ((s.cell cell).count (busyCtr o) 1)).crossDue (cellDie cell) n (oppPort o) else t + 1 }] } := by
  unfold State.forward
  simp only [ho, Nat.ne_of_lt h4, if_false, hn]
  rfl

/-- A word whose output is LOCAL reaches the channel of the entry (R205). -/
theorem State.forward_local {s : State} {cell inPort t chan : Nat} (w : SWord) (ho : (s.cell cell).outputFor inPort (t % 8) chan = some 4) :
    s.forward cell inPort t chan w =
      (s.setCell cell ((s.cell cell).count (busyCtr 4) 1)).deliver cell (bits ((s.cell cell).slotEntry 4 (t % 8)) 13 9) w := by
  unfold State.forward
  simp only [ho, if_true]

theorem State.forward_misroute {s : State} {cell inPort t chan : Nat} (w : SWord) (ho : (s.cell cell).outputFor inPort (t % 8) chan = none) :
    s.forward cell inPort t chan w = s.misroute cell inPort (t % 8) w := by
  unfold State.forward
  simp only [ho]

/-- Settles O23: a link's word by its output, a channel's own word, and the credits. -/
theorem streamWordsForwardedAndCreditsReturned : Obligations.StreamWordsForwardedAndCreditsReturned := by
  unfold Obligations.StreamWordsForwardedAndCreditsReturned
  refine ⟨?link, ?inject, ?spilled, ?credit⟩
  case link =>
    rintro s t cell port slot chan l hf hopen hs hp hl rfl
    have hslot := State.due_of_linkHead hl
    refine ⟨fun o n hout h4 hn hdie => ?_, fun o n hout h4 hn hdie hroom => ?_, fun hout => ?_, fun hout => ?_⟩
    · rw [← hslot] at hout
      rw [exec_streamWordArrive_link hf hopen hs hp hl (by rw [State.crossFull_eq hout hn]; simp [hdie]),
        State.forward_neighbour (s := State.reach { s with links := s.links.erase l } (cellDie cell) l.due) l.word hout h4 hn]
      simp only [hdie, bne_self_eq_false, Bool.false_eq_true, if_false]
      rfl
    · rw [← hslot] at hout
      have hbne : (cellDie n != cellDie cell) = true := by simpa using hdie
      rw [exec_streamWordArrive_link hf hopen hs hp hl
          (by rw [State.crossFull_eq hout hn, decide_eq_false (Nat.not_le.mpr hroom), Bool.and_false]),
        State.forward_neighbour (s := State.reach { s with links := s.links.erase l } (cellDie cell) l.due) l.word hout h4 hn]
      simp only [hbne, if_true]
      rfl
    · rw [← hslot] at hout
      rw [exec_streamWordArrive_link hf hopen hs hp hl (State.crossFull_none (by rw [hout]; rfl)),
        State.forward_local (s := State.reach { s with links := s.links.erase l } (cellDie cell) l.due) l.word hout, ← hslot]
      rfl
    · rw [← hslot] at hout
      rw [exec_streamWordArrive_link hf hopen hs hp hl (State.crossFull_none (by rw [hout]; rfl)),
        State.forward_misroute (s := State.reach { s with links := s.links.erase l } (cellDie cell) l.due) l.word hout, ← hslot]
  case inject =>
    rintro s t cell slot ch n w ws hf hopen hs hch hst hcr hwh hsump hout rfl hdue hcross rfl
    have hnone : ((s.cell cell).outputFor 4 slot ch).isNone = false := by
      rw [← Option.not_isSome, hout]
      rfl
    refine congrArg Host.Outcome.next ((if_neg (by simp [hf])).trans ?_)
    simp only [hopen, Nat.mod_eq_of_lt hs, Nat.mod_eq_of_lt hch, hsump, Option.isSome_none, Bool.not_true, Bool.false_eq_true, if_false, if_true]
    unfold State.inject
    simp only [hst, hcr, hwh, hsump, hnone, hdue, hcross, decide_false, Option.isSome_none, Bool.not_true, Bool.or_self, Bool.false_eq_true,
      if_false]
  case spilled =>
    intro s cell slot ch hf hopen hch hsump
    refine congrArg Host.Outcome.next ((if_neg (by simp [hf])).trans ?_)
    simp only [hopen, Nat.mod_eq_of_lt hch, hsump, Bool.not_true, Bool.false_eq_true, if_false, if_true]
  case credit =>
    intro s circuit hf hc
    exact congrArg Host.Outcome.next ((if_neg (by simp [hf])).trans (if_pos (by simpa using hc)))

end Sys2Proof.Machine
end

section
/-!
O24: steering units, probes and the Sump (R216 to R229).
-/
namespace Sys2Proof.Machine
open Sys2Proof

/-! ### Steering units -/

/-- A SPLIT once its next record has begun, where one begins (R218). -/
def State.splitBegun (s : State) (cell su inCh : Nat) : State :=
  if ((s.cell cell).steer su).cur.isSome then s
  else if ((s.cell cell).steer su).cond = 1 then
    match (s.control cell su).2 with
    | some (sel, _) => (s.control cell su).1.setCell cell (((s.control cell su).1.cell cell).beginRecord su sel (splitSides sel))
    | none => (s.control cell su).1
  else if ((s.cell cell).chan inCh).fifo = [] then s
  else s.setCell cell ((s.cell cell).beginRecord su (if ((s.cell cell).steer su).cond = 2 then 3 else ((s.cell cell).steer su).countSide)
    (splitSides (if ((s.cell cell).steer su).cond = 2 then 3 else ((s.cell cell).steer su).countSide)))

/-- A record of a SPLIT that is in progress is moved. -/
theorem exec_splitRecord_moves {s b : State} {cell su inCh k : Nat} {c : Cell} {cr : List Nat} (hf : s.fatal = false) (hsu : su < 2)
    (hr : s.cellRuns cell = true) (hk : ((s.cell cell).steer su).kind = 1) (hin : (s.cell cell).suChan su 1 0 = some inCh)
    (hb : s.splitBegun cell su inCh = b) (hcur : (((b.roomCell cell).cell cell).steer su).cur = some k)
    (hm : moveRecord 128 cell ((b.roomCell cell).cell cell) su inCh ((splitSides k).filterMap (((b.roomCell cell).cell cell).suChan su 2)) []
      = (c, cr)) :
    exec (.splitRecord cell su) s = .next ((((b.roomCell cell).owe cr).setCell cell c).settleSumps cell) := by
  subst hb
  refine congrArg Host.Outcome.next ((if_neg (by simp [hf])).trans ?_)
  simp only [Nat.mod_eq_of_lt hsu]
  refine (if_neg (by simp [hr, hk])).trans ?_
  simp only [hin]
  have hstart : ∀ t : State, t = s.splitBegun cell su inCh → (match (((t.roomCell cell).cell cell).steer su).cur with
      | none => t.roomCell cell
      | some k =>
        (((t.roomCell cell).owe (moveRecord 128 cell ((t.roomCell cell).cell cell) su inCh
          ((splitSides k).filterMap (((t.roomCell cell).cell cell).suChan su 2)) []).2).setCell cell
          (moveRecord 128 cell ((t.roomCell cell).cell cell) su inCh
            ((splitSides k).filterMap (((t.roomCell cell).cell cell).suChan su 2)) []).1).settleSumps cell)
      = (((((s.splitBegun cell su inCh).roomCell cell).owe cr).setCell cell c).settleSumps cell) := by
    rintro t rfl
    rw [hcur]
    dsimp only
    rw [hm]
  exact hstart _ rfl

/-- A MERGE's next record begun from input `n`. -/
def State.mergeStart (s : State) (cell su n : Nat) : State := s.setCell cell ((s.cell cell).beginRecord su n [n])

/-- A MERGE once its next record has begun, where one begins (R218 to R220). -/
def State.mergeBegun (s : State) (cell su in0 in1 : Nat) : State :=
  if ((s.cell cell).steer su).cur.isSome then s
  else if ((s.cell cell).steer su).cond = 1 then
    match (s.control cell su).2 with
    | some (sel, w) =>
      if 2 ≤ sel then
        (s.control cell su).1.jobFault .steerCtrl w.job .badCommand { noRec with node := cell, unit := 3, idx0 := su, code := sel }
      else (s.control cell su).1.mergeStart cell su sel
    | none => (s.control cell su).1
  else if ((s.cell cell).steer su).cond = 3 then
    if decide (((s.cell cell).chan in0).fifo ≠ []) && decide (((s.cell cell).chan in1).fifo ≠ []) then
      (if ((s.cell cell).steer su).lastIn = 2 then s.drawFree.2.mergeStart cell su (Config.freePick s.drawFree.1 2)
      else s.mergeStart cell su (1 - ((s.cell cell).steer su).lastIn))
    else if decide (((s.cell cell).chan in0).fifo ≠ []) then s.mergeStart cell su 0
    else if decide (((s.cell cell).chan in1).fifo ≠ []) then s.mergeStart cell su 1
    else s
  else if decide (((s.cell cell).chan (if ((s.cell cell).steer su).countSide = 0 then in0 else in1)).fifo ≠ []) then
    s.mergeStart cell su ((s.cell cell).steer su).countSide
  else s

/-- What MERGE_RECORD does once a record has begun: nothing without one, else it is moved. -/
theorem exec_mergeRecord_eq {s : State} {cell su in0 in1 out : Nat} (hf : s.fatal = false) (hsu : su < 2) (hr : s.cellRuns cell = true)
    (hk : ((s.cell cell).steer su).kind = 2) (h0 : (s.cell cell).suChan su 1 0 = some in0) (h1 : (s.cell cell).suChan su 1 1 = some in1)
    (ho : (s.cell cell).suChan su 2 0 = some out) :
    (∀ b k c cr, s.mergeBegun cell su in0 in1 = b → (((b.roomCell cell).cell cell).steer su).cur = some k →
      moveRecord 128 cell ((b.roomCell cell).cell cell) su (if k = 0 then in0 else in1) [out] [] = (c, cr) →
      exec (.mergeRecord cell su) s = .next ((((b.roomCell cell).owe cr).setCell cell c).settleSumps cell))
    ∧ (∀ b, s.mergeBegun cell su in0 in1 = b → (((b.roomCell cell).cell cell).steer su).cur = none →
      exec (.mergeRecord cell su) s = .next (b.roomCell cell)) := by
  have hrun : ∀ u, (∀ t : State, t = s.mergeBegun cell su in0 in1 → (match (((t.roomCell cell).cell cell).steer su).cur with
      | none => t.roomCell cell
      | some k =>
        (((t.roomCell cell).owe (moveRecord 128 cell ((t.roomCell cell).cell cell) su (if k = 0 then in0 else in1) [out] []).2).setCell cell
          (moveRecord 128 cell ((t.roomCell cell).cell cell) su (if k = 0 then in0 else in1) [out] []).1).settleSumps cell) = u) →
      exec (.mergeRecord cell su) s = .next u := by
    intro u hu
    refine congrArg Host.Outcome.next ((if_neg (by simp [hf])).trans ?_)
    simp only [Nat.mod_eq_of_lt hsu]
    refine (if_neg (by simp [hr, hk])).trans ?_
    simp only [h0, h1, ho]
    exact hu _ rfl
  constructor
  · rintro b k c cr rfl hcur hm
    refine hrun _ ?_
    rintro t rfl
    rw [hcur]
    dsimp only
    rw [hm]
  · rintro b rfl hcur
    refine hrun _ ?_
    rintro t rfl
    rw [hcur]

/-- The SPLIT's record in each case of the statement: one already begun, COUNT's or DUP's, or a selector's. -/
theorem State.splitBegun_of {s b : State} {cell su inCh : Nat}
    (h : (((s.cell cell).steer su).cur.isSome = true ∧ b = s)
      ∨ (((s.cell cell).steer su).cur = none ∧ ((s.cell cell).steer su).cond ≠ 1 ∧ ((s.cell cell).chan inCh).fifo ≠ []
        ∧ ∃ side, side = (if ((s.cell cell).steer su).cond = 2 then 3 else ((s.cell cell).steer su).countSide)
          ∧ b = s.setCell cell ((s.cell cell).beginRecord su side (splitSides side)))
      ∨ (((s.cell cell).steer su).cur = none ∧ ((s.cell cell).steer su).cond = 1
        ∧ ∃ t sel w, s.control cell su = (t, some (sel, w)) ∧ b = t.setCell cell ((t.cell cell).beginRecord su sel (splitSides sel)))) :
    s.splitBegun cell su inCh = b := by
  unfold State.splitBegun
  rcases h with ⟨hcur, rfl⟩ | ⟨hcur, hcond, hfifo, side, rfl, rfl⟩ | ⟨hcur, hcond, t, sel, w, hctl, rfl⟩
  · rw [if_pos hcur]
  · simp only [hcur, Option.isSome_none, Bool.false_eq_true, if_false, hcond, hfifo]
  · simp only [hcur, Option.isSome_none, Bool.false_eq_true, if_false, hcond, if_true, hctl]

/-- The MERGE's record in each case of the statement: one already begun, a selector's, ARRIVAL's or COUNT's. -/
theorem State.mergeBegun_of {s b : State} {cell su in0 in1 : Nat}
    (h : (((s.cell cell).steer su).cur.isSome = true ∧ b = s)
      ∨ (((s.cell cell).steer su).cur = none ∧ ∃ t n, b = t.setCell cell ((t.cell cell).beginRecord su n [n])
        ∧ ((((s.cell cell).steer su).cond = 1 ∧ ∃ w, s.control cell su = (t, some (n, w)) ∧ n < 2)
          ∨ (((s.cell cell).steer su).cond = 3 ∧ ((s.cell cell).chan in0).fifo ≠ [] ∧ ((s.cell cell).chan in1).fifo ≠ []
            ∧ ((((s.cell cell).steer su).lastIn = 2 ∧ n = Config.freePick s.freeCtr 2 ∧ t = { s with freeCtr := s.freeCtr + 1 })
              ∨ (((s.cell cell).steer su).lastIn ≠ 2 ∧ n = 1 - ((s.cell cell).steer su).lastIn ∧ t = s)))
          ∨ (((s.cell cell).steer su).cond = 3 ∧ t = s ∧ ((((s.cell cell).chan in0).fifo ≠ [] ∧ ((s.cell cell).chan in1).fifo = [] ∧ n = 0)
            ∨ (((s.cell cell).chan in0).fifo = [] ∧ ((s.cell cell).chan in1).fifo ≠ [] ∧ n = 1)))
          ∨ (((s.cell cell).steer su).cond ≠ 1 ∧ ((s.cell cell).steer su).cond ≠ 3 ∧ t = s ∧ n = ((s.cell cell).steer su).countSide
            ∧ ((s.cell cell).chan (if n = 0 then in0 else in1)).fifo ≠ [])))) :
    s.mergeBegun cell su in0 in1 = b := by
  unfold State.mergeBegun
  rcases h with ⟨hcur, rfl⟩ | ⟨hcur, t, n, rfl, hcase⟩
  · rw [if_pos hcur]
  · rw [if_neg (by simp [hcur])]
    rcases hcase with ⟨hcond, w, hctl, hn⟩ | ⟨hcond, h0, h1, hlast⟩ | ⟨hcond, rfl, hone⟩ | ⟨hc1, hc3, rfl, rfl, hfifo⟩
    · simp only [hcond, if_true, hctl, Nat.not_le.mpr hn, if_false]
      rfl
    · simp only [hcond, if_true, h0, h1, ne_eq, not_false_eq_true, decide_true, Bool.and_self]
      rcases hlast with ⟨hl, rfl, rfl⟩ | ⟨hl, rfl, rfl⟩
      · rw [if_pos hl]
        rfl
      · rw [if_neg hl]
        rfl
    · simp only [hcond, if_true]
      rcases hone with ⟨h0, h1, rfl⟩ | ⟨h0, h1, rfl⟩
      · simp only [h0, h1, ne_eq, not_false_eq_true, not_true_eq_false, decide_true, decide_false, Bool.and_false, Bool.false_eq_true,
          if_false, if_true]
        rfl
      · simp only [h0, h1, ne_eq, not_false_eq_true, not_true_eq_false, decide_true, decide_false, Bool.false_and, Bool.false_eq_true,
          if_false, if_true]
        rfl
    · rw [if_neg hc1, if_neg hc3, if_pos (decide_eq_true hfifo)]
      rfl

/-- A MERGE's selector of 2 or 3 stops its job, and begins no record (R220). -/
theorem State.mergeBegun_fault {s t : State} {cell su in0 in1 sel : Nat} {w : SWord} (hcur : ((s.cell cell).steer su).cur = none)
    (hcond : ((s.cell cell).steer su).cond = 1) (hctl : s.control cell su = (t, some (sel, w))) (hsel : 2 ≤ sel) :
    s.mergeBegun cell su in0 in1 = t.jobFault .steerCtrl w.job .badCommand { noRec with node := cell, unit := 3, idx0 := su, code := sel } := by
  unfold State.mergeBegun
  simp only [hcur, Option.isSome_none, Bool.false_eq_true, if_false, hcond, if_true, hctl, hsel]

/-! ### Probes and the Sump -/

/-- A probe at a node: its cycle found, or on along every edge that has waited (R225). -/
theorem exec_probe_at {s : State} {p : Packet} {origin lowest edges : Nat} (hf : s.fatal = false) (ho : s.cellOpen p.dst = true)
    (ha : s.mayArrive p = true) (hb : p.body = .probe origin lowest edges false) {es : List WaitEdge}
    (hes : ((((s.arrived p).cell p.dst).nodesOf (p.tag % 32)).flatMap (((s.arrived p).cell p.dst).nodeEdges (s.arrived p).arrFeat)).filter
      (fun e => decide (8192 ≤ (((s.arrived p).cell p.dst).chan e.chan).waitRun)) = es) :
    exec (.probe p) s = .next (State.loadTables (match es.find? (fun e => (s.arrived p).edgeCircuit p.dst e == some origin) with
      | some e => (s.arrived p).cycleFound p.dst e origin lowest edges
      | none => if 255 ≤ edges then s.arrived p
        else es.foldl (fun s e => s.sendProbe p.dst e origin lowest (edges + 1)) (s.arrived p))) := by
  subst hes
  refine congrArg Host.Outcome.next ((if_neg (by simp [hf])).trans ?_)
  rw [hb]
  exact (if_neg (by simp [ho])).trans (s.arrive_met p _ ha)

/-- Settles O24: the units by how their record begins, then the probes and the Sump. -/
theorem steeringUnitsProbesAndTheSump : Obligations.SteeringUnitsProbesAndTheSump := by
  unfold Obligations.SteeringUnitsProbesAndTheSump
  refine ⟨⟨?split, ?merge, ?selector, fun u _ => rfl⟩, ?send, ?probe, ?request, ?close, ?exhausted⟩
  case split =>
    intro s b cell su inCh k c cr hf hsu hr hk hin hcase hcur hm
    exact exec_splitRecord_moves hf hsu hr hk hin (State.splitBegun_of hcase) hcur hm
  case merge =>
    intro s b cell su in0 in1 out k c cr hf hsu hr hk h0 h1 ho hcase hcur hm
    exact (exec_mergeRecord_eq hf hsu hr hk h0 h1 ho).1 b k c cr (State.mergeBegun_of hcase) hcur hm
  case selector =>
    rintro s t u cell su in0 in1 out sel w hf hsu hr hk h0 h1 ho hcur hcond hctl hsel rfl hnone
    exact (exec_mergeRecord_eq hf hsu hr hk h0 h1 ho).2 _ (State.mergeBegun_fault hcur hcond hctl hsel) hnone
  case send =>
    rintro s cell ch n e es hf ho hch hfrozen hes t rfl hn
    refine congrArg Host.Outcome.next ((if_neg (by simp [hf])).trans ?_)
    simp only [Nat.mod_eq_of_lt hch, hes, ho, hfrozen, hn, Bool.not_true, Bool.or_self, Bool.false_eq_true, if_false]
  case probe =>
    rintro s t p origin lowest edges es hf ho ha hb rfl hes
    have hrun := exec_probe_at hf ho ha hb hes
    refine ⟨fun hnone hlt => ?_, fun e he => ?_⟩
    · rw [hrun, List.find?_eq_none.mpr (fun e he => by simpa using hnone e he)]
      dsimp only
      rw [if_neg (by omega)]
    · rw [hrun, he]
  case request =>
    intro s p origin lowest edges hf ho ha hb h7 hl
    refine congrArg Host.Outcome.next ((if_neg (by simp [hf])).trans ?_)
    rw [hb]
    dsimp only
    rw [if_neg (by simp [ho]), State.arrive_met s p _ ha]
    exact congrArg State.loadTables (if_pos ⟨h7, hl⟩)
  case close =>
    intro s cell ch u hf ho hch hu hspill hcr
    refine congrArg Host.Outcome.next ((if_neg (by simp [hf])).trans ?_)
    simp only [Nat.mod_eq_of_lt hch, hu, hspill, hcr, ho, and_self, if_true]
  case exhausted =>
    rintro s t cell ch u hf hch rfl hu hroom hstalled hwait hfrozen
    refine congrArg Host.Outcome.next ((if_neg (by simp [hf])).trans ?_)
    simp only [Nat.mod_eq_of_lt hch, hu, hroom, hstalled, hfrozen, decide_eq_false (Nat.not_lt.mpr hwait), ne_eq, not_true_eq_false,
      decide_false, Bool.not_true, Bool.or_self, Bool.false_eq_true, if_false]

end Sys2Proof.Machine
end

section
/-!
O26: signal operations refused or forwarded (R259, R261, R263), and messages (R267 to R271).
-/
namespace Sys2Proof.Machine
open Sys2Proof

/-- The three SIG commands are one function of the operation they ask for (R255). -/
theorem exec_sig {s : State} {p : Packet} (op : SigOp) (hf : s.fatal = false) :
    exec (match op with | .set => .sigSet p | .add => .sigAdd p | .wait => .sigWait p) s = .next (s.sigArrive p op) := by
  cases op
  all_goals exact congrArg Host.Outcome.next (if_neg (by simp [hf]))

/-- An operation of a tenant outside the signal's range is recorded and answered REFUSED (R259). -/
theorem State.sigOp_refused {s : State} {op : SigOp} {sig v : Nat} {iss : Issuer} {tenant src : Nat} {cls : SrcClass}
    (h0 : tenant ≠ 0) (hne : tenant ≠ s.sigTenant sig) : s.sigOp op sig v iss tenant src cls =
      (s.record .sigAccess
        { noRec with node := src, unit := 5, tenant := tenant, idx0 := sig, extra1 := cls.ctorIdx, job := s.issuerJob iss
                     status := if (s.issuerJob iss).isSome then Status.badCommand.code else 0 } (s.issuerJob iss).isSome).wake
        (s.signal sig).home sig (s.signal sig).counter iss .refused :=
  if_pos ⟨h0, hne⟩

/-- A SIG packet that is not at its signal's home goes on: from Hub N to the home, from elsewhere to Hub N (R261, R263). -/
theorem State.sigArrive_away {s : State} {p : Packet} {op : SigOp} {sig v : Nat} {iss : Issuer} (hn : s.goodNode p.dst = true)
    (ho : s.goodCell p.dst = true → s.cellOpen p.dst = true) (ha : s.mayArrive p = true) (hb : p.body = .sig op sig v iss) (hsig : sig < 16384)
    (hh : ¬ ((p.dst = hubN ∧ (s.signal sig).home = 0) ∨ p.dst + 1 = (s.signal sig).home)) :
    s.sigArrive p op =
      ((s.arrived p).send { p with dst := if p.dst = hubN then (s.signal sig).home - 1 else hubN }).loadTables := by
  have hopen : ¬ (s.goodCell p.dst = true ∧ (!s.cellOpen p.dst) = true) := by
    rintro ⟨h1, h2⟩
    simp [ho h1] at h2
  unfold State.sigArrive
  rw [hb]
  simp only [Nat.mod_eq_of_lt hsig, hn, hopen, ne_eq, not_true_eq_false, Bool.not_true, Bool.false_eq_true, or_self, if_false,
    s.arrive_met p _ ha, hh]
  split <;> rfl

/-- A MSG packet that may arrive at an open cell, by its owner and its queue (R269 to R271). -/
theorem exec_msg_at {s : State} {p : Packet} {csig peerDev : Nat} {credited peer : Bool} {body : List Byte} (hf : s.fatal = false)
    (ho : s.cellOpen p.dst = true) (ha : s.mayArrive p = true) (hb : p.body = .msg csig credited peerDev peer body) :
    exec (.msg p) s = .next (State.loadTables (
      if ((s.arrived p).cell p.dst).owner = 0 ∨ ((s.arrived p).cell p.dst).owner = fenceTag then (s.arrived p).msgNak p .queueFull
      else match (if p.tenant = 0 ∨ p.tenant = ((s.arrived p).cell p.dst).owner then ((s.arrived p).cell p.dst).msg else none) with
        | none =>
          ((s.arrived p).record .msgRefused { noRec with node := p.dst, unit := 5, tenant := p.tenant, idx0 := p.src
                                                         extra1 := p.cls.ctorIdx }).msgNak p .access
        | some m =>
          if credited then ((s.arrived p).msgAccept p.dst m p csig true peerDev peer body).msgTaken p
          else if (m.inbox.filter (fun e => !e.2.2)).length + (s.arrived p).reserved p.dst < 16 then
            ((s.arrived p).msgAccept p.dst m p csig false peerDev peer body).msgTaken p
          else (s.arrived p).msgNak p .queueFull)) := by
  refine congrArg Host.Outcome.next ((if_neg (by simp [hf])).trans ?_)
  rw [hb]
  exact (if_neg (by simp [ho])).trans (s.arrive_met p _ ha)

/-- Settles O26: what is refused, what goes on, and what a queue or an outbox takes. -/
theorem signalRefusalsAndMessages : Obligations.SignalRefusalsAndMessages := by
  unfold Obligations.SignalRefusalsAndMessages
  refine ⟨?sig, ?msg, ?send⟩
  case sig =>
    intro s p op sig v iss hf hn ho ha hb hsig
    refine ⟨?_, ?_, ?_⟩
    · rintro hh h0 hne t job rfl rfl
      refine (exec_sig op hf).trans ?_
      rw [State.sigArrive_home hn ho ha hb hsig hh, State.sigOp_refused h0 (show p.tenant ≠ (s.arrived p).sigTenant sig from hne)]
      rfl
    · intro hd hh0 hh
      refine (exec_sig op hf).trans ?_
      rw [State.sigArrive_away hn ho ha hb hsig (by rintro (⟨-, h⟩ | h) <;> contradiction), if_pos hd]
    · intro hd hh
      refine (exec_sig op hf).trans ?_
      rw [State.sigArrive_away hn ho ha hb hsig (by rintro (⟨h, -⟩ | h) <;> contradiction), if_neg hd]
  case msg =>
    rintro s t p csig peerDev credited peer body hf ho ha hb rfl
    simp only [exec_msg_at hf ho ha hb]
    refine ⟨?_, ?_, ?_⟩
    · intro hown
      exact congrArg (fun u => Host.Outcome.next (State.loadTables u)) (if_pos hown)
    · intro h0 hfence hno
      have hnone : (if p.tenant = 0 ∨ p.tenant = ((s.arrived p).cell p.dst).owner then ((s.arrived p).cell p.dst).msg else none) = none := by
        rcases hno with ⟨h1, h2⟩ | h
        · simp [h1, h2]
        · simp [h]
      simp only [h0, hfence, or_self, if_false, hnone]
    · intro m h0 hfence hten hm
      simp only [h0, hfence, or_self, if_false, hten, if_true, hm]
      refine ⟨?_, ?_⟩
      · rintro (rfl | hroom)
        · rfl
        · cases credited
          · simp only [hroom, Bool.false_eq_true, if_false, if_true]
          · rfl
      · rintro rfl hfull
        simp only [Nat.not_lt.mpr hfull, Bool.false_eq_true, if_false]
  case send =>
    rintro s cell a dst credited c m hf ho rfl hm hdue hst rfl rfl rfl
    have hguard : (decide (m.due = 0) || m.stands || !s.cellOpen cell) = false := by simp [hdue, hst, ho]
    refine ⟨?_, ?_⟩
    · intro hbad
      refine congrArg Host.Outcome.next ((if_neg (by simp [hf])).trans ?_)
      simp only [hm, hguard, Bool.false_eq_true, if_false]
      refine if_pos ?_
      rcases hbad with h | h | ⟨h1, h2⟩
      · simp [h]
      · simp [h]
      · simp [h1, h2]
    · rintro hgood hown t rfl
      refine ⟨?_, ?_⟩
      · rintro e p u hc he hsent rfl rfl
        refine congrArg Host.Outcome.next ((if_neg (by simp [hf])).trans ?_)
        simp only [hm, hguard, Bool.false_eq_true, if_false, hgood, hown, he, hc, hsent, Bool.not_true, bne_self_eq_false, Bool.or_self,
          Bool.or_true, Option.isNone_some, Bool.and_false, decide_true, if_true]
      · rintro p u hc rfl rfl
        refine congrArg Host.Outcome.next ((if_neg (by simp [hf])).trans ?_)
        simp only [hm, hguard, Bool.false_eq_true, if_false, hgood, hown, hc, Bool.not_true, bne_self_eq_false, Bool.or_self,
          Bool.false_and, Bool.not_false, Bool.true_or]
        cases m.creditFor (bits ((s.cell cell).mem.readLe (m.outboxBase + 32 * (m.nS % 16)) 4) 11 0) <;> rfl

end Sys2Proof.Machine
end

section
/-!
O27: loads admitted and galleries unloaded (R286, R287, R291, R298).
-/
namespace Sys2Proof.Machine
open Sys2Proof

/-- A load written at a place that is taken reads as written. -/
theorem State.load_setLoad_same {s : State} {i : Nat} {l : Load} (m : Load) (h : s.load? i = some l) : (s.setLoad i m).load? i = some m := by
  obtain ⟨hi, -⟩ := List.getElem?_eq_some_iff.mp (show s.loads[i]? = some l from h)
  exact List.getElem?_set_self hi

/-- Writing a place twice keeps the later value. -/
theorem State.setLoad_setLoad (s : State) (i : Nat) (l m : Load) : (s.setLoad i l).setLoad i m = s.setLoad i m := by
  unfold State.setLoad
  simp only [List.set_set]

/-- The load put behind those at the loader is at the last place. -/
theorem State.load_append (s : State) (l : Load) : ({ s with loads := s.loads ++ [l] } : State).load? s.loads.length = some l :=
  List.getElem?_concat_length

/-- Writing cells one after another changes no load and no gallery. -/
theorem State.foldl_setCell_tables (f : State → Nat → Cell) (l : List Nat) (s : State) :
    (l.foldl (fun (t : State) n => t.setCell n (f t n)) s).loads = s.loads ∧ (l.foldl (fun (t : State) n => t.setCell n (f t n)) s).gals = s.gals :=
  List.foldlRecOn (motive := fun (t : State) => t.loads = s.loads ∧ t.gals = s.gals) l _ ⟨rfl, rfl⟩ (fun _ ht _ _ => ht)

/-- What the admission of a FULL load leaves of `t`: the load `n` at place `i`, its gallery `g` entered under number `k`, the cells of
its rectangle fenced (R287, R291). -/
def State.entersGallery (t : State) (i k : Nat) (n : Load) (g : Gallery) : State :=
  let u := t.setLoad i n
  ((u.galCells g).foldl (fun s c => s.setCell c { s.cell c with fenced := true, owner := 0 })
    ((u.ungate g.x0 g.y0 g.x1 g.y1).setGallery k (some g))).setLoad i { n with fenced := true }

theorem State.entersGallery_reads {t : State} {i k : Nat} {l n : Load} {g : Gallery} (hl : t.load? i = some l) :
    (t.entersGallery i k n g).gallery? k = some g ∧ (t.entersGallery i k n g).load? i = some { n with fenced := true } := by
  unfold State.entersGallery
  extract_lets u
  generalize hw : (u.ungate g.x0 g.y0 g.x1 g.y1).setGallery k (some g) = w
  obtain ⟨hloads, hgals⟩ := State.foldl_setCell_tables (fun s c => { s.cell c with fenced := true, owner := 0 }) (u.galCells g) w
  have hwi : w.loads[i]? = some n := hw ▸ State.load_setLoad_same n hl
  have hwk : Tab.get none w.gals k = some g := hw ▸ Tab.get_put_of_ne (Option.some_ne_none g) _ _
  generalize List.foldl (fun (s : State) c => s.setCell c { s.cell c with fenced := true, owner := 0 }) w (u.galCells g) = x at hloads hgals ⊢
  refine ⟨?_, State.load_setLoad_same _ (l := n) ?_⟩
  · show Tab.get none x.gals k = some g
    rw [hgals, hwk]
  · show x.loads[i]? = some n
    rw [hloads, hwi]

/-- The attempt at admission of a load that may begin and whose header is there: its four outcomes (R287, R291). -/
theorem State.tryAdmit_at {s t : State} {i : Nat} {h : HostIn} {l m : Load} {hdr : List Byte} (hl : s.load? i = some l)
    (hst : l.started = false) (hun : l.unload = false) (hbeh : s.behind i l = false) (hslot : s.loadSlot = true)
    (hrd : s.streamRead l h 0 64 = .ok hdr) (hm : m = { l with header := hdr, full := hKind hdr == 1 }) (ht : t = s.setLoad i m) :
    s.tryAdmit i h = match t.admits m hdr with
      | .wait => t
      | .refuse r => t.refuseLoad i r 0 0xFFFF 0
      | .quota d => t.abortLoad i .refusedQuota d
      | .ok =>
        let n := { m with started := true, lastGc := t.gc, pair := t.freePair, key := if hEnc hdr = 1 then (t.streamKey m).getD [] else [] }
        let u := t.setLoad i n
        if l.txOnly then u
        else if m.full then
          t.entersGallery i l.gallery n { x0 := hX0 hdr, y0 := hY0 hdr, x1 := hX1 hdr, y1 := hY1 hdr, tenant := l.tenant, loading := true
                                          spill := 2 * 2 ^ 20 * spillPages hdr }
        else u := by
  subst hm ht
  unfold State.tryAdmit
  simp only [hl, hst, hun, hbeh, hslot, hrd, Bool.or_false, Bool.not_true, Bool.false_eq_true, if_false]
  generalize (s.setLoad i { l with header := hdr, full := hKind hdr == 1 }).admits { l with header := hdr, full := hKind hdr == 1 } hdr = a
  cases a <;> rfl

/-- A FULL load that is admitted has its gallery number and rectangle, and its region fenced (R287, R291). -/
theorem State.tryAdmit_full {s t : State} {i : Nat} {h : HostIn} {l m : Load} {hdr : List Byte} (hl : s.load? i = some l)
    (hst : l.started = false) (hun : l.unload = false) (hbeh : s.behind i l = false) (hslot : s.loadSlot = true)
    (hrd : s.streamRead l h 0 64 = .ok hdr) (hm : m = { l with header := hdr, full := hKind hdr == 1 }) (ht : t = s.setLoad i m)
    (hok : t.admits m hdr = .ok) (hfull : m.full = true) (hrx : l.txOnly = false) :
    (s.tryAdmit i h).gallery? l.gallery = some { x0 := hX0 hdr, y0 := hY0 hdr, x1 := hX1 hdr, y1 := hY1 hdr, tenant := l.tenant, loading := true,
                                                 spill := 2 * 2 ^ 20 * spillPages hdr }
    ∧ (s.tryAdmit i h).load? i = some { m with started := true, lastGc := s.gc, pair := t.freePair, fenced := true,
                                               key := if hEnc hdr = 1 then (t.streamKey m).getD [] else [] } := by
  have hgc : t.gc = s.gc := by rw [ht]; rfl
  have hlt : t.load? i = some m := ht ▸ State.load_setLoad_same m hl
  rw [State.tryAdmit_at hl hst hun hbeh hslot hrd hm ht, hok]
  dsimp only
  rw [if_neg (Bool.eq_false_iff.mp hrx), if_pos hfull, hgc]
  exact State.entersGallery_reads hlt

/-- Of the values of an option function below a bound the search finds the first. -/
theorem findSome?_range_first {α : Type} {f : Nat → Option α} {i n : Nat} {a : α} (hi : i < n) (hlt : ∀ j, j < i → f j = none)
    (ha : f i = some a) : (List.range n).findSome? f = some a := by
  induction n with
  | zero => omega
  | succ n ih =>
    rw [List.range_succ, List.findSome?_append]
    by_cases hin : i < n
    · rw [ih hin]
      rfl
    · obtain rfl : i = n := by omega
      rw [List.findSome?_eq_none_iff.mpr (fun j hj => hlt j (List.mem_range.mp hj))]
      simp [ha]

/-- CFG_UNLOAD with no unload of its ring to go on with: the ring's next entry takes its place at the loader. -/
theorem exec_cfgUnload_entry {s : State} {fn k : Nat} {c : Cmd} (he : s.entryAt fn k 4 c) (hr : s.unloadRing fn k = none) :
    exec (.cfgUnload fn k) s = .next (
      (State.unloadStep { s.running c with loads := s.loads ++ [{ cmd := some c.id, unload := true, tenant := fn, gallery := c.w 8 }] }
        s.loads.length).getD
      { s.running c with loads := s.loads ++ [{ cmd := some c.id, unload := true, tenant := fn, gallery := c.w 8 }] }) := by
  have hf := he.1
  have hk := he.2.1
  refine congrArg Host.Outcome.next ((if_neg (by simp [hf])).trans ?_)
  rw [Nat.mod_eq_of_lt hk, hr]
  refine (State.execute_at _ he).trans ?_
  dsimp only
  rw [List.length_append, List.length_singleton, Nat.add_sub_cancel]
  rfl

/-- Settles O27: the place at the loader, the outcomes of an attempt at admission, and the steps of an unload. -/
theorem loadsAdmittedAndUnloaded : Obligations.LoadsAdmittedAndUnloaded := by
  unfold Obligations.LoadsAdmittedAndUnloaded
  refine ⟨?load, ?attempt, ?unload, ?remove⟩
  case load =>
    rintro s t u fn k h c bs w he rfl hfn h7 h18 h65 htx h4 h5 hz hsrc1 hsrc2 hhold rfl
    have hf := he.1.1
    have hk := he.1.2.1
    refine congrArg Host.Outcome.next ((if_neg (by simp [hf])).trans ?_)
    rw [Nat.mod_eq_of_lt hk]
    refine (State.executePay_at _ he (by decide)).trans ?_
    dsimp only at *
    refine (if_neg ?_).trans ((if_neg ?_).trans rfl)
    · rintro ⟨h0, hb⟩
      rcases hfn with h | ⟨h1, h2⟩
      · exact h h0
      · rw [h1, h2] at hb
        exact absurd hb (by decide)
    · have hall : (List.range 10).all (fun i => (words bs).getD (6 + i) 0 == 0) = true :=
        List.all_eq_true.mpr fun i hi => by simpa using hz i (List.mem_range.mp hi)
      have h17 : (!bit ((words bs).getD 0 0) 17 || bit ((words bs).getD 0 0) 16) = true := by
        cases hb : bit ((words bs).getD 0 0) 17
        · rfl
        · rw [htx hb]
          rfl
      have hs1 : (bits ((words bs).getD 0 0) 6 5 != 1 || decide ((words bs).getD 2 0 < 2 ^ 16)) = true := by
        by_cases hb : bits ((words bs).getD 0 0) 6 5 = 1
        · rw [decide_eq_true (hsrc1 hb), Bool.or_true]
        · rw [bne_iff_ne.mpr hb, Bool.true_or]
      have hs2 : (bits ((words bs).getD 0 0) 6 5 != 2 || ((words bs).getD 1 0 + 2 ^ 32 * (words bs).getD 2 0 == 0 && (words bs).getD 3 0 == 0)) = true := by
        by_cases hb : bits ((words bs).getD 0 0) 6 5 = 2
        · rw [(hsrc2 hb).1, (hsrc2 hb).2]
          exact Bool.or_true _
        · rw [bne_iff_ne.mpr hb, Bool.true_or]
      have hh : (!bit ((words bs).getD 0 0) 16 || (decide (1 ≤ (words bs).getD 5 0) && decide ((words bs).getD 5 0 ≤ 60000))) = true := by
        cases hb : bit ((words bs).getD 0 0) 16
        · rfl
        · rw [decide_eq_true (hhold hb).1, decide_eq_true (hhold hb).2]
          rfl
      have h3 : (bits ((words bs).getD 0 0) 6 5 != 3) = true := bne_iff_ne.mpr h65
      simp only [h7, h18, h3, h17, h4, h5, hall, hs1, hs2, hh, beq_self_eq_true, Bool.and_self, Bool.not_true, Bool.false_eq_true,
        not_false_eq_true]
  case attempt =>
    rintro s t i h l m hdr hl hst hun hbeh hslot hrd hm ht
    have hgc : t.gc = s.gc := by rw [ht]; rfl
    have hat := State.tryAdmit_at hl hst hun hbeh hslot hrd hm ht
    refine ⟨?_, ?_, ?_, ?_, ?_⟩
    · exact State.tryAdmit_full hl hst hun hbeh hslot hrd hm ht
    · intro hok hpart
      rw [hat, hok]
      dsimp only
      rw [hgc]
      rcases hpart with hp | hp
      · rw [hp]
        exact ite_self _
      · exact if_pos hp
    · intro r hr
      rw [hat, hr]
    · intro d hd
      rw [hat, hd]
    · intro hw
      rw [hat, hw]
  case unload =>
    rintro s t fn k n c l he hr rfl rfl rfl
    rw [exec_cfgUnload_entry he hr]
    have hl := State.load_append (s.running c) { cmd := some c.id, unload := true, tenant := fn, gallery := c.w 8 }
    replace hl : State.load? { s.running c with loads := s.loads ++ [{ cmd := some c.id, unload := true, tenant := fn, gallery := c.w 8 }] }
      s.loads.length = some { cmd := some c.id, unload := true, tenant := fn, gallery := c.w 8 } := hl
    generalize ({ s.running c with loads := s.loads ++ [{ cmd := some c.id, unload := true, tenant := fn, gallery := c.w 8 }] } : State) = t
      at hl ⊢
    refine ⟨?_, ?_, ?_⟩
    · intro hbeh
      simp only [State.unloadStep, hl, hbeh, Bool.or_true, if_true, Option.getD_none]
    · intro hbeh hno
      simp only [State.unloadStep, hl, hbeh, hno, Bool.not_true, Bool.or_self, Bool.false_eq_true, if_false, Option.getD_some]
    · intro g hbeh hg
      refine ⟨?_, ?_, ?_⟩
      · intro h0 hten
        simp only [State.unloadStep, hl, hbeh, hg, h0, hten, ne_eq, not_false_eq_true, and_self, Bool.not_true, Bool.or_self, Bool.false_eq_true,
          if_false, if_true, Option.getD_some]
      · intro hten hbusy
        have hown : ¬ (fn ≠ 0 ∧ g.tenant ≠ fn) := fun h => hten.elim h.1 h.2
        simp only [State.unloadStep, hl, hbeh, hg, hown, hbusy, Bool.not_true, Bool.or_self, Bool.false_eq_true,
          if_false, if_true, Option.getD_none]
      · intro hten hbusy
        have hown : ¬ (fn ≠ 0 ∧ g.tenant ≠ fn) := fun h => hten.elim h.1 h.2
        simp only [State.unloadStep, hl, hbeh, hg, hown, hbusy, Bool.not_true, Bool.not_false, Bool.or_self, Bool.false_eq_true,
          if_false, if_true, Option.getD_some]
  case remove =>
    rintro s t fn k i c g l hf hk hl hun hcmd hfind rfl rfl hfirst hbeh hg hten hbusy hst hjobs rfl
    have hown : ¬ (l.tenant ≠ 0 ∧ g.tenant ≠ l.tenant) := fun h => hten.elim h.1 h.2
    have hstep : s.unloadStep i =
        some ((((s.removeGallery l.gallery g).traceEv 7 g.tenant 0 [l.gallery, 0]).dropLoad i).loadCompletes l .ok 0) := by
      simp only [State.unloadStep, hl, hun, hbeh, hg, hown, hbusy, hst, hjobs, ne_eq, not_true_eq_false, Bool.not_true, Bool.or_self,
        Bool.false_eq_true, if_false]
    obtain ⟨hi, -⟩ := List.getElem?_eq_some_iff.mp (show s.loads[i]? = some l from hl)
    have hring : s.unloadRing c.fn c.ring =
        some ((((s.removeGallery l.gallery g).traceEv 7 g.tenant 0 [l.gallery, 0]).dropLoad i).loadCompletes l .ok 0) := by
      refine findSome?_range_first hi ?_ ?_
      · intro j hj
        cases hlj : s.load? j with
        | none => rfl
        | some m => simp only [hfirst j m hj hlj, Bool.false_and, Bool.false_eq_true, if_false]
      · simp only [hl, hun, hcmd, Option.bind_some, hfind, beq_self_eq_true, Bool.and_self, if_true, hstep]
    refine congrArg Host.Outcome.next ((if_neg (by simp [hf])).trans ?_)
    rw [Nat.mod_eq_of_lt hk, hring]

end Sys2Proof.Machine
end

section
/-!
O28: segments applied, the fence of a region, and the configuration committed (R236, R278, R279, R288, R289, R293, R296).
-/
namespace Sys2Proof.Machine
open Sys2Proof

/-! ### Cells written one after another -/

/-- What every step of a fold keeps, and each of them gives its own element, holds of all its elements afterwards. -/
theorem List.forall_mem_foldl {σ α : Type} {f : σ → α → σ} {I : σ → Prop} {P : σ → α → Prop} (hI : ∀ s a, I s → I (f s a))
    (hkeep : ∀ s a b, I s → P s b → P (f s a) b) (hown : ∀ s a, I s → P (f s a) a) (l : List α) {s : σ} (hs : I s) :
    ∀ a ∈ l, P (l.foldl f s) a := by
  have hall (b : α) : ∀ (l : List α) (s : σ), I s → P s b → P (l.foldl f s) b := by
    intro l
    induction l with
    | nil => exact fun s _ h => h
    | cons a l ih => exact fun s hs h => ih _ (hI s a hs) (hkeep s a b hs h)
  induction l generalizing s with
  | nil => simp
  | cons a l ih =>
    rintro b (_ | ⟨_, hb⟩)
    · exact hall a l _ (hI s a hs) (hown s a hs)
    · exact ih (hI s a hs) b hb

/-- A fold of steps that keep a field leaves it. -/
theorem List.foldl_keeps {σ α β : Type} {f : σ → α → σ} (g : σ → β) (hf : ∀ s a, g (f s a) = g s) (l : List α) (s : σ) :
    g (l.foldl f s) = g s :=
  List.foldlRecOn (motive := fun t => g t = g s) l f rfl (fun _ ht a _ => (hf _ a).trans ht)

/-- A cell under the fence's owner tag (R293). -/
def State.underFence (s : State) (n : Nat) : Prop := (s.cell n).owner = fenceTag ∧ (s.cell n).fenced = true

/-- A cell that is fenced is not the unlisted one, so it reads as written. -/
theorem State.cell_setCell_fenced (s : State) (n : Nat) {c : Cell} (hc : c.fenced = true) : (s.setCell n c).cell n = c :=
  Tab.get_put_of_ne (by rintro rfl; exact absurd hc (by decide)) s.cells n

/-- Writing a cell keeps the cells under the fence, where the cell written keeps its owner tag and its fence. -/
theorem State.underFence.setCell {s : State} {n m : Nat} {c : Cell} (h : s.underFence n) (ho : c.owner = (s.cell m).owner)
    (hf : c.fenced = (s.cell m).fenced) : (s.setCell m c).underFence n := by
  obtain ⟨hown, hfen⟩ := h
  by_cases hnm : n = m
  · subst hnm
    unfold State.underFence
    rw [State.cell_setCell_fenced s n (hf.trans hfen)]
    exact ⟨ho.trans hown, hf.trans hfen⟩
  · unfold State.underFence
    rw [s.cell_setCell_other m n c hnm]
    exact ⟨hown, hfen⟩

/-- Moving a cell's signals to Hub N writes the signals and that cell's list of them (R263). -/
theorem State.homeToHub_eq (s : State) (m : Nat) :
    ∃ g, s.homeToHub m = State.setCell { s with sigs := g } m { s.cell m with homed := [] } := by
  have hfold (l : List Nat) : ∃ g, l.foldl (fun (t : State) n => t.setSignal n { t.signal n with home := 0 }) s = { s with sigs := g } := by
    refine List.foldlRecOn (motive := fun (t : State) => ∃ g, t = { s with sigs := g }) l _ ⟨s.sigs, rfl⟩ ?_
    rintro _ ⟨g, rfl⟩ n -
    exact ⟨_, rfl⟩
  obtain ⟨g, hg⟩ := hfold (s.cell m).homed
  refine ⟨g, ?_⟩
  unfold State.homeToHub
  dsimp only at hg ⊢
  rw [hg]
  rfl

theorem State.underFence.homeToHub {s : State} {n m : Nat} (h : s.underFence n) : (s.homeToHub m).underFence n := by
  obtain ⟨g, hg⟩ := s.homeToHub_eq m
  rw [hg]
  exact State.underFence.setCell (s := { s with sigs := g }) h rfl rfl

theorem State.homeToHub_loads (s : State) (m : Nat) : (s.homeToHub m).loads = s.loads := by
  obtain ⟨g, hg⟩ := s.homeToHub_eq m
  rw [hg]
  rfl

@[simp] theorem State.record_loads (s : State) (k : Kind) (r : FaultRec) (b : Bool) : (s.record k r b).loads = s.loads := by
  obtain ⟨l, ao, g, h, e⟩ := s.record_eq k r b
  rw [e]

/-- A cell goes under the fence: its signals move to Hub N and its units go to reset (R293). -/
def State.fenceCell (s : State) (n : Nat) : State :=
  (s.homeToHub n).setCell n { ((s.homeToHub n).cell n).unitReset with
    fenced := true, ownerSaved := ((s.homeToHub n).cell n).owner, owner := fenceTag }

/-- Every cell of the list is under the fence once each has been put under it. -/
theorem State.underFence_foldl_fenceCell (l : List Nat) (s : State) : ∀ n ∈ l, (l.foldl State.fenceCell s).underFence n := by
  have hown (s : State) (n : Nat) : (s.fenceCell n).underFence n := by
    unfold State.fenceCell State.underFence
    rw [State.cell_setCell_fenced _ n rfl]
    exact ⟨rfl, rfl⟩
  refine List.forall_mem_foldl (I := fun _ => True) (fun _ _ h => h) ?_ (fun s n _ => hown s n) l trivial
  intro s m n _ h
  by_cases hnm : n = m
  · exact hnm ▸ hown s n
  · unfold State.fenceCell State.underFence
    rw [State.cell_setCell_other _ m n _ hnm]
    exact h.homeToHub

theorem State.fenceCell_loads (s : State) (n : Nat) : (s.fenceCell n).loads = s.loads := s.homeToHub_loads n

/-- The fence of a load's region drops (R296). -/
def State.dropsFence (s : State) (l : Load) : State :=
  (s.loadCells l).foldl (fun (s : State) n => s.setCell n { s.cell n with fenced := false }) s

/-- The credits of a cell that were withheld for a fence which has dropped flow again (R296). -/
def State.creditsFlow (s : State) (n : Nat) : State :=
  s.setCell n ((s.cell n).chans.foldl (fun c x =>
    let still := match s.farEnd n x.1 with | some f => (s.cell f.1).fenced | none => false
    if x.2.withheld && !still then c.setChan x.1 { x.2 with withheld := false } else c) (s.cell n))

/-- A cell written without a fence leaves the cells without one. -/
theorem State.unfenced_setCell {s : State} {m n : Nat} {c : Cell} (hwf : Tab.wf Cell.reset s.cells = true) (h : (s.cell n).fenced = false)
    (hc : (s.cell m).fenced = false → c.fenced = false) : ((s.setCell m c).cell n).fenced = false := by
  by_cases hnm : n = m
  · subst hnm
    rw [s.cell_setCell_same n c hwf]
    exact hc h
  · rw [s.cell_setCell_other m n c hnm]
    exact h

theorem State.wf_dropsFence {s : State} {l : Load} (hwf : Tab.wf Cell.reset s.cells = true) : Tab.wf Cell.reset (s.dropsFence l).cells = true :=
  List.foldlRecOn (motive := fun (t : State) => Tab.wf Cell.reset t.cells = true) _ _ hwf (fun _ ht _ _ => Tab.wf_put _ ht _ _)

theorem State.unfenced_dropsFence {s : State} {l : Load} (hwf : Tab.wf Cell.reset s.cells = true) :
    ∀ n ∈ s.loadCells l, ((s.dropsFence l).cell n).fenced = false := by
  refine List.forall_mem_foldl (I := fun (t : State) => Tab.wf Cell.reset t.cells = true) (P := fun (t : State) n => (t.cell n).fenced = false)
    (fun t m ht => Tab.wf_put _ ht _ _) (fun t m n ht h => State.unfenced_setCell ht h (fun _ => rfl)) (fun t n ht => ?_) _ hwf
  rw [t.cell_setCell_same n _ ht]

/-- Credits that flow again change no fence. -/
theorem State.unfenced_foldl_creditsFlow (cs : List Nat) {s : State} {n : Nat} (hwf : Tab.wf Cell.reset s.cells = true)
    (h : (s.cell n).fenced = false) : ((cs.foldl State.creditsFlow s).cell n).fenced = false := by
  have hboth := List.foldlRecOn (motive := fun (t : State) => Tab.wf Cell.reset t.cells = true ∧ (t.cell n).fenced = false) cs
    State.creditsFlow ⟨hwf, h⟩ (fun t ht m _ => ⟨Tab.wf_put _ ht.1 _ _, State.unfenced_setCell ht.1 ht.2 (fun hm => ?_)⟩)
  · exact hboth.2
  · refine (List.foldl_keeps Cell.fenced (fun c x => ?_) _ _).trans hm
    extract_lets still
    split <;> rfl

/-- Which cells are good, the writing of cells does not change. -/
theorem State.galCells_congr {s t : State} (h : t.badCells = s.badCells) (g : Gallery) : t.galCells g = s.galCells g := by
  unfold State.galCells State.goodCell
  rw [h]

theorem State.badCells_foldl_creditsFlow (cs : List Nat) (s : State) : (cs.foldl State.creditsFlow s).badCells = s.badCells :=
  List.foldl_keeps State.badCells (f := State.creditsFlow) (fun _ _ => rfl) cs s

theorem State.badCells_dropsFence (s : State) (l : Load) : (s.dropsFence l).badCells = s.badCells :=
  List.foldl_keeps State.badCells (f := fun (s : State) n => s.setCell n { s.cell n with fenced := false }) (fun _ _ => rfl) _ s

/-! ### Pages taken -/

theorem State.spend_cells (s : State) (t st n : Nat) : (s.spend t st n).cells = s.cells := by
  unfold State.spend
  extract_lets have_
  split <;> rfl

theorem State.flushPage_cells (s : State) (p : Nat) : (s.flushPage p).cells = s.cells := by
  refine (List.foldl_keeps State.cells (f := State.writeBack) (fun t c => ?_) _ _)
  unfold State.writeBack
  split
  · rfl
  · exact State.spend_cells _ _ _ _

theorem State.takePage_cells {s t : State} {place p : Nat} (h : s.takePage place = some (p, t)) : t.cells = s.cells := by
  unfold State.takePage at h
  split at h
  · obtain ⟨d, -, hd⟩ := List.exists_of_findSome?_eq_some h
    obtain ⟨q, -, hq⟩ := Option.map_eq_some_iff.mp hd
    rw [← (Prod.mk.inj hq).2]
  · obtain ⟨q, -, hq⟩ := Option.map_eq_some_iff.mp h
    rw [← (Prod.mk.inj hq).2]

/-- Pages taken for the device's own use change no cell (R315). -/
theorem State.takePages_cells (tag place : Nat) : ∀ (n : Nat) {s t : State} {ps : List Nat}, s.takePages tag place n = some (ps, t) →
    t.cells = s.cells
  | 0, s, t, ps, h => by
    rw [← (Prod.mk.inj (Option.some.inj h)).2]
  | n + 1, s, t, ps, h => by
    unfold State.takePages at h
    split at h
    · exact absurd h (by simp)
    · next p u hp =>
      split at h
      · next qs w hw =>
        rw [← (Prod.mk.inj (Option.some.inj h)).2, State.takePages_cells tag place n hw, ← State.takePage_cells hp]
        exact u.flushPage_cells p
      · exact absurd h (by simp)

/-! ### The commands -/

/-- A segment of a fenced load that is read, up to what its header and its tag say (R278, R279). -/
theorem exec_segmentApply_at {s t : State} {i : Nat} {h : HostIn} {l : Load} {sh : List Byte} (hf : s.fatal = false)
    (hl : s.load? i = some l) (ht : t = s.hostStores l.tenant h) (hst : l.started = true) (hend : l.holdEnd = none)
    (hun : l.unload = false) (hrx : l.txOnly = false) (hres : l.result = none) (hfen : l.fenced = true) (hcom : l.committed = false)
    (hgot : l.got < hSegs l.header) (hsag : t.sag < 3) (harr : t.arrayHeld = false) (hrd : t.streamRead l h l.off 32 = .ok sh) :
    exec (.segmentApply i h) s = .next (match segmentFails l sh with
      | some r => t.refuseLoad i r l.plain 0xFFFF 0
      | none => match t.streamRead l h (l.off + 32) (leAt sh 8 4) with
        | .missing => t
        | .ok payload => (match openSegment l sh payload with
          | none => t.refuseLoad i rAuth l.plain 0xFFFF 0
          | some (pt, k) =>
            let r := (t.streamCost l (32 + leAt sh 8 4)).applySections l.plain (leAt sh 8 4 / 64 + 1) 0 pt l
            match r.2.2 with
            | some (c, off, cell, idx) => (r.2.1.setLoad i r.1).refuseLoad i c off cell idx
            | none =>
              let v := r.2.1.mcastSegment l (sh ++ payload)
              let m := { r.1 with
                got := l.got + 1, off := l.off + 32 + leAt sh 8 4, plain := l.plain + leAt sh 8 4, key := if k = [] then l.key else k
                holdEnd := if l.tx && decide (l.got + 1 = hSegs l.header) then some (v.gc + 1000000 * l.holdMs) else none }
              if l.got + 1 = hSegs l.header ∧ !m.ended then (v.setLoad i m).refuseLoad i rFormat (l.plain + leAt sh 8 4) 0xFFFF 0
              else v.setLoad i m)
        | r => t.streamFails i l r) := by
  subst ht
  refine congrArg Host.Outcome.next ((if_neg (by simp [hf])).trans ?_)
  simp only [hl, hst, hend, hun, hrx, hres, hfen, hcom, harr, hrd, decide_eq_false (Nat.not_le.mpr hgot), decide_eq_false (Nat.not_le.mpr hsag),
    Bool.not_true, Option.isSome_none, Bool.or_self, Bool.false_eq_true, if_false] <;> rfl

/-- An outbound channel outside the region whose circuit enters it has its credits withheld (R293). -/
def State.withholds (s : State) (e : Nat × Nat) : State :=
  s.setCell e.1 ((s.cell e.1).setChan e.2 { (s.cell e.1).chan e.2 with withheld := true })

theorem State.withholds_loads (s : State) (e : Nat × Nat) : (s.withholds e).loads = s.loads := rfl

theorem State.underFence_foldl_withholds (l : List (Nat × Nat)) {s : State} {n : Nat} (h : s.underFence n) :
    (l.foldl State.withholds s).underFence n :=
  List.foldlRecOn (motive := fun (u : State) => u.underFence n) l State.withholds h (fun _ hu _ _ => hu.setCell rfl rfl)

/-- The outbound channels of a gallery outside the region whose circuit enters it (R293). -/
def State.outsInto (s : State) (region : List Nat) (g : Gallery) : List (Nat × Nat) :=
  (s.outChans (s.galCells g)).filter (fun e =>
    !region.contains e.1 && (match s.farEnd e.1 e.2 with | some f => region.contains f.1 | none => false))

/-- The words left in the region's inbound FIFOs, and those on their way to one, recorded as discarded (R293). -/
def State.recordsDiscarded (s : State) (l : Load) : State :=
  (s.loadCells l).foldl (fun (t : State) n => (List.range 32).foldl (fun (u : State) (ch : Nat) =>
    let k : Nat := ((t.cell n).chan ch).fifo.length
      + (s.links.filter (fun k => s.farEnd (k.word.circuit / 32) (k.word.circuit % 32) == some (n, ch))).length
    if (t.cell n).chanRole ch = 1 ∧ k ≠ 0 then
      u.record .cfgWordsDiscarded { noRec with node := n, unit := 0xA, tenant := l.tenant, gallery := some l.gallery, idx0 := ch, code := k }
    else u) t) s

theorem State.recordsDiscarded_loads (s : State) (l : Load) : (s.recordsDiscarded l).loads = s.loads := by
  refine List.foldl_keeps State.loads (fun u n => List.foldl_keeps State.loads (fun v ch => ?_) _ _) _ _
  dsimp only
  split
  · exact State.record_loads _ _ _ _
  · rfl

/-- PARTIAL_FENCE_FALL of a quiet region: what is discarded is recorded, the cells go under the fence, credits are withheld and words
on their way taken from the links (R293). -/
theorem exec_partialFenceFall_at {s : State} {i : Nat} {l : Load} {g : Gallery} (hf : s.fatal = false) (hl : s.load? i = some l)
    (hg : s.gallery? l.gallery = some g) (hguard : (!l.started || l.full || l.fenced || l.result.isSome || l.txOnly || !g.resident || g.busy
      || s.arrayHeld || !(s.loadCells l).all s.cellIdle) = false) :
    ∃ links : List LinkWord, exec (.partialFenceFall i) s = .next
      (State.setLoad { (s.outsInto (s.loadCells l) g).foldl State.withholds ((s.loadCells l).foldl State.fenceCell (s.recordsDiscarded l)) with
        links := links } i { l with fenced := true }) := by
  refine ⟨State.links ((s.outsInto (s.loadCells l) g).foldl State.withholds
      ((s.loadCells l).foldl State.fenceCell (s.recordsDiscarded l))) |>.filter (fun k =>
    match s.farEnd (k.word.circuit / 32) (k.word.circuit % 32) with | some f => !(s.loadCells l).contains f.1 | none => true),
    congrArg Host.Outcome.next ((if_neg (by simp [hf])).trans ?_)⟩
  rw [hl]
  dsimp only
  rw [hg]
  exact if_neg (Bool.eq_false_iff.mp hguard)

/-- Settles O28: segments by what is read and checked, CFG by its source and owner tag, then the fence and the commit. -/
theorem segmentsAppliedAndCommitted : Obligations.SegmentsAppliedAndCommitted := by
  unfold Obligations.SegmentsAppliedAndCommitted
  refine ⟨?segment, ?cfg, ?fence, ?commit, ?drop⟩
  case segment =>
    intro s t i h l hf hl ht
    refine ⟨?_, ?_, ?_⟩
    · intro hst
      refine congrArg Host.Outcome.next ((if_neg (by simp [hf])).trans ?_)
      simp only [hl, hst, ht, Bool.not_false, if_true]
    · intro hst hend hun hsend
      have hs : (l.txOnly || l.result.isSome) = true := by
        rcases hsend with h | h <;> simp [h]
      refine congrArg Host.Outcome.next ((if_neg (by simp [hf])).trans ?_)
      simp only [hl, hst, hend, hun, ht, hs, Bool.not_true, Option.isSome_none, Bool.or_self, Bool.false_eq_true, if_false, if_true]
    · intro sh hst hend hun hrx hres hfen hcom hgot hsag harr hrd
      have hat := exec_segmentApply_at hf hl ht hst hend hun hrx hres hfen hcom hgot hsag harr hrd
      refine ⟨?_, ?_⟩
      · intro r hr
        rw [hat, hr]
      · rintro n payload hno rfl hpay
        rw [hat, hno]
        dsimp only
        rw [hpay]
        dsimp only
        refine ⟨?_, ?_⟩
        · intro hopen
          rw [hopen]
        · intro pt k m v hopen
          rw [hopen]
          dsimp only
          refine ⟨?_, ?_⟩
          · intro r off cell idx happ
            rw [happ]
          · rintro x happ rfl
            rw [happ]
            dsimp only
            refine ⟨?_, ?_⟩
            · intro hmore
              refine congrArg Host.Outcome.next (if_neg ?_)
              rintro ⟨hlast, hno⟩
              rcases hmore with h | h
              · exact h hlast
              · simp [h] at hno
            · intro hlast hno
              exact congrArg Host.Outcome.next (if_pos ⟨hlast, by simp [hno]⟩)
  case cfg =>
    rintro s t p kind b hf hb hgood hopen ha rfl
    refine ⟨?_, ?_⟩
    · rintro u hcls hadm rfl
      have hacc : ¬ ((p.cls ≠ .loader ∧ p.cls ≠ .slipway) ∨ (!(s.arrived p).ownerAdmits p.dst p) = true) := by
        rintro (⟨h1, h2⟩ | h)
        · exact hcls.elim h1 h2
        · simp [hadm] at h
      refine congrArg Host.Outcome.next ((if_neg (by simp [hf])).trans ?_)
      rw [hb]
      refine (if_neg (by simp [hgood, hopen])).trans ((s.arrive_met p _ ha).trans ?_)
      exact congrArg State.loadTables (if_neg hacc)
    · intro hno
      refine congrArg Host.Outcome.next ((if_neg (by simp [hf])).trans ?_)
      rw [hb]
      refine (if_neg (by simp [hgood, hopen])).trans ((s.arrive_met p _ ha).trans ?_)
      exact congrArg State.loadTables (if_pos (hno.imp id (by simp [·])))
  case fence =>
    intro s i l g hf hwf hl hg hst hfull hfen hres hrx hres' hbusy harr hidle
    have hall : (s.loadCells l).all s.cellIdle = true := List.all_eq_true.mpr hidle
    have hguard : (!l.started || l.full || l.fenced || l.result.isSome || l.txOnly || !g.resident || g.busy || s.arrayHeld
        || !(s.loadCells l).all s.cellIdle) = false := by
      rw [hall, hst, hfull, hfen, hres, hrx, hres', hbusy, harr]
      rfl
    obtain ⟨links, hrun⟩ := exec_partialFenceFall_at hf hl hg hguard
    have hout : ((s.outsInto (s.loadCells l) g).foldl State.withholds
        ((s.loadCells l).foldl State.fenceCell (s.recordsDiscarded l))).loads = s.loads :=
      (List.foldl_keeps State.loads State.withholds_loads _ _).trans ((List.foldl_keeps State.loads State.fenceCell_loads _ _).trans
        (s.recordsDiscarded_loads l))
    have hfence (n : Nat) (hn : n ∈ s.loadCells l) := State.underFence_foldl_withholds (s.outsInto (s.loadCells l) g)
      (State.underFence_foldl_fenceCell (s.loadCells l) (s.recordsDiscarded l) n hn)
    generalize (s.outsInto (s.loadCells l) g).foldl State.withholds ((s.loadCells l).foldl State.fenceCell (s.recordsDiscarded l)) = t
      at hrun hout hfence
    refine ⟨_, hrun, State.load_setLoad_same (l := l) _ ?_, hfence⟩
    show t.loads[i]? = some l
    rw [hout]
    exact hl
  case commit =>
    intro s i l g hf hl hg hend hcom hres hgot harr hmov
    have hmoving : (s.links.any (fun k => (k.word.circuit / 32 ::
        ((s.farEnd (k.word.circuit / 32) (k.word.circuit % 32)).map Prod.fst).toList).any (s.loadCells l).contains)) = false := by
      simp only [List.any_eq_false, List.any_cons, List.contains_iff_mem, Bool.or_eq_true, List.any_eq_true, Option.mem_toList, not_or, not_exists,
        Option.map_eq_some_iff, not_and]
      intro k hk
      refine ⟨fun hn => (hmov k _ hk hn).1 rfl, ?_⟩
      rintro n ⟨f, hf, rfl⟩ hn
      exact (hmov k _ hk hn).2 f hf rfl
    have hguard : (!l.ended || l.committed || l.result.isSome || decide (l.got ≠ hSegs l.header) || s.arrayHeld
        || s.links.any (fun k => (k.word.circuit / 32 ::
          ((s.farEnd (k.word.circuit / 32) (k.word.circuit % 32)).map Prod.fst).toList).any (s.loadCells l).contains)) = false := by
      rw [hmoving, hend, hcom, hres, hgot, harr]
      simp
    refine ⟨?_, ?_⟩
    · intro hok
      refine congrArg Host.Outcome.next ((if_neg (by simp [hf])).trans ?_)
      simp only [hl, hg, hguard, hok, Bool.false_eq_true, if_false]
    · intro r cell idx hbad
      refine congrArg Host.Outcome.next ((if_neg (by simp [hf])).trans ?_)
      simp only [hl, hg, hguard, hbad, Bool.false_eq_true, if_false]
  case drop =>
    intro s v i l g pages hf hwf hl hg hcom hres harr hfl hpages
    have hpend : s.flight.any (fun p => p.cls == .loader && (match p.body with | .cfg .. => true | .wrAck .. => true | _ => false)) = false := by
      refine List.any_eq_false.mpr fun p hp => ?_
      by_cases hc : p.cls = .loader
      · obtain ⟨hcfg, hack⟩ := hfl p hp hc
        cases hb : p.body
        case cfg k b => exact absurd hb (hcfg k b)
        case wrAck st => exact absurd hb (hack st)
        all_goals simp
      · simp [hc]
    have htake : (if l.full then s.takePages l.tenant (4 + cellDie (cellIndex g.x0 g.y0)) (spillPages l.header) else some ([], s))
        = some (pages, v) := by
      rcases hpages with ⟨h, rfl, rfl⟩ | ⟨h, ht⟩
      · simp [h]
      · simp [h, ht]
    have hvwf : Tab.wf Cell.reset v.cells = true := by
      rcases hpages with ⟨-, -, rfl⟩ | ⟨-, ht⟩
      · exact hwf
      · rw [State.takePages_cells _ _ _ ht]
        exact hwf
    refine ⟨((v.dropsFence l).galCells g).foldl State.creditsFlow (v.dropsFence l), fun n hn =>
      State.unfenced_foldl_creditsFlow _ (State.wf_dropsFence hvwf) (State.unfenced_dropsFence hvwf n hn), ?_⟩
    refine congrArg Host.Outcome.next ((if_neg (by simp [hf])).trans ?_)
    have hguard : (!l.committed || l.result.isSome || s.flight.any (fun p => p.cls == .loader
        && (match p.body with | .cfg .. => true | .wrAck .. => true | _ => false)) || s.arrayHeld) = false := by
      rw [hpend, hcom, hres, harr]
      rfl
    have hcells : (((v.dropsFence l).galCells g).foldl State.creditsFlow (v.dropsFence l)).galCells g = v.galCells g :=
      State.galCells_congr ((State.badCells_foldl_creditsFlow _ _).trans (v.badCells_dropsFence l)) g
    rw [hl]
    dsimp only
    rw [hg]
    refine (if_neg (Bool.eq_false_iff.mp hguard)).trans ?_
    rw [htake, ← hcells]
    rfl

end Sys2Proof.Machine
end

section
/-!
O29: multicast bytes and Slipway records of a load (R299, R300, R303 to R305, R454).
-/
namespace Sys2Proof.Machine
open Sys2Proof

/-- What a CFG_MCAST message makes of one load (R300, R454). -/
def Load.takesMcast (l : Load) (m : FMsg) (gc : Nat) : Load :=
  if l.src ≠ 2 ∨ l.group ≠ m.dst ∨ l.mcSrc ≠ bits (m.w 7) 11 0 ∨ !l.reading then l
  else if m.addr = l.buf.length then { l with buf := l.buf ++ m.data, lastGc := gc, gap := false }
  else if l.buf.length < m.addr then { l with gap := true } else l

theorem Load.takesMcast_of_waits {l : Load} {m : FMsg} {gc : Nat} (hsrc : l.src = 2) (hg : l.group = m.dst)
    (hs : l.mcSrc = bits (m.w 7) 11 0) (hr : l.reading = true) : l.takesMcast m gc =
      if m.addr = l.buf.length then { l with buf := l.buf ++ m.data, lastGc := gc, gap := false }
      else if l.buf.length < m.addr then { l with gap := true } else l :=
  if_neg (by simp [hsrc, hg, hs, hr])

/-- A record of the Slipway port's queue is taken: its check, and what is read of it (R303, R304). -/
theorem exec_slipwayRecord_at {s t : State} {n k : Nat} {rest : List Nat} {g : Gallery} {p : Slipway} {l : Load} (hf : s.fatal = false)
    (hg : s.gallery? n = some g) (hp : g.slip = some p) (hq : p.queue = k :: rest) (hres : g.resident = true) (hbusy : g.busy = false)
    (hload : g.loading = false) (hbrk : g.broken = false) (hfree : ∀ x, x ∈ s.loads → x.gallery = n → x.txOnly = false → x.result ≠ none)
    (hslot : s.loadSlot = true) (ht : t = s.setGallery n (some { g with slip := some { p with queue := rest } }))
    (hl : l = { slip := some (p.tbl + 64 * k), tenant := g.tenant, gallery := n, src := 1, keySlot := p.keySlot
                expires := some (s.gc + 1000000 * p.quiesceMs) }) :
    exec (.slipwayRecord n) s = .next (match t.tvaCheck g.tenant (p.tbl + 64 * k) 64 false with
      | .ok =>
        let u := t.tvaTouch g.tenant (p.tbl + 64 * k) 64
        let z := fun i => (words (t.tvaBytes g.tenant (p.tbl + 64 * k) 64)).getD i 0
        if z 0 % 64 ≠ 0 ∨ bits (z 1) 31 16 ≠ 0 ∨ bits (z 3) 31 15 ≠ 0 ∨ bits (z 4) 31 17 ≠ 0 ∨ (List.range 11).any (fun i => z (5 + i) != 0) then
          u.slipDone l (p.tbl + 64 * k) Status.badCommand.code 0
        else State.tryAdmit { u with loads := u.loads ++ [{ l with addr := z 0 + 2 ^ 32 * z 1, length := z 2 }] } u.loads.length ⟨[], false⟩
      | e => (t.tvaFault none g.tenant 0xA e).slipDone l (p.tbl + 64 * k) Status.badCommand.code 0) := by
  subst ht hl
  have hany : s.loads.any (fun l => l.gallery == n && !l.txOnly && l.result.isNone) = false := by
    refine List.any_eq_false.mpr fun x hx h => ?_
    simp only [Bool.and_eq_true, beq_iff_eq, Bool.not_eq_true', Option.isNone_iff_eq_none] at h
    exact hfree x hx h.1.1 h.1.2 h.2
  refine congrArg Host.Outcome.next ((if_neg (by simp [hf])).trans ?_)
  rw [hg]
  dsimp only
  rw [hp]
  dsimp only
  rw [hq]
  exact if_neg (by rw [hres, hbusy, hload, hbrk, hany, hslot]; decide)

/-- Settles O29: bytes of a group, their repair, the repair window of a sender, and the records of the Slipway port. -/
theorem multicastAndSlipwayLoads : Obligations.MulticastAndSlipwayLoads := by
  unfold Obligations.MulticastAndSlipwayLoads
  refine ⟨?bytes, ?fetch, ?window, ?record, ?quiesce⟩
  case bytes =>
    intro s q m hf hup hk hm
    have hex : exec (.cfgMcast q m) s = .next { s with loads := s.loads.map (fun l => l.takesMcast m s.gc) } := by
      refine congrArg Host.Outcome.next ((if_neg (by simp [hf])).trans ?_)
      exact if_neg (by simp [hup, hk, hm])
    refine ⟨_, hex, rfl, List.length_map _, ?_⟩
    intro i l hl
    have hi : (s.loads.map (fun l => l.takesMcast m s.gc))[i]? = some (l.takesMcast m s.gc) := by
      rw [List.getElem?_map, hl, Option.map_some]
    refine ⟨?_, ?_⟩
    · intro hsrc hg hs hr
      rw [hi, Load.takesMcast_of_waits hsrc hg hs hr]
      refine ⟨?_, ?_, ?_⟩
      · intro h
        rw [if_pos h]
      · intro h
        rw [if_neg (Nat.ne_of_gt h), if_pos h]
      · intro h
        rw [if_neg (Nat.ne_of_lt h), if_neg (Nat.lt_asymm h)]
    · intro hno
      rw [hi]
      refine congrArg some (if_pos ?_)
      exact hno.imp_right (Or.imp_right (Or.imp_right (by simp [·])))
  case fetch =>
    rintro s t i want l hf hl hsrc hr hend hlate hwant hne hget hgood rfl
    have h1 : (l.ended && l.result.isNone) = false := by
      rcases hend with h | h
      · rw [h]
        rfl
      · rw [Option.isNone_eq_false_iff.mpr (Option.isSome_iff_ne_none.mpr h), Bool.and_false]
    have h2 : (l.gap || decide (l.lastGc + 1000000 ≤ s.gc)) = true := by
      rcases hlate with h | h
      · rw [h]
        rfl
      · rw [decide_eq_true h, Bool.or_true]
    have h3 : s.fer.gets.any (fun g => g.use == .mcast l.gallery l.buf.length) = false :=
      List.any_eq_false.mpr fun g hg => by simpa using hget g hg
    have h4 : (want == 0) = false := beq_eq_false_iff_ne.mpr hne
    refine congrArg Host.Outcome.next ((if_neg (by simp [hf])).trans ?_)
    simp only [hl, hsrc, hr, h1, h2, h3, hgood, ← hwant, h4, ne_eq, not_true_eq_false, decide_false, Bool.not_true, Bool.or_self,
      Bool.false_eq_true, if_false]
  case window =>
    intro s i e l hf hl he
    refine ⟨?_, ?_, ?_, ?_⟩
    · intro hlt
      refine congrArg Host.Outcome.next ((if_neg (by simp [hf])).trans ?_)
      simp only [hl, he, hlt, if_true]
    · intro hle htx hres
      refine congrArg Host.Outcome.next ((if_neg (by simp [hf])).trans ?_)
      simp only [hl, he, Nat.not_lt.mpr hle, htx, hres, Option.isNone_none, Bool.and_self, if_false, if_true]
    · intro hle htx hres
      refine congrArg Host.Outcome.next ((if_neg (by simp [hf])).trans ?_)
      simp only [hl, he, Nat.not_lt.mpr hle, htx, hres, Bool.false_and, Bool.false_eq_true, if_false]
    · intro hle st d hres hst
      refine congrArg Host.Outcome.next ((if_neg (by simp [hf])).trans ?_)
      simp only [hl, he, Nat.not_lt.mpr hle, hres, Option.isNone_some, Bool.and_false, Bool.false_eq_true, if_false]
      refine congrArg (fun x => (s.dropLoad i).loadCompletes l x d) ?_
      simp only [List.mem_cons, List.not_mem_nil, or_false] at hst
      rcases hst with rfl | rfl | rfl | rfl | rfl | rfl <;> rfl
  case record =>
    rintro s t n k a rest g p l z hf hg hp hq hres hbusy hload hbrk hfree hslot ht rfl hl rfl
    have hat := exec_slipwayRecord_at hf hg hp hq hres hbusy hload hbrk hfree hslot ht hl
    refine ⟨?_, ?_, ?_⟩
    · rintro hok h0 h1 h3 h4 h5 u rfl
      rw [hat, hok]
      refine congrArg Host.Outcome.next (if_neg ?_)
      rintro (h | h | h | h | h)
      · exact h h0
      · exact h h1
      · exact h h3
      · exact h h4
      · obtain ⟨i, hi, hz⟩ := List.any_eq_true.mp h
        exact absurd (h5 i (List.mem_range.mp hi)) (by simpa using hz)
    · intro hok hbad
      rw [hat, hok]
      refine congrArg Host.Outcome.next (if_pos ?_)
      refine hbad.imp_right (Or.imp_right (Or.imp_right (Or.imp_right ?_)))
      rintro ⟨i, hi, hz⟩
      exact List.any_eq_true.mpr ⟨i, List.mem_range.mpr hi, by simpa using hz⟩
    · rintro e he hne
      rw [hat, he]
      cases e
      case ok => exact absurd rfl hne
      all_goals rfl
  case quiesce =>
    intro s i e r l hf hl he hr
    refine ⟨?_, ?_⟩
    · intro hle hfen
      refine congrArg Host.Outcome.next ((if_neg (by simp [hf])).trans ?_)
      simp only [hl, he, hr, Nat.not_lt.mpr hle, hfen, Option.isNone_some, Bool.false_eq_true, or_self, if_false]
    · intro hwait
      refine congrArg Host.Outcome.next ((if_neg (by simp [hf])).trans ?_)
      simp only [hl, he]
      exact if_pos (hwait.imp_right Or.inl)

end Sys2Proof.Machine
end

section
/-!
O30: jobs launched, admitted and cancelled (R308 to R311, R329, R502, R639).
-/
namespace Sys2Proof.Machine
open Sys2Proof

/-! ### JOB_LAUNCH -/

/-- JOB_LAUNCH with a good descriptor whose records are read (R308 to R310). -/
theorem exec_jobLaunch_at {s t u : State} {fn k : Nat} {h : HostIn} {c : Cmd} {bs tb mb : List Byte} {w : Nat → Nat} {tasks : List Task}
    {maps : List (List Nat)} {sigs : List Nat} {gal : Option Nat} {g : Option Gallery} (he : s.entryPayAt fn k 1 128 h c bs t)
    (hw : w = (fun i => (words bs).getD i 0)) (h31 : bits (w 0) 31 25 = 0) (h15 : bits (w 0) 15 7 = 0) (h7 : bits (w 1) 7 6 = 0)
    (h14 : bits (w 1) 31 14 = 0) (hz : ∀ i, i < 10 → w (6 + i) = 0) (htc1 : 1 ≤ bits (w 0) 24 16) (htc2 : bits (w 0) 24 16 ≤ 256)
    (hsc : bits (w 1) 5 0 ≤ 32) (hmc : bits (w 1) 13 8 ≤ 32) (htp : (w 2 + 2 ^ 32 * w 3) % 64 = 0) (hmp : (w 4 + 2 ^ 32 * w 5) % 64 = 0)
    (hsigs : sigs = (List.range (bits (w 1) 5 0)).map (fun i => bits (w (16 + i / 2)) (16 * (i % 2) + 15) (16 * (i % 2))))
    (hlt : ∀ i, i < 32 → bits (w (16 + i / 2)) (16 * (i % 2) + 15) (16 * (i % 2)) < 16384) (hfs : ∀ n, n ∈ sigs → u.fnSignal fn n = true)
    (htb : t.payload c h (w 2 + 2 ^ 32 * w 3) (64 * bits (w 0) 24 16) = .ok tb)
    (hmb : t.payload c h (w 4 + 2 ^ 32 * w 5) (16 * bits (w 1) 13 8) = .ok mb)
    (hu : u = (t.acctPay c (w 2 + 2 ^ 32 * w 3) (64 * bits (w 0) 24 16)).acctPay c (w 4 + 2 ^ 32 * w 5) (16 * bits (w 1) 13 8))
    (htasks : tasks = (List.range (bits (w 0) 24 16)).map (fun i => { words := words ((tb.drop (64 * i)).take 64), readyGc := u.gc }))
    (hmaps : maps = (List.range (bits (w 1) 13 8)).map (fun i => words ((mb.drop (16 * i)).take 16)))
    (hgal : (bit (w 0) 5 = false ∧ gal = none ∧ g = none)
      ∨ (bit (w 0) 5 = true ∧ fn ≠ 0 ∧ gal = some (bits (w 0) 4 0) ∧ ∃ x, g = some x ∧ u.gallery? (bits (w 0) 4 0) = g ∧ x.tenant = fn))
    (hok : ∀ i x, tasks[i]? = some x → x.ok i g = true ∧ u.rangesClear g x = true ∧ (x.phases = 0 ∨ u.feature 10 = true))
    (hmok : ∀ m, m ∈ maps → mapOk m = true) :
    exec (.jobLaunch fn k h) s = .next (
      if (match g with | some g => g.broken | none => false) then
        (u.admitJob c (c.slot.getD 0) { u.newJob c with gallery := gal, noSuspend := bit (w 0) 6, sigs := sigs, tasks := tasks, maps := maps }).stopJob
          (some (c.slot.getD 0)) .memUncorrectable 0
      else u.admitJob c (c.slot.getD 0) { u.newJob c with gallery := gal, noSuspend := bit (w 0) 6, sigs := sigs, tasks := tasks, maps := maps }) := by
  have hf := he.1.1
  have hk := he.1.2.1
  have hz' : (List.range 10).all (fun i => w (6 + i) == 0) = true :=
    List.all_eq_true.mpr fun i hi => by rw [hz i (List.mem_range.mp hi)]; rfl
  have hhalf : ((List.range 32).map (fun i => bits (w (16 + i / 2)) (16 * (i % 2) + 15) (16 * (i % 2)))).all (fun n => decide (n < 16384)) = true := by
    refine List.all_eq_true.mpr fun n hn => ?_
    obtain ⟨i, hi, rfl⟩ := List.mem_map.mp hn
    exact decide_eq_true (hlt i (List.mem_range.mp hi))
  have htake : ((List.range 32).map (fun i => bits (w (16 + i / 2)) (16 * (i % 2) + 15) (16 * (i % 2)))).take (bits (w 1) 5 0) = sigs := by
    rw [← List.map_take, List.take_range, Nat.min_eq_left hsc, hsigs]
  have hgal' : (if bit (w 0) 5 = true then some (bits (w 0) 4 0) else none) = gal := by
    rcases hgal with ⟨h5, rfl, -⟩ | ⟨h5, -, rfl, -⟩ <;> simp [h5]
  have hg : (if bit (w 0) 5 = true then u.gallery? (bits (w 0) 4 0) else none) = g := by
    rcases hgal with ⟨h5, -, rfl⟩ | ⟨h5, -, -, x, -, hx, -⟩
    · exact if_neg (Bool.eq_false_iff.mp h5)
    · exact (if_pos h5).trans hx
  have hfn : ¬ (fn = 0 ∧ bit (w 0) 5 = true) := by
    rcases hgal with ⟨h5, -, -⟩ | ⟨-, h0, -⟩
    · exact fun h => absurd h.2 (Bool.eq_false_iff.mp h5)
    · exact fun h => h0 h.1
  have hgok : (match (generalizing := false) g with | some g => g.tenant == fn | none => !bit (w 0) 5) = true := by
    rcases hgal with ⟨h5, -, rfl⟩ | ⟨-, -, -, x, rfl, -, hx⟩
    · exact congrArg Bool.not h5
    · exact beq_iff_eq.mpr hx
  have htok : tasks.zipIdx.all (fun (t, i) => t.ok i g && u.rangesClear g t) = true := by
    refine List.all_eq_true.mpr ?_
    rintro ⟨x, i⟩ hx
    obtain ⟨h1, h2, -⟩ := hok i x (List.mem_zipIdx_iff_getElem?.mp hx)
    simp [h1, h2]
  have hfeat : (tasks.any (fun t => t.phases != 0) && !u.feature 10) = false := by
    cases h10 : u.feature 10
    · rw [Bool.not_false, Bool.and_true, List.any_eq_false]
      intro x hx
      obtain ⟨i, hi⟩ := List.mem_iff_getElem?.mp hx
      obtain ⟨-, -, h | h⟩ := hok i x hi
      · simp [h]
      · simp [h10] at h
    · exact Bool.and_false _
  have hshape : (bits (w 0) 15 7 == 0 && bits (w 0) 31 25 == 0 && bits (w 1) 7 6 == 0 && bits (w 1) 31 14 == 0
      && (List.range 10).all (fun i => w (6 + i) == 0) && decide (1 ≤ bits (w 0) 24 16) && decide (bits (w 0) 24 16 ≤ 256)
      && decide (bits (w 1) 5 0 ≤ 32) && decide (bits (w 1) 13 8 ≤ 32) && (w 2 + 2 ^ 32 * w 3) % 64 == 0 && (w 4 + 2 ^ 32 * w 5) % 64 == 0
      && ((List.range 32).map (fun i => bits (w (16 + i / 2)) (16 * (i % 2) + 15) (16 * (i % 2)))).all (fun n => decide (n < 16384))) = true := by
    rw [h31, h15, h7, h14, hz', htp, hmp, hhalf, decide_eq_true htc1, decide_eq_true htc2, decide_eq_true hsc, decide_eq_true hmc]
    rfl
  have hsok : sigs.all (fun n => u.fnSignal fn n) = true := List.all_eq_true.mpr hfs
  have hmapok : maps.all mapOk = true := List.all_eq_true.mpr hmok
  subst hw htasks hmaps
  dsimp only at *
  refine congrArg Host.Outcome.next ((if_neg (by simp [hf])).trans ?_)
  rw [Nat.mod_eq_of_lt hk]
  refine (State.executePay_at _ he (by decide)).trans ?_
  dsimp only
  refine (if_neg hfn).trans ((if_neg (by rw [hshape]; decide)).trans ?_)
  rw [htb, hmb]
  dsimp only
  rw [← hu, hg, htake, hgal']
  refine (if_neg ?_).trans ((if_neg (by rw [hfeat]; decide)).trans rfl)
  simp only [htok, hsok, hmapok, Bool.not_true, Bool.or_false, Bool.not_eq_true, Bool.not_eq_false']
  exact hgok

/-! ### Signals claimed by a job -/

/-- Testing the waiters of a signal writes that signal's queue and no other signal (R255). -/
theorem State.testWaiters_sigs (t : State) (n : Nat) :
    ∃ ws, (t.testWaiters n).sigs = (t.setSignal n { t.signal n with waiters := ws }).sigs := by
  refine ⟨((t.signal n).waiters.partition (fun w => decide (w.value ≤ (t.signal n).counter))).2, ?_⟩
  unfold State.testWaiters
  dsimp only
  rw [State.foldl_sigs (fun u w => u.wake_sigs _ _ _ _ _)]
  split
  · rfl
  · exact State.countHome_sigs _ _ _ _

/-- With no waiter there is nothing to release. -/
theorem State.testWaiters_none {t : State} {n : Nat} (h : (t.signal n).waiters = []) :
    t.testWaiters n = t.setSignal n { t.signal n with waiters := [] } := by
  unfold State.testWaiters
  dsimp only
  rw [h]
  rfl

/-- A claimed signal is LIVE with its job as owner, its counter 0, and no other signal changes (R253). -/
theorem State.claimSignal_reads (s : State) (slot n : Nat) :
    ((s.claimSignal slot n).signal n).st = .live ∧ ((s.claimSignal slot n).signal n).owner = slot
      ∧ ((s.claimSignal slot n).signal n).counter = 0 ∧ ∀ i, i ≠ n → (s.claimSignal slot n).signal i = s.signal i := by
  unfold State.claimSignal State.giveSignal
  generalize ht : s.setSignal n { s.signal n with counter := 0, owner := slot, st := .live, satRec := false } = t
  have hn : t.signal n = { s.signal n with counter := 0, owner := slot, st := .live, satRec := false } := by
    rw [← ht]
    exact Tab.get_put_of_ne (fun h => absurd (congrArg Signal.st h) (by simp)) s.sigs n
  obtain ⟨ws, hws⟩ := t.testWaiters_sigs n
  have hread (i : Nat) : (t.testWaiters n).signal i = (t.setSignal n { t.signal n with waiters := ws }).signal i := by
    rw [State.signal, hws]
    rfl
  have hsame : (t.setSignal n { t.signal n with waiters := ws }).signal n = { t.signal n with waiters := ws } :=
    Tab.get_put_of_ne (fun h => absurd (congrArg Signal.st h) (by simp [hn])) t.sigs n
  rw [hread n, hsame, hn]
  refine ⟨rfl, rfl, rfl, fun i hi => ?_⟩
  rw [hread i, ← ht]
  exact (Tab.get_put_other _ _ _ hi).trans (Tab.get_put_other _ _ _ hi)

/-- A claim of a signal without waiters sends nothing: cells, memory and waiters of all signals stay. -/
theorem State.claimSignal_quiet {s : State} {n : Nat} (slot : Nat) (h : (s.signal n).waiters = []) :
    (s.claimSignal slot n).cells = s.cells ∧ (s.claimSignal slot n).hbm = s.hbm := by
  unfold State.claimSignal State.giveSignal
  have hw : ((s.setSignal n { s.signal n with counter := 0, owner := slot, st := .live, satRec := false }).signal n).waiters = [] := by
    rw [show (s.setSignal n { s.signal n with counter := 0, owner := slot, st := .live, satRec := false }).signal n
      = { s.signal n with counter := 0, owner := slot, st := .live, satRec := false } from
      Tab.get_put_of_ne (fun hd => absurd (congrArg Signal.st hd) (by simp)) s.sigs n]
    exact h
  rw [State.testWaiters_none hw]
  exact ⟨rfl, rfl⟩

/-- Distinct signals claimed one after another: each is claimed, every other stays, and without waiters nothing else changes. -/
theorem State.foldl_claimSignal (slot : Nat) : ∀ (l : List Nat) (s : State), l.Nodup →
    (∀ n, n ∈ l → ((l.foldl (fun s n => s.claimSignal slot n) s).signal n).st = .live
      ∧ ((l.foldl (fun s n => s.claimSignal slot n) s).signal n).owner = slot ∧ ((l.foldl (fun s n => s.claimSignal slot n) s).signal n).counter = 0)
    ∧ (∀ n, n ∉ l → (l.foldl (fun s n => s.claimSignal slot n) s).signal n = s.signal n)
    ∧ ((∀ n, n ∈ l → (s.signal n).waiters = []) →
      (l.foldl (fun s n => s.claimSignal slot n) s).cells = s.cells ∧ (l.foldl (fun s n => s.claimSignal slot n) s).hbm = s.hbm)
  | [], s, _ => ⟨by simp, fun _ _ => rfl, fun _ => ⟨rfl, rfl⟩⟩
  | m :: l, s, hnd => by
    obtain ⟨hm, hl⟩ := List.nodup_cons.mp hnd
    obtain ⟨hst, hown, hctr, hother⟩ := s.claimSignal_reads slot m
    obtain ⟨hmem, hnot, hquiet⟩ := State.foldl_claimSignal slot l (s.claimSignal slot m) hl
    rw [List.foldl_cons]
    refine ⟨fun n hn => ?_, fun n hn => ?_, fun hw => ?_⟩
    · rcases List.mem_cons.mp hn with rfl | hn
      · rw [hnot n hm]
        exact ⟨hst, hown, hctr⟩
      · exact hmem n hn
    · obtain ⟨hne, hnl⟩ := not_or.mp (fun h => hn (List.mem_cons.mpr h))
      rw [hnot n hnl, hother n hne]
    · obtain ⟨hc, hh⟩ := State.claimSignal_quiet slot (hw m List.mem_cons_self)
      obtain ⟨hc', hh'⟩ := hquiet fun n hn => by
        rw [hother n (fun h => hm (h ▸ hn))]
        exact hw n (List.mem_cons_of_mem _ hn)
      exact ⟨hc'.trans hc, hh'.trans hh⟩

/-- Distinct elements stay as they are when doubles are taken away. -/
theorem List.eraseDups_of_nodup {l : List Nat} (h : l.Nodup) : l.eraseDups = l := by
  induction l with
  | nil => rfl
  | cons a l ih =>
    obtain ⟨ha, hl⟩ := List.nodup_cons.mp h
    rw [List.eraseDups_cons, List.filter_eq_self.mpr (fun b hb => ?_), ih hl]
    simpa using fun hba : b = a => ha (hba ▸ hb)

/-- Admission of a job without map entries: its signals claimed, and what is written besides (R310). -/
theorem State.admitJob_at {s : State} {c : Cmd} {slot : Nat} {j : Job} (hlost : s.tablesLost.contains j.tenant = false) (hmaps : j.maps = [])
    (hnd : j.sigs.Nodup) (hfree : ∀ n, n ∈ j.sigs → (s.signal n).st ≠ .live)
    (hq : s.pagesUsed j.tenant ≤ s.reg (rTen j.tenant 0x0C) % 2 ^ 18) (hl2 : s.l2.length ≤ l2Pool) :
    ∃ cmds regs cause last tr, s.admitJob c slot j =
      { (j.sigs.foldl (fun s n => s.claimSignal slot n) s).setJob slot (some { j with dirty := [] }) with
        cmds := cmds, regs := regs, jobCause := cause, jobLast := last, trace := tr } := by
  have hdist : (j.sigs.eraseDups.length == j.sigs.length) = true := by rw [List.eraseDups_of_nodup hnd, beq_self_eq_true]
  have hlive : j.sigs.any (fun n => decide ((s.signal n).st = .live)) = false :=
    List.any_eq_false.mpr fun n hn => by simpa using hfree n hn
  have hal : s.allocList j.tenant [] = [] := rfl
  have hnl : s.newL2 j.tenant [] = 0 := rfl
  unfold State.admitJob
  simp only [hlost, hdist, hlive, hmaps, hal, hnl, List.all_nil, List.map_nil, List.eraseDups_nil, List.length_nil, beq_self_eq_true, Bool.and_self,
    Bool.not_true, Bool.or_self, Bool.false_eq_true, if_false, Nat.add_zero, Nat.not_lt.mpr hq, Nat.not_lt.mpr hl2, State.allocAll]
  generalize j.sigs.foldl (fun s n => s.claimSignal slot n) s = u
  obtain ⟨tr, htr⟩ := State.traceEv_eq _ 1 j.tenant slot [c.ring, c.tag, j.deadline % 2 ^ 32, j.deadline / 2 ^ 32]
  exact ⟨_, _, _, _, tr, htr⟩

/-! ### JOB_CANCEL -/

/-- JOB_CANCEL with its target a job in flight, or none (R329). -/
theorem exec_jobCancel_at {s : State} {fn k : Nat} {c : Cmd} {target : Option Nat} (he : s.entryAt fn k 2 c)
    (htarget : (if (match (generalizing := false) (s.ring fn (c.w 8)).window.reverse.find? (fun e => e.tag == c.w 9 && !e.dup) with | some e => e.job | none => false) = true
      then s.slotOf fn (c.w 8) (c.w 9) else none) = target) :
    exec (.jobCancel fn k) s = .next (match (generalizing := false) target with
      | some slot => ((s.running c).stopJob (some slot) .cancelled 0).updJob slot (fun j => { j with cancelledBy := j.cancelledBy ++ [c.id] })
      | none =>
        if s.cmds.any (fun x => x.fn == fn && x.ring == c.w 8 && x.tag == c.w 9 && x.st == .fresh && x.id != c.id)
          || (c.w 8 != k && s.unconsumed fn (c.w 8) (c.w 9)) then s
        else s.finish c .ok 0) := by
  have hf := he.1
  have hk := he.2.1
  subst htarget
  refine congrArg Host.Outcome.next ((if_neg (by simp [hf])).trans ?_)
  rw [Nat.mod_eq_of_lt hk]
  exact State.execute_at _ he

/-- Settles O30: the launch and the engine command by their payload, admission without map entries, and the cancel by its target. -/
theorem jobsLaunchedAndCancelled : Obligations.JobsLaunchedAndCancelled := by
  unfold Obligations.JobsLaunchedAndCancelled
  refine ⟨?launch, ?engine, ?admission, ?cancel⟩
  case launch =>
    rintro s t u fn k h c bs tb mb w tasks maps sigs gal g he hw h31 h15 h7 h14 hz htc1 htc2 hsc hmc htp hmp hsigs hlt hfs htb hmb hu htasks
      hmaps hgal hok hmok v rfl
    rw [exec_jobLaunch_at he hw h31 h15 h7 h14 hz htc1 htc2 hsc hmc htp hmp hsigs hlt hfs htb hmb hu htasks hmaps hgal hok hmok]
    refine ⟨fun hb => ?_, ?_⟩
    · refine congrArg Host.Outcome.next (if_neg ?_)
      cases g with
      | none => exact Bool.false_ne_true
      | some x => exact Bool.eq_false_iff.mp (hb x rfl)
    · rintro x rfl hb
      exact congrArg Host.Outcome.next (if_pos hb)
  case engine =>
    intro s t fn k h c bs he h36
    have hf := he.1.1
    have hk := he.1.2.1
    refine congrArg Host.Outcome.next ((if_neg (by simp [hf])).trans ?_)
    rw [Nat.mod_eq_of_lt hk]
    exact (State.executePay_at _ he (by decide)).trans (if_neg (Nat.not_le.mpr h36))
  case admission =>
    intro s c slot j hlost hmaps hnd hfree hq hl2
    obtain ⟨cmds, regs, cause, last, tr, hat⟩ := State.admitJob_at (c := c) (slot := slot) hlost hmaps hnd hfree hq hl2
    obtain ⟨hmem, hnot, hquiet⟩ := State.foldl_claimSignal slot j.sigs s hnd
    rw [hat]
    exact ⟨Tab.get_put_of_ne (by simp) _ _, hmem, hnot, hquiet⟩
  case cancel =>
    rintro s fn k c win he rfl
    refine ⟨?_, fun hno => ?_⟩
    · intro e slot hwin hjob hslot
      exact exec_jobCancel_at (target := some slot) he (by rw [hwin]; exact (if_pos hjob).trans hslot)
    · have htarget : (if (match (s.ring fn (c.w 8)).window.reverse.find? (fun e => e.tag == c.w 9 && !e.dup) with
          | some e => e.job | none => false) = true then s.slotOf fn (c.w 8) (c.w 9) else none) = none := by
        cases hwin : (s.ring fn (c.w 8)).window.reverse.find? (fun e => e.tag == c.w 9 && !e.dup) with
        | none => rfl
        | some e =>
          cases hjob : e.job
          · simp [hjob]
          · simp [hjob, hno e hwin hjob]
      rw [exec_jobCancel_at he htarget]
      refine ⟨fun hall hq => ?_, fun hwait => ?_⟩
      · refine congrArg Host.Outcome.next (if_neg ?_)
        have hany : s.cmds.any (fun x => x.fn == fn && x.ring == c.w 8 && x.tag == c.w 9 && x.st == .fresh && x.id != c.id) = false := by
          refine List.any_eq_false.mpr fun x hx h => ?_
          simp only [Bool.and_eq_true, beq_iff_eq, bne_iff_ne] at h
          obtain ⟨⟨⟨⟨h1, h2⟩, h3⟩, h4⟩, h5⟩ := h
          exact h5 (hall x hx h1 h2 h3 h4)
        rw [hany, Bool.false_or]
        rcases hq with hq | hq
        · rw [bne_eq_false_iff_eq.mpr hq, Bool.false_and]
          exact Bool.false_ne_true
        · rw [hq, Bool.and_false]
          exact Bool.false_ne_true
      · refine congrArg Host.Outcome.next (if_pos ?_)
        rcases hwait with ⟨x, hx, h1, h2, h3, h4, h5⟩ | ⟨hne, hun⟩
        · rw [List.any_eq_true.mpr ⟨x, hx, by simp [h1, h2, h3, h4, h5]⟩, Bool.true_or]
        · rw [hun, bne_iff_ne.mpr hne, Bool.and_self, Bool.or_true]

end Sys2Proof.Machine
end

section
/-!
What accesses to external memory may write: counters, tokens, the slices' lines, HBM, translations and the free values used.
-/
namespace Sys2Proof.Machine
open Sys2Proof

/-- The fields an access to external memory may write. -/
def State.memWrites (s t : State) : Prop :=
  ∃ r tk c h hp fc tlb, t = { s with regs := r, tokens := tk, cache := c, hbm := h, hbmPoison := hp, freeCtr := fc, tlb := tlb }

theorem State.memWrites_refl (s : State) : s.memWrites s := ⟨_, _, _, _, _, _, _, rfl⟩

theorem State.memWrites.trans {s t u : State} (h : s.memWrites t) (h' : t.memWrites u) : s.memWrites u := by
  obtain ⟨_, _, _, _, _, _, _, rfl⟩ := h
  obtain ⟨_, _, _, _, _, _, _, rfl⟩ := h'
  exact ⟨_, _, _, _, _, _, _, rfl⟩

theorem State.memWrites_ite {s t u : State} {p : Prop} [Decidable p] (ht : s.memWrites t) (hu : s.memWrites u) :
    s.memWrites (if p then t else u) := by
  split
  · exact ht
  · exact hu

/-- Accesses one after another. -/
theorem State.memWrites_foldl {α : Type} {f : State → α → State} (hf : ∀ (s : State) a, s.memWrites (f s a)) (l : List α) (s : State) :
    s.memWrites (l.foldl f s) :=
  List.foldlRecOn l f s.memWrites_refl (fun t ht a _ => ht.trans (hf t a))

theorem State.memWrites_regAdd (s : State) (k n : Nat) : s.memWrites (s.regAdd k n) := ⟨_, _, _, _, _, _, _, rfl⟩

theorem State.memWrites_spend (s : State) (t st n : Nat) : s.memWrites (s.spend t st n) :=
  State.memWrites_ite ⟨_, _, _, _, _, _, _, rfl⟩ s.memWrites_refl

theorem State.memWrites_moved (s : State) (t l : Nat) (write : Bool) (n : Nat) : s.memWrites (s.moved t l write n) :=
  ((s.memWrites_regAdd _ _).trans (State.memWrites_regAdd _ _ _)).trans (State.memWrites_spend _ _ _ _)

theorem State.memWrites_writeBack (s : State) (c : CLine) : s.memWrites (s.writeBack c) := by
  refine State.memWrites_ite s.memWrites_refl ?_
  extract_lets st t
  have ht : s.memWrites t := ⟨_, _, _, _, _, _, _, rfl⟩
  exact ht.trans ((t.memWrites_regAdd _ _).trans (State.memWrites_moved _ _ _ _ _))

theorem State.memWrites_place (s : State) (set : List CLine) (l way : Nat) : s.memWrites (s.place set l way) := ⟨_, _, _, _, _, _, _, rfl⟩

/-- A line accessed: a hit or a miss, with or without a line given up for it. -/
theorem State.memWrites_lineAccess (s : State) (t l : Nat) (fetch : Bool) : s.memWrites (s.lineAccess t l fetch) := by
  unfold State.lineAccess
  extract_lets st set a b mine own own'
  split
  · exact ⟨_, _, _, _, _, _, _, rfl⟩
  · have hb : s.memWrites b := (s.memWrites_regAdd _ _).trans (State.memWrites_ite (State.memWrites_moved _ _ _ _ _) (State.memWrites_refl _))
    have hd : b.memWrites b.drawFree.2 := ⟨_, _, _, _, _, _, _, rfl⟩
    split
    · exact hb.trans (b.memWrites_place _ _ _)
    · dsimp only
      split
      · exact (hb.trans hd).trans ((State.memWrites_writeBack _ _).trans (State.memWrites_place _ _ _ _))
      · exact hb

theorem State.memWrites_lineWrite (s : State) (t l off : Nat) (bs : List Byte) : s.memWrites (s.lineWrite t l off bs) := by
  unfold State.lineWrite
  extract_lets whole a
  have ha : s.memWrites a := s.memWrites_lineAccess _ _ _
  split
  · exact ha.trans ⟨_, _, _, _, _, _, _, rfl⟩
  · refine ha.trans (State.memWrites.trans ⟨_, _, _, _, _, _, _, rfl⟩ (State.memWrites_moved _ _ _ _ _))

theorem State.memWrites_paWrite (s : State) (t pa : Nat) (bs : List Byte) : s.memWrites (s.paWrite t pa bs) :=
  State.memWrites_foldl (fun u _ => u.memWrites_lineWrite _ _ _ _) _ s

theorem State.memWrites_paTouch (s : State) (t pa n : Nat) : s.memWrites (s.paTouch t pa n) :=
  State.memWrites_foldl (fun u _ => u.memWrites_lineAccess _ _ _) _ s

theorem State.memWrites_translate (s : State) (t tva : Nat) : s.memWrites (s.translate t tva) := ⟨_, _, _, _, _, _, _, rfl⟩

theorem State.memWrites_tvaTouch (s : State) (t a n : Nat) : s.memWrites (s.tvaTouch t a n) :=
  State.memWrites_foldl (fun u _ => (u.memWrites_translate _ _).trans (State.memWrites_paTouch _ _ _ _)) _ s

theorem State.memWrites_tvaStore (s : State) (t a : Nat) (bs : List Byte) : s.memWrites (s.tvaStore t a bs) :=
  State.memWrites_foldl (fun u _ => (u.memWrites_translate _ _).trans (State.memWrites_paWrite _ _ _ _)) _ s

end Sys2Proof.Machine
end

section
/-!
O32: tasks bound and completed, jobs stopped and completed (R323 to R329).
-/
namespace Sys2Proof.Machine
open Sys2Proof

/-! ### What unmapping a job's pages leaves -/

/-- `t` holds the cells, entries, signals and jobs of `s`. -/
def State.sameUnits (s t : State) : Prop := t.cells = s.cells ∧ t.cmds = s.cmds ∧ t.sigs = s.sigs ∧ t.jobs = s.jobs

theorem State.sameUnits_refl (s : State) : s.sameUnits s := ⟨rfl, rfl, rfl, rfl⟩

theorem State.sameUnits.trans {s t u : State} (h : s.sameUnits t) (h' : t.sameUnits u) : s.sameUnits u := by
  obtain ⟨h1, h2, h3, h4⟩ := h
  obtain ⟨k1, k2, k3, k4⟩ := h'
  exact ⟨k1.trans h1, k2.trans h2, k3.trans h3, k4.trans h4⟩

theorem State.sameUnits_ite {s t u : State} {p : Prop} [Decidable p] (ht : s.sameUnits t) (hu : s.sameUnits u) :
    s.sameUnits (if p then t else u) := by
  split
  · exact ht
  · exact hu

theorem State.sameUnits_foldl {α : Type} {f : State → α → State} (hf : ∀ (s : State) a, s.sameUnits (f s a)) (l : List α) (s : State) :
    s.sameUnits (l.foldl f s) :=
  List.foldlRecOn l f s.sameUnits_refl (fun t ht a _ => ht.trans (hf t a))

theorem State.memWrites.sameUnits {s t : State} (h : s.memWrites t) : s.sameUnits t := by
  obtain ⟨_, _, _, _, _, _, _, rfl⟩ := h
  exact ⟨rfl, rfl, rfl, rfl⟩

theorem State.sameUnits_regAdd (s : State) (k n : Nat) : s.sameUnits (s.regAdd k n) := ⟨rfl, rfl, rfl, rfl⟩

theorem State.sameUnits_record (s : State) (k : Kind) (r : FaultRec) (b : Bool) : s.sameUnits (s.record k r b) := by
  obtain ⟨l, ao, g, h, e⟩ := s.record_eq k r b
  rw [e]
  exact ⟨rfl, rfl, rfl, rfl⟩

theorem State.sameUnits_traceEv (s : State) (k t j : Nat) (d : List Nat) : s.sameUnits (s.traceEv k t j d) := by
  obtain ⟨x, e⟩ := s.traceEv_eq k t j d
  rw [e]
  exact ⟨rfl, rfl, rfl, rfl⟩

theorem State.sameUnits_retirePage (s : State) (ppn : Nat) : s.sameUnits (s.retirePage ppn) := by
  unfold State.retirePage
  extract_lets st t add
  have ht : s.sameUnits t := ⟨rfl, rfl, rfl, rfl⟩
  exact State.sameUnits_ite ht (State.sameUnits_ite (ht.trans (State.sameUnits_record _ _ _ _)) (ht.trans ⟨rfl, rfl, rfl, rfl⟩))

theorem State.sameUnits_freePage (s : State) (ppn : Nat) : s.sameUnits (s.freePage ppn) := by
  unfold State.freePage
  split
  · exact s.sameUnits_retirePage ppn
  · exact s.sameUnits_retirePage ppn
  · exact s.sameUnits_refl
  · exact ⟨rfl, rfl, rfl, rfl⟩

theorem State.sameUnits_setPt (s : State) (t tva e : Nat) : s.sameUnits (s.setPt t tva e) :=
  State.sameUnits.trans ⟨rfl, rfl, rfl, rfl⟩ (State.memWrites_paWrite _ _ _ _).sameUnits

/-- A page unmapped leaves cells, entries, signals and jobs (R380). -/
theorem State.sameUnits_unmapPage (s : State) (t tva : Nat) : s.sameUnits (s.unmapPage t tva) := by
  unfold State.unmapPage
  extract_lets e u v base
  refine State.sameUnits_ite s.sameUnits_refl ?_
  have hv : s.sameUnits v := ((s.sameUnits_freePage _).trans (State.sameUnits_setPt _ _ _ _)).trans ⟨rfl, rfl, rfl, rfl⟩
  exact State.sameUnits_ite hv (hv.trans ⟨rfl, rfl, rfl, rfl⟩)

/-! ### Signals freed -/

/-- Signals freed one after another leave cells, entries and jobs. -/
theorem State.foldl_freeSignal_eq (l : List Nat) (s : State) : ∃ g, l.foldl State.freeSignal s = { s with sigs := g } :=
  List.foldlRecOn (motive := fun (t : State) => ∃ g, t = { s with sigs := g }) l _ ⟨s.sigs, rfl⟩ (by
    rintro _ ⟨g, rfl⟩ n -
    exact ⟨_, rfl⟩)

/-- Every signal of the list is FREE afterwards (R254). -/
theorem State.foldl_freeSignal_free {s : State} (hwf : Tab.wf {} s.sigs = true) (l : List Nat) :
    ∀ n ∈ l, ((l.foldl State.freeSignal s).signal n).st = .free := by
  refine List.forall_mem_foldl (I := fun (t : State) => Tab.wf {} t.sigs = true) (P := fun (t : State) n => (t.signal n).st = .free)
    (fun t m ht => Tab.wf_put _ ht _ _) ?_ ?_ l hwf
  · intro t m n ht hn
    by_cases hnm : n = m
    · subst hnm
      exact congrArg Signal.st (Tab.get_put_same _ ht _ _)
    · exact (congrArg Signal.st (Tab.get_put_other _ _ _ hnm)).trans hn
  · intro t n ht
    exact congrArg Signal.st (Tab.get_put_same _ ht _ _)

/-! ### The commands -/

/-- A job changed where there is one. -/
theorem State.job_updJob_same {s : State} {slot : Nat} {j : Job} (f : Job → Job) (h : s.job? slot = some j) :
    (s.updJob slot f).job? slot = some (f j) := by
  unfold State.updJob
  rw [h]
  exact Tab.get_put_of_ne (by simp) _ _

theorem State.updJob_gc (s : State) (slot : Nat) (f : Job → Job) : (s.updJob slot f).gc = s.gc := by
  unfold State.updJob
  split <;> rfl

/-- The task is DONE once TASK_COMPLETE has marked it (R325). -/
theorem State.taskDone_done {s : State} {slot i : Nat} {j : Job} {x : Task} (h : s.job? slot = some j) (hx : j.tasks[i]? = some x) :
    ∃ j' x', (s.taskDone slot i).job? slot = some j' ∧ j'.tasks[i]? = some x' ∧ x'.st = .done := by
  obtain ⟨tr, htr⟩ := s.traceEv_eq 4 (s.jobTenant slot) slot [i]
  have ht : (s.traceEv 4 (s.jobTenant slot) slot [i]).job? slot = some j := by
    rw [htr]
    exact h
  refine ⟨_, ?x, State.job_updJob_same _ ht, ?task, ?done⟩
  case task =>
    dsimp only
    split
    all_goals
      dsimp only [Job.updTask]
      rw [List.getElem?_map, List.getElem?_map, List.getElem?_zipIdx, hx]
      rfl
  case done =>
    simp only [Nat.zero_add, if_true]
    split <;> rfl

/-- The signals a job still owns freed (R326). -/
def State.freesSignals (s : State) (slot : Nat) (j : Job) : State :=
  (j.sigs.filter (fun n => (s.signal n).owner == slot && (s.signal n).st == .live)).foldl State.freeSignal s

/-- A job's pages unmapped and its time accounted (R326, R543). -/
def State.closesAccounts (s : State) (j : Job) : State :=
  let s := (j.maps.filter (fun m => !mapAlloc m)).foldl (fun s m => (mapAddrs m).foldl (fun s a => s.unmapPage j.tenant a) s) s
  let s := if decide (j.deadline < j.endGc) then s.regAdd (rFmEvt 10) 1 else s
  ((s.regAdd (rAcct j.tenant 0x80) 1).regAdd (rAcct j.tenant 0x88) j.heldTicks).regAdd (rAcct j.tenant 0x90) (j.endGc - j.admitGc)

theorem State.sameUnits_closesAccounts (s : State) (j : Job) : s.sameUnits (s.closesAccounts j) := by
  have h2 : s.sameUnits ((j.maps.filter (fun m => !mapAlloc m)).foldl (fun s m => (mapAddrs m).foldl (fun s a => s.unmapPage j.tenant a) s) s) :=
    State.sameUnits_foldl (fun u m => State.sameUnits_foldl (fun v a => v.sameUnits_unmapPage _ _) _ u) _ s
  unfold State.closesAccounts
  generalize (j.maps.filter (fun m => !mapAlloc m)).foldl (fun s m => (mapAddrs m).foldl (fun s a => s.unmapPage j.tenant a) s) s = u at h2 ⊢
  have h3 : u.sameUnits (if decide (j.deadline < j.endGc) then u.regAdd (rFmEvt 10) 1 else u) :=
    State.sameUnits_ite (u.sameUnits_regAdd _ _) u.sameUnits_refl
  exact (h2.trans h3).trans (((State.sameUnits_regAdd _ _ _).trans (State.sameUnits_regAdd _ _ _)).trans (State.sameUnits_regAdd _ _ _))

/-- A job taken out of its slot (R326). -/
def State.leavesSlot (s : State) (slot : Nat) (j : Job) : State :=
  (((s.freesSignals slot j).closesAccounts j).setJob slot none).traceEv 2 j.tenant slot
    [j.endStatus.code, slowdown j.heldTicks (j.endGc - j.admitGc)]

/-- The slot is free, the signals the job still owned are FREE, and cells, entries and other jobs stay. -/
theorem State.leavesSlot_reads {s : State} {slot : Nat} {j : Job} (hj : Tab.wf none s.jobs = true) (hs : Tab.wf {} s.sigs = true) :
    (s.leavesSlot slot j).job? slot = none ∧ (∀ i, i ≠ slot → (s.leavesSlot slot j).job? i = s.job? i)
      ∧ (s.leavesSlot slot j).cells = s.cells ∧ (s.leavesSlot slot j).cmds = s.cmds
      ∧ ∀ n, n ∈ j.sigs → (s.signal n).owner = slot → (s.signal n).st = .live → ((s.leavesSlot slot j).signal n).st = .free := by
  have hfree : ∀ n, n ∈ j.sigs → (s.signal n).owner = slot → (s.signal n).st = .live → ((s.freesSignals slot j).signal n).st = .free :=
    fun n hn hown hlive => State.foldl_freeSignal_free hs _ n (List.mem_filter.mpr ⟨hn, by simp [hown, hlive]⟩)
  obtain ⟨g, hg⟩ : ∃ g, s.freesSignals slot j = { s with sigs := g } := State.foldl_freeSignal_eq _ s
  obtain ⟨hcells, hcmds, hsigs, hjobs⟩ := (s.freesSignals slot j).sameUnits_closesAccounts j
  unfold State.leavesSlot
  generalize (s.freesSignals slot j).closesAccounts j = u at hcells hcmds hsigs hjobs ⊢
  obtain ⟨tr, htr⟩ := (u.setJob slot none).traceEv_eq 2 j.tenant slot [j.endStatus.code, slowdown j.heldTicks (j.endGc - j.admitGc)]
  rw [htr]
  rw [hg] at hcells hcmds hjobs
  refine ⟨u.job_setJob_same slot none (hjobs ▸ hj), fun i hi => ?_, hcells, hcmds, fun n hn hown hlive => ?_⟩
  · refine (u.job_setJob_other slot i none hi).trans ?_
    rw [State.job?, hjobs, State.job?]
  · have h1 := hfree n hn hown hlive
    rw [State.signal, ← hsigs] at h1
    exact h1

/-- JOB_COMPLETE of a job that is ready (R326, R329). -/
theorem exec_jobComplete_at {s : State} {slot : Nat} {j : Job} (hf : s.fatal = false) (hj : s.job? slot = some j)
    (hready : (if j.stop.isSome then j.abandoned else j.tasks.all (fun (t : Task) => t.st == .done) && j.dirty.isEmpty) = true) :
    exec (.jobComplete slot j.ref.tag) s = .next (j.cancelledBy.foldl (fun s n => match s.cmds.find? (fun c => c.id == n) with
        | some c => s.finish c .ok 0
        | none => s)
      (match j.cmdId.bind (fun n => (s.leavesSlot slot j).cmds.find? (fun c => c.id == n)) with
        | some c => (if j.endStatus = .timeout then (s.leavesSlot slot j).regAdd (rRingCtr c.fn c.ring 2) 1 else s.leavesSlot slot j).answer c
          { tag := c.tag, status := j.endStatus.code, opcode := c.op, late := decide (j.deadline < j.endGc), cond := j.cond
            slow := slowdown j.heldTicks (j.endGc - j.admitGc), detail := j.detail.getD slot, start := j.admitGc, fin := j.endGc
            slot := some slot }
        | none => s.leavesSlot slot j)) := by
  refine congrArg Host.Outcome.next ((if_neg (by simp [hf])).trans ?_)
  rw [hj]
  exact if_neg (by rw [beq_self_eq_true, hready]; decide)

/-- Settles O32: binding, completion and stopping as their commands say, and what a completed job leaves. -/
theorem tasksBoundAndJobsEnded : Obligations.TasksBoundAndJobsEnded := by
  unfold Obligations.TasksBoundAndJobsEnded
  refine ⟨?bind, ?complete, ?stop, ?ended⟩
  case bind =>
    rintro s t u slot i j x hf hready hj hx rfl
    refine ⟨fun he => ?_, ?_⟩
    · refine congrArg Host.Outcome.next ((if_neg (by simp [hf])).trans ?_)
      simp only [hready, hj, hx, he, State.updJob_gc, Bool.false_eq_true, if_false]
    · rintro he rfl
      refine congrArg Host.Outcome.next ((if_neg (by simp [hf])).trans ?_)
      simp only [hready, hj, hx, he, State.updJob_gc, if_true]
  case complete =>
    intro s slot i j x hf hj hx hst hstop hsus hends
    refine ⟨?_, State.taskDone_done hj hx⟩
    refine congrArg Host.Outcome.next ((if_neg (by simp [hf])).trans ?_)
    simp only [hj, hx, hst, hstop, hsus, ne_eq, not_true_eq_false, decide_false, Option.isSome_none, Bool.or_self, Bool.false_eq_true, if_false]
    rcases hends with ⟨he, hl, hp⟩ | ⟨he, hs, hh⟩
    · simp only [he, hl, hp, Option.isSome_none, Bool.or_self, Bool.false_eq_true, if_false]
    · simp only [he, hs, hh, Bool.not_false, Bool.and_self, if_true]
  case stop =>
    intro s u slot j k c hf hj hstop hab hu hk
    have hu' : (if j.stopped then s else
        (((((s.stopStreams slot).mapCells (fun _ c => c.stopOf slot)).stopPaging slot j).stopEngines slot).dropSaved slot).updJob
          slot (fun j => { j with stopped := true, suspended := false
                                  tasks := j.tasks.map (fun (t : Task) => if t.st = .waiting then { t with st := .done } else t) })) = u := by
      rcases hu with ⟨hs, rfl⟩ | ⟨hs, rfl⟩
      · exact if_pos hs
      · exact if_neg (Bool.eq_false_iff.mp hs)
    refine ⟨fun hq => ?_, ?_⟩
    · refine congrArg Host.Outcome.next ((if_neg (by simp [hf])).trans ?_)
      simp only [hj, hstop, hab, Option.isNone_some, Bool.or_self, Bool.false_eq_true, if_false, hu', hk, hq, Bool.not_false, if_true]
    · rintro v hq rfl
      refine congrArg Host.Outcome.next ((if_neg (by simp [hf])).trans ?_)
      simp only [hj, hstop, hab, Option.isNone_some, Bool.or_self, Bool.false_eq_true, if_false, hu', hk, hq, Bool.not_true]
  case ended =>
    intro s slot j hf hjwf hswf hj hends
    have hready : (if j.stop.isSome then j.abandoned else j.tasks.all (fun (t : Task) => t.st == .done) && j.dirty.isEmpty) = true := by
      rcases hends with ⟨hs, ht, hd⟩ | ⟨hs, ha⟩
      · have hall : j.tasks.all (fun (t : Task) => t.st == .done) = true := List.all_eq_true.mpr fun x hx => by rw [ht x hx]; rfl
        simp [hs, hall, hd]
      · rw [if_pos (Option.isSome_iff_ne_none.mpr hs), ha]
    obtain ⟨hslot, hother, hcells, hcmds, hsigs⟩ := State.leavesSlot_reads (slot := slot) (j := j) hjwf hswf
    have hrun := exec_jobComplete_at hf hj hready
    rw [hcmds] at hrun
    generalize s.leavesSlot slot j = w at hslot hother hcells hcmds hsigs hrun
    cases hcmd : j.cmdId.bind (fun n => s.cmds.find? (fun c => c.id == n)) with
    | none =>
      rw [hcmd] at hrun
      exact ⟨w, w, hslot, hother, hcells, hcmds, hsigs, fun _ => rfl, (by rintro c ⟨⟩), hrun⟩
    | some c =>
      rw [hcmd] at hrun
      refine ⟨if j.endStatus = .timeout then w.regAdd (rRingCtr c.fn c.ring 2) 1 else w, _, ?_, ?_, ?_, ?_, ?_, (by rintro ⟨⟩), ?_, hrun⟩
      · split <;> exact hslot
      · split <;> exact hother
      · split <;> exact hcells
      · split <;> exact hcmds
      · split <;> exact hsigs
      · rintro c' ⟨⟩
        rfl

end Sys2Proof.Machine
end

section
/-!
O33: phases paged, caches warmed and pages zeroed (R315, R317, R319, R320, R322).
-/
namespace Sys2Proof.Machine
open Sys2Proof

/-- A byte of a page that has been zeroed is 0 (R315). -/
theorem State.read_zeroPage (s : State) {p a : Nat} (h : a / pageSize = p) : Memory.read (s.zeroPage p).hbm a = 0 := by
  refine Tab.get_of_not_any Memory.unlisted _ a fun x hx hxa => ?_
  have hkept := (List.mem_filter.mp hx).2
  rw [hxa, h, bne_self_eq_false] at hkept
  exact Bool.false_ne_true hkept

/-- Settles O33: each command's cases by what its guards read. -/
theorem phasesPagedAndPagesZeroed : Obligations.PhasesPagedAndPagesZeroed := by
  unfold Obligations.PhasesPagedAndPagesZeroed
  refine ⟨?begin, ?inPlace, ?warm, ?zero⟩
  case begin =>
    rintro s slot i n j x hf hj hx hpage rfl hrel hsag
    have hguard : (!s.mayPage slot j i x || !s.released x x.phase.next || decide (4 ≤ s.sag)) = false := by
      rw [hpage, hrel, decide_eq_false (Nat.not_le.mpr hsag)]
      rfl
    refine ⟨?_, ?_, ?_⟩
    · intro e he
      refine congrArg Host.Outcome.next ((if_neg (by simp [hf])).trans ?_)
      simp only [hj, hx, hguard, he, Bool.false_eq_true, if_false]
    · intro p hp hbad
      refine congrArg Host.Outcome.next ((if_neg (by simp [hf])).trans ?_)
      simp only [hj, hx, hguard, hp, hbad, Bool.not_false, Bool.false_eq_true, if_false, if_true]
    · rintro p rs t hp hok rfl hroom rfl
      refine congrArg Host.Outcome.next ((if_neg (by simp [hf])).trans ?_)
      simp only [hj, hx, hguard, hp, hok, hroom, Bool.not_true, Bool.false_eq_true, if_false]
  case inPlace =>
    intro s slot i n j x p hf hj hx hcur hheld hserv
    refine ⟨?_, ?_, ?_⟩
    · rintro t hplaced rfl
      refine ⟨fun hr => ?_, fun hr => ?_⟩
      · refine congrArg Host.Outcome.next ((if_neg (by simp [hf])).trans ?_)
        simp only [hj, hx, hcur, hheld, hserv, hplaced, hr, Bool.not_true, Bool.false_eq_true, if_false, if_true]
      · refine congrArg Host.Outcome.next ((if_neg (by simp [hf])).trans ?_)
        simp only [hj, hx, hcur, hheld, hserv, hplaced, hr, Bool.not_true, Bool.false_eq_true, if_false, if_true]
    · rintro t u hplaced hfirst hsrc rfl rfl
      refine congrArg Host.Outcome.next ((if_neg (by simp [hf])).trans ?_)
      simp only [hj, hx, hcur, hheld, hserv, hplaced, hfirst, hsrc, Bool.not_true, Bool.false_eq_true, if_false]
    · intro e hplaced hfirst hsrc hne
      refine congrArg Host.Outcome.next ((if_neg (by simp [hf])).trans ?_)
      cases e
      case ok => exact absurd rfl hne
      all_goals simp only [hj, hx, hcur, hheld, hserv, hplaced, hfirst, hsrc, Bool.not_true, Bool.false_eq_true, if_false]
  case warm =>
    rintro s t slot i n j x hf hj hx hen hsag hsealed hord hpage rfl hrel hmore hread
    have hguard : (!bit (s.reg rFmCtl) 0 || decide (s.sag ≠ 0) || s.sealed || s.feature 5 || !s.mayPage slot j i x || s.released x x.phase.next
        || decide (x.phases ≤ x.phase.next + 1)) = false := by
      rw [hen, hsag, hsealed, hord, hpage, hrel, decide_eq_false (Nat.not_le.mpr hmore)]
      rfl
    rcases hread with ⟨e, he, rfl⟩ | ⟨p, hp, rfl⟩
    · refine congrArg Host.Outcome.next ((if_neg (by simp [hf])).trans ?_)
      simp only [hj, hx, hguard, he, Bool.false_eq_true, if_false]
    · refine congrArg Host.Outcome.next ((if_neg (by simp [hf])).trans ?_)
      simp only [hj, hx, hguard, hp, Bool.false_eq_true, if_false]
  case zero =>
    intro s p hf hwf
    refine ⟨fun hd hfl => ⟨?_, ?_, fun a ha => s.read_zeroPage ha⟩, ?_⟩
    · refine congrArg Host.Outcome.next ((if_neg (by simp [hf])).trans ?_)
      simp only [hd, hfl, if_true, Bool.false_eq_true, if_false]
    · exact Tab.get_put_same _ hwf p .clean
    · rintro hd ⟨e, j, he, hej, hp⟩
      refine congrArg Host.Outcome.next ((if_neg (by simp [hf])).trans ((if_neg hd).trans (if_pos ?_)))
      exact List.any_eq_true.mpr ⟨e, he, by rw [hej]; exact List.contains_iff_mem.mpr hp⟩

end Sys2Proof.Machine
end

section
/-!
O34: galleries parked and restored (R330, R331, R334).
-/
namespace Sys2Proof.Machine
open Sys2Proof

/-! ### Jobs and cells changed one after another -/

/-- A table that is changed everywhere holds the changed value where the change keeps it listed. -/
theorem Tab.get_update_of_ne {α : Type} [DecidableEq α] {d v : α} (f : Nat → α → α) (t : Tab α) (k : Nat) (hv : Tab.get d t k = v) (hd : v ≠ d)
    (hf : f k v ≠ d) : Tab.get d (Tab.update d t f) k = f k v := by
  induction t with
  | nil => exact absurd hv.symm hd
  | cons x t ih =>
    obtain ⟨a, b⟩ := x
    by_cases hak : a = k
    · subst hak
      rw [Tab.get, if_pos rfl] at hv
      subst hv
      rw [Tab.update, List.map_cons, List.filter_cons_of_pos (by simpa using hf), Tab.get, if_pos rfl]
    · rw [Tab.get, if_neg hak] at hv
      have ih' := ih hv
      rw [Tab.update] at ih' ⊢
      rw [List.map_cons]
      by_cases hb : f a b = d
      · rw [List.filter_cons_of_neg (by simpa using hb)]
        exact ih'
      · rw [List.filter_cons_of_pos (by simpa using hb), Tab.get, if_neg hak]
        exact ih'

/-- A job changed with all the others. -/
theorem State.job_mapJobs {s : State} {i : Nat} {j : Job} (f : Nat → Job → Job) (h : s.job? i = some j) :
    (s.mapJobs f).job? i = some (f i j) :=
  Tab.get_update_of_ne (d := none) (fun k (j : Option Job) => j.map (f k)) s.jobs i h (by simp) (by simp)

/-- A saved cell put back (R334). -/
def State.restoresCell (tenant : Nat) (s : State) (c : Nat × Cell) : State :=
  s.setCell c.1 ((s.cell c.1).restored c.2 (if c.2.fenced then fenceTag else tenant) (s.acycles (cellDie c.1)))

/-- Saved cells of distinct sites put back: each is as its own step leaves it. -/
theorem State.foldl_restoresCell (tenant : Nat) : ∀ (l : List (Nat × Cell)) (s : State), (l.map Prod.fst).Nodup →
    Tab.wf Cell.reset s.cells = true →
    (∀ c, c ∈ l → (l.foldl (State.restoresCell tenant) s).cell c.1
      = (s.cell c.1).restored c.2 (if c.2.fenced then fenceTag else tenant) (s.acycles (cellDie c.1)))
    ∧ ∀ k, k ∉ l.map Prod.fst → (l.foldl (State.restoresCell tenant) s).cell k = s.cell k
  | [], _, _, _ => ⟨by simp, fun _ _ => rfl⟩
  | d :: l, s, hnd, hwf => by
    obtain ⟨hd, hl⟩ := List.nodup_cons.mp hnd
    obtain ⟨hmem, hnot⟩ := State.foldl_restoresCell tenant l (s.restoresCell tenant d) hl (Tab.wf_put _ hwf _ _)
    rw [List.foldl_cons]
    refine ⟨fun c hc => ?_, fun k hk => ?_⟩
    · rcases List.mem_cons.mp hc with rfl | hc
      · rw [hnot c.1 hd]
        exact s.cell_setCell_same _ _ hwf
      · have hne : c.1 ≠ d.1 := fun h => hd (h ▸ List.mem_map_of_mem hc)
        rw [hmem c hc]
        exact congrArg (fun x : Cell => x.restored c.2 (if c.2.fenced then fenceTag else tenant) (s.acycles (cellDie c.1)))
          (s.cell_setCell_other _ _ _ hne)
    · rw [List.map_cons, List.mem_cons, not_or] at hk
      rw [hnot k hk.2]
      exact s.cell_setCell_other _ _ _ hk.1

theorem State.restoresCell_jobs (tenant : Nat) (s : State) (c : Nat × Cell) : (s.restoresCell tenant c).jobs = s.jobs := rfl
theorem State.restoresCell_gals (tenant : Nat) (s : State) (c : Nat × Cell) : (s.restoresCell tenant c).gals = s.gals := rfl
theorem State.restoresCell_gc (tenant : Nat) (s : State) (c : Nat × Cell) : (s.restoresCell tenant c).gc = s.gc := rfl

/-- A cell's home signals are its own again (R263, R334). -/
def State.homesSignals (s : State) (c : Nat × Cell) : State :=
  c.2.homed.foldl (fun s n => s.setSignal n { s.signal n with home := c.1 + 1 }) s

theorem State.foldl_homesSignals_eq (l : List (Nat × Cell)) (s : State) : ∃ g, l.foldl State.homesSignals s = { s with sigs := g } := by
  refine List.foldlRecOn (motive := fun (t : State) => ∃ g, t = { s with sigs := g }) l _ ⟨s.sigs, rfl⟩ ?_
  rintro _ ⟨g, rfl⟩ c -
  refine List.foldlRecOn (motive := fun (t : State) => ∃ g, t = { s with sigs := g }) c.2.homed _ ⟨g, rfl⟩ ?_
  rintro _ ⟨g, rfl⟩ n -
  exact ⟨_, rfl⟩

/-! ### Restoring -/

/-- A parked gallery resident again: its cells, their home signals and its jobs are back (R334). -/
def State.restoredGallery (s : State) (n : Nat) (g : Gallery) : State :=
  let s := g.saved.foldl State.homesSignals (g.saved.foldl (State.restoresCell g.tenant) (s.ungate g.x0 g.y0 g.x1 g.y1))
  let s := s.mapJobs (fun _ j => if j.gallery = some n then { j with suspended := false } else j)
  let s : State := { s with cmds := s.cmds.map (fun (c : Cmd) => match c.job.bind s.job? with
    | some j => if j.gallery = some n then { c with expires := c.expires.map (fun e => e + (s.gc - j.susGc)) } else c
    | none => c) }
  s.setGallery n (some { g with resident := true, saved := [], residentGc := s.gc })

theorem State.restoredGallery_reads {s : State} {n : Nat} {g : Gallery} (hnd : (g.saved.map Prod.fst).Nodup)
    (hwf : Tab.wf Cell.reset s.cells = true) :
    (s.restoredGallery n g).gallery? n = some { g with resident := true, saved := [], residentGc := s.gc }
    ∧ (∀ c, c ∈ g.saved → (s.restoredGallery n g).cell c.1
      = (s.cell c.1).restored c.2 (if c.2.fenced then fenceTag else g.tenant) (s.acycles (cellDie c.1)))
    ∧ ∀ i j, s.job? i = some j → j.gallery = some n → (s.restoredGallery n g).job? i = some { j with suspended := false } := by
  have hcells := (State.foldl_restoresCell g.tenant g.saved (s.ungate g.x0 g.y0 g.x1 g.y1) hnd hwf).1
  have hjobs := List.foldl_keeps State.jobs (State.restoresCell_jobs g.tenant) g.saved (s.ungate g.x0 g.y0 g.x1 g.y1)
  have hgc := List.foldl_keeps State.gc (State.restoresCell_gc g.tenant) g.saved (s.ungate g.x0 g.y0 g.x1 g.y1)
  unfold State.restoredGallery
  generalize g.saved.foldl (State.restoresCell g.tenant) (s.ungate g.x0 g.y0 g.x1 g.y1) = t at hcells hjobs hgc ⊢
  obtain ⟨sg, hsg⟩ := State.foldl_homesSignals_eq g.saved t
  rw [hsg]
  refine ⟨?_, hcells, fun i j hj hgal => ?_⟩
  · refine (Tab.get_put_of_ne (by simp) _ _).trans ?_
    exact congrArg (fun m => some { g with resident := true, saved := [], residentGc := m }) hgc
  · have ht : State.job? { t with sigs := sg } i = some j := (congrArg (fun js => Tab.get none js i) hjobs).trans hj
    exact (State.job_mapJobs (fun _ j => if j.gallery = some n then { j with suspended := false } else j) ht).trans
      (congrArg some (if_pos hgal))

/-- What GALLERY_RESTORE waits for holds no gallery back here (R334). -/
theorem exec_galleryRestore_at {s : State} {n : Nat} {g : Gallery} (hf : s.fatal = false) (hg : s.gallery? n = some g)
    (hres : g.resident = false) (hturn : s.myTurn g.tenant = true) (hsag : s.sag < 4) (hsite : s.siteTaken n g = false) (hwant : s.wants n ≠ [])
    (hroom : ((s.gals.filterMap (fun e => e.2)).map (fun (p : Gallery) => if p.resident && p.tenant == g.tenant then (s.galCells p).length else 0)).sum
      + g.saved.length ≤ bits (s.reg (rTen g.tenant 0x10)) 11 0) :
    exec (.galleryRestore n) s = .next (if g.saved.any (fun c => !s.goodCell c.1) then s.jobs.foldl (fun s e => match e.2 with
        | some j => if j.gallery = some n then s.stopJob (some e.1) .memUncorrectable 0 else s
        | none => s) s
      else
        let s := g.saved.foldl (fun s c => s.setCell c.1 ((s.cell c.1).waitAgain)) (s.restoredGallery n g)
        let s := g.saved.foldl (fun s c => c.2.waitsOf.foldl (fun s w => s.cellSignal c.1 w.1 .wait w.2.1.sig w.2.1.value w.2.2) s) s
        let s := g.saved.foldl (fun s c => s.releaseEntries c.1 ((c.2.msg.map MsgLogic.freed).getD 0)) s
        ((s.repeatPhases n).regAdd (rFmEvt 8) 1).traceEv 7 g.tenant 0
          [n, pageSize * g.savePages.length % 2 ^ 32, pageSize * g.savePages.length / 2 ^ 32]) := by
  refine congrArg Host.Outcome.next ((if_neg (by simp [hf])).trans ?_)
  rw [hg]
  refine (if_neg ?_).trans rfl
  rw [hres, hturn, hsite, decide_eq_false hwant, decide_eq_false (Nat.not_le.mpr hsag), decide_eq_false (Nat.not_lt.mpr hroom)]
  decide

/-! ### Parking -/

/-- A job of the gallery is stopping, or a request to a region of its tasks is on its way (R331). -/
def State.jobsHoldPark (u : State) (n : Nat) : Bool :=
  u.jobs.any (fun e => match e.2 with | some j => j.gallery == some n && j.stop.isSome | none => false)
    || u.jobs.any (fun e => match e.2 with
      | some j => j.gallery == some n && j.tasks.any (fun t => t.phase.regions.any (fun r => u.readyPending r.1 r.2))
      | none => false)

theorem State.jobsHoldPark_iff {u : State} {n : Nat} : u.jobsHoldPark n = true ↔ ∃ e j, e ∈ u.jobs ∧ e.2 = some j ∧ j.gallery = some n
    ∧ (j.stop ≠ none ∨ ∃ t r, t ∈ j.tasks ∧ r ∈ t.phase.regions ∧ u.readyPending r.1 r.2 = true) := by
  unfold State.jobsHoldPark
  rw [Bool.or_eq_true, List.any_eq_true, List.any_eq_true]
  constructor
  · rintro (⟨⟨k, _ | j⟩, he, h⟩ | ⟨⟨k, _ | j⟩, he, h⟩)
    · exact absurd h (by simp)
    · simp only [Bool.and_eq_true, beq_iff_eq, Option.isSome_iff_ne_none] at h
      exact ⟨_, j, he, rfl, h.1, Or.inl h.2⟩
    · exact absurd h (by simp)
    · simp only [Bool.and_eq_true, beq_iff_eq, List.any_eq_true] at h
      obtain ⟨hgal, t, ht, r, hr, hp⟩ := h
      exact ⟨_, j, he, rfl, hgal, Or.inr ⟨t, r, ht, hr, hp⟩⟩
  · rintro ⟨e, j, he, hej, hgal, hstop | ⟨t, r, ht, hr, hp⟩⟩
    · exact Or.inl ⟨e, he, by rw [hej]; simpa [hgal] using Option.isSome_iff_ne_none.mpr hstop⟩
    · refine Or.inr ⟨e, he, ?_⟩
      rw [hej]
      simp only [hgal, beq_self_eq_true, Bool.true_and, List.any_eq_true]
      exact ⟨t, ht, r, hr, hp⟩

/-- A park waits (R331). -/
def State.parkWaits (u : State) (n : Nat) (g : Gallery) (cells : List Nat) : Bool :=
  u.jobsHoldPark n || u.inTransit g || !cells.all (fun k => (u.cell k).savable)
    || u.flight.any (fun p => g.holds p.dst && decide (p.dst < cellSites))

/-- A cell that is parked: its signals go to Hub N and its contexts' waits leave the queues (R257, R331). -/
def State.parksCell (s : State) (k : Nat) : State := (s.homeToHub k).dropWaits k

/-- Cells that are parked keep all but the signals and their lists of them. -/
theorem State.foldl_parksCell_eq {u : State} (hwf : Tab.wf Cell.reset u.cells = true) (cells : List Nat) :
    ∃ g c, Tab.wf Cell.reset c = true ∧ cells.foldl State.parksCell u = { u with sigs := g, cells := c } := by
  refine List.foldlRecOn (motive := fun (t : State) => ∃ g c, Tab.wf Cell.reset c = true ∧ t = { u with sigs := g, cells := c }) cells _
    ⟨u.sigs, u.cells, hwf, rfl⟩ ?_
  rintro _ ⟨g, c, hc, rfl⟩ k -
  obtain ⟨g', hg'⟩ := State.homeToHub_eq { u with sigs := g, cells := c } k
  unfold State.parksCell
  rw [hg']
  exact ⟨_, _, Tab.wf_put _ hc _ _, rfl⟩

/-- Cells cleared one after another: each of them is empty and without an owner (R331). -/
theorem State.cleared_foldl {s : State} (hwf : Tab.wf Cell.reset s.cells = true) (cells : List Nat) :
    ∀ k ∈ cells, ((cells.foldl (fun s k => s.setCell k (s.cell k).cleared) s).cell k).mem = []
      ∧ ((cells.foldl (fun s k => s.setCell k (s.cell k).cleared) s).cell k).owner = 0 := by
  refine List.forall_mem_foldl (I := fun (t : State) => Tab.wf Cell.reset t.cells = true)
    (P := fun (t : State) k => (t.cell k).mem = [] ∧ (t.cell k).owner = 0) (fun t m ht => Tab.wf_put _ ht _ _) ?_ ?_ cells hwf
  · intro t m k ht hk
    by_cases hkm : k = m
    · subst hkm
      rw [t.cell_setCell_same _ _ ht]
      exact ⟨rfl, rfl⟩
    · rw [t.cell_setCell_other _ _ _ hkm]
      exact hk
  · intro t k ht
    rw [t.cell_setCell_same _ _ ht]
    exact ⟨rfl, rfl⟩

/-- A gallery parked: its jobs suspended, its cells cleared, their state saved (R331, R332). -/
def State.parkedGallery (u : State) (n : Nat) (g : Gallery) (pages cells : List Nat) : State :=
  let s := cells.foldl State.parksCell u
  let s := s.mapJobs (fun _ j => if j.gallery == some n then
    { j with suspended := true, susGc := s.gc
             tasks := j.tasks.map (fun (t : Task) => { t.rewind with phase := { t.rewind.phase with again := t.inPlace t.phase.current } }) } else j)
  let s := cells.foldl (fun s k => s.setCell k (s.cell k).cleared) s
  let s := (s.setGallery n (some { g with resident := false, busy := false, savePages := pages
                                          saved := cells.map (fun k => (k, u.savedCell g k)) })).regAdd (rFmEvt 7) 1
  s.traceEv 7 g.tenant 0 [n, pageSize * ceilDiv (3 * cells.length) 4 % 2 ^ 32, pageSize * ceilDiv (3 * cells.length) 4 / 2 ^ 32]

theorem State.parkedGallery_reads {u : State} {n : Nat} {g : Gallery} {pages cells : List Nat} (hwf : Tab.wf Cell.reset u.cells = true) :
    (u.parkedGallery n g pages cells).gallery? n = some { g with resident := false, busy := false, savePages := pages
                                                                 saved := cells.map (fun k => (k, u.savedCell g k)) }
    ∧ (∀ i j, u.job? i = some j → j.gallery = some n → ∃ j', (u.parkedGallery n g pages cells).job? i = some j' ∧ j'.suspended = true ∧ j'.susGc = u.gc)
    ∧ ∀ k, k ∈ cells → ((u.parkedGallery n g pages cells).cell k).mem = [] ∧ ((u.parkedGallery n g pages cells).cell k).owner = 0 := by
  obtain ⟨sg, c, hc, hpark⟩ := State.foldl_parksCell_eq hwf cells
  unfold State.parkedGallery
  rw [hpark]
  extract_lets s0 s1 s2 s3
  have hjobs : s2.jobs = s1.jobs := List.foldl_keeps State.jobs (f := fun (s : State) k => s.setCell k (s.cell k).cleared) (fun _ _ => rfl) cells s1
  have hcells := State.cleared_foldl (s := s1) hc cells
  obtain ⟨tr, htr⟩ := s3.traceEv_eq 7 g.tenant 0
    [n, pageSize * ceilDiv (3 * cells.length) 4 % 2 ^ 32, pageSize * ceilDiv (3 * cells.length) 4 / 2 ^ 32]
  rw [htr]
  refine ⟨Tab.get_put_of_ne (by simp) _ _, fun i j hj hgal => ?_, hcells⟩
  have h1 := State.job_mapJobs (s := { u with sigs := sg, cells := c }) (fun _ j => if j.gallery == some n then
    { j with suspended := true, susGc := u.gc
             tasks := j.tasks.map (fun (t : Task) => { t.rewind with phase := { t.rewind.phase with again := t.inPlace t.phase.current } }) } else j) hj
  refine ⟨_, (congrArg (fun js => Tab.get none js i) hjobs).trans h1, ?_, ?_⟩
  all_goals simp only [hgal, beq_self_eq_true, if_true]

/-- GALLERY_PARK of a gallery that has its pages (R330, R331). -/
theorem exec_galleryPark_at {s v u : State} {n : Nat} {g : Gallery} {pages : List Nat} (hf : s.fatal = false) (hg : s.gallery? n = some g)
    (hmay : g.busy = true ∨ (s.mayPark n g = true ∧ s.myTurn g.tenant = true)) (hres : g.resident = true) (hsag : s.sag < 4)
    (hpages : (g.savePages ≠ [] ∧ pages = g.savePages ∧ v = s) ∨ (g.savePages = []
      ∧ s.pagesUsed g.tenant + ceilDiv (3 * (s.galCells g).length) 4 ≤ bits (s.reg (rTen g.tenant 0x0C)) 17 0
      ∧ s.takePages g.tenant (4 + cellDie (cellIndex g.x0 g.y0)) (ceilDiv (3 * (s.galCells g).length) 4) = some (pages, v)))
    (hu : u = (v.jobs.foldl (fun s e => match e.2 with
      | some j => if j.gallery == some n && j.noSuspend then s.stopJob (some e.1) .preempted 0 else s
      | none => s) v).setGallery n (some { g with busy := true, savePages := pages })) :
    exec (.galleryPark n) s = .next (if u.parkWaits n g (s.galCells g) then u else u.parkedGallery n g pages (s.galCells g)) := by
  subst hu
  have hfree : (!g.busy && !(s.mayPark n g && s.myTurn g.tenant)) = false := by
    rcases hmay with h | ⟨h1, h2⟩
    · rw [h]
      rfl
    · rw [h1, h2]
      exact Bool.and_false _
  have htake : (if g.savePages = [] then
      (if s.pagesUsed g.tenant + ceilDiv (3 * (s.galCells g).length) 4 ≤ bits (s.reg (rTen g.tenant 0x0C)) 17 0 then
        s.takePages g.tenant (4 + cellDie (cellIndex g.x0 g.y0)) (ceilDiv (3 * (s.galCells g).length) 4) else none)
      else some (g.savePages, s)) = some (pages, v) := by
    rcases hpages with ⟨h, rfl, rfl⟩ | ⟨h, hq, ht⟩
    · exact if_neg h
    · exact (if_pos h).trans ((if_pos hq).trans ht)
  refine congrArg Host.Outcome.next ((if_neg (by simp [hf])).trans ?_)
  rw [hg]
  refine (if_neg (Bool.eq_false_iff.mp hfree)).trans ((if_neg (by simp [hres, hsag])).trans ?_)
  dsimp only
  rw [htake]
  rfl

/-- Settles O34: a park waits or saves and clears its cells; a restore puts them back, or stops the jobs. -/
theorem galleriesParkedAndRestored : Obligations.GalleriesParkedAndRestored := by
  unfold Obligations.GalleriesParkedAndRestored
  refine ⟨?park, ?restore⟩
  case park =>
    intro s v u n g pages hf hg hmay hres hsag hpages hu
    rw [exec_galleryPark_at hf hg hmay hres hsag hpages hu]
    refine ⟨fun hwait => ?_, fun hjobs htr hsav hfl hcwf _ _ => ?_⟩
    · refine congrArg Host.Outcome.next (if_pos ?_)
      unfold State.parkWaits
      rcases hwait with h | h | ⟨k, hk, h⟩ | ⟨p, hp, h1, h2⟩
      · rw [State.jobsHoldPark_iff.mpr h]
        rfl
      · rw [h, Bool.or_true]
        rfl
      · have hall : ((s.galCells g).all (fun k => (u.cell k).savable)) = false := List.all_eq_false.mpr ⟨k, hk, by simp [h]⟩
        rw [hall, Bool.not_false, Bool.or_true]
        rfl
      · rw [List.any_eq_true.mpr ⟨p, hp, by simp [h1, h2]⟩, Bool.or_true]
    · obtain ⟨hgal, hj, hc⟩ := State.parkedGallery_reads (n := n) (g := g) (pages := pages) (cells := s.galCells g) hcwf
      refine ⟨u.parkedGallery n g pages (s.galCells g), { g with resident := false, busy := false, savePages := pages
                                                                 saved := (s.galCells g).map (fun k => (k, u.savedCell g k)) },
        congrArg Host.Outcome.next (if_neg ?_), hgal, rfl, rfl, rfl, by dsimp only, hj, hc⟩
      have h1 : u.jobsHoldPark n = false := by
        refine Bool.eq_false_iff.mpr fun h => ?_
        obtain ⟨e, j, he, hej, hgal, hbad⟩ := State.jobsHoldPark_iff.mp h
        obtain ⟨hstop, hreg⟩ := hjobs e j he hej hgal
        rcases hbad with hb | ⟨t, r, ht, hr, hp⟩
        · exact hb hstop
        · exact absurd hp (by simp [hreg t r ht hr])
      have h2 : (s.galCells g).all (fun k => (u.cell k).savable) = true := List.all_eq_true.mpr hsav
      have h3 : u.flight.any (fun p => g.holds p.dst && decide (p.dst < cellSites)) = false := by
        refine List.any_eq_false.mpr fun p hp h => ?_
        simp only [Bool.and_eq_true, decide_eq_true_eq] at h
        exact absurd h.2 (Nat.not_lt.mpr (hfl p hp h.1))
      rw [State.parkWaits, h1, htr, h2, h3]
      decide
  case restore =>
    intro s n g hf hg hres hturn hsag hsite hwant hroom
    rw [exec_galleryRestore_at hf hg hres hturn hsag hsite hwant hroom]
    refine ⟨?_, fun hgood hnd hcwf _ => ?_⟩
    · rintro ⟨c, hc, hbad⟩
      exact congrArg Host.Outcome.next (if_pos (List.any_eq_true.mpr ⟨c, hc, by simp [hbad]⟩))
    · obtain ⟨hgal, hcells, hjobs⟩ := State.restoredGallery_reads (n := n) hnd hcwf
      refine ⟨s.restoredGallery n g, hgal, hcells, hjobs, ?_⟩
      rintro a b c rfl rfl rfl
      refine congrArg Host.Outcome.next (if_neg ?_)
      rw [List.any_eq_false.mpr (fun c hc => by simp [hgood c hc])]
      exact Bool.false_ne_true

end Sys2Proof.Machine
end

section
/-!
O35: the activation of an engine command (R342, R351).
-/
namespace Sys2Proof.Machine
open Sys2Proof

/-- A command that is active and has written the byte at 0x100 of memory kind 0. -/
def besideCmd : EngCmd := { id := 0, job := 0, task := 0, cmd := [], active := true, wrote := [(0, 0x100, 1)] }

/-- A FILL of 16 bytes whose wait is satisfied. -/
def eligibleCmd : EngCmd :=
  { id := 1, job := 0, task := 1, cmd := [0x14, 0, 0, 0, 0, 0, 0, 0, 0, 0, 0, 16, 1, 0, 0, 0].flatMap (leBytes 4), ready := true }

/-- An engine with a command to activate beside an active one of the same tenant. -/
def besideState : State := { State.reset with engines := [(0, [besideCmd, eligibleCmd])] }

/-- An activated command takes down what the other has written: it is open in what the activated one writes there (R351). -/
theorem besideState_activated : ∃ t, exec (.engineActivate 0) besideState = .next t ∧ (t.engine 0).map EngCmd.others = [[], [(0, 0x100, 1)]] :=
  ⟨_, rfl, by decide +kernel⟩

/-- Refutes O35: the clause of ENGINE_ACTIVATE leaves an activated command's `others` as they were, while the command takes down there
what the tenant's other active commands have written (R351). -/
theorem not_engineCommandsPlacedAndCompleted : ¬ Obligations.EngineCommandsPlacedAndCompleted := by
  unfold Obligations.EngineCommandsPlacedAndCompleted
  rintro ⟨-, hact, -⟩
  obtain ⟨t, ht, hothers⟩ := besideState_activated
  have h := hact besideState _ 0 eligibleCmd _ none [] none (by decide +kernel) (by decide +kernel) (by decide +kernel)
    (Or.inr ⟨by decide +kernel, Or.inr ⟨rfl, rfl⟩⟩) rfl rfl
  rw [ht] at h
  have h' := congrArg (fun o => match o with | Host.Outcome.next t => (t.engine 0).map EngCmd.others | _ => []) h
  dsimp only at h'
  rw [hothers] at h'
  exact absurd h' (by decide +kernel)

end Sys2Proof.Machine
end

section
/-!
O36: an engine's chunks (R343 to R345, R398), and the rows that perform all the chunks left (log 57).
-/
namespace Sys2Proof.Machine
open Sys2Proof

/-- The opcode of each engine opcode's row. -/
noncomputable def chunkRows : List ((Nat → HostIn → Instr) × Nat) :=
  [(.dmaCopy, 0x10), (.copy2d, 0x11), (.scatter, 0x12), (.convert, 0x13), (.dmaFill, 0x14), (.dmaMsg, 0x15), (.allReduce, 0x20),
   (.reduceScatter, 0x21), (.allGather, 0x22), (.broadcast, 0x23), (.allToAll, 0x24), (.reduce, 0x25), (.gather, 0x30), (.bag, 0x31),
   (.sort, 0x40), (.topk, 0x41), (.rand, 0x50), (.compress, 0x60), (.decompress, 0x61), (.gcmEnc, 0x70), (.gcmDec, 0x71), (.sha384, 0x72),
   (.update, 0x80)]

/-- The row of an engine opcode performs the chunks of that opcode's command. -/
theorem exec_chunkRow {s : State} {x : (Nat → HostIn → Instr) × Nat} (hx : x ∈ chunkRows) (e : Nat) (h : HostIn) (hf : s.fatal = false) :
    exec (x.1 e h) s = .next (s.engAll x.2 e h) := by
  simp only [chunkRows, List.mem_cons, List.not_mem_nil, or_false] at hx
  rcases hx with rfl | rfl | rfl | rfl | rfl | rfl | rfl | rfl | rfl | rfl | rfl | rfl | rfl | rfl | rfl | rfl | rfl | rfl | rfl | rfl | rfl | rfl | rfl
  all_goals exact congrArg Host.Outcome.next (if_neg (by simp [hf]))

/-- A chunk of a command that is no MSG, no collective and not skipped makes its part of the plan's writes (R344). -/
theorem State.engChunk_plan {s t u v : State} {e n : Nat} {h : HostIn} {c : EngCmd} {p : Plan} {bad : EngEnd} (ht : t = s.regAdd (rEng e 1) 1)
    (hop : c.op ≠ 0x15) (hcoll : c.isColl = false) (hskip : ∀ d, c.decision = some d → d.skip = false) (hp : p = t.engPlan c h)
    (hu : u = (if c.done = 0 ∨ p.fin ≠ .ok then p.s.regAdd (rEng e 7) p.taken else { t with freeCtr := p.s.freeCtr }))
    (hw : u.engWrites c (p.part c.done) = (v, n, bad)) :
    s.engChunk e c h = match (generalizing := false) bad with
      | some st => (v.regAdd (rEng e 8) n).engFin e c.id st 0 0 0
      | none =>
        if c.done + 1 < p.size then (v.regAdd (rEng e 8) n).updEng e c.id (fun c => { c with done := c.done + 1 })
        else ((v.regAdd (rEng e 8) n).updEng e c.id (fun c => { c with done := c.done + 1 })).engFin e c.id p.fin p.detail p.count p.cond := by
  have hdec : (match c.decision with | some d => d.skip | none => false) = false := by
    cases hd : c.decision with
    | none => rfl
    | some d => exact hskip d hd
  unfold State.engChunk
  refine (if_neg hop).trans ((if_neg (by simp [hcoll])).trans ((if_neg (Bool.eq_false_iff.mp hdec)).trans ?_))
  cases bad
  all_goals
    dsimp only
    rw [← ht, ← hp, ← hu, hw]

/-- Settles O36: what is selected and served, the rows, and the kinds of chunk. -/
theorem engineCommandsPerformTheirChunks : Obligations.EngineCommandsPerformTheirChunks := by
  unfold Obligations.EngineCommandsPerformTheirChunks
  refine ⟨?slot, ?rows, ?chunk⟩
  case slot =>
    intro s e h hf
    refine ⟨?_, ?_, ?_⟩
    · intro hpick
      refine congrArg Host.Outcome.next ((if_neg (by simp [hf])).trans ?_)
      simp only [hpick]
    · intro c hpick hserved
      refine congrArg Host.Outcome.next ((if_neg (by simp [hf])).trans ?_)
      simp only [hpick, hserved, Bool.not_false, if_true]
    · intro c hpick hserved
      refine congrArg Host.Outcome.next ((if_neg (by simp [hf])).trans ?_)
      simp only [hpick, hserved, Bool.not_true, Bool.false_eq_true, if_false]
  case rows =>
    rintro x hx s t e n h c hf hpick hop hserved rfl rfl
    rw [exec_chunkRow hx e h hf]
    unfold State.engAll
    simp only [hpick, hserved, hop, ne_eq, not_true_eq_false, decide_false, Bool.not_true, Bool.or_self, Bool.false_eq_true, if_false] <;> rfl
  case chunk =>
    intro s t e h c ht
    refine ⟨?_, ?_, ?_, ?_⟩
    · intro hop
      rw [ht]
      exact if_pos hop
    · intro hop hcoll
      rw [ht]
      exact (if_neg hop).trans (if_pos hcoll)
    · intro d hop hcoll hd hskip
      rw [ht]
      refine (if_neg hop).trans ((if_neg (by simp [hcoll])).trans (if_pos ?_))
      rw [hd]
      exact hskip
    · rintro u v w n p bad hop hcoll hskip hp hu hw rfl
      rw [State.engChunk_plan ht hop hcoll hskip hp hu hw]
      refine ⟨?_, ?_, ?_⟩
      · rintro st rfl
        rfl
      · rintro rfl hmore
        exact if_pos hmore
      · rintro rfl hlast
        exact if_neg (Nat.not_lt.mpr hlast)

end Sys2Proof.Machine
end

section
/-!
What a completion may write: the rings, the entries, the host's memory, the cache's lines and the registers (R507, R508, R516, R526).
-/
namespace Sys2Proof.Machine
open Sys2Proof

/-- The fields a completion may write. -/
def State.complWrites (s t : State) : Prop :=
  ∃ r c h l g, t = { s with rings := r, cmds := c, host := h, lines := l, regs := g }

theorem State.complWrites_refl (s : State) : s.complWrites s := ⟨_, _, _, _, _, rfl⟩

theorem State.complWrites.trans {s t u : State} (h : s.complWrites t) (h' : t.complWrites u) : s.complWrites u := by
  obtain ⟨_, _, _, _, _, rfl⟩ := h
  obtain ⟨_, _, _, _, _, rfl⟩ := h'
  exact ⟨_, _, _, _, _, rfl⟩

theorem State.complWrites_ite {s t u : State} {p : Prop} [Decidable p] (ht : s.complWrites t) (hu : s.complWrites u) :
    s.complWrites (if p then t else u) := by
  split
  · exact ht
  · exact hu

theorem State.complWrites_foldl {α : Type} {f : State → α → State} (hf : ∀ (s : State) a, s.complWrites (f s a)) (l : List α) (s : State) :
    s.complWrites (l.foldl f s) :=
  List.foldlRecOn l f s.complWrites_refl (fun t ht a _ => ht.trans (hf t a))

theorem State.complWrites_raise (s : State) (fn v : Nat) : s.complWrites (s.raise fn v) := by
  obtain ⟨g, h, e⟩ := s.raise_eq fn v
  rw [e]
  exact ⟨_, _, _, _, _, rfl⟩

theorem State.complWrites_setRing (s : State) (fn k : Nat) (r : Ring) : s.complWrites (s.setRing fn k r) := ⟨_, _, _, _, _, rfl⟩

theorem State.complWrites_ringIrq (s : State) (fn k : Nat) : s.complWrites (s.ringIrq fn k) := by
  unfold State.ringIrq
  extract_lets r n
  exact State.complWrites_ite s.complWrites_refl
    (State.complWrites_ite ((s.complWrites_setRing _ _ _).trans (State.complWrites_raise _ _ _)) (s.complWrites_setRing _ _ _))

theorem State.complWrites_addLine (s : State) (l : HostLine) : s.complWrites (s.addLine l) := by
  unfold State.addLine
  extract_lets ls
  refine State.complWrites_ite ⟨_, _, _, _, _, rfl⟩ ?_
  split
  · exact State.complWrites_ite ⟨_, _, _, _, _, rfl⟩ ⟨_, _, _, _, _, rfl⟩
  · exact ⟨_, _, _, _, _, rfl⟩

/-- A completion written into its queue (R508, R516). -/
theorem State.complWrites_writeCompl (s : State) (fn k : Nat) (c : Compl) (dup : Bool) : s.complWrites (s.writeCompl fn k c dup) := by
  unfold State.writeCompl
  extract_lets r i a bs done la old
  have hdone (u : State) : u.complWrites (done u) :=
    (State.complWrites.trans (u.complWrites_setRing fn k _) ⟨_, _, _, _, _, rfl⟩).trans (State.complWrites_ringIrq _ _ _)
  refine State.complWrites_ite ?_ (State.complWrites.trans ⟨_, _, _, _, _, rfl⟩ (hdone _))
  split
  · next l _ =>
    refine State.complWrites_ite (s.complWrites_setRing _ _ _) ?_
    exact (State.complWrites.trans (t := s.dropLine l) ⟨_, _, _, _, _, rfl⟩ (State.complWrites_addLine _ _)).trans (hdone _)
  · exact (s.complWrites_addLine _).trans (hdone _)

theorem State.complWrites_postCompl (s : State) (fn k : Nat) (c : Compl) (dup : Bool) : s.complWrites (s.postCompl fn k c dup) := by
  unfold State.postCompl
  extract_lets r
  exact State.complWrites_ite s.complWrites_refl (State.complWrites_ite (s.complWrites_setRing _ _ _) (s.complWrites_writeCompl _ _ _ _))

/-- An entry done with, its completion kept in the window (R518). -/
theorem State.complWrites_window (s : State) (fn k : Nat) (r : Ring) (cmds : List Cmd) :
    s.complWrites { s.setRing fn k r with cmds := cmds } := ⟨_, _, _, _, _, rfl⟩

theorem State.complWrites_answer (s : State) (c : Cmd) (e : Compl) : s.complWrites (s.answer c e) :=
  ((s.complWrites_window _ _ _ _).trans (State.complWrites_postCompl _ _ _ _ _)).trans
    (State.complWrites_foldl (fun u _ => u.complWrites_postCompl _ _ _ _) _ _)

theorem State.complWrites_finish (s : State) (c : Cmd) (st : Status) (detail : Nat) : s.complWrites (s.finish c st detail) :=
  State.complWrites.trans (State.complWrites_ite ⟨_, _, _, _, _, rfl⟩ s.complWrites_refl) (State.complWrites_answer _ _ _)

theorem State.complWrites_tetherFinish (s : State) (cmd : Option Nat) (st : Status) : s.complWrites (s.tetherFinish cmd st) := by
  unfold State.tetherFinish
  split
  · exact s.complWrites_finish _ _ _
  · exact s.complWrites_refl

end Sys2Proof.Machine
end

section
/-!
O40: resets, start events and the stages of bring-up (R575, R605, R610 to R617).
-/
namespace Sys2Proof.Machine
open Sys2Proof

/-- Writing a fault record changes nothing of the AO domain but the events and the kept record: PERST# stays. -/
theorem State.record_perst (s : State) (k : Kind) (r : FaultRec) (b : Bool) : (s.record k r b).ao.perst = s.ao.perst := by
  unfold State.record
  extract_lets r' s1 s2 s3
  have h2 : s2.ao.perst = s.ao.perst := by
    unfold s2
    split <;> rfl
  have h3 : s3.ao.perst = s2.ao.perst := by
    obtain ⟨g, h, e⟩ := s2.raiseRec_eq 0 r'.level
    rw [show s3 = _ from e]
  split
  · obtain ⟨g, h, e⟩ := s3.raiseRec_eq r'.tenant r'.level
    rw [e]
    exact h3.trans h2
  · exact h3.trans h2

theorem State.sagRecord_perst (s : State) (stage mv : Nat) (entry : Bool) : (s.sagRecord stage mv entry).ao.perst = s.ao.perst := by
  unfold State.sagRecord
  extract_lets t
  have ht : t.ao.perst = s.ao.perst := by
    unfold t
    split <;> rfl
  obtain ⟨x, hx⟩ := State.traceEv_eq (t.record .sagStage { noRec with node := hubN, unit := 0xD, code := stage + (if entry then 2 ^ 31 else 0)
                                                                      idx0 := mv / 10 }) 0xB 0 0 [t.pwr.stage]
  rw [hx]
  exact (t.record_perst _ _ _).trans ht

/-- The end of a stage sets its number, and leaves the signals (R610). -/
theorem State.stageDone_reads (s : State) (n : Nat) : (s.stageDone n).stage = n ∧ (s.stageDone n).sigs = s.sigs := by
  unfold State.stageDone
  extract_lets t
  obtain ⟨x, hx⟩ := ({ s with stage := n } : State).pldmEvent.traceEv_eq 0xB 0 0 [n]
  have ht : t.stage = n ∧ t.sigs = s.sigs := by
    rw [show t = _ from hx]
    exact ⟨rfl, rfl⟩
  clear_value t
  obtain ⟨r, c, h, l, g, hfold⟩ := State.complWrites_foldl (f := fun (u : State) f => u.raise f 8) (fun u f => u.complWrites_raise f 8)
    ((List.range 17).filter (fun f => t.fnExists f && (t.fnCfg f).msix)) t
  rw [hfold]
  exact ht

theorem State.resyncFail_reads (s : State) (st : Status) : (s.resyncFail st).sigs = s.sigs ∧ (s.resyncFail st).gate = s.gate := by
  unfold State.resyncFail
  extract_lets u
  split
  · obtain ⟨r, c, h, l, g, h2⟩ := (u.updTether (fun t => { t with resync := none })).complWrites_tetherFinish s.tether.resync st
    rw [h2]
    exact ⟨rfl, rfl⟩
  · exact ⟨rfl, rfl⟩

/-- The pair's end changes no signal and not the gate (R484). -/
theorem State.tetherDissolve_reads (s : State) : s.tetherDissolve.sigs = s.sigs ∧ s.tetherDissolve.gate = s.gate := by
  obtain ⟨r, c, h, l, g, h1⟩ := s.complWrites_tetherFinish s.tether.cmd .cancelled
  obtain ⟨h2, h3⟩ := (s.tetherFinish s.tether.cmd .cancelled).resyncFail_reads .cancelled
  rw [congrArg State.sigs h1] at h2
  rw [congrArg State.gate h1] at h3
  unfold State.tetherDissolve
  generalize (s.tetherFinish s.tether.cmd .cancelled).resyncFail .cancelled = u at h2 h3 ⊢
  exact ⟨h2, h3⟩

/-- A PF FLR up to the functions' registers: functions reset, tenants removed, what the owner held freed, gate and pair gone (R617). -/
def State.flrDrops (s : State) : State :=
  let s := (List.range 17).foldl State.resetFn s
  let s := ((List.range 16).map (· + 1)).foldl (fun s t => if s.present t then s.removeTenant t else s) s
  let s := s.dropOwner.freeAll
  let s := (List.range 64).foldl (fun s i => if s.grpValid i then s.setField (rGrp i 0) 0 0 0 else s) s
  let s := (s.setField (rGate 0) 0 0 0).setGate false none
  if s.tether.st = .none then s else s.tetherDissolve

/-- Groups made invalid change no signal. -/
theorem State.foldl_clearGroup_sigs (l : List Nat) (u : State) :
    (l.foldl (fun (s : State) i => if s.grpValid i then s.setField (rGrp i 0) 0 0 0 else s) u).sigs = u.sigs := by
  induction l generalizing u with
  | nil => rfl
  | cons a l ih =>
    rw [List.foldl_cons, ih]
    split
    · rfl
    · rfl

theorem State.freeAll_sigs (s : State) : s.freeAll.sigs = [] := rfl

/-- The gate goes; signals stay. -/
theorem State.endGate_reads (s : State) : ((s.setField (rGate 0) 0 0 0).setGate false none).sigs = s.sigs
    ∧ ((s.setField (rGate 0) 0 0 0).setGate false none).gate = none := ⟨rfl, rfl⟩

theorem State.flrDrops_reads (s : State) : s.flrDrops.sigs = [] ∧ s.flrDrops.gate = none := by
  unfold State.flrDrops
  extract_lets s1 s2 s3 s4 s5
  have h4 : s4.sigs = [] := (State.foldl_clearGroup_sigs _ s3).trans (State.freeAll_sigs _)
  have h5 : s5.sigs = [] ∧ s5.gate = none := ⟨s4.endGate_reads.1.trans h4, s4.endGate_reads.2⟩
  clear_value s5
  split
  · exact h5
  · exact ⟨s5.tetherDissolve_reads.1.trans h5.1, s5.tetherDissolve_reads.2.trans h5.2⟩

/-- What a PF FLR leaves besides (R617). -/
def State.flrLeaves (s : State) : State :=
  (State.setField { s with
    vfEn := false, pfOnly := decide (bits (s.reg rLinkInfo) 2 0 ≠ 3), feat := 0, groups := [], grants := []
    aliasGate := none, launch := [], tablesLost := s.tablesLost.filter (fun t => t ≠ 0)
    regs := s.regs.filter (fun r => !hostKey r.1) } rFeatStatus 0 0 0).ideOff

theorem exec_pfFlr_at {s : State} (hp : s.ao.powered = true) (ho : s.ao.off = false) (hr : s.ao.perst = false) (hl : s.ao.landed = true)
    (hf : s.fatal = false) : exec .pfFlr s = .next s.flrDrops.flrLeaves :=
  congrArg Host.Outcome.next (if_neg (by simp [hp, ho, hr, hl, hf]))

/-- Settles O40: each reset and each stage by what its guard reads, and what it leaves. -/
theorem resetsAndStages : Obligations.ResetsAndStages := by
  unfold Obligations.ResetsAndStages
  refine ⟨?powerOn, ?assert, ?deassert, ?devReset, ?landing, ?one, ?two, ?three, ?threeFails, ?flr⟩
  case powerOn =>
    rintro s x low high hq hlow hhigh rfl
    refine ⟨rfl, rfl, rfl, rfl, rfl, rfl, rfl, ?_⟩
    rintro y rfl
    have hguard : ¬ (s.ao.qualified = true ∨ low < 48000 ∨ 60000 < high) := by
      simp [hq, Nat.not_lt.mpr hlow, Nat.not_lt.mpr hhigh]
    refine congrArg Host.Outcome.next ((if_neg hguard).trans ?_)
    refine ite_congr (congrArg (· = true) ?_) (fun _ => rfl) (fun _ => rfl)
    split
    · exact State.sagRecord_perst _ _ _ _
    · rfl
  case assert =>
    intro s hp
    refine ⟨fun hpow hoff => ?_, fun hno => ?_⟩
    · exact congrArg Host.Outcome.next ((if_neg (by simp [hp])).trans (if_neg (by simp [hpow, hoff])))
    · exact congrArg Host.Outcome.next ((if_neg (by simp [hp])).trans (if_pos (by rcases hno with h | h <;> simp [h])))
  case deassert =>
    intro s hp
    refine ⟨fun hpow hq hoff => ?_, fun hno => ?_⟩
    · exact congrArg Host.Outcome.next ((if_neg (by simp [hp])).trans (if_pos ⟨hpow, hq, show (!s.ao.off) = true by rw [hoff]; rfl⟩))
    · refine congrArg Host.Outcome.next ((if_neg (by simp [hp])).trans (if_neg ?_))
      rintro ⟨h1, h2, h3⟩
      change s.ao.powered = true at h1
      change s.ao.qualified = true at h2
      change (!s.ao.off) = true at h3
      rcases hno with h | h | h
      · exact absurd h1 (by simp [h])
      · exact absurd h2 (by simp [h])
      · exact absurd h3 (by simp [h])
  case devReset =>
    intro s trig h2 h4 hpow hoff hp hl
    refine ⟨congrArg Host.Outcome.next (if_neg ?_), rfl, rfl, rfl, rfl⟩
    simp [Nat.not_lt.mpr h2, Nat.not_lt.mpr h4, hpow, hoff, hp, hl]
  case landing =>
    rintro s t hst hl hm rfl
    have hguard : (!s.ao.start || s.ao.landed || !s.mayStage) = false := by
      rw [hst, hl, hm]
      rfl
    refine ⟨?_, ?_, ?_⟩
    · intro hrec
      refine congrArg Host.Outcome.next ((if_neg (Bool.eq_false_iff.mp hguard)).trans ?_)
      simp only [hrec]
      rfl
    · intro q p hrec hbank
      refine congrArg Host.Outcome.next ((if_neg (Bool.eq_false_iff.mp hguard)).trans ?_)
      simp only [hrec, hbank]
      rfl
    · rintro q p b fb u hrec hbank rfl
      refine congrArg Host.Outcome.next ((if_neg (Bool.eq_false_iff.mp hguard)).trans ?_)
      have hforce : (fb = true ∧ (!s.ao.force.isSome) = true) ↔ (fb = true ∧ s.ao.force = none) := by
        rw [Bool.not_eq_true', Option.isSome_eq_false_iff, Option.isNone_iff_eq_none]
      simp only [hrec, hbank, hforce]
      rfl
  case one =>
    rintro s t u fw hbm hst hl hr hm rfl rfl
    have hguard : (decide (s.stage ≠ 0) || !s.ao.landed || s.sec.recovery || !s.mayStage) = false := by
      rw [hst, hl, hr, hm]
      rfl
    refine ⟨?_, ?_, ?_⟩
    · intro hno
      exact congrArg Host.Outcome.next ((if_neg (Bool.eq_false_iff.mp hguard)).trans (if_pos hno))
    · intro hb hall
      refine congrArg Host.Outcome.next ((if_neg (Bool.eq_false_iff.mp hguard)).trans ((if_neg hb).trans (if_pos ?_)))
      exact List.all_eq_true.mpr fun k hk => decide_eq_true (hall k (List.mem_range.mp hk))
    · rintro v hb ⟨k, hk, hne⟩ rfl
      refine congrArg Host.Outcome.next ((if_neg (Bool.eq_false_iff.mp hguard)).trans ((if_neg hb).trans ((if_neg ?_).trans ?_)))
      · intro hall
        exact hne (of_decide_eq_true (List.all_eq_true.mp hall k (List.mem_range.mpr hk)))
      · cases fw <;> rfl
  case two =>
    rintro s t u v bad hst hm rfl rfl rfl
    have hguard : (decide (s.stage ≠ 1) || !s.mayStage) = false := by
      rw [hst, hm]
      rfl
    refine ⟨?_, ?_, ?_⟩
    · exact congrArg Host.Outcome.next ((if_neg (Bool.eq_false_iff.mp hguard)).trans (if_pos rfl))
    · intro hcut hall
      refine congrArg Host.Outcome.next ((if_neg (Bool.eq_false_iff.mp hguard)).trans ((if_neg Bool.false_ne_true).trans (if_neg ?_)))
      rintro (h | h)
      · exact absurd h (by rw [hcut]; exact Bool.false_ne_true)
      · obtain ⟨c, hc, hgood⟩ := List.any_eq_true.mp h
        obtain ⟨h1, h2⟩ := Bool.and_eq_true_iff.mp hgood
        rw [List.contains_iff_mem.mpr (hall c (List.mem_range.mp hc) h1)] at h2
        exact Bool.false_ne_true h2
    · intro hbad
      refine congrArg Host.Outcome.next ((if_neg (Bool.eq_false_iff.mp hguard)).trans ((if_neg Bool.false_ne_true).trans (if_pos ?_)))
      refine hbad.imp_right ?_
      rintro ⟨c, hc, hgood, hno⟩
      exact List.any_eq_true.mpr ⟨c, List.mem_range.mpr hc, Bool.and_eq_true_iff.mpr ⟨hgood, by simpa using hno⟩⟩
  case three =>
    intro s t fw e hst hm htrain
    have hguard : (decide (s.stage ≠ 2) || !s.mayStage) = false := by
      rw [hst, hm]
      rfl
    have hfw : ¬ ((!s.ao.training) = true ∧ (!fw) = true) := by
      rcases htrain with ⟨h, -⟩ | ⟨-, h, -⟩ <;> simp [h]
    have ht : (if s.ao.training then s else s.beginStage3 e) = t := by
      rcases htrain with ⟨h, rfl⟩ | ⟨h, -, rfl⟩
      · exact if_pos h
      · exact if_neg (Bool.eq_false_iff.mp h)
    have hrun : exec (.stage3 fw e) s = .next (if (List.range 16).any (fun p => (t.port p).st == .training) then t else t.endStage3) := by
      refine congrArg Host.Outcome.next ((if_neg (Bool.eq_false_iff.mp hguard)).trans ((if_neg hfw).trans ?_))
      rw [ht]
    rw [hrun]
    refine ⟨fun hall => ⟨congrArg Host.Outcome.next (if_neg ?_), (State.stageDone_reads _ 3).1, (State.stageDone_reads _ 3).2⟩, ?_⟩
    · intro h
      obtain ⟨p, hp, hport⟩ := List.any_eq_true.mp h
      exact hall p (List.mem_range.mp hp) (beq_iff_eq.mp hport)
    · rintro ⟨p, hp, hport⟩
      refine congrArg Host.Outcome.next (if_pos ?_)
      exact List.any_eq_true.mpr ⟨p, List.mem_range.mpr hp, beq_iff_eq.mpr hport⟩
  case threeFails =>
    intro s e hst hm htrain
    have hguard : (decide (s.stage ≠ 2) || !s.mayStage) = false := by
      rw [hst, hm]
      rfl
    exact congrArg Host.Outcome.next ((if_neg (Bool.eq_false_iff.mp hguard)).trans (if_pos ⟨by rw [htrain]; rfl, rfl⟩))
  case flr =>
    intro s hpow hoff hp hl hf
    obtain ⟨hsigs, hgate⟩ := s.flrDrops_reads
    have hrun := exec_pfFlr_at hpow hoff hp hl hf
    generalize s.flrDrops = t at hsigs hgate hrun
    exact ⟨_, hrun, rfl, rfl, hsigs, hgate, rfl, rfl, rfl⟩

end Sys2Proof.Machine
end

section
/-!
O41: settings stores, firmware updates and the version floor (R575, R576, R620, R622, R628, R629).
-/
namespace Sys2Proof.Machine
open Sys2Proof

/-- A bank that is there reads as changed. -/
theorem State.bank_updBank_same (s : State) {b : Nat} (f : NvBank → NvBank) (h : b < s.nv.banks.length) : (s.updBank b f).bank b = f (s.bank b) := by
  unfold State.bank State.updBank State.updNv
  dsimp only
  rw [List.getElem?_map, List.getElem?_zipIdx, List.getElem?_eq_getElem h]
  simp

/-- The other banks stay. -/
theorem State.bank_updBank_other (s : State) {b i : Nat} (f : NvBank → NvBank) (h : i ≠ b) : (s.updBank b f).bank i = s.bank i := by
  unfold State.bank State.updBank State.updNv
  dsimp only
  rw [List.getElem?_map, List.getElem?_zipIdx]
  cases s.nv.banks[i]? with
  | none => rfl
  | some x => simp [h]

theorem State.length_updBank (s : State) (b : Nat) (f : NvBank → NvBank) : (s.updBank b f).nv.banks.length = s.nv.banks.length := by
  unfold State.updBank State.updNv
  dsimp only
  rw [List.length_map, List.length_zipIdx]

/-- FIRMWARE_UPDATE with the controller idle: the bundle goes into the bank that is not preferred, then both boot records name it
(R575, R620). -/
theorem exec_firmwareUpdate_at {s : State} {svn q p : Nat} {valid : Bool} (hpow : s.ao.powered = true) (hl : s.ao.landed = true)
    (hops : s.nv.ops = []) (hrec : s.bootRecord.getD (0, 1) = (q, p)) (hp : p < 2) :
    exec (.firmwareUpdate svn valid) s = .next ((s.updBank (1 - p) (fun x =>
      { x with bundle := if valid then some (svn % 128) else none, boot := some (q + 1, 1 - p) })).updBank p
        (fun x => { x with boot := some (q + 1, 1 - p) })) := by
  refine congrArg Host.Outcome.next ((if_neg (by rw [hpow, hl, hops]; decide)).trans ?_)
  rw [hrec]
  dsimp only
  rw [show 1 - (1 - p) = p by omega]

/-- Settles O41: stores and their two copies, a new bundle, and the floor. -/
theorem nonVolatileStores : Obligations.NonVolatileStores := by
  unfold Obligations.NonVolatileStores
  refine ⟨?store, ?pldm, ?erase, ?firmware, ?floor⟩
  case store =>
    intro s t fn k h c bs x he hx
    have hf := he.1.1
    have hk := he.1.2.1
    refine congrArg Host.Outcome.next ((if_neg (by simp [hf])).trans ?_)
    rw [Nat.mod_eq_of_lt hk]
    refine (State.executePay_at _ he (by decide)).trans ?_
    simp only [hx]
  case pldm =>
    intro s image hpow hst hlen hr
    refine congrArg Host.Outcome.next (if_neg ?_)
    rw [hpow, hr, decide_eq_false hst, decide_eq_false (Classical.not_not.mpr hlen)]
    decide
  case erase =>
    rintro s t o rest n b ok hops hbegun hbank rfl
    refine ⟨?_, ?_, ?_⟩
    · rintro rfl hmore
      refine congrArg Host.Outcome.next ?_
      simp only [hops, hbegun, hbank, hmore, and_self, if_true]
    · rintro rfl hmore
      refine congrArg Host.Outcome.next ?_
      simp only [hops, hbegun, hbank, hmore, Bool.false_eq_true, and_false, if_false, if_true]
    · rintro rfl
      refine congrArg Host.Outcome.next ?_
      simp only [hops, hbegun, hbank, Bool.false_eq_true, false_and, if_false]
  case firmware =>
    intro s svn q p valid hpow hl hops hrec hp hlen
    have hne : 1 - p ≠ p := by omega
    have h1 : ((s.updBank (1 - p) (fun x => { x with bundle := if valid then some (svn % 128) else none, boot := some (q + 1, 1 - p) })).bank
        (1 - p)) = { s.bank (1 - p) with bundle := if valid then some (svn % 128) else none, boot := some (q + 1, 1 - p) } :=
      s.bank_updBank_same _ (by omega)
    have h2 := s.bank_updBank_other (fun x => { x with bundle := if valid then some (svn % 128) else none, boot := some (q + 1, 1 - p) })
      hne.symm
    have h3 := s.length_updBank (1 - p) (fun x => { x with bundle := if valid then some (svn % 128) else none, boot := some (q + 1, 1 - p) })
    have hrun := exec_firmwareUpdate_at (svn := svn) (valid := valid) hpow hl hops hrec hp
    generalize s.updBank (1 - p) (fun x => { x with bundle := if valid then some (svn % 128) else none, boot := some (q + 1, 1 - p) }) = u
      at h1 h2 h3 hrun
    have h4 := u.bank_updBank_same (b := p) (fun x => { x with boot := some (q + 1, 1 - p) }) (by omega)
    have h5 := u.bank_updBank_other (fun x => { x with boot := some (q + 1, 1 - p) }) hne
    have hboot : ∀ i, i < 2 → ((u.updBank p (fun x => { x with boot := some (q + 1, 1 - p) })).bank i).boot = some (q + 1, 1 - p) := by
      intro i hi
      obtain rfl | rfl : i = p ∨ i = 1 - p := by omega
      · rw [h4]
      · rw [h5, h1]
    refine ⟨_, hrun, ?_, ?_, hboot 0 (by omega), hboot 1 (by omega)⟩
    · rw [h5, h1]
    · rw [h4, h2]
  case floor =>
    intro s v hbar hv
    refine ⟨fun h1 h2 => ?_, fun hno => ?_⟩
    · refine congrArg Host.Outcome.next ?_
      simp only [Nat.mod_eq_of_lt hv, hbar, decide_eq_false (Nat.not_le.mpr h1), decide_eq_false (Nat.not_lt.mpr h2), Bool.not_true,
        Bool.or_self, Bool.false_eq_true, if_false]
    · refine congrArg Host.Outcome.next (if_pos ?_)
      rw [Nat.mod_eq_of_lt hv]
      rcases hno with h | h <;> simp [h]

end Sys2Proof.Machine
end

section
/-!
O42: the debug lock, the key slots and the SPDM responder (R577 to R592, R653).
-/
namespace Sys2Proof.Machine
open Sys2Proof

/-! ### The debug lock -/

/-- What every listed value and the unlisted one have, every value read has. -/
theorem Tab.get_forall {α : Type} {P : α → Prop} {d : α} {t : Tab α} (ht : ∀ x ∈ t, P x.2) (hd : P d) (k : Nat) : P (Tab.get d t k) := by
  induction t with
  | nil => exact hd
  | cons x t ih =>
    obtain ⟨a, v⟩ := x
    rw [Tab.get]
    split
    · exact ht (a, v) List.mem_cons_self
    · exact ih fun y hy => ht y (List.mem_cons_of_mem _ hy)

/-- No cell is halted once every halt has ended (R653). -/
theorem State.endHalts_halted (s : State) (c : Nat) : (s.endHalts.cell c).halted = false := by
  have hcells : s.endHalts.cells = (s.mapCells (fun _ c => { c with halted := false, stepLeft := 0, stepEnd := 0 })).cells := by
    refine List.foldlRecOn (motive := fun (t : State) =>
      t.cells = (s.mapCells (fun _ c => { c with halted := false, stepLeft := 0, stepEnd := 0 })).cells) _ _ rfl (fun t ht k _ => ?_)
    obtain ⟨l, ao, g, h, e⟩ := t.record_eq .dbgHalt { noRec with node := k, unit := 0xD, code := 3 } true
    rw [e]
    exact ht
  unfold State.cell
  rw [hcells]
  refine Tab.get_forall (P := fun c : Cell => c.halted = false) ?_ rfl c
  intro x hx
  obtain ⟨y, -, rfl⟩ := List.mem_map.mp (List.mem_filter.mp hx).1
  rfl

/-! ### The responder -/

/-- An IDE_KM request inside a session, for a set of the link stream, is performed (R587). -/
theorem State.ideKm_at {s : State} {id n : Nat} {x : Session} (run : State → State) (hup : s.spdmUp = true) (hx : s.session? id = some x)
    (hn : n < 2) : s.ideKm id n run = run s := by
  unfold State.ideKm
  refine (if_neg (by simp [hup])).trans (if_neg ?_)
  rintro (h | h)
  · simp [hx] at h
  · omega

/-- A key exchange with a place for its session, of a responder that has its keys (R579). -/
theorem exec_keyExchange_at {s : State} {chain : Option (List Byte)} {nonce : List Byte} {i : Nat} (hup : s.spdmUp = true)
    (hi : (List.range 4).find? (fun i => (s.session? i).isNone) = some i) (hk : s.sec.keysUp = true)
    (hchain : (chain.isSome && (chain.bind Config.chainRoot).isNone) = false) :
    exec (.keyExchange chain nonce) s = .next ((s.updSec (fun x => { x with sessions := x.sessions ++ [{
      id := i,
      root := (chain.bind Config.chainRoot).bind (fun h => s.nv.active.2.roots.findIdx? (fun r => r.1 == h && bit r.2 31)) }] })).answerSpdm
        (.session i (s.aliasSign nonce))) := by
  refine congrArg Host.Outcome.next ((if_neg (by simp [hup])).trans ?_)
  rw [hi]
  exact if_neg (by rw [hk, hchain]; decide)

/-- Settles O42: the lock, the slots, and each request of the responder. -/
theorem securityRequestsAnswered : Obligations.SecurityRequestsAnswered := by
  unfold Obligations.SecurityRequestsAnswered
  refine ⟨⟨?unlock, ?lock, ?clear, ?expire, ?set⟩, ?spdm⟩
  case unlock =>
    intro s hbar
    refine ⟨fun hr hre => ?_, fun hno => ?_⟩
    · refine congrArg Host.Outcome.next ((if_neg (by simp [hbar])).trans ?_)
      simp only [hr, hre, Bool.not_false, and_self, if_true]
    · have hcond : ¬ (s.tokenResult = 1 ∧ (!s.sec.relocked) = true) := by
        rintro ⟨h1, h2⟩
        rcases hno with h | h
        · exact h h1
        · simp [h] at h2
      refine congrArg Host.Outcome.next ((if_neg (by simp [hbar])).trans ?_)
      simp only [hcond, if_false]
      rfl
  case lock =>
    intro s hbar hd
    exact ⟨congrArg Host.Outcome.next (if_neg (by simp [hbar, hd])), fun c => State.endHalts_halted _ c⟩
  case clear =>
    intro s n hbar
    refine ⟨fun hn => ?_, fun hn => ?_, fun hn => ?_⟩
    · exact congrArg Host.Outcome.next ((if_neg (by simp [hbar])).trans (if_pos hn))
    · refine congrArg Host.Outcome.next ((if_neg (by simp [hbar])).trans ((if_neg (by omega)).trans ((if_pos (by omega)).trans ?_)))
      rw [Nat.add_sub_cancel_left]
    · refine congrArg Host.Outcome.next ((if_pos ⟨hbar, by omega, by omega⟩).trans ?_)
      rw [Nat.add_sub_cancel_left]
      rfl
  case expire =>
    intro s n hn hprev hgc
    have hsub : 0x80 + n - 0x80 = n := Nat.add_sub_cancel_left _ _
    refine congrArg Host.Outcome.next ((if_pos ⟨by omega, by omega, by rw [hsub]; exact hprev, by rw [hsub]; exact hgc⟩).trans ?_)
    rw [hsub]
    rfl
  case set =>
    intro s id r req x hup hx hroot
    have hr : (s.session? id).bind Session.root = some r := by
      rw [hx]
      exact hroot
    have hat : exec (.setKey id req) s = .next (
        if s.setKeyCode r req ≠ 0 then s.answerSpdm (.setKey (s.setKeyCode r req))
        else if byteAt req 0 < 0x80 then { s.answerSpdm (.setKey (s.setKeyCode r req)) with
          keySlots := Tab.put none s.keySlots (byteAt req 0) (some { tenant := byteAt req 1, usage := byteAt req 2, key := (req.drop 16).take 32 }) }
        else { s.answerSpdm (.setKey (s.setKeyCode r req)) with
          ferKeys := Tab.put {} s.ferKeys (byteAt req 0 - 0x80)
            { cur := some ((req.drop 16).take 32), prev := (s.ferKey (byteAt req 0 - 0x80)).cur, since := s.gc } }) := by
      refine congrArg Host.Outcome.next ((if_neg (by simp [hup])).trans ?_)
      rw [hr]
      rfl
    rw [hat]
    refine ⟨fun h => ?_, fun h hlo => ?_, fun h hhi => ?_⟩
    · exact congrArg Host.Outcome.next (if_pos h)
    · rw [h]
      exact congrArg Host.Outcome.next ((if_neg (Classical.not_not.mpr rfl)).trans (if_pos hlo))
    · rw [h]
      exact congrArg Host.Outcome.next ((if_neg (Classical.not_not.mpr rfl)).trans (if_neg (Nat.not_lt.mpr hhi)))
  case spdm =>
    intro s hup
    have hu : ¬ (!s.spdmUp) = true := by simp [hup]
    refine ⟨?_, ?_, ?_, ?_, ?_, ?_, ?_, ?_, ?_, ?_, ?_, ?_⟩
    · intro slot off len c hc
      refine congrArg Host.Outcome.next ((if_neg hu).trans ?_)
      rw [hc]
    · intro slot off len hc
      refine congrArg Host.Outcome.next ((if_neg hu).trans ?_)
      rw [hc]
    · rintro i nonce sign ms hi hs rfl
      refine congrArg Host.Outcome.next ((if_neg hu).trans ((if_neg ?_).trans rfl))
      rintro (⟨h1, h2⟩ | ⟨h1, h2⟩)
      · rcases hi with h | h
        · omega
        · exact h2 h
      · rcases hs with h | h
        · simp [h] at h1
        · simp [h] at h2
    · intro i nonce sign hbad
      refine congrArg Host.Outcome.next ((if_neg hu).trans (if_pos ?_))
      exact hbad.imp_right (And.imp_right (by simp [·]))
    · intro nonce hk
      exact congrArg Host.Outcome.next ((if_neg hu).trans (if_pos ⟨rfl, hk⟩))
    · intro nonce hk
      exact congrArg Host.Outcome.next ((if_neg hu).trans ((if_neg (by simp)).trans (if_pos ⟨rfl, by simp [hk]⟩)))
    · intro slot nonce h0 h7
      refine congrArg Host.Outcome.next ((if_neg hu).trans ((if_neg ?_).trans (if_neg ?_)))
      · rintro ⟨h1, h2⟩
        rcases h0 with h | h
        · exact h h1
        · simp [h] at h2
      · rintro ⟨h1, h2⟩
        rcases h7 with h | h
        · exact h h1
        · simp [h] at h2
    · intro chain nonce hno
      refine congrArg Host.Outcome.next ((if_neg hu).trans ?_)
      cases hi : (List.range 4).find? (fun i => (s.session? i).isNone) with
      | none => rfl
      | some i =>
        have hk : s.sec.keysUp = false := hno.resolve_left (by simp [hi])
        exact if_pos (by rw [hk]; rfl)
    · intro nonce i hi hk
      exact exec_keyExchange_at hup hi hk rfl
    · intro nonce i chain hash hi hk hc
      rw [exec_keyExchange_at hup hi hk (by rw [Option.bind_some, hc]; rfl), Option.bind_some, hc, Option.bind_some]
    · intro id x hx
      have hsome : ¬ (s.session? id).isNone = true := by simp [hx]
      refine ⟨congrArg Host.Outcome.next ((if_neg hu).trans (if_neg hsome)), congrArg Host.Outcome.next ((if_neg hu).trans (if_neg hsome)),
        congrArg Host.Outcome.next (State.ideKm_at _ hup hx (by omega)), fun n hn => ⟨?_, ?_, ?_, ?_⟩⟩
      · exact fun key => congrArg Host.Outcome.next (State.ideKm_at _ hup hx hn)
      · intro hset hlink
        exact congrArg Host.Outcome.next ((State.ideKm_at _ hup hx hn).trans (if_neg (by rintro (h | h) <;> contradiction)))
      · intro hon
        exact congrArg Host.Outcome.next ((State.ideKm_at _ hup hx hn).trans (if_neg hon))
      · intro hon
        exact congrArg Host.Outcome.next ((State.ideKm_at _ hup hx hn).trans (if_pos hon))
    · intro id hx
      have hnone : (s.session? id).isNone = true := by simp [hx]
      exact ⟨congrArg Host.Outcome.next ((if_neg hu).trans (if_pos hnone)), congrArg Host.Outcome.next ((if_neg hu).trans (if_pos hnone))⟩

end Sys2Proof.Machine
end

section
/-!
O43: patrol, page migration, reduced mode, retirement, fatal stops and timeouts (R385 to R389, R521, R641 to R647).
-/
namespace Sys2Proof.Machine
open Sys2Proof

/-- A marked page with a page to go to is copied there whole, replaced and retired (R386, R387). -/
theorem exec_pageMigrate_at {s t : State} {p new : Nat} (hp : s.pageSt p = .marked) (hf : s.fatal = false) (ht : s.sparePage p = some (new, t)) :
    exec (.pageMigrate p) s = .next ((((((t.givePage new (Tab.get 0 s.pageTag p)).2.copyPage p new).rehome p new).retirePage p).record .hbmPageRetired
      { noRec with node := sliceNode (stackOfPage p), unit := 8, idx0 := stackOfPage p, code := Tab.get 0 s.pageTag p, extra0 := recPair p new })) := by
  refine congrArg Host.Outcome.next ((if_neg (by simp [hp, hf])).trans ?_)
  rw [ht]

/-- A marked page with no page to go to is deferred (R387). -/
theorem exec_pageMigrate_full {s : State} {p : Nat} (hp : s.pageSt p = .marked) (hf : s.fatal = false) (hno : s.sparePage p = none) :
    exec (.pageMigrate p) s = .next ((s.setPage p .deferred).record .hbmRetireDeferred
      { noRec with node := sliceNode (stackOfPage p), unit := 8, idx0 := stackOfPage p, addr := p, code := Tab.get 0 s.pageTag p }) := by
  refine congrArg Host.Outcome.next ((if_neg (by simp [hp, hf])).trans ?_)
  rw [hno]

/-- What the timeout of a consumed entry that runs comes to, by its opcode (R521, R645, R647). -/
def State.timeoutOf (s : State) (id : Nat) (c : Cmd) : State :=
  if jobOp c.op then
    match c.job with
    | none => s
    | some k =>
      match s.job? k with
      | none => s
      | some j => if j.suspended || j.stop.isSome || (List.range 16).any (s.pausedBy k) then s else s.timeoutCause k j
  else if c.op = 8 then (s.dropWaiters (fun i => i.node == hubN && i.unit == 0xF && i.tag == c.id % 65536)).finish c .timeout 0
  else if c.op = 9 then s.finish c .timeout 0
  else if c.op = 3 then
    match s.loads.findIdx? (fun l => l.cmd == some id) with
    | some i => (match s.load? i with
      | some l => if l.committed || l.result.isSome || (l.txOnly && l.started) || (l.fenced && s.arrayHeld) then s else s.abortLoad i .timeout 0
      | none => s)
    | none => s.finish c .timeout 0
  else if c.op = 0xF ∧ s.tether.st = .forming ∧ s.tether.cmd = some id then
    ({ s.updFer (fun f => { f with out := f.out.filter (fun o => o.owner != .copy), wait := f.wait.filter (fun o => o.owner != .copy) }) with
      tether := {} } : State).finish c .timeout 0
  else s

/-- A consumed entry that runs and whose time has passed takes its timeout. -/
theorem exec_cmdTimeoutExpire_at {s : State} {id e : Nat} {c : Cmd} (hf : s.fatal = false) (hc : s.cmds.find? (fun c => c.id == id) = some c)
    (he : c.expires = some e) (hgc : e ≤ s.gc) (hr : c.st = .running) : exec (.cmdTimeoutExpire id) s = .next (s.timeoutOf id c) := by
  refine congrArg Host.Outcome.next ((if_neg (by simp [hf])).trans ?_)
  rw [hc]
  refine (if_neg ?_).trans rfl
  simp only [he, hr, ne_eq, not_true, decide_false, Bool.or_false, hgc, decide_true, Bool.not_true]
  decide

theorem State.timeoutOf_job {s : State} {id k : Nat} {c : Cmd} {j : Job} (ho : jobOp c.op = true) (hk : c.job = some k) (hj : s.job? k = some j)
    (hsu : j.suspended = false) (hst : j.stop = none) (hp : ∀ p, p < 16 → s.pausedBy k p = false) : s.timeoutOf id c = s.timeoutCause k j := by
  have hany : (List.range 16).any (s.pausedBy k) = false :=
    List.any_eq_false.mpr fun p hm => by simp [hp p (List.mem_range.mp hm)]
  refine (if_pos ho).trans ?_
  simp only [hk, hj]
  exact if_neg (by rw [hsu, hst, hany]; decide)

theorem State.timeoutOf_load {s : State} {id i : Nat} {c : Cmd} {l : Load} (ho : c.op = 3) (hi : s.loads.findIdx? (fun l => l.cmd == some id) = some i)
    (hl : s.load? i = some l) (hco : l.committed = false) (hre : l.result = none) (htx : l.txOnly = false ∨ l.started = false)
    (hfe : l.fenced = false ∨ s.arrayHeld = false) : s.timeoutOf id c = s.abortLoad i .timeout 0 := by
  have hcond : ¬ (l.committed || l.result.isSome || (l.txOnly && l.started) || (l.fenced && s.arrayHeld)) = true := by
    rw [hco, hre, Bool.and_eq_false_iff.mpr htx, Bool.and_eq_false_iff.mpr hfe]
    decide
  refine (if_neg (by rw [ho]; decide)).trans ((if_neg (by omega)).trans ((if_neg (by omega)).trans ((if_pos ho).trans ?_)))
  simp only [hi, hl]
  exact if_neg hcond

theorem State.timeoutOf_fence {s : State} {id : Nat} {c : Cmd} (ho : c.op = 9) : s.timeoutOf id c = s.finish c .timeout 0 := by
  rw [State.timeoutOf, if_neg (by rw [ho]; decide), if_neg (by omega), if_pos ho]

theorem State.timeoutOf_wait {s : State} {id : Nat} {c : Cmd} (ho : c.op = 8) : s.timeoutOf id c =
    (s.dropWaiters (fun i => i.node == hubN && i.unit == 0xF && i.tag == c.id % 65536)).finish c .timeout 0 := by
  rw [State.timeoutOf, if_neg (by rw [ho]; decide), if_pos ho]

theorem State.timeoutOf_form {s : State} {id : Nat} {c : Cmd} (ho : c.op = 0xF) (hform : s.tether.st = .forming) (hcmd : s.tether.cmd = some id) :
    s.timeoutOf id c = State.finish { s.updFer (fun f => { f with
      out := f.out.filter (fun o => o.owner != .copy)
      wait := f.wait.filter (fun o => o.owner != .copy) }) with tether := {} } c .timeout 0 := by
  rw [State.timeoutOf, if_neg (by rw [ho]; decide), if_neg (by omega), if_neg (by omega), if_neg (by omega), if_pos ⟨ho, hform, hcmd⟩]

/-- Settles O43: each recovery by its conditions, and each timeout by the opcode of its entry. -/
theorem recoveryFromFaults : Obligations.RecoveryFromFaults := by
  unfold Obligations.RecoveryFromFaults
  refine ⟨?patrol, ?migrate, ?full, ?reduced, ?write, ?failing, ?fatal, ?timeout⟩
  case patrol =>
    rintro s t n found hn hs hg hm hst hf rfl
    exact congrArg Host.Outcome.next (if_neg (by simp [hf, hg, hm, hst]; omega))
  case migrate => exact fun s t p new hp hf ht => exec_pageMigrate_at hp hf ht
  case full => exact fun s p hp hf hno => exec_pageMigrate_full hp hf hno
  case reduced =>
    intro s n hn hs hf hm
    have hgo : ¬ (8 ≤ n ∨ s.stage < 1 ∨ s.fatal ∨ s.stackMode n ≠ 0) := by simp [hf, hm]; omega
    exact ⟨congrArg Host.Outcome.next ((if_neg hgo).trans (if_pos rfl)), congrArg Host.Outcome.next ((if_neg hgo).trans (if_neg Bool.false_ne_true))⟩
  case write =>
    intro s c hb
    exact ⟨fun hc => congrArg Host.Outcome.next ((if_pos rfl).trans ((if_neg (by simp [hb])).trans (if_pos hc))),
      fun hc => congrArg Host.Outcome.next ((if_pos rfl).trans ((if_neg (by simp [hb])).trans (if_neg (by simp [hc]))))⟩
  case failing =>
    intro s c q hc hf hs hq
    refine congrArg Host.Outcome.next ((if_neg Bool.false_ne_true).trans ((if_neg (by simp [hc, hf]; omega)).trans ?_))
    rw [hq]
  case fatal =>
    exact fun s ms hl hp hms => ⟨congrArg Host.Outcome.next (if_pos ⟨hl, hp, hms⟩), congrArg Host.Outcome.next (if_pos ⟨hl, hp⟩)⟩
  case timeout =>
    intro s id e c hf hc he hgc hr
    rw [exec_cmdTimeoutExpire_at hf hc he hgc hr]
    refine ⟨fun h9 => congrArg Host.Outcome.next (State.timeoutOf_fence h9), fun h8 => congrArg Host.Outcome.next (State.timeoutOf_wait h8), ?_, ?_, ?_⟩
    · exact fun k j ho hk hj hsu hst hp => congrArg Host.Outcome.next (State.timeoutOf_job ho hk hj hsu hst hp)
    · exact fun i l ho hi hl hco hre htx hfe => congrArg Host.Outcome.next (State.timeoutOf_load ho hi hl hco hre htx hfe)
    · rintro u hF hform hcmd rfl
      exact congrArg Host.Outcome.next (State.timeoutOf_form hF hform hcmd)

end Sys2Proof.Machine
end

section
/-!
O44: halt, step and resume, the snapshot, the debug window, signals by hand, the trace and register writes (R9, R649 to R657).
-/
namespace Sys2Proof.Machine
open Sys2Proof

/-! ### Cells changed one after another, and all at once -/

/-- What each of the cells written has, a cell of the list has when all are written. -/
theorem State.cell_foldl_setCell {P : Cell → Prop} (g : State → Nat → Cell) (hg : ∀ s k, P (g s k)) (k : Nat) (ks : List Nat) :
    ∀ s : State, Tab.wf Cell.reset s.cells = true → (k ∈ ks ∨ P (s.cell k)) → P ((ks.foldl (fun s k => s.setCell k (g s k)) s).cell k) := by
  induction ks with
  | nil => exact fun s _ h => h.resolve_left (List.not_mem_nil)
  | cons i ks ih =>
    intro s hwf h
    refine ih _ (Tab.wf_put _ hwf _ _) ?_
    by_cases hki : k = i
    · subst hki
      exact .inr (by rw [s.cell_setCell_same _ _ hwf]; exact hg s k)
    · rw [s.cell_setCell_other _ _ _ hki]
      exact h.imp_left fun hm => (List.mem_cons.mp hm).resolve_left hki

/-- The cells of a halt, a step or a resume are left as it says (R653). -/
theorem State.setHalt_cell {s : State} {k n : Nat} {ks : List Nat} (on : Bool) (hwf : Tab.wf Cell.reset s.cells = true) (hk : k ∈ ks) :
    ((s.setHalt ks on n).cell k).halted = on ∧ ((s.setHalt ks on n).cell k).stepLeft = n :=
  State.cell_foldl_setCell (P := fun c => c.halted = on ∧ c.stepLeft = n)
    (fun s k => { s.cell k with halted := on, stepLeft := n, stepEnd := if n = 0 then 0 else s.acycles (cellDie k) + n })
    (fun _ _ => ⟨rfl, rfl⟩) k ks s hwf (.inl hk)

section
variable {α : Type} [DecidableEq α] {d : α}

theorem Tab.le_of_wfFrom {t : Tab α} {lo : Nat} (h : Tab.wfFrom d lo t = true) : ∀ x ∈ t, lo ≤ x.1 := by
  induction t generalizing lo with
  | nil => exact fun x hx => absurd hx List.not_mem_nil
  | cons y t ih =>
    simp only [Tab.wfFrom, Bool.and_eq_true, decide_eq_true_eq] at h
    obtain ⟨⟨hlo, -⟩, ht⟩ := h
    intro x hx
    rcases List.mem_cons.mp hx with rfl | hx
    · exact hlo
    · exact Nat.le_trans (Nat.le_trans hlo (Nat.le_succ _)) (ih ht x hx)

/-- What is not listed is not listed after a change of all that is. -/
theorem Tab.get_update_of_not_any (f : Nat → α → α) {t : Tab α} {k : Nat} (h : ∀ x ∈ t, x.1 ≠ k) : Tab.get d (Tab.update d t f) k = d := by
  refine Tab.get_of_not_any d _ k fun x hx => ?_
  obtain ⟨y, hy, rfl⟩ := List.mem_map.mp (List.mem_filter.mp hx).1
  exact h y hy

/-- A listed value after a change of all that is listed. -/
theorem Tab.get_update_mem (f : Nat → α → α) {t : Tab α} {lo k : Nat} {v : α} (h : Tab.wfFrom d lo t = true) (hm : (k, v) ∈ t) :
    Tab.get d (Tab.update d t f) k = f k v := by
  induction t generalizing lo with
  | nil => exact absurd hm List.not_mem_nil
  | cons y t ih =>
    obtain ⟨a, b⟩ := y
    simp only [Tab.wfFrom, Bool.and_eq_true, decide_eq_true_eq] at h
    obtain ⟨-, ht⟩ := h
    rw [Tab.update, List.map_cons]
    rcases List.mem_cons.mp hm with he | hm
    · obtain ⟨rfl, rfl⟩ := Prod.mk.inj he
      by_cases hv : f k v = d
      · rw [List.filter_cons_of_neg (by simpa using hv), hv]
        exact Tab.get_update_of_not_any f fun x hx => Nat.ne_of_gt (Tab.le_of_wfFrom ht x hx)
      · rw [List.filter_cons_of_pos (by simpa using hv), Tab.get, if_pos rfl]
    · have hne : ¬ a = k := Nat.ne_of_lt (Tab.le_of_wfFrom ht _ hm)
      have ih := ih ht hm
      rw [Tab.update] at ih
      by_cases hv : f a b = d
      · rw [List.filter_cons_of_neg (by simpa using hv)]
        exact ih
      · rw [List.filter_cons_of_pos (by simpa using hv), Tab.get, if_neg hne]
        exact ih

omit [DecidableEq α] in
/-- What reads as the unlisted value is not listed, or is listed with what it reads as. -/
theorem Tab.get_mem_or (t : Tab α) (k : Nat) : (k, Tab.get d t k) ∈ t ∨ ((∀ x ∈ t, x.1 ≠ k) ∧ Tab.get d t k = d) := by
  by_cases h : ∀ x ∈ t, x.1 ≠ k
  · exact .inr ⟨h, Tab.get_of_not_any d t k h⟩
  · refine .inl ?_
    induction t with
    | nil => exact absurd (fun x hx => absurd hx List.not_mem_nil) h
    | cons y t ih =>
      obtain ⟨a, b⟩ := y
      rw [Tab.get]
      split
      · next he => exact he ▸ List.mem_cons_self
      · next hne =>
        refine List.mem_cons_of_mem _ (ih fun ht => h fun x hx => ?_)
        rcases List.mem_cons.mp hx with rfl | hx
        · exact hne
        · exact ht x hx

/-- What a change of all that is listed keeps of each value, it keeps of every value read. -/
theorem Tab.get_update_keeps {β : Type} (p : α → β) {f : Nat → α → α} (hf : ∀ k v, p (f k v) = p v) {t : Tab α} (h : Tab.wf d t = true) (k : Nat) :
    p (Tab.get d (Tab.update d t f) k) = p (Tab.get d t k) := by
  rcases Tab.get_mem_or (d := d) t k with hm | ⟨hno, hd⟩
  · rw [Tab.get_update_mem f h hm, hf]
  · rw [Tab.get_update_of_not_any f hno, hd]

end

/-! ### The snapshot and the trace -/

/-- A cell's latch where it stands open: what SNAPSHOT_TAKE does to each cell (R649). -/
def State.snapCell (s : State) (k : Nat) (c : Cell) : Cell :=
  if s.cellOpen k then c.latch s.arrFeat (s.acycles (cellDie k) - c.since) else c

theorem State.snapCell_mem (s : State) (k : Nat) (c : Cell) : (s.snapCell k c).mem = c.mem := by
  unfold State.snapCell
  split <;> rfl

theorem State.snapCell_ctr (s : State) (k : Nat) (c : Cell) : (s.snapCell k c).ctr = c.ctr := by
  unfold State.snapCell
  split <;> rfl

/-- The state after SNAPSHOT_TAKE. -/
def State.snapped (s : State) : State :=
  { s.mapCells s.snapCell with dbg := { s.dbg with snapGc := s.gc, snapCyc := s.pwr.acyc }, flitsSnap := s.flits }

theorem exec_snapshotTake_at {s : State} (hb : s.bar 3 = true) : exec .snapshotTake s = .next s.snapped :=
  congrArg Host.Outcome.next (if_neg (by simp [hb]))

/-- Writing the entry that waits leaves none waiting and touches no cell (R656). -/
theorem State.traceFlush_wait (s : State) : s.traceFlush.trace.wait = none := by
  unfold State.traceFlush
  split
  · assumption
  · dsimp only
    split <;> rfl

theorem State.traceFlush_cells (s : State) : s.traceFlush.cells = s.cells := by
  unfold State.traceFlush
  split
  · rfl
  · dsimp only
    split <;> rfl

/-- The state in which the copy of the trace is on its way: the ring and the zeros behind it in host memory (R656). -/
def State.traceCopied (s : State) : State :=
  let a := s.reg rTraceAddr
  let m := (Tab.get [] s.host 0).filter (fun e => !(decide (a ≤ e.1) && decide (e.1 < a + 32 * traceSize)))
  let u := ({ s with host := Tab.put [] s.host 0 m } : State).hostWrite 0 a (s.trace.ring.flatMap TraceRec.bytes)
  { u.acctHost 0 (32 * traceSize) with trace := { u.trace with copying := true } }

theorem exec_traceCopy_at {s : State} (hb : s.bar 3 = true) (hc : s.trace.copying = false) : exec .traceCopy s = .next s.traceFlush.traceCopied :=
  congrArg Host.Outcome.next (if_neg (by rw [hb, hc]; decide))

theorem State.traceCopied_reads (s : State) : s.traceCopied.trace.copying = true ∧ s.traceCopied.trace.wait = s.trace.wait
    ∧ s.traceCopied.cells = s.cells :=
  ⟨rfl, rfl, rfl⟩

/-! ### The debug window -/

/-- What an access of the window comes to that is open to it, aligned and within its 32 KiB (R650 to R652). -/
def State.winAccess (s : State) (write wide : Bool) (a data : Nat) : State :=
  let n := if wide then 8 else 4
  let cell := s.dbgCell
  let space := bits (s.reg rDbgSel) 18 16
  let zeros := { s with dbg := { s.dbg with win := List.replicate n 0#8 } }
  if !s.winGrants cell space write then (if write then s else zeros).setField rDbgStatus 9 9 1
  else if spaceSize space < a + n then (if write then s else zeros)
  else if !write then s.winRead cell space a n (bit (s.reg rDbgSel) 31)
  else if space = 2 then (s.memtWrite cell (winPacket cell a) a (leBytes n data) true).2
  else s.setCell cell ((leBytes n data).zipIdx.foldl (fun c (b : Byte × Nat) => c.winPut space (a + b.2) b.1) (s.cell cell))

theorem exec_dbgWindowAccess_at {s : State} {write wide : Bool} {off : Nat} (data : Nat) (hopen : (if write then s.bar 3 else s.dbgBlock) = true)
    (hal : off % (if wide then 8 else 4) = 0) (hin : off + (if wide then 8 else 4) ≤ 0x8000) :
    exec (.dbgWindowAccess write off wide data) s = .next (s.winAccess write wide (bits (s.reg rDbgBase) 20 0 + off) data) :=
  congrArg Host.Outcome.next (if_neg (by rw [hopen, hal, decide_eq_false (Nat.not_lt.mpr hin)]; decide))

/-! ### Register writes -/

theorem exec_registerWrite_at {s : State} {fn off size : Nat} (v : Nat) (hsize : size = 4 ∨ size = 8) (hal : off % size = 0)
    (ho : s.regOpen fn off = true) : exec (.registerWrite fn off size v) s = .next (if size = 4 then s.write32 fn off v
      else if regWide fn off then s.putReg fn off (v % 2 ^ 64)
      else (s.putReg fn off (v % 2 ^ 32)).putReg fn (off + 4) (v / 2 ^ 32 % 2 ^ 32)) := by
  refine congrArg Host.Outcome.next (if_neg ?_)
  rintro (⟨h4, h8⟩ | h | h)
  · exact hsize.elim h4 h8
  · exact h hal
  · rw [ho] at h
    exact Bool.noConfusion h

/-- Settles O44: each command of debug and trace by its conditions. -/
theorem debugAndTraceCommands : Obligations.DebugAndTraceCommands := by
  unfold Obligations.DebugAndTraceCommands
  refine ⟨?halt, ?stepEnd, ?snap, ?hand, ?window, ?copy, ?copied, ?drop, ?board, ?write⟩
  case halt =>
    intro s scope hh
    exact ⟨congrArg Host.Outcome.next (if_pos hh), congrArg Host.Outcome.next (if_pos hh),
      fun n h1 h2 => congrArg Host.Outcome.next ((if_pos ⟨h1, h2⟩).trans (if_pos hh)), fun k n on hwf hk => State.setHalt_cell on hwf hk⟩
  case stepEnd =>
    intro s c hl he
    exact congrArg Host.Outcome.next (if_neg (by rintro (h | h) <;> omega))
  case snap =>
    intro s hb hwf
    refine ⟨s.snapped, exec_snapshotTake_at hb, rfl, rfl, rfl, fun k c hm ho => ?_, fun k => ⟨?_, ?_⟩⟩
    · exact (Tab.get_update_mem s.snapCell hwf hm).trans (if_pos ho)
    · exact Tab.get_update_keeps Cell.mem s.snapCell_mem hwf k
    · exact Tab.get_update_keeps Cell.ctr s.snapCell_ctr hwf k
  case hand =>
    rintro s n v hb rfl rfl
    refine ⟨fun ho => congrArg Host.Outcome.next ((if_neg (by simp [hb])).trans (if_neg ?_)),
      fun ho ht => congrArg Host.Outcome.next ((if_neg (by simp [hb])).trans (if_pos ?_))⟩
    · rcases ho with ho | ho <;> simp [ho]
    · simp [ho, ht]
  case window =>
    rintro s off data cell space a n wide rfl rfl rfl rfl hal hin
    refine ⟨fun hb hg hs => ?_, fun hb hg => ?_, fun hb hg => ?_, fun hb hg hs => ?_⟩
    · rw [exec_dbgWindowAccess_at (write := false) data hb hal hin]
      exact congrArg Host.Outcome.next ((if_neg (by simp [hg])).trans ((if_neg (Nat.not_lt.mpr hs)).trans (if_pos rfl)))
    · rw [exec_dbgWindowAccess_at (write := false) data hb hal hin]
      exact congrArg Host.Outcome.next (if_pos (by simp [hg]))
    · rw [exec_dbgWindowAccess_at (write := true) data hb hal hin]
      exact congrArg Host.Outcome.next (if_pos (by simp [hg]))
    · rw [exec_dbgWindowAccess_at (write := true) data hb hal hin]
      exact ⟨fun h2 => congrArg Host.Outcome.next ((if_neg (by simp [hg])).trans ((if_neg (Nat.not_lt.mpr hs)).trans ((if_neg (by decide)).trans (if_pos h2)))),
        fun h2 => congrArg Host.Outcome.next ((if_neg (by simp [hg])).trans ((if_neg (Nat.not_lt.mpr hs)).trans ((if_neg (by decide)).trans (if_neg h2))))⟩
  case copy =>
    intro s hb hc
    obtain ⟨hcopying, hwait, hcells⟩ := s.traceFlush.traceCopied_reads
    exact ⟨_, exec_traceCopy_at hb hc, hcopying, hwait.trans s.traceFlush_wait, hcells.trans s.traceFlush_cells⟩
  case copied => exact fun s hf => congrArg Host.Outcome.next (if_neg (by simp [hf]))
  case drop =>
    intro s r hw hgc
    have hat : exec .traceEntryDrop s = .next (if s.gc < r.gc + 16000 then s
        else State.regAdd { s with trace := { s.trace with wait := none, lost := true } } rTraceDrop 1) := by
      refine congrArg Host.Outcome.next ?_
      rw [hw]
    exact hat.trans (congrArg Host.Outcome.next (if_neg (Nat.not_lt.mpr hgc)))
  case board =>
    exact fun s hp => ⟨congrArg Host.Outcome.next (if_pos hp), fun a => congrArg Host.Outcome.next (if_pos hp),
      fun op => congrArg Host.Outcome.next (if_pos hp)⟩
  case write =>
    intro s fn off size v
    refine ⟨fun ho hal => ?_, fun ho hal hw => ?_, fun ho hal hw => ?_, fun h => congrArg Host.Outcome.next (if_pos (or_assoc.mp (.inl h)))⟩
    · rw [exec_registerWrite_at v (.inl rfl) hal ho, if_pos rfl]
    · rw [exec_registerWrite_at v (.inr rfl) hal ho, if_neg (by decide), if_pos hw]
    · rw [exec_registerWrite_at v (.inr rfl) hal ho, if_neg (by decide), if_neg (by simp [hw])]

end Sys2Proof.Machine
end

section
/-!
O47: EXPORT_SHARD and IMPORT_SHARD (R423 to R427).
-/
namespace Sys2Proof.Machine
open Sys2Proof

/-- IMPORT_SHARD never compresses (R425). -/
theorem shardJob_false_z {bs : List Byte} {j : ShardJob} (h : shardJob false bs = some j) : j.z = none := by
  rw [shardJob] at h
  dsimp only at h
  split at h
  · exact Option.some.inj h ▸ rfl
  · cases h

section
variable {s t u : State} {fn k op : Nat} {h : HostIn} {c : Cmd} {bs : List Byte} {j : ShardJob} (run : ShardJob → Nat → State → State)
  (he : s.entryPayAt fn (k % 8) op 64 h c bs t) (ho : inlineOp op = false)
include he ho

/-- A good descriptor is admitted as a job and works in its slot; one that admission refuses does nothing more. -/
theorem State.shardAdmit_good (hj : shardJob (op == 0xA) bs = some j) (hz : j.z = none ∨ t.feature 14 = true)
    (hu : u = t.admitJob c (c.slot.getD 0) (t.newJob c)) :
    s.shardAdmit fn k op h run = if (u.job? (c.slot.getD 0)).isSome then run j (c.slot.getD 0) u else u := by
  subst hu
  refine (State.executePay_at _ he ho).trans ?_
  simp only [hj]
  refine if_neg ?_
  rintro ⟨h1, h2⟩
  rcases hz with hz | hz
  · rw [hz] at h1
    exact Bool.noConfusion h1
  · rw [hz] at h2
    exact Bool.noConfusion h2

/-- A descriptor that asks for what the module lacks is refused. -/
theorem State.shardAdmit_lacking (hj : shardJob (op == 0xA) bs = some j) (hz : j.z.isSome = true) (hf : t.feature 14 = false) :
    s.shardAdmit fn k op h run = t.bad c detFeature := by
  refine (State.executePay_at _ he ho).trans ?_
  simp only [hj]
  exact if_pos ⟨hz, by rw [hf]; rfl⟩

/-- A malformed descriptor is refused. -/
theorem State.shardAdmit_malformed (hj : shardJob (op == 0xA) bs = none) : s.shardAdmit fn k op h run = t.bad c detMalformed := by
  refine (State.executePay_at _ he ho).trans ?_
  simp only [hj]

end

/-- Settles O47: by what the descriptor says, and by whether admission puts the job in its slot. -/
theorem trainingStateExportedAndImported : Obligations.TrainingStateExportedAndImported := by
  unfold Obligations.TrainingStateExportedAndImported
  rintro s t u fn k slot h c bs rfl hu
  refine ⟨fun he => ?saved, fun he => ?loaded⟩
  case saved =>
    have hrun : ∀ x, s.shardAdmit fn k 0xA h (fun j slot s => s.exportRun slot j) = x → exec (.exportShard fn k h) s = .next x :=
      fun x hx => congrArg Host.Outcome.next ((if_neg (by simp [he.1.1])).trans hx)
    refine ⟨fun j hj hz => ⟨fun hs => hrun _ ?_, fun hs => hrun _ ?_⟩, fun j hj hz hf => hrun _ ?_, fun hj => hrun _ ?_⟩
    · rw [State.shardAdmit_good _ he (by decide) hj hz hu, if_pos hs]
    · rw [State.shardAdmit_good _ he (by decide) hj hz hu, if_neg (by simp [hs])]
    · exact State.shardAdmit_lacking _ he (by decide) hj hz hf
    · exact State.shardAdmit_malformed _ he (by decide) hj
  case loaded =>
    have hrun : ∀ x, s.shardAdmit fn k 0xB h (fun j slot s => s.importRun slot h j) = x → exec (.importShard fn k h) s = .next x :=
      fun x hx => congrArg Host.Outcome.next ((if_neg (by simp [he.1.1])).trans hx)
    refine ⟨fun j hj => ⟨fun hs => hrun _ ?_, fun hs => hrun _ ?_⟩, fun hj => hrun _ ?_⟩
    · rw [State.shardAdmit_good _ he (by decide) hj (.inl (shardJob_false_z hj)) hu, if_pos hs]
    · rw [State.shardAdmit_good _ he (by decide) hj (.inl (shardJob_false_z hj)) hu, if_neg (by simp [hs])]
    · exact State.shardAdmit_malformed _ he (by decide) hj

end Sys2Proof.Machine
end

section
/-!
O45: the step gate: enable, votes, decisions, reports and the root's timeout (R412 to R421).
-/
namespace Sys2Proof.Machine
open Sys2Proof

/-! ### The vote of a step -/

/-- The records of step v as they are read, where the table can be read, and the state after the reading. -/
def State.gateTable (s : State) (g : GateSet) (a n : Nat) : Option (List Byte) × State :=
  match s.tvaCheck g.tenant a (16 * n) false with
  | .ok => (some (s.tvaBytes g.tenant a (16 * n)), s.tvaTouch g.tenant a (16 * n))
  | _ => (none, s)

/-- What the records come to: whether they hold, and their sum; both open where none were read (log 3). -/
def State.gateSum (s : State) (n : Nat) : Option (List Byte) → Bool × Nat × State
  | some bs =>
    let cs := (List.range n).map (fun k => contribution ((bs.drop (16 * k)).take 16))
    let sum := cs.foldl (fun a (c : Bool × Nat) => (accAdd a (FVal.decode .fp32 c.2)).1) 0
    (cs.all Prod.fst && (FVal.decode .fp32 sum).isFin, sum, s)
  | none => let (k, s) := s.drawFree; (false, Config.freeNat k % 2 ^ 32, s)

/-- A gate that forms the vote of its next step: counted, held, pushed to a partner and cast, or recorded as late. -/
def State.gateForm (s : State) (al : Bool) (g : Gate) (ok : Bool) (sum : Nat) : State :=
  let w := s.setGate al (some { g with
    v := g.v + 1
    own := if decide (g.v < g.c) then g.own else g.own ++ [({ step := g.v, ok := ok, voters := 1, sumsq := sum }, 0, false)] })
  let x := if !al && w.tether.st == .paired then w.tetherPush g.v else w
  if decide (g.v < g.c) then x.record .gateLateVote { noRec with tenant := g.set.tenant, extra0 := g.v } else x.gateGo al

/-- The vote once the table was read: contrib_sig's counter lowered to `left`, and the vote formed of what was read. -/
def State.gateVoteRead (s : State) (al : Bool) (g : Gate) (n left : Nat) (bs : Option (List Byte)) : State :=
  match State.gateSum (s.setSignal g.set.contribSig { s.signal g.set.contribSig with counter := left }) n bs with
  | (ok, sum, s) => s.gateForm al g ok sum

/-- The vote of a gate's next step, whose table of `n` records lies at `a`. -/
def State.gateVoteStep (s : State) (al : Bool) (g : Gate) (n a : Nat) : State :=
  (s.gateTable g.set a n).2.gateVoteRead al g n ((s.signal g.set.contribSig).counter - n) (s.gateTable g.set a n).1

/-- A gate that votes, with all its contributions counted, forms the vote of its next step (R414). -/
theorem exec_gateVoteForm_at {s : State} {al : Bool} {g : Gate} (hf : s.fatal = false) (hg : s.gateOf al = some g) (hv : g.votes = true)
    (hc : g.set.contribCount ≤ (s.signal g.set.contribSig).counter) (hsag : s.sag < 3 ∨ s.tether.st ≠ .paired) :
    exec (.gateVoteForm al) s = .next (s.gateVoteStep al g g.set.contribCount
      (g.set.contribTva + 16 * (g.set.contribCount * ((g.v + 2 ^ 64 - g.set.stepBase) % 2)))) := by
  refine congrArg Host.Outcome.next ((if_neg (by simp [hf])).trans ?_)
  rw [hg]
  refine (if_neg ?_).trans ?_
  · rw [hv, decide_eq_false (Nat.not_lt.mpr hc)]
    rcases hsag with h | h
    · simp [Nat.not_le.mpr h]
    · simp [h]
  · obtain ⟨half, hhalf⟩ : ∃ half, half = (g.v + 2 ^ 64 - g.set.stepBase) % 2 := ⟨_, rfl⟩
    rw [← hhalf]
    extract_lets n a
    show _ = s.gateVoteStep al g n a
    clear_value a n
    unfold State.gateVoteStep State.gateTable
    cases s.tvaCheck g.set.tenant a (16 * n) false <;> rfl

theorem State.gateVoteStep_read {s : State} (al : Bool) {g : Gate} {n a : Nat} (h : s.tvaCheck g.set.tenant a (16 * n) false = .ok) :
    s.gateVoteStep al g n a = (s.tvaTouch g.set.tenant a (16 * n)).gateVoteRead al g n ((s.signal g.set.contribSig).counter - n)
      (some (s.tvaBytes g.set.tenant a (16 * n))) := by
  rw [State.gateVoteStep, State.gateTable, h]

theorem State.gateVoteStep_lost {s : State} (al : Bool) {g : Gate} {n a : Nat} (h : s.tvaCheck g.set.tenant a (16 * n) false ≠ .ok) :
    s.gateVoteStep al g n a = s.gateVoteRead al g n ((s.signal g.set.contribSig).counter - n) none := by
  have htab : s.gateTable g.set a n = (none, s) := by
    unfold State.gateTable
    split
    · contradiction
    · rfl
  rw [State.gateVoteStep, htab]

/-- A vote for a step already decided is recorded, any other goes on. -/
theorem State.gateForm_eq (t : State) (al : Bool) (g : Gate) (ok : Bool) (sum : Nat) {w x : State}
    (hw : w = t.setGate al (some { g with
      v := g.v + 1
      own := if decide (g.v < g.c) then g.own else g.own ++ [({ step := g.v, ok := ok, voters := 1, sumsq := sum }, 0, false)] }))
    (hx : x = if !al && w.tether.st == .paired then w.tetherPush g.v else w) :
    t.gateForm al g ok sum = if g.v < g.c then x.record .gateLateVote { noRec with tenant := g.set.tenant, extra0 := g.v } else x.gateGo al := by
  subst hw hx
  by_cases h : g.v < g.c
  · exact (if_pos (decide_eq_true h)).trans (if_pos h).symm
  · exact (if_neg (by simp [h])).trans (if_neg h).symm

/-! ### The gate's messages -/

section
variable {c : RxCtx} {u : State} {g : Gate}

theorem performVote_at (hok : gateMsgOk c 32 = true) (hg : u.gateOf c.al = some g) (hgrp : leAt c.m.data 0 2 = g.set.group) :
    performVote c u = .done (u.gateVote c.al c.m.src { step := leAt c.m.data 8 8, ok := bit (leAt c.m.data 0 8) 16, voters := leAt c.m.data 4 2,
                                                       sumsq := leAt c.m.data 16 4 }) := by
  refine (if_neg (by simp [hok])).trans ?_
  rw [hg]
  exact if_neg (Classical.not_not.mpr hgrp)

theorem performDecision_at (hok : gateMsgOk c 32 = true) (hg : u.gateOf c.al = some g) (hgrp : leAt c.m.data 0 2 = g.set.group)
    (hsrc : c.m.src = g.set.parent) (hroot : u.gateRoot c.al g = false) (hstep : leAt c.m.data 8 8 = g.c) :
    performDecision c u = .done ((u.gateDecided c.al g { step := g.c, skip := leAt c.m.data 4 1 != 0, cause := leAt c.m.data 5 1,
                                                         voters := leAt c.m.data 6 2, gsumsq := leAt c.m.data 16 4 }).gateGo c.al) := by
  refine (if_neg (by simp [hok])).trans ?_
  rw [hg]
  refine if_neg ?_
  rintro (h | h | h | h)
  · exact h hgrp
  · exact h hsrc
  · exact Bool.false_ne_true (hroot.symm.trans h)
  · exact h hstep

/-- A report with its silent modules: named by the root, passed on toward it by any other module (R419). -/
theorem performReport_at (hok : gateMsgOk c 64 = true) (h1 : 1 ≤ leAt c.m.data 4 1) (h17 : leAt c.m.data 4 1 ≤ 17) (hg : u.gateOf c.al = some g)
    (hgrp : leAt c.m.data 0 2 = g.set.group) : performReport c u = if u.gateRoot c.al g = true
      then .done (u.gateSilent g ((List.range (leAt c.m.data 4 1)).map (fun i => leAt c.m.data (16 + 2 * i) 2)) (leAt c.m.data 8 8))
      else .done (u.gateSend c.al g kReport g.set.parent c.m.data) := by
  refine (if_neg ?_).trans ?_
  · rw [hok, decide_eq_false (Nat.ne_of_gt h1), decide_eq_false (Nat.not_lt.mpr h17)]
    decide
  · rw [hg]
    exact if_neg (Classical.not_not.mpr hgrp)

end

/-- Settles O45: the settings, the vote by whether its table was read, the messages by their kind, and the root's timeout. -/
theorem gateStepsVotedAndDecided : Obligations.GateStepsVotedAndDecided := by
  unfold Obligations.GateStepsVotedAndDecided
  refine ⟨?enable, ?disable, ?form, ?messages, ?timeout⟩
  case enable =>
    rintro s t ctl hf hctl hb hg hfeat rfl
    refine congrArg Host.Outcome.next ((if_neg (by simp [hf])).trans ((if_neg (by rw [hctl, hb, hg, hfeat]; decide)).trans ?_))
    dsimp only
    split
    · next h => exact (if_neg (by simpa using h)).symm
    · next h => exact (if_pos (by simpa using h)).symm
  case disable => exact fun s hf hb => congrArg Host.Outcome.next ((if_neg (by simp [hf])).trans (if_pos hb))
  case form =>
    rintro s v t w x al ok g n a sum hf hg hv rfl hc hsag rfl hread hw hx
    rw [exec_gateVoteForm_at hf hg hv hc hsag, ← State.gateForm_eq t al g ok sum hw hx]
    refine congrArg Host.Outcome.next ?_
    rcases hread with ⟨cs, hck, rfl, rfl, rfl, rfl, rfl⟩ | ⟨hck, rfl, rfl, rfl, rfl⟩
    · exact State.gateVoteStep_read al hck
    · exact State.gateVoteStep_lost al hck
  case messages =>
    intro s u p m c g h hg hgrp
    have hf : ¬ s.fatal = true := by simp [h.1]
    refine ⟨fun hk hok => ?_, fun hk hok hsrc hroot hstep => ?_, fun hk hok h1 h17 hroot => ?_, fun hk hok h1 h17 hroot => ?_⟩
    · exact congrArg Host.Outcome.next ((if_neg hf).trans (State.ferReceive_done h (by simp [hk]) (performVote_at hok hg hgrp)))
    · exact congrArg Host.Outcome.next ((if_neg hf).trans (State.ferReceive_done h (by simp [hk])
        (performDecision_at hok hg hgrp hsrc hroot hstep)))
    · exact congrArg Host.Outcome.next ((if_neg hf).trans (State.ferReceive_done h (by simp [hk])
        ((performReport_at hok h1 h17 hg hgrp).trans (if_pos hroot))))
    · exact congrArg Host.Outcome.next ((if_neg hf).trans (State.ferReceive_done h (by simp [hk])
        ((performReport_at hok h1 h17 hg hgrp).trans (if_neg (by simp [hroot])))))
  case timeout =>
    intro s al g t hf hg ht hroot hp hgc
    have hany : (List.range 16).any (fun p => (s.port p).stalled) = false :=
      List.any_eq_false.mpr fun p hm => by simp [hp p (List.mem_range.mp hm)]
    refine congrArg Host.Outcome.next ((if_neg (by simp [hf])).trans ?_)
    simp only [hg, ht]
    exact if_neg (by rw [hroot, hany, decide_eq_false (Nat.not_lt.mpr hgc)]; decide)

end Sys2Proof.Machine
end

section
/-!
O48: TETHER_CTL, heartbeats, the partner's failure and the claim of its ID (R471 to R484).
-/
namespace Sys2Proof.Machine
open Sys2Proof

theorem State.tether_record (s : State) (k : Kind) (r : FaultRec) (trace : Bool) : (s.record k r trace).tether = s.tether := by
  obtain ⟨l, ao, g, h, e⟩ := s.record_eq k r trace
  rw [e]

/-- Settles O48: the operations of TETHER_CTL, then what comes of heartbeats and of their absence. -/
theorem tetheredPairOperations : Obligations.TetheredPairOperations := by
  unfold Obligations.TetheredPairOperations
  refine ⟨?entries, ?beat, ?declare, ?partner, ?granted, ?refused, ?again, ?caughtUp⟩
  case entries =>
    rintro s t fn k h c bs w he rfl hlen hfeat
    have hf : ¬ s.fatal = true := by simp [he.1.1]
    refine ⟨?form, ?dissolve, ?adopt, ?resync, ?release⟩
    case form =>
      intro es hop hp hg hl
      refine ⟨_, rfl, congrArg Host.Outcome.next ((if_neg hf).trans ((State.tethEntry_at _ he hlen hfeat hop (by decide) hp).trans ?_))⟩
      refine (if_neg (by simp [hg])).trans ?_
      rw [hl]
    case dissolve =>
      exact fun hop hp => congrArg Host.Outcome.next ((if_neg hf).trans (State.tethEntry_at _ he hlen hfeat hop (by decide) hp))
    case adopt =>
      rintro g x hop hp hst hg rfl hset
      refine congrArg Host.Outcome.next ((if_neg hf).trans ((State.tethEntry_at _ he hlen hfeat hop (by decide) hp).trans ?_))
      simp only [hst, hg]
      exact if_pos hset
    case resync =>
      rintro u hop hp hst hupd hno rfl
      refine congrArg Host.Outcome.next ((if_neg hf).trans ((State.tethEntry_at _ he hlen hfeat hop (by decide) hp).trans (if_neg ?_)))
      rintro (h | h | h)
      · exact h hst
      · exact Bool.false_ne_true (hupd.symm.trans h)
      · rw [hno] at h
        exact Bool.false_ne_true h
    case release =>
      intro hop hp hst
      refine congrArg Host.Outcome.next ((if_neg hf).trans ((State.tethEntry_at _ he hlen hfeat hop (by decide) hp).trans (if_neg ?_)))
      exact fun h => hst.elim h.1 h.2
  case beat =>
    intro s hf hb hgc
    exact congrArg Host.Outcome.next (if_neg (by rw [hb, hf, decide_eq_false (Nat.not_lt.mpr hgc)]; decide))
  case declare =>
    intro s hf hst hsag hs
    refine ⟨congrArg Host.Outcome.next ((if_neg (by simp [hf])).trans (if_pos ⟨hst, hsag, hs⟩)), ?_, ?_⟩
    · exact congrArg Tether.st (State.tether_record _ _ _ _)
    · exact congrArg Tether.claiming (State.tether_record _ _ _ _)
  case partner =>
    intro s t p m hf ho hk hm ht hstray hst hsrc hlen hdl h1 hep hfail
    have hbad : (leAt m.data 2 1 == 1 || (t.tether.peerEpoch.isSome && !(t.tether.peerEpoch == some (leAt m.data 4 2)))) = false := by
      simp [h1, hep]
    have hgo : ¬ (!s.ferOpen p || m.kind != kHeartbeat || !s.ferMine m) = true := by simp [ho, hk, hm]
    have hhere : ¬ (t.tether.st = .none ∨ m.src ≠ t.tether.partner ∨ m.len ≠ 16 ∨ m.data.length ≠ 16) := by simp [hst, hsrc, hlen, hdl]
    refine congrArg Host.Outcome.next ((if_neg (by simp [hf])).trans ((if_neg hgo).trans ?_))
    rw [← ht]
    refine (if_neg (by simp [hstray])).trans ((if_neg hhere).trans ?_)
    dsimp only
    rw [hbad]
    simp only [Bool.or_false]
    exact (if_pos hst).trans (if_neg (fun h => Bool.false_ne_true (hfail.symm.trans h.1)))
  case granted =>
    rintro s e hf hc hr rfl
    refine congrArg Host.Outcome.next ((if_neg (by simp [hf])).trans ((if_neg (by rw [hc, hr]; decide)).trans (if_pos rfl)))
  case refused =>
    intro s hf hc hr
    exact congrArg Host.Outcome.next ((if_neg (by simp [hf])).trans ((if_neg (by rw [hc, hr]; decide)).trans (if_neg Bool.false_ne_true)))
  case again =>
    intro s g hf hr hc hgc
    refine congrArg Host.Outcome.next ((if_neg (by simp [hf])).trans ?_)
    rw [hr]
    exact if_pos ⟨hc, hgc⟩
  case caughtUp =>
    intro s p hf hst hmir hp
    refine congrArg Host.Outcome.next ((if_neg (by simp [hf])).trans ((if_neg (by simp [hst, hmir])).trans ?_))
    dsimp only
    rw [hp, Option.bind_some]

end Sys2Proof.Machine
end

section
/-!
O49: Ferier ports train, retrain and take flits (R432 to R441, R638, R646).
-/
namespace Sys2Proof.Machine
open Sys2Proof

/-! ### Setting a port -/

/-- Setting a port writes the port's entry and at most a trace entry. -/
theorem State.setPort_eq (s : State) (p : Nat) (q : Port) :
    ∃ tr, s.setPort p q = { s with fer := { s.fer with ports := Tab.put {} s.fer.ports p q }, trace := tr } := by
  unfold State.setPort
  dsimp only
  split
  · exact ⟨_, rfl⟩
  · obtain ⟨tr, h⟩ := (s.updFer (fun f => { f with ports := Tab.put {} f.ports p q })).traceEv_eq 9 0 0
      [p, (Tab.get {} s.fer.ports p).st.ctorIdx, q.st.ctorIdx]
    exact ⟨tr, h⟩

section
variable (s : State) (p : Nat) (q : Port)

theorem State.gc_setPort : (s.setPort p q).gc = s.gc := by
  obtain ⟨tr, h⟩ := s.setPort_eq p q
  rw [h]

theorem State.ports_setPort : (s.setPort p q).fer.ports = Tab.put {} s.fer.ports p q := by
  obtain ⟨tr, h⟩ := s.setPort_eq p q
  rw [h]

theorem State.devId_setPort : (s.setPort p q).fer.devId = s.fer.devId := by
  obtain ⟨tr, h⟩ := s.setPort_eq p q
  rw [h]

end

theorem State.port_setPort_same {s : State} (p : Nat) (q : Port) (h : Tab.wf {} s.fer.ports = true) : (s.setPort p q).port p = q := by
  rw [State.port, State.ports_setPort]
  exact Tab.get_put_same (α := Port) {} (lo := 0) h p q

theorem State.port_setPort_other (s : State) {p r : Nat} (q : Port) (h : r ≠ p) : (s.setPort p q).port r = s.port r := by
  rw [State.port, State.ports_setPort]
  exact Tab.get_put_other {} _ q h

/-! ### Ports enabled and disabled -/

/-- One port at a write of FER_PORT_EN: it begins to train, stops, or stays (R433, R439). -/
def State.portEnabled (mask old : Nat) (s : State) (p : Nat) : State :=
  if bit mask p && !bit old p then
    s.setPort p { (s.port p).fresh with st := .training, since := s.gc, ident := false, buf := [], txq := []
                                        part := (List.range 8).map (fun c => s.reg (rTcBuf c)) }
  else if !bit mask p && (s.port p).st != .disabled then s.setPort p { (s.port p).fresh with st := .disabled, buf := [], txq := [] }
  else s

section
variable {mask old : Nat}

/-- A port's write leaves time, the other ports and the form of their table. -/
theorem State.portEnabled_frame (s : State) (p : Nat) :
    (s.portEnabled mask old p).gc = s.gc ∧ (∀ r, r ≠ p → (s.portEnabled mask old p).port r = s.port r)
    ∧ (Tab.wf {} s.fer.ports = true → Tab.wf {} (s.portEnabled mask old p).fer.ports = true) := by
  unfold State.portEnabled
  split
  · exact ⟨s.gc_setPort _ _, fun r h => s.port_setPort_other _ h, fun h => by rw [State.ports_setPort]; exact Tab.wf_put _ h _ _⟩
  · split
    · exact ⟨s.gc_setPort _ _, fun r h => s.port_setPort_other _ h, fun h => by rw [State.ports_setPort]; exact Tab.wf_put _ h _ _⟩
    · exact ⟨rfl, fun _ _ => rfl, id⟩

/-- What the write leaves of the port itself. -/
theorem State.portEnabled_port {s : State} {p : Nat} (hwf : Tab.wf {} s.fer.ports = true) :
    (bit mask p = true → bit old p = false → ((s.portEnabled mask old p).port p).st = .training ∧ ((s.portEnabled mask old p).port p).since = s.gc)
    ∧ (bit mask p = true → bit old p = true → (s.portEnabled mask old p).port p = s.port p)
    ∧ (bit mask p = false → ((s.portEnabled mask old p).port p).st = .disabled) := by
  refine ⟨fun hm ho => ?_, fun hm ho => ?_, fun hm => ?_⟩
  · rw [State.portEnabled, if_pos (by rw [hm, ho]; decide), State.port_setPort_same _ _ hwf]
    exact ⟨rfl, rfl⟩
  · rw [State.portEnabled, if_neg (by rw [hm, ho]; decide), if_neg (by rw [hm]; simp)]
  · rw [State.portEnabled, if_neg (by rw [hm]; simp)]
    split
    · rw [State.port_setPort_same _ _ hwf]
    · next h => simpa [hm] using h

/-- A write over a list of ports, each once: it leaves each as its own write does. -/
theorem State.foldl_portEnabled : ∀ (l : List Nat) (s : State), l.Nodup → Tab.wf {} s.fer.ports = true →
    (∀ p, p ∉ l → (l.foldl (State.portEnabled mask old) s).port p = s.port p)
    ∧ ∀ p, p ∈ l → ∃ t : State, t.gc = s.gc ∧ t.port p = s.port p ∧ Tab.wf {} t.fer.ports = true
      ∧ (l.foldl (State.portEnabled mask old) s).port p = (t.portEnabled mask old p).port p
  | [], _, _, _ => ⟨fun _ _ => rfl, fun _ h => absurd h List.not_mem_nil⟩
  | i :: l, s, hnd, hwf => by
    obtain ⟨hi, hl⟩ := List.nodup_cons.mp hnd
    obtain ⟨hgc, hother, hwf'⟩ := s.portEnabled_frame (mask := mask) (old := old) i
    obtain ⟨hnot, hmem⟩ := State.foldl_portEnabled l (s.portEnabled mask old i) hl (hwf' hwf)
    rw [List.foldl_cons]
    refine ⟨fun p hp => ?_, fun p hp => ?_⟩
    · obtain ⟨hpi, hpl⟩ := not_or.mp (mt List.mem_cons.mpr hp)
      rw [hnot p hpl, hother p hpi]
    · rcases List.mem_cons.mp hp with rfl | hpl
      · exact ⟨s, rfl, rfl, hwf, hnot p hi⟩
      · obtain ⟨t, htgc, htp, htwf, ht⟩ := hmem p hpl
        exact ⟨t, htgc.trans hgc, htp.trans (hother p fun h => hi (h ▸ hpl)), htwf, ht⟩

end

/-! ### Flits -/

/-- A flit discarded: the port asks for it again (R435). -/
def State.flitDropped (s : State) (p : Nat) : State := (s.setPort p { s.port p with nak := true }).regAdd (rPortCtr p 4) 1

/-- What a good flit's messages do, once its link fields were acted on. -/
def State.flitTaken (s : State) (p : Nat) (f : Flit) : State :=
  if f.ftype ≠ 1 ∨ !(s.port p).st.isUp then s
  else if f.fseq ≠ ((s.port p).rxSeq + 1) % 4096 then s.flitDropped p
  else
    let (ms, rest) := extractMsgs 16 (Tab.get [] (s.port p).asm f.tc ++ f.payload)
    ((s.setPort p { s.port p with
      rxSeq := f.fseq, nak := false, asm := Tab.put [] (s.port p).asm f.tc rest,
      held := Tab.put 0 (s.port p).held f.tc (Tab.get 0 (s.port p).held f.tc + 1) }).regAdd (rPortCtr p 1) 1).updFer (fun r =>
        { r with rx := r.rx ++ ms.map (fun m => ({ port := p, m := m, since := s.gc } : RxMsg)) })

theorem exec_dataFlit_at {s t : State} {p : Nat} {f : Flit} (hf : s.fatal = false) (hp : p < 16) (hu : (s.port p).st.isUp = true)
    (ht : t = (s.regAdd (rPortCtr p 2) f.corr).regAdd (rPortCtr p 3) f.uncorr) :
    exec (.dataFlit p f) s = .next (if !flitGood f then t.flitDropped p else (((t.flitLink p f).flitTaken p f).pumpPort p).ferPump) := by
  subst ht
  refine congrArg Host.Outcome.next ((if_neg (by simp [hf])).trans (if_neg ?_))
  rw [hu, decide_eq_false (Nat.not_le.mpr hp)]
  decide

theorem State.flitTaken_misplaced {u : State} {p : Nat} {f : Flit} (hd : f.ftype = 1) (hu : (u.port p).st.isUp = true)
    (hs : f.fseq ≠ ((u.port p).rxSeq + 1) % 4096) : u.flitTaken p f = u.flitDropped p :=
  (if_neg (by simp [hd, hu])).trans (if_pos hs)

theorem State.flitTaken_inOrder {u : State} {p : Nat} {f : Flit} {ms : List FMsg} {rest : List Byte} (hd : f.ftype = 1)
    (hu : (u.port p).st.isUp = true) (hs : f.fseq = ((u.port p).rxSeq + 1) % 4096)
    (hm : extractMsgs 16 (Tab.get [] (u.port p).asm f.tc ++ f.payload) = (ms, rest)) :
    u.flitTaken p f = ((u.setPort p { u.port p with
      rxSeq := f.fseq, nak := false, asm := Tab.put [] (u.port p).asm f.tc rest,
      held := Tab.put 0 (u.port p).held f.tc (Tab.get 0 (u.port p).held f.tc + 1) }).regAdd (rPortCtr p 1) 1).updFer (fun r =>
        { r with rx := r.rx ++ ms.map (fun m => ({ port := p, m := m, since := u.gc } : RxMsg)) }) := by
  refine (if_neg (by simp [hd, hu])).trans ((if_neg (Classical.not_not.mpr hs)).trans ?_)
  rw [hm]

/-- Settles O49: the enabled ports one by one, then training, retraining and flits by their conditions. -/
theorem ferierPortsTrainAndReplay : Obligations.FerierPortsTrainAndReplay := by
  unfold Obligations.FerierPortsTrainAndReplay
  refine ⟨?enable, ?ident, ?trained, ?lock, ?retrained, ?budget, ?time, ?flit, ?data⟩
  case enable =>
    intro s mask hf hb hwf
    refine ⟨_, congrArg Host.Outcome.next ((if_neg (by simp [hf])).trans (if_neg (by simp [hb]))), fun p hp => ?_⟩
    obtain ⟨-, hmem⟩ := State.foldl_portEnabled (mask := mask) (old := s.reg rPortEn) (List.range 16) (s.setReg rPortEn (mask % 2 ^ 16))
      List.nodup_range hwf
    obtain ⟨t, hgc, hport, htwf, ht⟩ := hmem p (List.mem_range.mpr hp)
    obtain ⟨hnew, hold, hoff⟩ := State.portEnabled_port (mask := mask) (old := s.reg rPortEn) (p := p) htwf
    rw [← ht] at hnew hold hoff
    exact ⟨fun hm ho => (hnew hm ho).imp_right (·.trans hgc), fun hm ho => (hold hm ho).trans hport, hoff⟩
  case ident =>
    rintro s t p dev enc cr hf hp hst rfl
    have hgo : ¬ ((s.port p).st ≠ .training ∨ 16 ≤ p) := by simp [hst]; omega
    have hnone : (∀ q, q < 16 → (s.port q).st.isUp = false) → (List.range 16).any (fun p => (s.port p).st.isUp) = false :=
      fun h => List.any_eq_false.mpr fun q hq => by simp [h q (List.mem_range.mp hq)]
    refine ⟨fun hd => ?_, fun hd hno => ?_, fun hd => ?_⟩
    · refine congrArg Host.Outcome.next ((if_neg (by simp [hf])).trans ((if_neg hgo).trans ((if_neg fun h => h.2 hd).trans (if_pos ?_))))
      exact (State.devId_setPort _ _ _).trans hd
    · refine congrArg Host.Outcome.next ((if_neg (by simp [hf])).trans ((if_neg hgo).trans ((if_neg ?_).trans (if_neg ?_))))
      · rw [hnone hno]
        exact fun h => Bool.false_ne_true h.1
      · rw [State.devId_setPort]
        exact hd
    · rintro ⟨q, hq, hup⟩
      refine congrArg Host.Outcome.next ((if_neg (by simp [hf])).trans ((if_neg hgo).trans (if_pos ⟨?_, hd⟩)))
      exact List.any_eq_true.mpr ⟨q, List.mem_range.mpr hq, hup⟩
  case trained =>
    rintro s t p hf hp hst
    have hgo : ¬ ((s.port p).st ≠ .training ∨ 16 ≤ p) := by simp [hst]; omega
    refine ⟨?_, ?_, fun hgc => ?_⟩
    · rintro hi hgc rfl
      refine congrArg Host.Outcome.next ((if_neg (by simp [hf])).trans ((if_neg hgo).trans (if_pos ?_)))
      rw [hi, decide_eq_true hgc]
      rfl
    · exact congrArg Host.Outcome.next ((if_neg (by simp [hf])).trans ((if_neg hgo).trans ((if_neg Bool.false_ne_true).trans (if_pos rfl))))
    · refine congrArg Host.Outcome.next ((if_neg (by simp [hf])).trans ((if_neg hgo).trans ((if_neg ?_).trans (if_pos ?_))))
      · rw [decide_eq_false (Nat.not_le.mpr hgc), Bool.and_false]
        exact Bool.false_ne_true
      · rw [decide_eq_true (Nat.le_of_lt hgc)]
        rfl
  case lock => exact fun s p hf hu => congrArg Host.Outcome.next ((if_neg (by simp [hf])).trans (if_pos hu))
  case retrained =>
    rintro s p buf hf hst rfl
    have hgo : ¬ (s.port p).st ≠ .retrain := Classical.not_not.mpr hst
    refine ⟨fun hgc => ?_, ?_, fun hgc => ?_⟩
    · exact congrArg Host.Outcome.next ((if_neg (by simp [hf])).trans ((if_neg hgo).trans (if_pos (decide_eq_true hgc))))
    · exact congrArg Host.Outcome.next ((if_neg (by simp [hf])).trans ((if_neg hgo).trans ((if_neg Bool.false_ne_true).trans (if_pos rfl))))
    · refine congrArg Host.Outcome.next ((if_neg (by simp [hf])).trans ((if_neg hgo).trans ((if_neg ?_).trans (if_pos ?_))))
      · rw [decide_eq_false (Nat.not_le.mpr hgc), Bool.and_false]
        exact Bool.false_ne_true
      · rw [decide_eq_true (Nat.le_of_lt hgc)]
        rfl
  case budget => exact fun s p hf hst hgc => congrArg Host.Outcome.next ((if_neg (by simp [hf])).trans (if_pos ⟨hst, hgc⟩))
  case time => exact fun s p hf hu hst hsum => congrArg Host.Outcome.next ((if_neg (by simp [hf])).trans (if_pos ⟨hu, hst, hsum⟩))
  case flit =>
    intro s t p f hf hp hu ht
    rw [exec_dataFlit_at hf hp hu ht]
    refine ⟨fun hbad => congrArg Host.Outcome.next (if_pos (by simp [hbad])),
      fun hgood hno => congrArg Host.Outcome.next ((if_neg (by simp [hgood])).trans ?_)⟩
    have htaken : (t.flitLink p f).flitTaken p f = t.flitLink p f := if_pos (hno.imp_right (by simp [·]))
    rw [htaken]
  case data =>
    intro s u p f hf hp hu hgood hd hlink hup
    rw [exec_dataFlit_at hf hp hu rfl, if_neg (by simp [hgood]), ← hlink]
    refine ⟨fun hs => ?_, fun ms rest hs hm => ?_⟩
    · rw [State.flitTaken_misplaced hd hup hs]
      rfl
    · rw [State.flitTaken_inOrder hd hup hs hm]

end Sys2Proof.Machine
end

section
/-!
O51: ACK, NAK, messages sent again, fabric domains and groups (R442, R446, R448, R459, R647, R694).
-/
namespace Sys2Proof.Machine
open Sys2Proof

/-! ### NAK -/

/-- What a NAK of reason `r` does to the message it hits (R448). -/
def State.nakEnds (s : State) (hit : OutMsg → Bool) (o : OutMsg) (r : Nat) : State :=
  if r = nBusy then
    if o.naks + 1 < 8 ∨ o.m.fdom = 0 then
      s.updOut hit (fun o => { o with naks := o.naks + 1, full := false, due := some (s.gc + 1000 * min 1024 (8 * 2 ^ o.naks)) })
    else
      (s.record .ferRefused { noRec with
        unit := 7, tenant := o.tenant, idx0 := o.m.dst, idx1 := o.m.tc, addr := o.m.seq, code := r, job := s.ownerJob o.owner,
        status := if (s.ownerJob o.owner).isSome then Status.nakExhausted.code else 0 } (s.ownerJob o.owner).isSome).ferClose hit (some .nakExhausted)
  else if r = nFull then
    if o.fulls < 4 then s.updOut hit (fun o => { o with fulls := o.fulls + 1, full := true, due := some (s.gc + 2000) })
    else s.ferClose hit none
  else s.ferClose hit (some (nakStatus r))

theorem exec_nak_at {s t : State} {p : Nat} {m : FMsg} {o : OutMsg} (hf : s.fatal = false) (ho : s.ferOpen p = true) (hk : m.kind = kNak)
    (hm : s.ferMine m = true) (ht : t = (s.takeRx p m).regAdd (rFerCtr 3) 1)
    (hfind : t.fer.out.find? (fun (o : OutMsg) => sameMsg (t.refAlias m) m.src m.stc m.seq o && o.m.epoch == bits (m.w 5) 31 16) = some o) :
    exec (.nak p m) s = .next (t.nakEnds
      (fun (o : OutMsg) => sameMsg (t.refAlias m) m.src m.stc m.seq o && o.m.epoch == bits (m.w 5) 31 16) o (bits (m.w 5) 3 0)) := by
  refine congrArg Host.Outcome.next ((if_neg (by simp [hf])).trans ((if_neg (by simp [ho, hk, hm])).trans ?_))
  rw [← ht]
  dsimp only
  rw [hfind]
  rfl

/-! ### Messages sent again -/

/-- A gate's message to its parent that went unanswered detaches the gate. -/
def State.gateDetaches (s : State) (al : Bool) (dst : Nat) (owner : FerOwner) : State :=
  match owner, s.gateOf al with
  | .gate b, some g =>
    if b = al ∧ g.set.parent = dst ∧ !g.detached then
      (s.setGate al (some { g with detached := true })).record .gateDetached { noRec with tenant := g.set.tenant, idx0 := dst }
    else s
  | _, _ => s

theorem State.gateDetaches_eq (s : State) (al : Bool) (dst : Nat) {owner : FerOwner} (h : ∀ b, owner ≠ .gate b) :
    s.gateDetaches al dst owner = s := by
  cases owner with
  | gate b => exact absurd rfl (h b)
  | _ => rfl

/-- What the timeout of an unanswered message comes to, once it is due and its job still runs (R446). -/
def State.retransmits (s : State) (al : Bool) (dst tc seq : Nat) (o : OutMsg) : State :=
  let s :=
    if o.retx ≠ 8 then s
    else
      let j := s.ownerJob o.owner
      (s.record .ferUnreachable { noRec with
        unit := 7, idx0 := dst, job := j, tenant := o.tenant, status := if j.isSome then Status.linkFailed.code else 0 } j.isSome).gateDetaches
          al dst o.owner
  if o.retx < 8 ∨ o.m.fdom = 0 then (s.resend { o with retx := o.retx + 1 }).regAdd (rFerCtr 0) 1
  else s.ferClose (sameMsg al dst tc seq) (some .linkFailed)

section
variable {s : State} {al : Bool} {dst tc seq : Nat} {o : OutMsg}

theorem exec_retransmitTimeout_at (hf : s.fatal = false) (ho : s.fer.out.find? (sameMsg al dst tc seq) = some o) (hl : s.lowPower = false)
    (hp : ∀ q, o.port = some q → (s.port q).st ≠ .replay ∧ (s.port q).st ≠ .retrain) (hd : o.due = none) (hgc : o.sentGc + 250000 ≤ s.gc)
    (horph : s.ferOrphan o = false) : exec (.retransmitTimeout al dst tc seq) s = .next (s.retransmits al dst tc seq o) := by
  refine congrArg Host.Outcome.next ((if_neg (by simp [hf])).trans ?_)
  rw [ho]
  refine (if_neg ?_).trans ((if_neg (by simp [horph])).trans rfl)
  rw [hl, hd, decide_eq_false (Nat.not_lt.mpr hgc)]
  cases hport : o.port with
  | none => simp
  | some q =>
    obtain ⟨hreplay, hretrain⟩ := hp q hport
    simp [hreplay, hretrain]

/-- A message that has not gone out eight times is sent again as it is. -/
theorem State.retransmits_again (h : o.retx < 8 ∨ (o.m.fdom = 0 ∧ o.retx ≠ 8)) :
    s.retransmits al dst tc seq o = (s.resend { o with retx := o.retx + 1 }).regAdd (rFerCtr 0) 1 := by
  have h8 : o.retx ≠ 8 := h.elim Nat.ne_of_lt And.right
  rw [State.retransmits, if_pos h8, if_pos (h.imp_right And.left)]

/-- The eighth time is recorded; a message of no gate is then sent on in domain 0, and ends elsewhere. -/
theorem State.retransmits_eighth {j : Option Nat} {u : State} (h8 : o.retx = 8) (hown : ∀ b, o.owner ≠ .gate b) (hj : j = s.ownerJob o.owner)
    (hu : u = s.record .ferUnreachable { noRec with
      unit := 7, idx0 := dst, job := j, tenant := o.tenant, status := if j.isSome then Status.linkFailed.code else 0 } j.isSome) :
    s.retransmits al dst tc seq o = if o.retx < 8 ∨ o.m.fdom = 0 then (u.resend { o with retx := o.retx + 1 }).regAdd (rFerCtr 0) 1
      else u.ferClose (sameMsg al dst tc seq) (some .linkFailed) := by
  subst hj
  rw [State.retransmits, if_neg (Classical.not_not.mpr h8)]
  dsimp only
  rw [State.gateDetaches_eq _ _ _ hown, ← hu]

/-- A message whose backoff is over goes out again, or is abandoned with its job (R448, R647). -/
theorem State.retryMsg_at {t : Nat} {full : Bool} (ho : s.fer.out.find? (sameMsg al dst tc seq) = some o) (hl : s.lowPower = false)
    (hd : o.due = some t) (hgc : t ≤ s.gc) (hfull : o.full = full) : s.retryMsg full al dst tc seq =
      if s.ferOrphan o then s.updFer (fun f => { f with out := f.out.filter (fun x => !sameMsg al dst tc seq x) }) else s.resend o := by
  unfold State.retryMsg
  simp only [ho, hd]
  exact if_neg (by simp [hfull, hl, hgc])

end

/-! ### Groups -/

/-- The rank table of a group as host memory holds it (R459). -/
def State.grpTable (s : State) (i : Nat) : List Nat :=
  (List.range (s.grpSize i)).map (fun r => leNat (s.hostRead 0 (s.reg (rGrp i 0x10) + 2 * r) 2))

/-- Another valid entry has the group's number. -/
def State.grpTwice (s : State) (i : Nat) : Bool :=
  (List.range 64).any (fun j => j != i && s.grpValid j && s.grpField j 4 15 0 == s.grpField i 4 15 0)

/-- A group entry is good (R459). -/
def State.grpGood (s : State) (i : Nat) (h : HostIn) : Bool :=
  decide (1 ≤ s.grpSize i) && decide (s.grpSize i ≤ 4096) && decide (s.grpRank i < s.grpSize i) && decide (s.grpField i 4 20 16 ≤ 16)
    && s.reg (rGrp i 0x10) % 64 == 0 && (s.grpTable i)[s.grpRank i]? == some s.fer.devId
    && (s.grpTable i).eraseDups.length == (s.grpTable i).length && !s.grpTwice i && !h.fail

/-- What a group entry's commit comes to, once its table was read (R459). -/
def State.grpCommitted (s : State) (i : Nat) (h : HostIn) : State :=
  let u := s.acctHost 0 (2 * s.grpSize i)
  if s.grpGood i h then
    let v := (u.setField (rGrp i 0) 0 0 1).setReg (rGrp i 0x18) 0
    { v with groups := Tab.put [] v.groups i (s.grpTable i), grants := v.grants.filter (fun g => g.1 != i) }
  else
    let v : State := { (u.setField (rGrp i 0) 0 0 0) with groups := Tab.put [] u.groups i [] }
    v.record .collGroupReject { noRec with unit := 7, tenant := v.grpField i 4 20 16, idx0 := s.grpField i 4 15 0, idx1 := i }

theorem exec_grpCommit_at {s t : State} {i : Nat} {h : HostIn} (hf : s.fatal = false) (hi : i < 64) (hb : s.bar 3 = true) (hu : s.grpUsed i = false)
    (ht : t = s.hostStores 0 h) : exec (.grpCommit i h) s = .next (t.grpCommitted i h) := by
  subst ht
  exact congrArg Host.Outcome.next ((if_neg (by simp [hf])).trans ((if_neg (by simp [hb]; omega)).trans ((if_neg (by simp [hu])).trans rfl)))

theorem State.grpGood_of {s : State} {i : Nat} {h : HostIn} (hh : h.fail = false) (h1 : 1 ≤ s.grpSize i) (hn : s.grpSize i ≤ 4096)
    (hr : s.grpRank i < s.grpSize i) (ht : s.grpField i 4 20 16 ≤ 16) (ha : s.reg (rGrp i 0x10) % 64 = 0)
    (hd : (s.grpTable i)[s.grpRank i]? = some s.fer.devId) (hnd : (s.grpTable i).Nodup)
    (ho : ∀ j, j < 64 → j ≠ i → s.grpValid j = true → s.grpField j 4 15 0 ≠ s.grpField i 4 15 0) : s.grpGood i h = true := by
  have htwice : s.grpTwice i = false := by
    refine List.any_eq_false.mpr fun j hj => ?_
    by_cases hji : j = i
    · simp [hji]
    · cases hv : s.grpValid j with
      | false => simp
      | true => simp [ho j (List.mem_range.mp hj) hji hv]
  simp only [State.grpGood, h1, hn, hr, ht, ha, hd, List.eraseDups_of_nodup hnd, htwice, hh, decide_true, beq_self_eq_true, Bool.and_self,
    Bool.not_false]

theorem State.grpGood_not {s : State} {i : Nat} {h : HostIn} (hbad : h.fail = true ∨ s.grpSize i = 0 ∨ s.grpSize i ≤ s.grpRank i
    ∨ 16 < s.grpField i 4 20 16 ∨ s.reg (rGrp i 0x10) % 64 ≠ 0 ∨ (s.grpTable i)[s.grpRank i]? ≠ some s.fer.devId) : s.grpGood i h = false := by
  refine Bool.eq_false_iff.mpr fun hgood => ?_
  simp only [State.grpGood, Bool.and_eq_true, decide_eq_true_eq, beq_iff_eq] at hgood
  obtain ⟨⟨⟨⟨⟨⟨⟨⟨h1, -⟩, hr⟩, ht⟩, ha⟩, hd⟩, -⟩, -⟩, hh⟩ := hgood
  rcases hbad with h | h | h | h | h | h
  · simp [h] at hh
  · omega
  · omega
  · omega
  · exact h ha
  · exact h hd

/-- Settles O51: what ACK, NAK and time do to a message, then the settings of domains and groups. -/
theorem ferierRetriesAndSettings : Obligations.FerierRetriesAndSettings := by
  unfold Obligations.FerierRetriesAndSettings
  refine ⟨?ack, ?nak, ?resent, ?buffer, ?domain, ?commit, ?clear⟩
  case ack =>
    rintro s t p m hf ho hk hm rfl
    exact congrArg Host.Outcome.next ((if_neg (by simp [hf])).trans (if_neg (by simp [ho, hk, hm])))
  case nak =>
    rintro s t p r m hit o hf ho hk hm ht rfl rfl hfind
    rw [exec_nak_at hf ho hk hm ht hfind]
    refine ⟨fun hr hn => ?_, ?_, fun hr hl => ?_, fun hr hl => ?_, fun hb hl => ?_⟩
    · exact congrArg Host.Outcome.next ((if_pos hr).trans (if_pos (hn.imp_left Nat.succ_lt_succ)))
    · rintro j hr hn hdom rfl
      refine congrArg Host.Outcome.next ((if_pos hr).trans (if_neg ?_))
      rintro (h | h)
      · omega
      · exact hdom h
    · exact congrArg Host.Outcome.next ((if_neg (by rw [hr]; decide)).trans ((if_pos hr).trans (if_pos hl)))
    · exact congrArg Host.Outcome.next ((if_neg (by rw [hr]; decide)).trans ((if_pos hr).trans (if_neg (Nat.not_lt.mpr hl))))
    · exact congrArg Host.Outcome.next ((if_neg hb).trans (if_neg hl))
  case resent =>
    intro s al dst tc seq o hf ho hl
    refine ⟨fun hp hd hgc horph => ?_, fun t hd hgc => ⟨fun hfull horph => ?_, fun hfull horph => ?_, fun hfull horph => ?_⟩⟩
    · rw [exec_retransmitTimeout_at hf ho hl hp hd hgc horph]
      refine ⟨fun h => by rw [State.retransmits_again h], fun j u h8 hown hj hu => ?_⟩
      rw [State.retransmits_eighth h8 hown hj hu, h8]
      exact ⟨fun hdom => congrArg Host.Outcome.next (if_pos (.inr hdom)),
        fun hdom => congrArg Host.Outcome.next (if_neg (not_or.mpr ⟨Nat.lt_irrefl 8, hdom⟩))⟩
    · exact congrArg Host.Outcome.next ((if_neg (by simp [hf])).trans ((State.retryMsg_at ho hl hd hgc hfull).trans (if_neg (by simp [horph]))))
    · exact congrArg Host.Outcome.next ((if_neg (by simp [hf])).trans ((State.retryMsg_at ho hl hd hgc hfull).trans (if_neg (by simp [horph]))))
    · exact congrArg Host.Outcome.next ((if_neg (by simp [hf])).trans ((State.retryMsg_at ho hl hd hgc hfull).trans (if_pos horph)))
  case buffer =>
    intro s p m r hf hr hgc hk hal
    refine congrArg Host.Outcome.next ((if_neg (by simp [hf])).trans ?_)
    rw [hr]
    refine (if_neg ?_).trans rfl
    rintro (h | h | ⟨h1, h2⟩)
    · omega
    · simp [hk] at h
    · exact hal.elim (fun h => Bool.false_ne_true (h.symm.trans h1)) (fun h => h h2)
  case domain =>
    intro s t d hf h1 h16 hb hd
    have hmod : d % 65536 = d := Nat.mod_eq_of_lt hd
    have hgo : ¬ (t = 0 ∨ 16 < t ∨ s.bar 3 = false) := by simp [hb]; omega
    refine ⟨fun hfree => ?_, fun k hk1 hk16 hkt hd0 hk => ?_⟩
    · refine congrArg Host.Outcome.next ((if_neg (by simp [hf])).trans ((if_neg hgo).trans ((if_neg ?_).trans ?_)))
      · rw [hmod]
        rintro ⟨h0, hany⟩
        obtain ⟨k, hk, hkd⟩ := List.any_eq_true.mp hany
        obtain ⟨a, ha, rfl⟩ := List.mem_map.mp hk
        simp only [Bool.and_eq_true, bne_iff_ne, beq_iff_eq] at hkd
        have ha := List.mem_range.mp ha
        exact hfree.elim h0 fun h => h (a + 1) (by omega) (by omega) hkd.1 hkd.2
      · rw [hmod]
    · refine congrArg Host.Outcome.next ((if_neg (by simp [hf])).trans ((if_neg hgo).trans (if_pos ?_)))
      rw [hmod]
      refine ⟨hd0, List.any_eq_true.mpr ⟨k, List.mem_map.mpr ⟨k - 1, List.mem_range.mpr (by omega), by omega⟩, ?_⟩⟩
      simp [hkt, hk]
  case commit =>
    rintro s t i h tbl hf hi hb hu ht rfl
    rw [exec_grpCommit_at hf hi hb hu ht]
    refine ⟨?_, ?_⟩
    · rintro u hh h1 hn hr hten ha hd hnd ho rfl
      exact congrArg Host.Outcome.next (if_pos (State.grpGood_of hh h1 hn hr hten ha hd hnd ho))
    · rintro u hbad rfl
      exact congrArg Host.Outcome.next (if_neg (Bool.eq_false_iff.mp (State.grpGood_not hbad)))
  case clear =>
    intro s i hf hi hb
    have hgo : ¬ (64 ≤ i ∨ s.bar 3 = false) := by simp [hb]; omega
    exact ⟨fun hu => congrArg Host.Outcome.next ((if_neg (by simp [hf])).trans ((if_neg hgo).trans (if_neg (by simp [hu])))),
      fun hu => ⟨congrArg Host.Outcome.next ((if_neg (by simp [hf])).trans ((if_neg hgo).trans (if_pos hu))),
        fun h => congrArg Host.Outcome.next ((if_neg (by simp [hf])).trans ((if_neg hgo).trans (if_pos hu)))⟩⟩

end Sys2Proof.Machine
end

section
/-!
O52: a ring's next entry is consumed (R488, R490, R504, R515, R518, R520).
-/
namespace Sys2Proof.Machine
open Sys2Proof

/-! ### Reading the next entry -/

/-- What the reading of a ring's next entry at `a` comes to, in the state with the host's stores in place (R488, R504, R515). -/
def State.readEntry (t : State) (fn k mode a : Nat) (h : HostIn) : State :=
  if h.fail && (t.line? fn k .sq a).isNone then t.ringError fn k errReadFail
  else
    if !t.mayConsume fn k (byteAt (t.entryBytes fn k) 0) then t
    else
      ((if mode = 2 ∧ (t.line? fn k .sq a).isNone then
        t.addLine { fn := fn, ring := k, addr := a, kind := .sq, data := t.entryBytes fn k } else t).atsTouch fn a).consume fn k (t.entryBytes fn k)

theorem exec_consumeEntry_at {s t : State} {fn k : Nat} {h : HostIn} (hf : s.fatal = false) (hk : k < 8) (hfn : s.fnExists fn = true)
    (hst : (s.ring fn k).st = .active) (hne : (s.ring fn k).sqHead ≠ (s.ring fn k).dbTail) (ht : t = s.hostStores fn h) :
    exec (.consumeEntry fn k h) s = .next (t.readEntry fn k (s.ring fn k).mode
      ((s.ring fn k).sqBase + 64 * ((s.ring fn k).sqHead % 2 ^ (s.ring fn k).sqLog2)) h) := by
  subst ht
  refine congrArg Host.Outcome.next ((if_neg (by simp [hf])).trans ?_)
  rw [Nat.mod_eq_of_lt hk]
  exact if_neg (by simp [hfn, hst, hne])

/-! ### What consuming an entry does -/

section
variable {s : State} {fn k : Nat} {bs : List Byte}

/-- The ring once its entry is taken, with the tag in its window (R504, R518). -/
def Ring.took (r : Ring) (w : WinEntry) : Ring := Ring.remember { r with sqHead := (r.sqHead + 1) % 2 ^ 32, owed := r.owed + 1 } w

/-- The entry kept for execution, as it is when it is consumed (R504, R520). -/
def State.entryCmd (s : State) (fn k : Nat) (bs : List Byte) : Cmd :=
  let u := (s.regAdd (rRingCtr fn k 0) 1).acctHost fn 64
  let tmo := if (words bs).getD 4 0 = 0 then (s.ring fn k).tmoDef else (words bs).getD 4 0
  { id := s.cmdCtr, fn := fn, ring := k, tag := (words bs).getD 1 0, op := (words bs).getD 0 0 % 256, words := words bs, gcIn := s.gc
    expires := if tmo = 0xFFFFFFFF then none else some (s.gc + 1000000 * max 1 tmo)
    slot := if jobOp ((words bs).getD 0 0 % 256) then u.slotFor fn else none }

theorem State.consume_new (hop : 1 ≤ (words bs).getD 0 0 % 256) (hop' : (words bs).getD 0 0 % 256 ≤ 15)
    (hw : (s.ring fn k).window.reverse.find? (fun e => e.tag == (words bs).getD 1 0) = none) : s.consume fn k bs =
      { ((s.regAdd (rRingCtr fn k 0) 1).acctHost fn 64).setRing fn k ((s.ring fn k).took
        { tag := (words bs).getD 1 0, id := s.cmdCtr, job := jobOp ((words bs).getD 0 0 % 256), dup := false, done := none }) with
        cmds := s.cmds ++ [s.entryCmd fn k bs], cmdCtr := s.cmdCtr + 1 } := by
  unfold State.consume
  dsimp only
  rw [hw]
  exact if_neg (by omega)

theorem State.consume_seen {e : WinEntry} {t : State}
    (he : (s.ring fn k).window.reverse.find? (fun e => e.tag == (words bs).getD 1 0) = some e)
    (ht : t = ((((s.regAdd (rRingCtr fn k 0) 1).acctHost fn 64).setRing fn k ((s.ring fn k).took { e with dup := true })).regAdd
      (rRingCtr fn k 1) 1)) :
    (∀ x, e.done = some x → s.consume fn k bs = t.postCompl fn k x true)
    ∧ (e.done = none → s.consume fn k bs = { t with cmds := t.cmds.map (fun x => if x.id = e.id then { x with dups := x.dups + 1 } else x) }) := by
  subst ht
  unfold State.consume
  dsimp only
  rw [he]
  dsimp only
  refine ⟨fun x hx => ?_, fun hx => ?_⟩ <;> simp only [hx] <;> rfl

end

/-- Settles O52: the reading by where the bytes are, then the entry by whether its tag is in the window. -/
theorem entriesAreConsumed : Obligations.EntriesAreConsumed := by
  unfold Obligations.EntriesAreConsumed
  refine ⟨?read, ?taken⟩
  case read =>
    rintro s t fn k a h bs hf hk hfn hst hne ht rfl rfl
    rw [exec_consumeEntry_at hf hk hfn hst hne ht]
    refine ⟨fun hok hmay => ?_, fun hfail hl => ?_⟩
    · have hread : ¬ (h.fail && (t.line? fn k .sq ((s.ring fn k).sqBase + 64 * ((s.ring fn k).sqHead % 2 ^ (s.ring fn k).sqLog2))).isNone) = true := by
        rcases hok with h | h <;> simp [h]
      have hgo : ¬ (!t.mayConsume fn k (byteAt (t.entryBytes fn k) 0)) = true := by simp [hmay]
      refine ⟨fun hm => ?_, fun hm hl => ?_⟩
      · rw [State.readEntry, if_neg hread, if_neg hgo, if_neg]
        rintro ⟨h2, hnone⟩
        exact hm.elim (fun h => h h2) (fun h => h (Option.isNone_iff_eq_none.mp hnone))
      · rw [State.readEntry, if_neg hread, if_neg hgo, if_pos ⟨hm, Option.isNone_iff_eq_none.mpr hl⟩]
    · rw [State.readEntry, if_pos (by rw [hfail, hl]; rfl)]
  case taken =>
    rintro s fn k bs r op tag hk rfl rfl rfl
    refine ⟨?_, fun e t he ht => State.consume_seen he ht⟩
    rintro w h1 h15 hw rfl
    rw [State.consume_new h1 h15 hw]
    refine ⟨s.entryCmd fn k bs, rfl, rfl, rfl, rfl, rfl, rfl, rfl, rfl, fun h0 hf => ?_, rfl, rfl, ?_⟩
    · have h1 : max 1 ((words bs).getD 4 0) = (words bs).getD 4 0 := Nat.max_eq_right (Nat.one_le_iff_ne_zero.mpr h0)
      rw [State.entryCmd]
      dsimp only
      rw [if_neg h0, if_neg hf, h1]
    · exact congrArg (fun i => Tab.put ({} : Ring) s.rings (8 * fn + i) ((s.ring fn k).took
        { tag := (words bs).getD 1 0, id := s.cmdCtr, job := jobOp ((words bs).getD 0 0 % 256), dup := false, done := none }))
          (Nat.mod_eq_of_lt hk)

end Sys2Proof.Machine
end

section
/-!
O53: doorbells and the lines of the host (R9, R488, R492, R512 to R517).
-/
namespace Sys2Proof.Machine
open Sys2Proof

/-! ### Doorbell writes -/

/-- A write of BAR2 that is no doorbell of an active ring is discarded (R9, R492). -/
theorem exec_doorbellWrite_other {s : State} {fn off n : Nat} (v : Nat)
    (h : n ≠ 4 ∧ n ≠ 8 ∨ off % n ≠ 0 ∨ 8 ≤ off % 0x1000 ∨ 0x8000 ≤ off ∨ (s.ring fn (off / 0x1000)).st ≠ .active) :
    exec (.doorbellWrite fn off n v) s = .next s := by
  refine congrArg Host.Outcome.next (ite_eq_left_iff.mpr fun _ => if_neg ?_)
  rintro ⟨-, hn, hal, hlow, hk, hst⟩
  rcases h with h | h | h | h | h
  · exact hn.elim h.1 h.2
  · exact h hal
  · omega
  · omega
  · exact h hst

/-- A doorbell of an active ring gives the counts it carries (R513). -/
theorem exec_doorbellWrite_at {s : State} {fn off n k : Nat} (v : Nat) (hf : s.fatal = false) (hfn : s.fnExists fn = true) (hn : n = 4 ∨ n = 8)
    (hal : off % n = 0) (hlow : off % 0x1000 < 8) (hoff : off / 0x1000 = k) (hk : k < 8) (hst : (s.ring fn k).st = .active) :
    exec (.doorbellWrite fn off n v) s = .next (s.takeCounts fn k (dbCounts off n v).1 (dbCounts off n v).2) := by
  subst hoff
  exact congrArg Host.Outcome.next ((if_neg (by simp [hf])).trans (if_pos ⟨hfn, hn, hal, hlow, hk, hst⟩))

/-! ### Lines -/

section
variable {s : State} {fn k a : Nat} {l : HostLine}

theorem exec_cqLineEvict_at (hf : s.fatal = false) (hk : k < 8) (hl : s.line? fn k .cq a = some l) :
    exec (.cqLineEvict fn k a) s = .next (if l.evict then s else { s with lines := s.lines.erase l ++ [{ l with evict := true }] }) := by
  refine congrArg Host.Outcome.next ((if_neg (by simp [hf])).trans ?_)
  rw [Nat.mod_eq_of_lt hk, hl]

theorem exec_cqLineSnoop_at (inv : Bool) (hf : s.fatal = false) (hk : k < 8) (hl : s.line? fn k .cq a = some l) :
    exec (.cqLineSnoop fn k a inv) s = .next (if l.evict then
      State.regAdd { s.hostWrite fn l.addr l.data with lines := s.lines.erase l ++ [{ l with given := true }] } (rHif fn 2) 1
      else (s.hostWrite fn l.addr l.data).dropLine l) := by
  refine congrArg Host.Outcome.next ((if_neg (by simp [hf])).trans ?_)
  rw [Nat.mod_eq_of_lt hk, hl]
  cases inv <;> rfl

theorem exec_evictResponse_at (drop : Bool) (hf : s.fatal = false) (hk : k < 8) (hl : s.line? fn k .cq a = some l) (he : l.evict = true) :
    exec (.evictResponse fn k a drop) s =
      .next ((if drop then s.dropLine l else (s.dropLine l).hostWrite fn l.addr l.data).flushWait fn k) := by
  refine congrArg Host.Outcome.next ((if_neg (by simp [hf])).trans ?_)
  rw [Nat.mod_eq_of_lt hk, hl]
  exact if_neg (by simp [he])

end

/-- Settles O53: counts, doorbells written, polled and snooped, and the lines of a ring. -/
theorem doorbellsAndHostLines : Obligations.DoorbellsAndHostLines := by
  unfold Obligations.DoorbellsAndHostLines
  refine ⟨⟨?counts, ?write, ?read⟩, ?lines⟩
  case counts =>
    intro s fn k t hd ht hh ht32 hh32 hsq hcq
    have hnt : newer t (s.ring fn k).dbTail = true := decide_eq_true ht
    have hnh : newer hd (s.ring fn k).dbHead = true := decide_eq_true hh
    unfold State.takeCounts
    simp only [hnt, hnh, if_true, Nat.mod_eq_of_lt ht32, Nat.mod_eq_of_lt hh32]
    rw [if_neg (Nat.not_lt.mpr hsq), if_neg (Nat.not_lt.mpr hcq)]
  case write =>
    intro s fn k v hf hk hfn
    refine ⟨fun hst => ⟨?_, ?_, ?_⟩, fun off n h => exec_doorbellWrite_other v h⟩
    · rw [exec_doorbellWrite_at v hf hfn (.inr rfl) (by omega) (by omega) (by omega) hk hst]
      rfl
    · rw [exec_doorbellWrite_at v hf hfn (.inl rfl) (by omega) (by omega) (by omega) hk hst]
      rw [dbCounts, if_neg (by decide), if_pos (by omega)]
    · rw [exec_doorbellWrite_at v hf hfn (.inl rfl) (by omega) (by omega) (by omega) hk hst]
      rw [dbCounts, if_neg (by decide), if_neg (by omega)]
  case read =>
    intro s t fn k h hf hk hfn hst
    refine ⟨fun hm hgc ht => ?_, fun hm ht => ?_⟩
    · subst ht
      have hat : exec (.doorbellPoll fn k h) s = .next (((s.setRing fn k { s.ring fn k with pollGc := s.gc + 100 * (s.ring fn k).poll }).regAdd
          (rHif fn 1) 1).readDoorbell fn k h) := by
        refine congrArg Host.Outcome.next ((if_neg (by simp [hf])).trans ?_)
        rw [Nat.mod_eq_of_lt hk]
        exact if_neg (by simp [hfn, hst, hm, hgc])
      rw [hat]
      exact ⟨fun hfail => congrArg Host.Outcome.next (if_pos hfail), fun hok => congrArg Host.Outcome.next (if_neg (by simp [hok]))⟩
    · subst ht
      have hat : exec (.doorbellSnoop fn k h) s = .next ((s.regAdd (rHif fn 0) 1).readDoorbell fn k h) := by
        refine congrArg Host.Outcome.next ((if_neg (by simp [hf])).trans ?_)
        rw [Nat.mod_eq_of_lt hk]
        exact if_neg (by simp [hfn, hst, hm])
      rw [hat]
      exact ⟨fun hfail => congrArg Host.Outcome.next (if_pos hfail), fun hok => congrArg Host.Outcome.next (if_neg (by simp [hok]))⟩
  case lines =>
    intro s fn k a l hf hk
    refine ⟨fun hl he => ⟨?_, fun inv => ?_⟩, fun hl he => ⟨fun inv => ?_, ?_, ?_⟩, fun hl => ?_⟩
    · rw [exec_cqLineEvict_at hf hk hl, if_neg (by simp [he])]
    · rw [exec_cqLineSnoop_at inv hf hk hl, if_neg (by simp [he])]
    · rw [exec_cqLineSnoop_at inv hf hk hl, if_pos he]
    · exact exec_evictResponse_at false hf hk hl he
    · exact exec_evictResponse_at true hf hk hl he
    · refine congrArg Host.Outcome.next ((if_neg (by simp [hf])).trans ?_)
      rw [Nat.mod_eq_of_lt hk, hl]

end Sys2Proof.Machine
end

section
/-!
O54: rings enabled, disabled and drained, and their interrupts (R490, R498 to R500, R515, R526).
-/
namespace Sys2Proof.Machine
open Sys2Proof

/-- A DISABLED ring that is to be enabled, with its registers in `r` (R498, R500, R515). -/
def State.enableRing (s : State) (fn k : Nat) (r : Ring) : State :=
  if s.mayEnable fn r then
    let t := s.setRing fn k { r with st := .active, err := 0, sqHead := 0, cqTail := 0, dbTail := 0, dbHead := 0
                                     window := [], irqN := 0, pollGc := s.gc + 100 * r.poll }
    if r.mode = 2 then t.addLine { fn := fn, ring := k, addr := r.dbAddr, kind := .db, data := [] } else t
  else (s.setRing fn k r).ringError fn k errConfig

theorem exec_ringEnable_at {s : State} {fn k ctl : Nat} (hk : k < 8) (hfn : s.fnExists fn = true) (hb : s.bar 3 = true) (hc : bit ctl 0 = true) :
    exec (.ringEnable fn k ctl) s = .next (if (s.ring fn k).st ≠ .disabled
      then s.setRing fn k { s.ring fn k with ctl := setBit (s.ring fn k).ctl 3 (bit ctl 3) }
      else s.enableRing fn k { s.ring fn k with ctl := ctl % 16 }) := by
  change execRingEnable fn k ctl s = _
  unfold execRingEnable
  rw [Nat.mod_eq_of_lt hk]
  exact congrArg Host.Outcome.next (if_neg (by simp [hfn, hb, hc]))

/-- Settles O54: each command of a ring by the ring's state. -/
theorem ringsAndTheirInterrupts : Obligations.RingsAndTheirInterrupts := by
  unfold Obligations.RingsAndTheirInterrupts
  refine ⟨?enable, ?disable, ?drained, ?delay, ?unmask⟩
  case enable =>
    intro s t fn k ctl r hk hfn hb hc
    rw [exec_ringEnable_at hk hfn hb hc]
    refine ⟨?_, fun hst => congrArg Host.Outcome.next (if_pos hst)⟩
    rintro hst rfl
    rw [if_neg (Classical.not_not.mpr hst)]
    refine ⟨?_, fun hbad => congrArg Host.Outcome.next (if_neg (by simp [hbad]))⟩
    rintro hgood rfl
    exact ⟨fun hm => congrArg Host.Outcome.next ((if_pos hgood).trans (if_neg hm)),
      fun hm => congrArg Host.Outcome.next ((if_pos hgood).trans (if_pos hm))⟩
  case disable =>
    intro s fn k hk hfn hb hst
    change execRingDisable fn k s = _
    unfold execRingDisable
    rw [Nat.mod_eq_of_lt hk]
    exact congrArg Host.Outcome.next (if_neg (by simp [hfn, hb, hst]))
  case drained =>
    intro s fn k hf hk hst ho
    change execRingDrainEnd fn k s = _
    unfold execRingDrainEnd
    rw [Nat.mod_eq_of_lt hk]
    exact congrArg Host.Outcome.next ((if_neg (by simp [hf])).trans (if_pos ⟨hst, ho⟩))
  case delay =>
    intro s fn k hf hk hen hn hgc
    change execIrqDelayExpire fn k s = _
    unfold execIrqDelayExpire
    rw [Nat.mod_eq_of_lt hk]
    exact congrArg Host.Outcome.next ((if_neg (by simp [hf])).trans (if_pos (by rw [hen, decide_eq_true hn, decide_eq_true hgc]; rfl)))
  case unmask =>
    rintro s t fn v hv hfn hb rfl
    exact congrArg Host.Outcome.next (if_neg (by simp [hfn, hb]; omega))

end Sys2Proof.Machine
end

section
/-!
O55: function resets, the PCIe link, address translations and the feature set (R485 to R489, R495, R496, R527, R587).
-/
namespace Sys2Proof.Machine
open Sys2Proof

/-- LINK_INFO as a link of a rate and width leaves it (R486). -/
def State.linkValue (s : State) (rate width : Nat) (cxl : Bool) : Nat :=
  rate + 2 ^ 4 * (if rate = 0 then 0 else width) + 2 ^ 9 * (cxl && decide (rate = 3) && bit s.nv.active.2.flags 1).toNat
    + 2 ^ 10 * (bit (s.reg rLinkInfo) 10 && decide (rate = 3)).toNat

theorem exec_pcieLinkRetrain_at {s : State} {rate width : Nat} (cxl : Bool) (hr : rate ≤ 3) (hw : width ∈ [4, 8, 16]) :
    exec (.pcieLinkRetrain rate width cxl) s = .next (if rate = 0 then (s.setReg rLinkInfo (s.linkValue rate width cxl)).ideOff
      else if rate = 3 then s.setReg rLinkInfo (s.linkValue rate width cxl)
      else { (List.range 17).tail.foldl State.resetFn (s.setReg rLinkInfo (s.linkValue rate width cxl)) with vfEn := false, pfOnly := true }) := by
  have hgo : ¬ (decide (3 < rate) || !([4, 8, 16].contains width)) = true := by
    rw [decide_eq_false (Nat.not_lt.mpr hr), List.contains_iff_mem.mpr hw]
    decide
  refine congrArg Host.Outcome.next ((if_neg hgo).trans ?_)
  by_cases h0 : rate = 0
  · exact (if_pos h0).trans (if_pos h0).symm
  · refine (if_neg h0).trans (Eq.trans ?_ (if_neg h0).symm)
    by_cases h3 : rate = 3
    · exact (if_pos (decide_eq_true h3)).trans (if_pos h3).symm
    · exact (if_neg (by simp [h3])).trans (if_neg h3).symm

section
variable (s : State) {rate width : Nat} (cxl : Bool)

theorem State.linkValue_down : s.linkValue 0 width cxl = 0 := by
  simp [State.linkValue]

/-- The rate and the width lie in LINK_INFO's fields. -/
theorem State.linkValue_fields (h1 : 1 ≤ rate) (hr : rate ≤ 3) (hw : width ∈ [4, 8, 16]) :
    bits (s.linkValue rate width cxl) 1 0 = rate ∧ bits (s.linkValue rate width cxl) 8 4 = width := by
  have hwidth : width < 32 := by
    simp only [List.mem_cons, List.not_mem_nil, or_false] at hw
    omega
  rw [State.linkValue, if_neg (by omega), bits, bits, Nat.shiftRight_eq_div_pow, Nat.shiftRight_eq_div_pow]
  omega

/-- Below 64 GT/s neither CXL nor IDE runs. -/
theorem State.linkValue_slow (h1 : 1 ≤ rate) (hr : rate < 3) (hw : width ∈ [4, 8, 16]) :
    bit (s.linkValue rate width cxl) 9 = false ∧ bit (s.linkValue rate width cxl) 10 = false := by
  have hwidth : width < 32 := by
    simp only [List.mem_cons, List.not_mem_nil, or_false] at hw
    omega
  have hv : s.linkValue rate width cxl = rate + 16 * width := by
    rw [State.linkValue, if_neg (by omega), decide_eq_false (by omega)]
    simp
  have hlt : s.linkValue rate width cxl < 2 ^ 9 := by omega
  exact ⟨Nat.testBit_lt_two_pow hlt, Nat.testBit_lt_two_pow (by omega)⟩

end

/-- Where a block that works from a later stage takes writes, one that works from an earlier stage does. -/
theorem State.bar_of_le {s : State} {m n : Nat} (h : s.bar n = true) (hmn : m ≤ n) : s.bar m = true := by
  simp only [State.bar, Bool.and_eq_true, decide_eq_true_eq] at h ⊢
  obtain ⟨⟨hon, hst⟩, hf⟩ := h
  exact ⟨⟨hon, Nat.le_trans hmn hst⟩, hf⟩

/-- Settles O55: functions, the link by its rate, and the commit of the feature set. -/
theorem functionsLinkAndFeatures : Obligations.FunctionsLinkAndFeatures := by
  unfold Obligations.FunctionsLinkAndFeatures
  refine ⟨?flr, ?appear, ?vanish, ?asleep, ?awake, ?ringsOn, ?ats, ?slow, ?fast, ?commit, ?committed⟩
  case flr => exact fun s fn h1 hfn => congrArg Host.Outcome.next (if_pos ⟨h1, hfn⟩)
  case appear => exact fun s hp hst => congrArg Host.Outcome.next ((if_pos rfl).trans (if_neg (by simp [hp, hst])))
  case vanish => exact fun s => congrArg Host.Outcome.next (if_neg Bool.false_ne_true)
  case asleep =>
    intro s fn hfn hall
    have hany : (List.range 8).any (fun k => (s.ring fn k).st != .disabled) = false :=
      List.any_eq_false.mpr fun k hk => by simp [hall k (List.mem_range.mp hk)]
    exact congrArg Host.Outcome.next ((if_neg (by simp [hfn])).trans (if_neg (by rw [hany]; decide)))
  case awake => exact fun s fn hfn => congrArg Host.Outcome.next ((if_neg (by simp [hfn])).trans (if_neg Bool.false_ne_true))
  case ringsOn =>
    intro s fn k hk hst
    have hany : (List.range 8).any (fun k => (s.ring fn k).st != .disabled) = true :=
      List.any_eq_true.mpr ⟨k, List.mem_range.mpr hk, by simpa using hst⟩
    exact congrArg Host.Outcome.next (ite_eq_left_iff.mpr fun _ => if_pos (by rw [hany]; rfl))
  case ats => exact fun s fn ps => rfl
  case slow =>
    intro s rate width cxl h1 h3 hw
    obtain ⟨hrate, hwidth⟩ := s.linkValue_fields cxl h1 (Nat.le_of_lt h3) hw
    obtain ⟨h9, h10⟩ := s.linkValue_slow cxl h1 h3 hw
    refine ⟨_, hrate, hwidth, h9, h10, ?_⟩
    rw [exec_pcieLinkRetrain_at cxl (Nat.le_of_lt h3) hw, if_neg (by omega), if_neg (by omega)]
  case fast =>
    intro s width cxl hw
    obtain ⟨hrate, hwidth⟩ := s.linkValue_fields cxl (by decide : 1 ≤ 3) (Nat.le_refl 3) hw
    refine ⟨⟨_, hrate, hwidth, ?_⟩, ?_⟩
    · rw [exec_pcieLinkRetrain_at cxl (Nat.le_refl 3) hw, if_neg (by decide), if_pos rfl]
    · rw [exec_pcieLinkRetrain_at cxl (Nat.zero_le 3) hw, if_pos rfl, State.linkValue_down]
  case commit =>
    intro s value hv hb hst hc
    have hgo : ¬ (!bit value 0 || !s.bar 0 || bit (s.reg rFeatStatus) 0) = true := by
      rw [hv, State.bar_of_le hb (Nat.zero_le 3), hc]
      decide
    refine ⟨fun ho hd => ⟨_, rfl, congrArg Host.Outcome.next ((if_neg hgo).trans (if_pos ?_))⟩,
      fun hno => congrArg Host.Outcome.next ((if_neg hgo).trans (if_neg ?_))⟩
    · rw [hb, hst, ho, hd]
      simp
    · simpa [hb, hst] using hno
  case committed => exact fun s value hc => congrArg Host.Outcome.next (if_pos (by simp [hc]))

end Sys2Proof.Machine
end

section
/-!
O56: signal entries, FENCE and bandwidth reservations (R395 to R397, R491, R510, R522, R523).
-/
namespace Sys2Proof.Machine
open Sys2Proof

/-! ### Reservations -/

/-- A tenant's own reservations, over every stack they name (R396). -/
def State.reservedOf (t : State) (fn : Nat) : Nat :=
  ((t.reserves.filter (fun r => r.tenant == fn)).map (fun (r : Reserve) => r.rate * ((List.range 8).filter (bit r.mask)).length)).sum

/-- The tenant, the module and every stack whose sum rises from `s` can hold the reservations of `t` (R396). -/
def State.canHold (s t : State) (fn : Nat) : Bool :=
  decide (((List.range 8).map t.rsvSum).sum ≤ 14000) && decide (t.reservedOf fn ≤ bits (s.reg (rTen fn 0x1C)) 13 0)
    && (List.range 8).all (fun st => decide (t.rsvSum st ≤ s.rsvSum st) || (decide (t.rsvSum st ≤ 1750) && decide (8 * t.rsvSum st ≤ t.stackCap st)))

section
variable {s t : State} {fn k : Nat} {c : Cmd}

theorem exec_reserveBwSet_at (he : s.entryAt fn k 0xC c) (hset : bit (c.w 8) 4 = false) (hok : c.reserveOk = true) (hfeat : s.feature 13 = true)
    (ht : t = s.withReserve { tenant := fn, id := bits (c.w 8) 3 0, mask := bits (c.w 8) 15 8, rate := c.w 9 }) :
    exec (.reserveBwSet fn k) s = .next (if s.canHold t fn then t.finish c .ok 0 else s.finish c .refusedQuota 3) := by
  subst ht
  obtain ⟨hf, hk, hn, hb, -⟩ := he
  refine congrArg Host.Outcome.next ((if_neg (by simp [hf])).trans ?_)
  rw [Nat.mod_eq_of_lt hk, hn]
  exact (if_neg (by simp [hset])).trans ((if_neg (by rw [hb, hok]; decide)).trans (if_neg (by rw [hfeat]; decide)))

theorem State.canHold_of (hall : ((List.range 8).map t.rsvSum).sum ≤ 14000) (hmine : t.reservedOf fn ≤ bits (s.reg (rTen fn 0x1C)) 13 0)
    (hst : ∀ n, n < 8 → t.rsvSum n ≤ s.rsvSum n ∨ (t.rsvSum n ≤ 1750 ∧ 8 * t.rsvSum n ≤ t.stackCap n)) : s.canHold t fn = true := by
  simp only [State.canHold, Bool.and_eq_true, decide_eq_true_eq, List.all_eq_true, Bool.or_eq_true, List.mem_range]
  exact ⟨⟨hall, hmine⟩, hst⟩

theorem State.canHold_not (h : 14000 < ((List.range 8).map t.rsvSum).sum ∨ bits (s.reg (rTen fn 0x1C)) 13 0 < t.reservedOf fn
    ∨ ∃ n, n < 8 ∧ s.rsvSum n < t.rsvSum n ∧ (1750 < t.rsvSum n ∨ t.stackCap n < 8 * t.rsvSum n)) : ¬ s.canHold t fn = true := by
  simp only [State.canHold, Bool.and_eq_true, decide_eq_true_eq, List.all_eq_true, Bool.or_eq_true, List.mem_range]
  rintro ⟨⟨hall, hmine⟩, hst⟩
  rcases h with h | h | ⟨n, hn, hup, hover⟩
  · omega
  · omega
  · have := hst n hn
    omega

/-! ### FENCE -/

/-- Every entry before a FENCE has its completion written, on its ring or on its function (R523). -/
def State.fenceMet (t : State) (fn k : Nat) (c : Cmd) : Bool :=
  decide ((t.ring fn k).owed = 1) && (!bit (c.w 8) 0 || t.cmds.all (fun x => x.fn != fn || decide (c.id ≤ x.id)))

theorem exec_fence_at {d : Cmd} (he : s.entryAt fn k 9 c) (ht : t = s.running c)
    (hd : t.cmds.find? (fun c => c.fn == fn && c.ring == k && c.op == 9 && c.st == .running) = some d) :
    exec (.fence fn k) s = .next (if t.fenceMet fn k d then t.finish d .ok 0 else t) := by
  have hf := he.1
  have hrun : s.execute fn k 9 ⟨[], false⟩ (fun c s => s.running c) = t := (State.execute_at _ he).trans ht.symm
  change execFence fn k s = _
  refine congrArg Host.Outcome.next ((if_neg (by simp [hf])).trans ?_)
  rw [Nat.mod_eq_of_lt he.2.1]
  dsimp only
  rw [hrun, hd]
  rfl

end

/-- Settles O56: signal entries and their wakes, the FENCE, and the reservations. -/
theorem signalEntriesFencesAndReservations : Obligations.SignalEntriesFencesAndReservations := by
  unfold Obligations.SignalEntriesFencesAndReservations
  refine ⟨⟨?set, ?add, ?wait, ?fence, ?wake⟩, ?reserve, ?release⟩
  case set =>
    rintro s t fn k c he rfl
    refine congrArg Host.Outcome.next ((if_neg (by simp [he.1])).trans ?_)
    rw [Nat.mod_eq_of_lt he.2.1]
    exact State.execute_at _ he
  case add =>
    rintro s t fn k c he rfl
    refine congrArg Host.Outcome.next ((if_neg (by simp [he.1])).trans ?_)
    rw [Nat.mod_eq_of_lt he.2.1]
    exact State.execute_at _ he
  case wait =>
    rintro s t fn k c he rfl
    refine congrArg Host.Outcome.next ((if_neg (by simp [he.1])).trans ?_)
    rw [Nat.mod_eq_of_lt he.2.1]
    exact State.execute_at _ he
  case fence =>
    intro s t fn k c he ht hd
    rw [exec_fence_at he ht hd]
    refine ⟨fun hone hall => congrArg Host.Outcome.next (if_pos ?_), fun hno => congrArg Host.Outcome.next (if_neg ?_)⟩
    · rw [State.fenceMet, decide_eq_true hone, Bool.true_and, Bool.or_eq_true, Bool.not_eq_true']
      exact hall
    · rw [State.fenceMet, Bool.and_eq_true, decide_eq_true_eq, Bool.or_eq_true, Bool.not_eq_true']
      rintro ⟨hone, hall⟩
      rcases hno with h | ⟨hscope, hothers⟩
      · exact h hone
      · exact hall.elim (fun h => Bool.false_ne_true (h.symm.trans hscope)) (fun h => Bool.false_ne_true (hothers.symm.trans h))
  case wake =>
    intro s tag n c hc
    constructor <;> simp only [State.hostWake, hc]
  case reserve =>
    rintro s t fn k mine c he hset hok hfeat ht rfl
    rw [exec_reserveBwSet_at he hset hok hfeat ht]
    exact ⟨fun hall hmine hst => congrArg Host.Outcome.next (if_pos (State.canHold_of hall hmine hst)),
      fun hno => congrArg Host.Outcome.next (if_neg (State.canHold_not hno))⟩
  case release =>
    intro s fn k c he hrel hok hfeat
    obtain ⟨hf, hk, hn, hb, -⟩ := he
    refine congrArg Host.Outcome.next ((if_neg (by simp [hf])).trans ?_)
    rw [Nat.mod_eq_of_lt hk, hn]
    exact (if_neg (by simp [hrel])).trans ((if_neg (by rw [hb, hok]; decide)).trans (if_neg (by rw [hfeat]; decide)))

end Sys2Proof.Machine
end

section
/-!
O57: tenants, signal ranges, shares, the seal, billing periods and energy (R530 to R539, R546, R550, R608, R686, R688).
-/
namespace Sys2Proof.Machine
open Sys2Proof

/-! ### Registers written one after another -/

section
variable (key : Nat → Nat)

theorem State.reg_foldl_zero_other {k : Nat} : ∀ (l : List Nat) (s : State), (∀ i, i ∈ l → k ≠ key i) →
    (l.foldl (fun s i => s.setReg (key i) 0) s).reg k = s.reg k
  | [], _, _ => rfl
  | i :: l, s, h => by
    rw [List.foldl_cons, State.reg_foldl_zero_other l _ fun j hj => h j (List.mem_cons_of_mem _ hj),
      State.reg_setReg_other _ _ _ _ (h i List.mem_cons_self)]

theorem State.wf_foldl_zero : ∀ (l : List Nat) (s : State), Tab.wf 0 s.regs = true → Tab.wf 0 (l.foldl (fun s i => s.setReg (key i) 0) s).regs = true
  | [], _, h => h
  | i :: l, s, h => State.wf_foldl_zero l (s.setReg (key i) 0) (Tab.wf_put _ h _ _)

/-- Every register of the list reads zero once all are written zero. -/
theorem State.reg_foldl_zero {j : Nat} : ∀ (l : List Nat) (s : State), Tab.wf 0 s.regs = true → (j ∈ l ∨ s.reg (key j) = 0) →
    (l.foldl (fun s i => s.setReg (key i) 0) s).reg (key j) = 0
  | [], _, _, h => h.resolve_left List.not_mem_nil
  | i :: l, s, hwf, h => by
    refine State.reg_foldl_zero l (s.setReg (key i) 0) (Tab.wf_put _ hwf _ _) ?_
    by_cases hk : key j = key i
    · exact .inr (hk ▸ s.reg_setReg_same _ _ hwf)
    · refine h.imp (fun hm => (List.mem_cons.mp hm).resolve_left fun he => hk (congrArg key he)) fun h0 => ?_
      rw [s.reg_setReg_other _ _ _ hk]
      exact h0

end

theorem bits_setBits_low (x v : Nat) (hv : v < 4) : bits (setBits x 1 0 v) 1 0 = v := by
  simp only [bits, setBits, Nat.shiftRight_zero, Nat.shiftLeft_zero]
  omega

/-! ### What billing writes -/

/-- Two states that differ in registers and billing alone. -/
def State.billWrites (s t : State) : Prop := ∃ r b, t = { s with regs := r, billing := b }

theorem State.billWrites_refl (s : State) : s.billWrites s := ⟨_, _, rfl⟩

theorem State.billWrites.trans {s t u : State} : s.billWrites t → t.billWrites u → s.billWrites u := by
  rintro ⟨r, b, rfl⟩ ⟨r', b', rfl⟩
  exact ⟨r', b', rfl⟩

theorem State.billWrites_setReg (s : State) (k v : Nat) : s.billWrites (s.setReg k v) := ⟨_, _, rfl⟩

theorem State.billWrites_setBill (s : State) (n : Nat) (b : Billing) : s.billWrites (s.setBill n b) := ⟨_, _, rfl⟩

theorem State.billWrites_foldl {α : Type} {f : State → α → State} (hf : ∀ (s : State) (x : α), s.billWrites (f s x)) :
    ∀ (l : List α) (s : State), s.billWrites (l.foldl f s)
  | [], s => s.billWrites_refl
  | x :: l, s => (hf s x).trans (State.billWrites_foldl hf l (f s x))

theorem State.billWrites_zeroAcct (s : State) (n : Nat) : s.billWrites (s.zeroAcct n) :=
  State.billWrites_foldl (fun _ _ => State.billWrites_setReg _ _ _) _ _

theorem State.billWrites_closeOne (s : State) (n : Nat) (w : Int) (removed forward : Bool) : s.billWrites (s.closeOne n w removed forward) :=
  ((State.billWrites_setBill _ _ _).trans (State.billWrites_setBill _ _ _)).trans (State.billWrites_zeroAcct _ _)

theorem State.billWrites_charge (s : State) (n uj idle : Nat) : s.billWrites (s.charge n uj idle) :=
  (State.billWrites_setBill _ _ _).trans (State.billWrites_setReg _ _ _)

/-- The close of a period counts it and keeps its boundary as the last (R550). -/
theorem State.closePeriod_bill (s : State) (b : Int) (forward : Bool) :
    (s.closePeriod b forward).bill.last = some b ∧ (s.closePeriod b forward).bill.closed = (s.bill.closed + 1) % 2 ^ 32 := by
  have hbills : s.billWrites (s.billed.foldl (fun s t => s.closeOne t b false forward) s) :=
    State.billWrites_foldl (fun _ _ => State.billWrites_closeOne _ _ _ _ _) _ _
  unfold State.closePeriod
  generalize s.billed.foldl (fun s t => s.closeOne t b false forward) s = u at hbills
  obtain ⟨r, x, rfl⟩ := hbills
  exact ⟨rfl, rfl⟩

/-! ### A tenant created -/

/-- The tenant's counters zero and its billing begun (R530, R550). -/
def State.freshBill (s : State) (n : Nat) : State :=
  (s.zeroAcct n).setBill n { seq := (s.billOf n).seq, partial_ := true, startWall := (s.zeroAcct n).wallNow, startGc := (s.zeroAcct n).gc }

/-- A tenant PRESENT with a new HBM key and its share class (R530). -/
def State.enterTenant (u : State) (n : Nat) : State :=
  { u.tenState n 1 with
    sec := { u.sec with hbmKeys := Tab.put 0 u.sec.hbmKeys n (Tab.get 0 u.sec.hbmKeys n + 1) }
    shareClass := Tab.put 0 u.shareClass n (u.shareReg n) }

/-- The state after TENANT_CREATE (R530). -/
def State.createTenant (s : State) (n : Nat) : State := (s.freshBill n).enterTenant n

theorem State.reg_setBill (u : State) (n : Nat) (b : Billing) (k : Nat) : (u.setBill n b).reg k = u.reg k := rfl

theorem State.reg_enterTenant (u : State) (n k : Nat) : (u.enterTenant n).reg k = (u.tenState n 1).reg k := rfl

theorem exec_tenantCreate_at {s : State} {n : Nat} (h1 : 1 ≤ n) (h16 : n ≤ 16) (hb : s.bar 3 = true) (ha : bits (s.reg (rTenStatus n)) 1 0 = 0)
    (hst : s.stage = 3) (hf : bit (s.reg rFeatStatus) 0 = true)
    (hseal : s.sealed = false ∨ sealOk (n :: s.tenants) (fun u => if u = n then s.shareReg n else Tab.get 0 s.shareClass u) s.shareW = true) :
    exec (.tenantCreate n) s = .next (s.createTenant n) := by
  refine congrArg Host.Outcome.next ((if_neg (by simp [hb]; omega)).trans ((if_neg (Classical.not_not.mpr ha)).trans ((if_neg (by simp [hst, hf])).trans ?_)))
  refine (if_neg ?_).trans rfl
  rintro ⟨hs, hok⟩
  exact hseal.elim (fun h => Bool.false_ne_true (h.symm.trans hs)) (fun h => Bool.false_ne_true (hok.symm.trans h))

section
variable (s : State) {n : Nat}

theorem State.reg_freshBill_other {k : Nat} (h : ∀ i, i < 19 → k ≠ rAcct n (8 * i)) : (s.freshBill n).reg k = s.reg k := by
  rw [State.freshBill, State.reg_setBill, State.zeroAcct]
  exact State.reg_foldl_zero_other (fun i => rAcct n (8 * i)) (List.range 19) s fun i hi => h i (List.mem_range.mp hi)

theorem State.billWrites_freshBill : s.billWrites (s.freshBill n) := by
  rw [State.freshBill]
  exact (s.billWrites_zeroAcct n).trans (State.billWrites_setBill _ _ _)

/-- A tenant whose state field is written PRESENT is PRESENT. -/
theorem State.present_tenState_one (u : State) : (u.tenState n 1).present n = true := by
  have hne : setBits (u.reg (rTenStatus n)) 1 0 1 ≠ 0 := fun h => by
    have := bits_setBits_low (u.reg (rTenStatus n)) 1 (by decide)
    rw [h] at this
    exact absurd this (by decide)
  have hreg : (u.tenState n 1).reg (rTenStatus n) = setBits (u.reg (rTenStatus n)) 1 0 1 := Tab.get_put_of_ne hne _ _
  rw [State.present, hreg, bits_setBits_low _ _ (by decide)]
  simp

theorem State.createTenant_present : (s.createTenant n).present n = true := by
  have hu : ∀ u : State, (u.enterTenant n).present n = true := fun u => u.present_tenState_one
  exact hu _

/-- A tenant whose state field is written ABSENT is not PRESENT. -/
theorem State.present_tenState_zero (h1 : 1 ≤ n) (hwf : Tab.wf 0 s.regs = true) : (s.tenState n 0).present n = false := by
  rw [State.present, State.tenState, State.setField, State.reg_setReg_same _ _ _ hwf, bits_setBits_low _ _ (by decide)]
  simp
  omega

theorem State.createTenant_acct (hwf : Tab.wf 0 s.regs = true) {i : Nat} (hi : i < 19) : (s.createTenant n).reg (rAcct n (8 * i)) = 0 := by
  have hne : rAcct n (8 * i) ≠ rTenStatus n := by simp only [rAcct, rTenStatus, rTen]; omega
  rw [State.createTenant, State.reg_enterTenant, State.tenState, State.setField, State.reg_setReg_other _ _ _ _ hne, State.freshBill,
    State.reg_setBill, State.zeroAcct]
  exact State.reg_foldl_zero (fun i => rAcct n (8 * i)) (List.range 19) s hwf (.inl (List.mem_range.mpr hi))

theorem State.createTenant_shareClass (h16 : n ≤ 16) :
    (s.createTenant n).shareClass = Tab.put 0 s.shareClass n (bits (s.reg (rTen n 0x20)) 3 0) := by
  have hshare : (s.freshBill n).shareReg n = bits (s.reg (rTen n 0x20)) 3 0 := by
    rw [State.shareReg, s.reg_freshBill_other]
    intro i hi
    simp only [rTen, rAcct]
    omega
  have hclass : (s.freshBill n).shareClass = s.shareClass := by
    obtain ⟨r, b, h⟩ := s.billWrites_freshBill (n := n)
    rw [h]
  rw [← hshare, ← hclass, State.createTenant]
  rfl

end

/-! ### Signal ranges -/

/-- A tenant's new range overlaps another tenant's (R686). -/
def State.rangeClash (s : State) (n base count : Nat) : Bool :=
  ((List.range 16).map (· + 1)).any (fun u =>
    let r := s.reg (rTenSig u)
    u != n && decide (0 < count) && decide (0 < bits r 30 16) && decide (base < bits r 13 0 + bits r 30 16) && decide (bits r 13 0 < base + count))

/-- Every signal that enters or leaves a tenant's range is FREE (R686). -/
def State.rangeFree (s : State) (n base count : Nat) : Bool :=
  s.sigs.all (fun g => !(inRange (bits (s.reg (rTenSig n)) 13 0) (bits (s.reg (rTenSig n)) 30 16) g.1 != inRange base count g.1)
    || g.2.st == .free)

theorem exec_sigRangeWrite_at {s : State} {n : Nat} (base count : Nat) (h1 : 1 ≤ n) (h16 : n ≤ 16) (hb : s.bar 3 = true) :
    exec (.sigRangeWrite n base count) s = .next (if base < 16384 ∧ base + count ≤ 16384 ∧ s.rangeClash n base count = false
      ∧ s.rangeFree n base count then s.setReg (rTenSig n) (base + 2 ^ 16 * count) else s.tenRefuse n) :=
  congrArg Host.Outcome.next (if_neg (by simp [hb]; omega))

/-- Ranges that share no number do not clash. -/
theorem State.rangeClash_false {s : State} {n base count : Nat} (h : ∀ u x, 1 ≤ u → u ≤ 16 → u ≠ n → inRange base count x = true →
    inRange (bits (s.reg (rTenSig u)) 13 0) (bits (s.reg (rTenSig u)) 30 16) x = false) : s.rangeClash n base count = false := by
  refine List.any_eq_false.mpr fun u hu hclash => ?_
  obtain ⟨i, hi, rfl⟩ := List.mem_map.mp hu
  have hi := List.mem_range.mp hi
  simp only [Bool.and_eq_true, bne_iff_ne, decide_eq_true_eq] at hclash
  obtain ⟨⟨⟨⟨hne, hc⟩, hr⟩, hlo⟩, hhi⟩ := hclash
  have hx := h (i + 1) (max base (bits (s.reg (rTenSig (i + 1))) 13 0)) (by omega) (by omega) hne
  simp only [inRange, Bool.and_eq_true, decide_eq_true_eq, Bool.and_eq_false_iff, decide_eq_false_iff_not] at hx
  omega

theorem State.rangeFree_of {s : State} {n base count : Nat} (h : ∀ g, g ∈ s.sigs →
    inRange (bits (s.reg (rTenSig n)) 13 0) (bits (s.reg (rTenSig n)) 30 16) g.1 ≠ inRange base count g.1 → g.2.st = .free) :
    s.rangeFree n base count = true := by
  refine List.all_eq_true.mpr fun g hg => ?_
  by_cases hm : inRange (bits (s.reg (rTenSig n)) 13 0) (bits (s.reg (rTenSig n)) 30 16) g.1 = inRange base count g.1
  · simp [hm]
  · simp [h g hg hm]

/-! ### Energy -/

/-- The counters and marks of an energy interval written, and what it took charged to the tenants (R546). -/
def State.energyCharged (s : State) (incs : List (Nat × List Nat)) (parts : List (Nat × Nat)) (idle : Nat) : State :=
  let u := incs.foldl (fun s (e : Nat × List Nat) =>
    (List.range 8).foldl (fun s i => s.regAdd (rAcct e.1 (8 * (i + 2))) (e.2.getD (i + 2) 0)) s) s
  let u := s.billed.foldl (fun s t => s.setBill t { s.billOf t with marks := (List.range 15).map (fun i => (s.reg (rAcct t (8 * i)) : Int)) }) u
  (parts.foldl (fun s (e : Nat × Nat) => s.charge e.1 e.2 0) u).charge 0 0 idle

theorem State.billWrites_energyCharged (s : State) (incs : List (Nat × List Nat)) (parts : List (Nat × Nat)) (idle : Nat) :
    s.billWrites (s.energyCharged incs parts idle) :=
  (((State.billWrites_foldl (fun _ _ => State.billWrites_foldl (fun _ _ => State.billWrites_setReg _ _ _) _ _) incs s).trans
    (State.billWrites_foldl (fun _ _ => State.billWrites_setBill _ _ _) _ _)).trans
    (State.billWrites_foldl (fun _ _ => State.billWrites_charge _ _ _ _) parts _)).trans (State.billWrites_charge _ _ _ _)

/-- The end of an energy interval: the energy measured and the power of the interval (R608). -/
def State.energyTaken (u : State) (uj carry : Nat) : State :=
  { u with bill := { u.bill with energyGc := u.bill.energyGc + 1000000, carryUj := carry }
           pwr := { u.pwr with mw := uj, energyUj := u.pwr.energyUj + uj } }

theorem exec_energyInterval_at {s : State} (uj : Nat) (counts : List (List Nat)) (hf : s.fatal = false) (hst : s.stage = 3)
    (hgc : s.bill.energyGc + 1000000 ≤ s.gc) :
    ∃ incs parts idle carry, exec (.energyInterval uj counts) s = .next ((s.energyCharged incs parts idle).energyTaken uj carry) :=
  ⟨_, _, _, _, congrArg Host.Outcome.next ((if_neg (by simp [hf])).trans (if_neg (by simp [hst]; omega)))⟩

/-- Settles O57: tenants made and removed, ranges, shares and the seal, and what billing counts. -/
theorem tenantsSharesAndBilling : Obligations.TenantsSharesAndBilling := by
  unfold Obligations.TenantsSharesAndBilling
  refine ⟨?create, ?remove, ?refuse, ?absent, ?range, ?share, ?busy, ?sealing, ?apply, ?period, ?energy⟩
  case create =>
    intro s n h1 h16 hb ha hst hf hseal
    obtain ⟨r, b, hu⟩ := s.billWrites_freshBill (n := n)
    refine ⟨s.createTenant n, exec_tenantCreate_at h1 h16 hb ha hst hf hseal, s.createTenant_present,
      fun hwf i hi => s.createTenant_acct hwf hi, ?_, s.createTenant_shareClass h16, ?_, ?_⟩
    all_goals rw [State.createTenant, hu]
    all_goals rfl
  case remove =>
    intro s n h1 h16 hb hp hall
    have hany : (List.range 8).any (fun k => (s.ring n k).st != .disabled) = false :=
      List.any_eq_false.mpr fun k hk => by simp [hall k (List.mem_range.mp hk)]
    exact congrArg Host.Outcome.next ((if_neg (by simp [hb]; omega)).trans (if_neg (by rw [hany]; simp [hp])))
  case refuse =>
    intro s n h1 h16 hb
    exact ⟨fun h => congrArg Host.Outcome.next ((if_neg (by simp [hb]; omega)).trans (if_pos h)),
      fun h => congrArg Host.Outcome.next ((if_neg (by simp [hb]; omega)).trans (if_pos (.inl h)))⟩
  case absent => exact fun s n h1 hwf => s.present_tenState_zero h1 hwf
  case range =>
    intro s n base count h1 h16 hb
    rw [exec_sigRangeWrite_at base count h1 h16 hb]
    exact ⟨fun hbase hend hclash hfree => congrArg Host.Outcome.next (if_pos ⟨hbase, hend, State.rangeClash_false hclash, State.rangeFree_of hfree⟩),
      fun hover => congrArg Host.Outcome.next (if_neg fun h => by omega)⟩
  case share => exact fun s hb => congrArg Host.Outcome.next (if_neg (by simp [hb]))
  case busy =>
    rintro s t hf hbusy rfl
    exact congrArg Host.Outcome.next ((if_neg (by simp [hf])).trans (if_neg (by simp [hbusy])))
  case sealing =>
    rintro s t en hb hf rfl
    have hgo : ¬ (!s.bar 3 || !s.feature 8) = true := by simp [hb, hf]
    rw [s.reg_setReg_other rSealCtl rSealStatus en.toNat (by decide)]
    refine ⟨fun h => congrArg Host.Outcome.next ((if_neg hgo).trans (if_pos ?_)), fun he hp => congrArg Host.Outcome.next ((if_neg hgo).trans (if_neg ?_))⟩
    · rw [Bool.or_eq_true, bne_iff_ne]
      exact h.symm
    · simp [he, hp]
  case apply =>
    intro s hf hp hj hh
    exact congrArg Host.Outcome.next ((if_neg (by simp [hf])).trans (if_neg (by rw [hp, hj, hh]; decide)))
  case period =>
    intro s b hf hn hv hb
    refine ⟨congrArg Host.Outcome.next ((if_neg (by simp [hf])).trans ?_), s.closePeriod_bill b false⟩
    rw [hn]
    exact if_pos (by rw [hv, decide_eq_true hb]; rfl)
  case energy =>
    intro s uj counts hf hst hgc
    obtain ⟨incs, parts, idle, carry, hexec⟩ := exec_energyInterval_at uj counts hf hst hgc
    obtain ⟨r, b, hu⟩ := s.billWrites_energyCharged incs parts idle
    refine ⟨_, hexec, ?_, ?_, ?_, ?_⟩
    all_goals rw [hu]
    all_goals rfl

end Sys2Proof.Machine
end

section
/-!
O58: wall time, PPS, time sync, TIME_QUERY and timed launches (R557 to R567).
-/
namespace Sys2Proof.Machine
open Sys2Proof

/-! ### Wall time -/

theorem State.time_closePeriod (s : State) (b : Int) (forward : Bool) : (s.closePeriod b forward).time = s.time := by
  have hbills : s.billWrites (s.billed.foldl (fun s t => s.closeOne t b false forward) s) :=
    State.billWrites_foldl (fun _ _ => State.billWrites_closeOne _ _ _ _ _) _ _
  unfold State.closePeriod
  generalize s.billed.foldl (fun s t => s.closeOne t b false forward) s = u at hbills
  obtain ⟨r, x, rfl⟩ := hbills
  rfl

theorem State.billWrites_billRecord (s : State) (n : Nat) (ws : List Nat) : s.billWrites (s.billRecord n ws) := State.billWrites_setBill _ _ _

/-- A step of wall time changes what is billed, not the time base (R551). -/
theorem State.time_timeStep (s : State) (old : Int) : (s.timeStep old).time = s.time := by
  unfold State.timeStep
  split
  · rfl
  · next nxt _ =>
    dsimp only
    have hrec : ∀ rec_ : Nat → List Nat, (s.billed.foldl (fun s t => s.billRecord t (rec_ t)) s).time = s.time := fun rec_ => by
      obtain ⟨r, b, h⟩ := State.billWrites_foldl (fun (s : State) t => s.billWrites_billRecord t (rec_ t)) s.billed s
      rw [h]
    split
    · rw [State.time_closePeriod, hrec]
    · rw [hrec]

theorem State.base_setBase (s : State) (v : Int) : (s.setBase v).time.base = v := by
  unfold State.setBase
  dsimp only
  split
  · rfl
  · split
    · rfl
    · rw [State.time_timeStep]
      rfl

/-- The settings of PPS_CTL taken, and the discipline ended or begun (R561). -/
def State.ppsSet (s : State) (ctl : Nat) : State :=
  let u := s.updTime (fun t => { t with ppsEn := bit ctl 0, stepEn := bit ctl 1, delay := bits ctl 31 16 })
  if !bit ctl 0 then u.updTime (fun t => { t with pps := .off, edge := false, small := 0, prevErr := none })
  else if bit ctl 0 && (!s.time.ppsEn || s.time.pps == .fault) then
    u.updTime (fun t => { t with pps := .acquiring, edge := false, small := 0, prevErr := none, since := u.gc })
  else u

/-- WALL_BASE truncated to a whole second (R558). -/
def State.wholeSecond (s : State) : State :=
  let v := s.time.base / 1000000000 * 1000000000
  if v = s.time.base then s
  else
    let t := s.updTime (fun t => { t with base := v, slew := 0, slewing := false })
    if s.time.valid then t.timeStep s.wallNow else t

theorem State.ppsWrite_eq (s : State) (ctl : Nat) :
    s.ppsWrite ctl = if !bit ctl 0 then s.ppsSet ctl else (s.ppsSet ctl).wholeSecond := rfl

theorem State.ppsEn_ppsSet (s : State) (ctl : Nat) : (s.ppsSet ctl).time.ppsEn = bit ctl 0 := by
  unfold State.ppsSet
  dsimp only
  split
  · rfl
  · split <;> rfl

theorem State.ppsEn_wholeSecond (s : State) : s.wholeSecond.time.ppsEn = s.time.ppsEn := by
  unfold State.wholeSecond
  dsimp only
  split
  · rfl
  · split
    · rw [State.time_timeStep]
      rfl
    · rfl

theorem State.ppsEn_ppsWrite (s : State) (ctl : Nat) : (s.ppsWrite ctl).time.ppsEn = bit ctl 0 := by
  rw [State.ppsWrite_eq]
  split
  · exact s.ppsEn_ppsSet ctl
  · rw [State.ppsEn_wholeSecond, State.ppsEn_ppsSet]

/-! ### PPS -/

/-- What an accepted edge leaves before its correction (R559, R561): `first` says that no edge counts from before. -/
def State.ppsTaken (s : State) (e : Int) (first : Bool) : State :=
  s.updTime (fun t => { t with
    lastErr := sat32 e, edgeGc := s.gc, edge := true, since := s.gc
    pps := if t.pps = .holdover then .acquiring else t.pps
    small := if t.pps = .holdover then 0 else t.small
    prevErr := if first then none else t.prevErr })

section
variable {s : State}

theorem State.ppsTaken_next (e : Int) (h : s.time.pps ≠ .holdover) : s.ppsTaken e false =
    { s with time := { s.time with lastErr := sat32 e, edgeGc := s.gc, edge := true, since := s.gc } } := by
  simp only [State.ppsTaken, State.updTime, h, if_false, Bool.false_eq_true]

theorem State.ppsTaken_first (e : Int) (h : s.time.pps ≠ .holdover) : s.ppsTaken e true =
    { s with time := { s.time with lastErr := sat32 e, edgeGc := s.gc, edge := true, since := s.gc, prevErr := none } } := by
  simp only [State.ppsTaken, State.updTime, h, if_false, if_true]

theorem State.ppsTaken_holdover (e : Int) (h : s.time.pps = .holdover) : s.ppsTaken e true =
    { s with time := { s.time with lastErr := sat32 e, edgeGc := s.gc, edge := true, since := s.gc, pps := .acquiring, small := 0, prevErr := none } } := by
  simp only [State.ppsTaken, State.updTime, h, if_true]

/-- An edge of a discipline that runs, by whether an edge counts from before and by its window (R559). -/
theorem exec_ppsEdge_at {x e : Int} (hen : s.time.ppsEn = true) (hfa : s.time.pps ≠ .fault) (hrun : s.time.running = true) (hst : s.stage ≠ 0)
    (href : s.time.refLost = false) (hx : x = ((s.gc : Int) - s.time.delay) % 1000000000) (he : e = if x ≤ 500000000 then x else x - 1000000000) :
    exec .ppsEdge s = .next (if !(!s.time.edge || s.time.pps == .holdover)
        && !(decide (s.time.edgeGc + 999900000 ≤ s.gc) && decide (s.gc ≤ s.time.edgeGc + 1000100000)) then s.regAdd rPpsReject 1
      else (s.ppsTaken e (!s.time.edge || s.time.pps == .holdover)).correct false e (s.gc - s.time.edgeGc)) := by
  subst hx he
  exact congrArg Host.Outcome.next (if_neg (by simp [hen, hfa, hrun, hst, href]))

end

/-! ### Time sync -/

/-- A request is answered with the responder's time stamps (R562). -/
theorem performSyncReq_at {c : RxCtx} {u : State} {valid : Bool} (hok : syncOk c 0 = true) (hrole : u.time.role ≠ 0)
    (hv : valid = (u.time.valid && (u.time.pps == .locked || u.time.sync == .locked))) :
    performSyncReq c u = .done (u.ferSend c.al (.timeResp c.m.src) 0 kTime 7 c.m.src 0 0 0
      (syncBytes 1 (valid.toNat + 2 * (Tab.get {} u.time.peers c.m.src).again.toNat) (leAt c.m.data 2 2) u.stamp
        (Tab.get {} u.time.peers c.m.src).t3)) := by
  subst hv
  exact (if_neg (by simp [hok])).trans (if_neg hrole)

/-- The response to the request outstanding gives its exchange t2 and t4 (R563). -/
theorem performSyncResp_at {c : RxCtx} {u : State} {r : SyncEx} (hok : syncOk c 1 = true) (hrole : u.time.role = 2) (hsrc : c.m.src = u.time.master)
    (hex : u.time.exch = none) (hreq : u.time.req = some r) (hn : r.n = leAt c.m.data 2 2) :
    performSyncResp c u = .done { u with time := { u.time with
      req := none, exch := some { r with t2 := sext 64 (leAt c.m.data 8 8), t4 := u.stamp } } } := by
  refine (if_neg (by simp [hok])).trans ((if_neg (by simp [hrole, hsrc])).trans ?_)
  simp only [hex, hreq, hn, if_true]
  rfl

/-- The buffer of TIME_QUERY written, and its entry complete (R564). -/
def State.timeQueried (s : State) (fn : Nat) (c : Cmd) : State :=
  if c.payTva then
    match s.tvaCheck fn c.payPtr 64 true with
    | .ok => (s.tvaStore fn c.payPtr s.timeBytes).finish c .ok 0
    | e => (s.tvaFault none fn 0xC e).bad c detTranslate
  else ((s.hostWrite fn c.payPtr s.timeBytes).acctHost fn 64).finish c .ok 0

theorem exec_timeQuery_at {fn k : Nat} {s : State} {c : Cmd} (he : s.entryAt fn k 0xD c) : exec (.timeQuery fn k) s = .next (s.timeQueried fn c) := by
  refine congrArg Host.Outcome.next ((if_neg (by simp [he.1])).trans ?_)
  rw [Nat.mod_eq_of_lt he.2.1]
  exact State.execute_at _ he

/-- Settles O58: each writer and each event of the time base, then the launch slots. -/
theorem timeDisciplinedAndLaunches : Obligations.TimeDisciplinedAndLaunches := by
  unfold Obligations.TimeDisciplinedAndLaunches
  refine ⟨?base, ?slew, ?slewEnd, ?ppsCtl, ?edge, ?lost, ?request, ?answer, ?response, ?query, ?arm, ?fire⟩
  case base =>
    rintro s v governed hb rfl
    refine ⟨fun h => ⟨congrArg Host.Outcome.next ((if_pos hb).trans (if_neg ?_)), s.base_setBase _⟩,
      fun hg hr => congrArg Host.Outcome.next ((if_pos hb).trans (if_pos ?_))⟩
    · rcases h with h | h
      · rw [h]
        exact Bool.false_ne_true
      · rw [decide_eq_false (Classical.not_not.mpr h), Bool.and_false]
        exact Bool.false_ne_true
    · rw [hg, decide_eq_true hr]
      rfl
  case slew =>
    intro s v hb
    refine ⟨fun hp hr hv hlo hhi => congrArg Host.Outcome.next ((if_neg (by simp [hb])).trans (if_neg ?_)),
      fun h => congrArg Host.Outcome.next ((if_neg (by simp [hb])).trans (if_pos ?_))⟩
    · simp [hp, hr, hv]
      omega
    · simp only [Bool.or_eq_true, decide_eq_true_eq, beq_iff_eq, Bool.not_eq_true']
      simpa only [or_assoc] using h
  case slewEnd => exact fun s hs h0 => congrArg Host.Outcome.next (if_pos ⟨hs, h0⟩)
  case ppsCtl => exact fun s v hb => ⟨congrArg Host.Outcome.next (if_pos hb), s.ppsEn_ppsWrite v⟩
  case edge =>
    intro s hen hfa hrun hst href
    refine ⟨fun x e t hx he => ?_, fun hedge hho hout => ?_⟩
    · rw [exec_ppsEdge_at hen hfa hrun hst href hx he]
      refine ⟨?_, ?_, ?_⟩
      · rintro hedge hho hlo hhi rfl
        have hfirst : (!s.time.edge || s.time.pps == .holdover) = false := by simp [hedge, hho]
        rw [hfirst, if_neg (by simp [hlo, hhi]), State.ppsTaken_next e hho]
      · rintro hedge hho rfl
        have hfirst : (!s.time.edge || s.time.pps == .holdover) = true := by simp [hedge]
        rw [hfirst, if_neg (by simp), State.ppsTaken_first e hho]
      · rintro hho rfl
        have hfirst : (!s.time.edge || s.time.pps == .holdover) = true := by simp [hho]
        rw [hfirst, if_neg (by simp), State.ppsTaken_holdover e hho]
    · rw [exec_ppsEdge_at hen hfa hrun hst href rfl rfl]
      refine congrArg Host.Outcome.next (if_pos ?_)
      rcases hout with h | h
      · simp [hedge, hho, h]
      · simp [hedge, hho, h]
  case lost =>
    intro s hen hpps hgc
    refine congrArg Host.Outcome.next (if_pos ?_)
    rcases hpps with h | h | h <;> simp [hen, h, hgc]
  case request =>
    rintro s t n hf hrole hst hdue rfl rfl
    refine congrArg Host.Outcome.next ((if_neg (by simp [hf])).trans (if_neg ?_))
    simp [hrole, hst]
    omega
  case answer =>
    intro s u p m c valid h hk hty hok hrole hv
    exact congrArg Host.Outcome.next ((if_neg (by simp [h.1])).trans (State.ferReceive_done h (by simp [hk, hty]) (performSyncReq_at hok hrole hv)))
  case response =>
    intro s u p m c r h hk hty hok hrole hsrc hex hreq hn
    exact congrArg Host.Outcome.next ((if_neg (by simp [h.1])).trans (State.ferReceive_done h (by simp [hk, hty])
      (performSyncResp_at hok hrole hsrc hex hreq hn)))
  case query =>
    intro s fn k c he
    rw [exec_timeQuery_at he]
    refine ⟨fun hp hc => congrArg Host.Outcome.next ((if_pos hp).trans ?_), fun hp => congrArg Host.Outcome.next (if_neg (by simp [hp]))⟩
    rw [hc]
  case arm =>
    rintro s k cfg t ok hk hb rfl rfl rfl
    have hgo : ∀ h : (s.slot k).st ≠ 1, ¬ (64 ≤ k ∨ s.bar 1 = false ∨ (s.slot k).st = 1) := fun h => by
      simp [hb, h]
      omega
    refine ⟨fun hst hok => ?_, fun hst hok => ?_, fun hst => congrArg Host.Outcome.next (if_pos ⟨hk, hb, hst⟩)⟩
    · refine congrArg Host.Outcome.next ((if_neg (hgo hst)).trans ?_)
      dsimp only
      rw [hok]
      rfl
    · refine congrArg Host.Outcome.next ((if_neg (hgo hst)).trans ?_)
      dsimp only
      rw [hok]
      rfl
  case fire =>
    rintro s k cfg now hf hk hst rfl rfl hnow
    exact congrArg Host.Outcome.next ((if_neg (by simp [hf])).trans ((if_neg (by simp [hst]; omega)).trans (if_neg (Int.not_lt.mpr hnow))))

end Sys2Proof.Machine
end

section
/-!
O60: what reads of registers answer (R9, R10, R18, R513).
-/
namespace Sys2Proof.Machine
open Sys2Proof

/-! ### Words built bit by bit -/

/-- The number whose bits below `n` are those given. -/
def bitWord (b : Nat → Bool) (n : Nat) : Nat := (List.range n).foldl (fun x i => x + (b i).toNat * 2 ^ i) 0

theorem bitWord_succ (b : Nat → Bool) (n : Nat) : bitWord b (n + 1) = bitWord b n + (b n).toNat * 2 ^ n := by
  rw [bitWord, List.range_succ, List.foldl_append]
  rfl

theorem bitWord_lt (b : Nat → Bool) (n : Nat) : bitWord b n < 2 ^ n := by
  induction n with
  | zero => exact Nat.one_pos
  | succ n ih =>
    rw [bitWord_succ, Nat.pow_succ]
    cases b n <;> simp <;> omega

/-- Each bit reads as given. -/
theorem testBit_bitWord (b : Nat → Bool) {n i : Nat} (hi : i < n) : (bitWord b n).testBit i = b i := by
  induction n with
  | zero => exact absurd hi (Nat.not_lt_zero i)
  | succ n ih =>
    have hlt := bitWord_lt b n
    rw [bitWord_succ]
    rcases Nat.lt_succ_iff_lt_or_eq.mp hi with hin | rfl
    · cases b n with
      | false => simpa using ih hin
      | true =>
        rw [Bool.toNat_true, Nat.one_mul, Nat.add_comm, Nat.testBit_two_pow_add_gt hin]
        exact ih hin
    · cases hb : b i with
      | false => simpa using Nat.testBit_lt_two_pow hlt
      | true =>
        rw [Bool.toNat_true, Nat.one_mul, Nat.add_comm, Nat.testBit_two_pow_add_eq, Nat.testBit_lt_two_pow hlt]
        rfl

/-! ### Reads of BAR0 -/

section
variable {s : State} {fn off : Nat}

/-- A read of BAR0 outside the debug window and the engines' counters, of a word that no open value decides (R9, R10). -/
theorem State.bar0Read_at {size o : Nat} (hsize : size = 4 ∨ size = 8) (hal : off % size = 0) (ho : o = off / 8 * 8)
    (hplace : fn ≠ 0 ∨ off < 0x90000 ∨ 0xC0000 ≤ off) : s.bar0Read fn off size =
      if size = 8 then (s.word64 fn o (Config.freeNat 0 % 2 ^ 64), s)
      else if off % 8 = 0 then (s.word64 fn o (Config.freeNat 0 % 2 ^ 64) % 2 ^ 32, if readWide fn off then
        { s with latched := Tab.put none s.latched (regKey fn o) (some (s.word64 fn o (Config.freeNat 0 % 2 ^ 64) / 2 ^ 32 % 2 ^ 32)) } else s)
      else match Tab.get none s.latched (regKey fn o) with
        | some v => (v, { s with latched := Tab.put none s.latched (regKey fn o) none })
        | none => (s.word64 fn o (Config.freeNat 0 % 2 ^ 64) / 2 ^ 32 % 2 ^ 32, s) := by
  subst ho
  have hgo : ¬ ((size ≠ 4 ∧ size ≠ 8) ∨ off % size ≠ 0) := by omega
  have hwin : ¬ (fn = 0 ∧ 0xB8000 ≤ off ∧ off < 0xC0000) := by omega
  have hopen : ¬ (fn = 0 ∧ 0x90000 ≤ off ∧ off < 0x91200 ∧ off % 0x80 / 8 = 2) := by omega
  rw [State.bar0Read, if_neg hgo, if_neg hwin, if_neg hopen] <;> rfl

end

/-- Settles O60: reads by their size and place, and the cell map bit by bit. -/
theorem registersRead : Obligations.RegistersRead := by
  unfold Obligations.RegistersRead
  refine ⟨?bad, ?word, ?doorbell, ?map⟩
  case bad =>
    intro s fn bar off n h
    have h0 : s.bar0Read fn off n = (0, s) := if_pos h
    have h2 : s.bar2Read fn off n = 0 := if_pos (h.imp_right .inl)
    rw [State.busRead, h0, h2]
    split
    · rfl
    · split <;> rfl
  case word =>
    rintro s fn off w hal hplace rfl
    have ho : off = off / 8 * 8 := by omega
    refine ⟨?_, fun hn => ?_, fun hw => ⟨_, rfl, ?_, ?_⟩⟩
    · rw [State.busRead, if_pos rfl, State.bar0Read_at (.inr rfl) hal ho hplace, if_pos rfl]
    · rw [State.busRead, if_pos rfl, State.bar0Read_at (.inl rfl) (by omega) ho hplace, if_neg (by decide), if_pos hal, if_neg (by simp [hn])]
    · rw [State.busRead, if_pos rfl, State.bar0Read_at (.inl rfl) (by omega) ho hplace, if_neg (by decide), if_pos hal, if_pos hw]
    · rw [State.busRead, if_pos rfl, State.bar0Read_at (o := off) (.inl rfl) (by omega) (by omega) (by omega), if_neg (by decide), if_neg (by omega)]
      dsimp only
      rw [Tab.get_put_of_ne (by simp)]
  case doorbell =>
    intro s fn k hk hfn hb
    have hgo : ¬ ((8 ≠ 4 ∧ 8 ≠ 8) ∨ 0x1000 * k % 8 ≠ 0 ∨ 0x8000 ≤ 0x1000 * k ∨ (!s.fnExists fn) = true ∨ (!s.bar 3) = true ∨ 8 ≤ 0x1000 * k % 0x1000) := by
      simp [hfn, hb]
      omega
    have hdiv : 0x1000 * k / 0x1000 = k := by omega
    rw [State.busRead, if_neg (by decide), if_pos rfl, State.bar2Read, if_neg hgo]
    dsimp only
    rw [hdiv, if_pos rfl]
    rfl
  case map =>
    intro s w i hi
    exact testBit_bitWord (fun i => s.goodCell (32 * w + i)) hi

end Sys2Proof.Machine
end

section
/-!
O59: deep idle, domain gating, the power cap, supply sag, temperature, droop and REFCLK (R595 to R608, R669, R678).
-/
namespace Sys2Proof.Machine
open Sys2Proof

/-! ### What a fault record leaves of the power controller and of the registers -/

@[simp] theorem State.record_pwr (s : State) (k : Kind) (r : FaultRec) (b : Bool) : (s.record k r b).pwr = s.pwr := by
  obtain ⟨l, ao, g, h, e⟩ := s.record_eq k r b
  rw [e]

@[simp] theorem State.record_gc (s : State) (k : Kind) (r : FaultRec) (b : Bool) : (s.record k r b).gc = s.gc := by
  obtain ⟨l, ao, g, h, e⟩ := s.record_eq k r b
  rw [e]

/-- Raising a vector writes no register but its function's pending bits. -/
theorem State.reg_raiseRec_other (s : State) (fn level : Nat) {x : Nat} (hx : x ≠ rPba fn) : (s.raiseRec fn level).reg x = s.reg x := by
  unfold State.raiseRec State.raise State.msiSend
  split
  · split
    · rfl
    · exact State.reg_setReg_other _ _ _ _ hx
  · rfl

/-- A record that names no tenant writes no register but the PF's pending bits. -/
theorem State.reg_record_other (s : State) (k : Kind) {r : FaultRec} {x : Nat} (hr : ¬ (1 ≤ r.tenant ∧ r.tenant ≤ 16)) (hx : x ≠ rPba 0) :
    (s.record k r).reg x = s.reg x := by
  unfold State.record
  extract_lets r' s1 s2 s3
  have h2 : s2.reg x = s.reg x := by
    by_cases h : r'.level = 4
    · have e : s2 = s1.pldmEvent := if_pos h
      exact (congrArg (State.reg · x) e).trans rfl
    · have e : s2 = s1 := if_neg h
      exact (congrArg (State.reg · x) e).trans rfl
  rw [if_neg (show ¬ (1 ≤ r'.tenant ∧ r'.tenant ≤ 16) from hr)]
  exact (State.reg_raiseRec_other s2 0 _ hx).trans h2

/-! ### Temperature -/

theorem State.bwRecompute_pwr (s : State) (c : BwCause) (q : Nat) : (s.bwRecompute c q).pwr = s.pwr := by
  unfold State.bwRecompute
  extract_lets fs f old
  split
  · rfl
  · exact State.record_pwr _ _ _ _

theorem State.traceEv_pwr (s : State) (k t j : Nat) (d : List Nat) : (s.traceEv k t j d).pwr = s.pwr := by
  obtain ⟨x, e⟩ := s.traceEv_eq k t j d
  rw [e]

/-- Evaluating a level leaves the count of samples at the trip threshold. -/
theorem State.thermLevel_tripN (s : State) (g : Nat) (t : Int) : (s.thermLevel g t).pwr.tripN = s.pwr.tripN := by
  unfold State.thermLevel
  extract_lets old up warm s1 new seq nr s2 s3
  have h2 : s2.pwr.tripN = s.pwr.tripN := by simp only [s2, State.record_pwr]; rfl
  have h3 : s3.pwr.tripN = s.pwr.tripN := (congrArg PowerSt.tripN (State.traceEv_pwr s2 _ _ _ _)).trans h2
  split
  · rfl
  · split
    · exact h3
    · exact (congrArg PowerSt.tripN (State.bwRecompute_pwr _ _ _)).trans h3

theorem State.foldl_thermLevel_tripN (f : Nat → Int) : ∀ (l : List Nat) (s : State),
    (l.foldl (fun s g => s.thermLevel g (f g)) s).pwr.tripN = s.pwr.tripN
  | [], _ => rfl
  | g :: l, s => (State.foldl_thermLevel_tripN f l _).trans (s.thermLevel_tripN g (f g))

/-- Where no group is at its threshold the counts of all of them read zero. -/
theorem Tab.get_foldl_uncounted {p : Nat → Prop} [DecidablePred p] {k : Nat} : ∀ (l : List Nat) (t : Tab Nat), (∀ g ∈ l, ¬ p g) →
    Tab.wf 0 t = true → (k ∈ l ∨ Tab.get 0 t k = 0) →
    Tab.get 0 (l.foldl (fun t g => Tab.put 0 t g (if p g then Tab.get 0 t g + 1 else 0)) t) k = 0
  | [], _, _, _, h => h.resolve_left List.not_mem_nil
  | g :: l, t, hp, hwf, h => by
    rw [List.foldl_cons, if_neg (hp g List.mem_cons_self)]
    refine Tab.get_foldl_uncounted l _ (fun g' hg => hp g' (List.mem_cons_of_mem _ hg)) (Tab.wf_put _ hwf _ _) ?_
    by_cases hk : k = g
    · exact .inr (hk ▸ Tab.get_put_same 0 hwf k 0)
    · refine h.imp (fun hm => (List.mem_cons.mp hm).resolve_left hk) fun h0 => ?_
      rw [Tab.get_put_other _ _ _ hk]
      exact h0

/-- The state after the levels of the dies and stacks have been evaluated. -/
def State.thermRead (s : State) (ts : List Int) : State :=
  ((List.range 14).take 12).foldl (fun s g => s.thermLevel g (groupTemp ts g)) (s.updPwr (fun p => { p with
    therm := ts.zipIdx.foldl (fun (t : Tab Int) (x : Int × Nat) => Tab.put 0 t x.2 x.1) [] }))

/-- The trip counters after a sample. -/
def State.tripCounted (t : State) (ts : List Int) : State :=
  t.updPwr (fun p => { p with
    tripN := (List.range 14).foldl (fun t g => Tab.put 0 t g (if tripAt g ≤ groupTemp ts g then Tab.get 0 t g + 1 else 0)) p.tripN
    tripGc := if (List.range 14).any (fun g => decide (tripAt g - 160 < groupTemp ts g)) then t.gc else p.tripGc })

section
variable {s t : State} {ts : List Int} (n : Nat) (hp : s.ao.powered = true) (ho : s.ao.off = false) (hl : ts.length = 58)
  (ht : t = s.thermRead ts)
include hp ho hl ht

theorem exec_thermSample_critical {g : Nat}
    (hg : (List.range 14).find? (fun g => decide (tripAt g + 80 ≤ groupTemp ts g)) = some g) : exec (.thermSample ts n) s =
      .next ((t.record .thermCritical { noRec with node := hubN, unit := 0xD, idx0 := g, code := twos 32 (groupTemp ts g) }).powerDown n) := by
  change execThermSample ts n s = _
  unfold execThermSample
  rw [if_neg (by simp [hp, ho, hl])]
  extract_lets s1 groups s2
  have h2 : s2 = t := ht.symm
  simp only [groups, hg, h2]

theorem exec_thermSample_trip {g : Nat}
    (hc : (List.range 14).find? (fun g => decide (tripAt g + 80 ≤ groupTemp ts g)) = none)
    (hg : (List.range 14).find? (fun g => decide (3 ≤ Tab.get 0 (t.tripCounted ts).pwr.tripN g)) = some g)
    (hn : (t.tripCounted ts).pwr.trip = false) : exec (.thermSample ts n) s =
      .next ((((t.tripCounted ts).updPwr (fun p => { p with trip := true })).record .thermTrip
        { noRec with node := hubN, unit := 0xD, idx0 := g, code := twos 32 (groupTemp ts g) }).sagSet) := by
  change execThermSample ts n s = _
  unfold execThermSample
  rw [if_neg (by simp [hp, ho, hl])]
  extract_lets s1 groups s2 nr s3
  have h3 : s3 = t.tripCounted ts := by rw [ht]; rfl
  simp only [groups, hc, h3, hg, hn, Bool.false_eq_true, if_false]

theorem exec_thermSample_cool
    (hc : (List.range 14).find? (fun g => decide (tripAt g + 80 ≤ groupTemp ts g)) = none)
    (hg : (List.range 14).find? (fun g => decide (3 ≤ Tab.get 0 (t.tripCounted ts).pwr.tripN g)) = none)
    (hn : (t.tripCounted ts).pwr.trip = false) : exec (.thermSample ts n) s = .next (t.tripCounted ts) := by
  change execThermSample ts n s = _
  unfold execThermSample
  rw [if_neg (by simp [hp, ho, hl])]
  extract_lets s1 groups s2 nr s3
  have h3 : s3 = t.tripCounted ts := by rw [ht]; rfl
  simp only [groups, hc, h3, hg, hn, Bool.false_eq_true, false_and, if_false]

end

theorem State.tripCounted_tripN (t : State) (ts : List Int) : (t.tripCounted ts).pwr.tripN =
    (List.range 14).foldl (fun t g => Tab.put 0 t g (if tripAt g ≤ groupTemp ts g then Tab.get 0 t g + 1 else 0)) t.pwr.tripN := by
  unfold State.tripCounted
  rw [State.updPwr_pwr]

theorem State.tripCounted_trip (t : State) (ts : List Int) : (t.tripCounted ts).pwr.trip = t.pwr.trip := by
  unfold State.tripCounted
  rw [State.updPwr_pwr]

theorem State.tripCounted_level (t : State) (ts : List Int) : (t.tripCounted ts).pwr.level = t.pwr.level := by
  unfold State.tripCounted
  rw [State.updPwr_pwr]

/-- Where no group is at its threshold none has been counted three times. -/
theorem State.tripCounted_none {t : State} {ts : List Int} (hwf : Tab.wf 0 t.pwr.tripN = true) (h : ∀ g, g < 14 → groupTemp ts g < tripAt g) :
    (List.range 14).find? (fun g => decide (3 ≤ Tab.get 0 (t.tripCounted ts).pwr.tripN g)) = none := by
  rw [State.tripCounted_tripN]
  refine List.find?_eq_none.mpr fun g hg => ?_
  rw [Tab.get_foldl_uncounted _ _ (fun g' hg' => Int.not_le.mpr (h g' (List.mem_range.mp hg'))) hwf (.inl hg)]
  decide

/-- A sample with every group below its threshold only counts. -/
theorem exec_thermSample_below {s t : State} {ts : List Int} (n : Nat) (hp : s.ao.powered = true) (ho : s.ao.off = false) (hl : ts.length = 58)
    (ht : t = s.thermRead ts) (hwf : Tab.wf 0 s.pwr.tripN = true) (hc : ∀ g, g < 14 → groupTemp ts g < tripAt g) (hn : t.pwr.trip = false) :
    exec (.thermSample ts n) s = .next (t.tripCounted ts) := by
  have hwf' : Tab.wf 0 t.pwr.tripN = true := by
    rw [ht, State.thermRead, State.foldl_thermLevel_tripN (groupTemp ts)]
    exact hwf
  refine exec_thermSample_cool n hp ho hl ht (List.find?_eq_none.mpr fun g' hg' => ?_) (State.tripCounted_none hwf' hc)
    ((t.tripCounted_trip ts).trans hn)
  have := hc g' (List.mem_range.mp hg')
  rw [decide_eq_true_eq]
  omega

/-! ### Droop -/

/-- The fall of the droop step leaves what says where and since when a die's clock is stretched. -/
theorem State.droopFall_pwr (s : State) (d : Nat) : (s.droopFall d).pwr.stretched = s.pwr.stretched ∧ (s.droopFall d).pwr.droopGc = s.pwr.droopGc
    ∧ (s.droopFall d).gc = s.gc := by
  unfold State.droopFall
  extract_lets f past op t k s1 mhz
  split
  · exact ⟨rfl, rfl, rfl⟩
  · rw [State.record_pwr, State.record_gc]
    exact ⟨rfl, rfl, rfl⟩

theorem State.droopFall_reg (s : State) (d : Nat) {x : Nat} (hx : x ≠ rPba 0) : (s.droopFall d).reg x = s.reg x := by
  unfold State.droopFall
  extract_lets f past op t k s1 mhz nr
  split
  · rfl
  · exact State.reg_record_other _ _ (by decide : ¬ (1 ≤ noRec.tenant ∧ noRec.tenant ≤ 16)) hx

/-- A bit that has been set reads as set. -/
theorem bit_setBit_same (x k : Nat) : bit (setBit x k true) k = true := by
  have hb : bits x k k = (x >>> k) % 2 := by rw [bits, show k + 1 - k = 1 by omega, Nat.pow_one]
  have hv : setBit x k true = x - ((x >>> k) % 2) <<< k + 1 <<< k := by
    rw [setBit, setBits, hb, show k + 1 - k = 1 by omega]
    rfl
  rw [bit, hv, Nat.testBit_eq_decide_div_mod_eq, Nat.shiftRight_eq_div_pow, Nat.shiftLeft_eq, Nat.shiftLeft_eq, decide_eq_true_eq]
  have hx := Nat.div_add_mod x (2 ^ k)
  have hq := Nat.div_add_mod (x / 2 ^ k) 2
  generalize hq' : x / 2 ^ k / 2 = q at *
  generalize hm' : x / 2 ^ k % 2 = m at *
  generalize x / 2 ^ k = y at *
  have he : x - m * 2 ^ k + 1 * 2 ^ k = x % 2 ^ k + 2 ^ k * (2 * q + 1) := by
    rw [← hq] at hx
    have : 2 ^ k * (2 * q + m) = 2 ^ k * (2 * q) + m * 2 ^ k := by rw [Nat.mul_add, Nat.mul_comm m]
    have : 2 ^ k * (2 * q + 1) = 2 ^ k * (2 * q) + 2 ^ k := Nat.mul_succ _ _
    omega
  rw [he, Nat.add_mul_div_left _ _ (Nat.two_pow_pos k), Nat.div_eq_of_lt (Nat.mod_lt _ (Nat.two_pow_pos k))]
  omega

theorem setBit_true_ne_zero (x k : Nat) : setBit x k true ≠ 0 := fun h => by
  have := bit_setBit_same x k
  rw [h, bit, Nat.zero_testBit] at this
  exact Bool.noConfusion this

/-- The state of a die's detectors after one of its cells has tripped. -/
def State.droopTripped (s : State) (c : Nat) : State :=
  let d := cellDie c
  ((s.setReg (rDroopMap d) (setBit (s.reg (rDroopMap d)) (localNo c) true)).regAdd (rDroopEvt d) 1).updPwr (fun p => { p with
    stretched := Tab.put false p.stretched d true, droopGc := Tab.put 0 p.droopGc d s.gc
    stretchGc := if Tab.get false s.pwr.stretched d then p.stretchGc else Tab.put 0 p.stretchGc d s.gc })

theorem exec_droopTrip_at {s : State} {c : Nat} (hc : c < cellSites) (hs : 2 ≤ s.stage) (ha : s.arrayHeld = false) (hg : s.cellGated c = false) :
    exec (.droopTrip c) s = .next ((s.droopTripped c).droopFall (cellDie c)) :=
  congrArg Host.Outcome.next (if_neg (by simp [Nat.not_le.mpr hc, Nat.not_lt.mpr hs, ha, hg]))

/-- The state of a die whose clock has been stretched long enough. -/
def State.droopCalmed (s : State) (d : Nat) : State :=
  (s.droopFall d).updPwr (fun p => { p with
    stretched := Tab.put false p.stretched d false, calmGc := Tab.put 0 p.calmGc d (s.droopFall d).gc
    stretches := Tab.put [] p.stretches d (Tab.get [] p.stretches d ++ [(Tab.get 0 p.stretchGc d, (s.droopFall d).gc)]) })

theorem exec_droopStretchEnd_at {s : State} {d : Nat} (hd : d < 4) (hs : Tab.get false s.pwr.stretched d = true)
    (hc : Tab.get 0 s.pwr.droopGc d + ceilDiv (256 * 1250) (s.aclk d) ≤ s.gc) : exec (.droopStretchEnd d) s = .next (s.droopCalmed d) := by
  change execDroopStretchEnd d s = _
  unfold execDroopStretchEnd
  rw [Nat.mod_eq_of_lt hd]
  exact congrArg Host.Outcome.next (if_neg (by simp [hs, Nat.not_lt.mpr hc]))

theorem rDroopMap_ne (d : Nat) (hd : d < 4) : rDroopMap d ≠ rPba 0 ∧ rDroopMap d ≠ rDroopEvt d := by
  unfold rDroopMap rDroopEvt rPba
  constructor
  · rw [if_pos rfl]
    omega
  · omega

theorem cellDie_lt (c : Nat) : cellDie c < 4 := by
  unfold cellDie
  split <;> split <;> omega

/-- A trip shows in its die's map. -/
theorem State.droopTripped_map (s : State) (c : Nat) : bit ((s.droopTripped c).reg (rDroopMap (cellDie c))) (localNo c) = true := by
  have hset : (s.setReg (rDroopMap (cellDie c)) (setBit (s.reg (rDroopMap (cellDie c))) (localNo c) true)).reg (rDroopMap (cellDie c))
      = setBit (s.reg (rDroopMap (cellDie c))) (localNo c) true := Tab.get_put_of_ne (setBit_true_ne_zero _ _) _ _
  have hreg : (s.droopTripped c).reg (rDroopMap (cellDie c)) = setBit (s.reg (rDroopMap (cellDie c))) (localNo c) true :=
    (State.reg_setReg_other _ _ _ _ (rDroopMap_ne _ (cellDie_lt c)).2).trans hset
  rw [hreg, bit_setBit_same]

/-! ### The power cap -/

section
variable {s t : State} {mean now : Nat} (hp : s.ao.powered = true) (ho : s.ao.off = false) (ht : t = { s with pwr := { s.pwr with mw := now } })
include hp ho ht

theorem exec_powerCapEval_off (hc : bit (s.reg rPwrCtl) 1 = false) :
    exec (.powerCapEval mean now) s = .next { t with pwr := { t.pwr with capStep := 0, capShort := false } } := by
  subst ht
  change execPowerCapEval mean now s = _
  unfold execPowerCapEval
  rw [if_neg (by simp [hp, ho])]
  exact congrArg Host.Outcome.next (if_pos (congrArg not hc))

theorem exec_powerCapEval_early (hc : bit (s.reg rPwrCtl) 1 = true) (hg : s.gc < s.pwr.capGc + 1000000) :
    exec (.powerCapEval mean now) s = .next t := by
  subst ht
  change execPowerCapEval mean now s = _
  unfold execPowerCapEval
  rw [if_neg (by simp [hp, ho])]
  exact congrArg Host.Outcome.next ((if_neg (fun h => absurd ((congrArg not hc).symm.trans h) Bool.false_ne_true)).trans (if_pos hg))

theorem exec_powerCapEval_due (hc : bit (s.reg rPwrCtl) 1 = true) (hg : s.pwr.capGc + 1000000 ≤ s.gc) {cap : Nat} (hcap : cap = 1000 * s.reg rPwrCap) :
    exec (.powerCapEval mean now) s = .next { t with pwr := { t.pwr with
      capGc := s.gc, capShort := decide (cap < mean) && decide (s.pwr.capStep = 10),
      capStep := if cap < mean then min 10 (s.pwr.capStep + 1) else if 100 * mean < 95 * cap then s.pwr.capStep - 1 else s.pwr.capStep } } := by
  subst ht hcap
  change execPowerCapEval mean now s = _
  unfold execPowerCapEval
  rw [if_neg (by simp [hp, ho])]
  refine congrArg Host.Outcome.next ((if_neg fun h => absurd ((congrArg not hc).symm.trans h) Bool.false_ne_true).trans
    ((if_neg (Nat.not_lt.mpr hg)).trans ?_))
  by_cases hover : 1000 * s.reg rPwrCap < mean
  · refine (if_pos hover).trans ?_
    rw [if_pos hover]
    rfl
  · refine (if_neg hover).trans ?_
    rw [if_neg hover]
    by_cases hunder : 100 * mean < 95 * (1000 * s.reg rPwrCap)
    · refine (if_pos hunder).trans ?_
      rw [if_pos hunder]
      rfl
    · refine (if_neg hunder).trans ?_
      rw [if_neg hunder]
      rfl

end

/-! ### The statement -/

/-- Settles O59: every command is its row's effect under the row's condition; what the loops over groups and the droop step keep is given above. -/
theorem powerAndHeat : Obligations.PowerAndHeat := by
  unfold Obligations.PowerAndHeat
  refine ⟨⟨?request, ?enter, ?leave, ?gateWrite, ?gate, ?cap, ?sagEnter, ?sagExit, ?down, ?loss⟩,
    ?therm, ?droopTrip, ?stretchEnd, ?stepRise, ?refLoss, ?refReturn⟩
  case request =>
    intro s v hb hv
    exact congrArg Host.Outcome.next (if_neg (by simp [hb, hv]))
  case enter =>
    intro s hr hc hm hs hf hi
    exact congrArg Host.Outcome.next (if_neg (by simp [hr, hc, hm, hs, hf, hi]))
  case leave =>
    intro s hm hs hf hw
    refine congrArg Host.Outcome.next (if_neg ?_)
    have : ¬ 4 ≤ s.sag := Nat.not_le.mpr hs
    obtain h | h | h := hw <;> simp [hm, this, hf, h]
  case gateWrite =>
    intro s v hb
    exact congrArg Host.Outcome.next (if_neg (by simp [hb]))
  case gate =>
    intro s n hn hs hf hg hm hu
    refine ⟨_, congrArg Host.Outcome.next (if_neg ?_), rfl, fun c hc => ?_, fun c hc => ?_⟩
    · simp [Nat.not_le.mpr hn, Nat.not_lt.mpr hs, hf, hg, hm, hu]
    · have := Tab.get_filter_append Cell.reset s.cells [] (fun k => apDomain k != n) c
      rw [List.append_nil, if_neg (by simp [hc])] at this
      exact this
    · have := Tab.get_filter_append Cell.reset s.cells [] (fun k => apDomain k != n) c
      rw [List.append_nil] at this
      refine this.trans ?_
      split
      · rfl
      · next h => exact (Tab.get_of_not_any _ _ _ fun x hx he => h ⟨by simpa using hc, x, hx, he⟩).symm
  case cap =>
    intro s t mean now cap hp ho ht hcap
    refine ⟨exec_powerCapEval_off hp ho ht, exec_powerCapEval_early hp ho ht,
      fun hc hg => exec_powerCapEval_due hp ho ht hc hg hcap⟩
  case sagEnter =>
    intro s vs n hs hn h4 hf
    subst hn
    exact congrArg Host.Outcome.next ((if_neg (by simp [hs])).trans (if_neg (by
      rw [not_or]
      exact ⟨Nat.not_lt.mpr h4, by simp [hf]⟩)))
  case sagExit =>
    intro s low mv hs h1 h4 hl
    exact congrArg Host.Outcome.next (if_neg (by
      rintro (h | h | h | h)
      · exact absurd ((congrArg not hs).symm.trans h) Bool.false_ne_true
      all_goals omega))
  case down =>
    intro s t vs n hs
    refine ⟨fun h4 hf ht => ?_, fun hl hv ht => ?_⟩
    · subst ht
      exact congrArg Host.Outcome.next (if_neg (by simp [hs, h4, hf]))
    · subst ht
      refine congrArg Host.Outcome.next (if_neg ?_)
      have h5 : (vs.drop (vs.length - 5)).length = 5 := by rw [List.length_drop]; omega
      have ha : (vs.drop (vs.length - 5)).all (fun v => decide (62000 < v)) = true :=
        List.all_eq_true.mpr fun v hm => decide_eq_true (hv v hm)
      simp only [hs, h5, ha]
      decide
  case loss =>
    intro s hp
    exact congrArg Host.Outcome.next (if_neg (by simp [hp]))
  case therm =>
    intro s t ts n hp ho hl ht
    refine ⟨fun g hg => exec_thermSample_critical n hp ho hl ht hg, fun g u hc hu hg hn => ?_, fun hwf hc hn => ?_⟩
    · subst hu
      exact exec_thermSample_trip n hp ho hl ht (List.find?_eq_none.mpr fun g' hg' => by simpa using hc g' (List.mem_range.mp hg')) hg hn
    · exact ⟨_, exec_thermSample_below n hp ho hl ht hwf hc hn, (t.tripCounted_trip ts).trans hn, State.updPwr_sag _ _, t.tripCounted_level ts,
        State.updPwr_log _ _⟩
  case droopTrip =>
    intro s c hc hgc hs ha hg
    obtain ⟨hst, hdr, -⟩ := (s.droopTripped c).droopFall_pwr (cellDie c)
    refine ⟨_, exec_droopTrip_at hc hs ha hg, ?_, ?_, ?_⟩
    · rw [hst]
      exact Tab.get_put_of_ne (by decide) _ _
    · rw [hdr]
      exact Tab.get_put_of_ne (Nat.pos_iff_ne_zero.mp hgc) _ _
    · rw [State.droopFall_reg _ _ (rDroopMap_ne _ (cellDie_lt c)).1]
      exact s.droopTripped_map c
  case stretchEnd =>
    intro s d hd hgc hwf hs hc
    obtain ⟨hst, -, hfg⟩ := s.droopFall_pwr d
    refine ⟨_, exec_droopStretchEnd_at hd hs hc, ?_, ?_⟩
    · exact Tab.get_put_same false (hst ▸ hwf) d false
    · exact (Tab.get_put_of_ne (hfg ▸ Nat.pos_iff_ne_zero.mp hgc) _ d).trans hfg
  case stepRise =>
    intro s d hd h0 hs hc
    have hm : d % 4 = d := Nat.mod_eq_of_lt hd
    change execDroopStepRise d s = _
    unfold execDroopStepRise
    rw [hm]
    exact congrArg Host.Outcome.next (if_neg (by
      rintro (h | h | h)
      · exact h0 h
      · exact absurd (hs ▸ h) Bool.false_ne_true
      · exact absurd hc (Nat.not_le.mpr h)))
  case refLoss =>
    intro s hr hp ho hq
    exact congrArg Host.Outcome.next (if_neg (by simp [hr, hp, ho, hq]))
  case refReturn =>
    intro s on hr hp ho hq hon
    subst hon
    exact congrArg Host.Outcome.next ((if_neg (by simp [hr])).trans (if_pos ⟨hp, by simp [State.updTime, ho], by simp [State.updTime, hq]⟩))

end Sys2Proof.Machine
end
